-- ==== Sys2Proof/Word.lean ====
section
/-! DEFINITION. Word types and the sparse map that holds every numbered group of like things. -/

namespace Sys2Proof

/-- One byte. -/
abbrev Byte := BitVec 8

/-- A dword (R2). -/
abbrev W32 := BitVec 32

/-- A 64-bit value. -/
abbrev W64 := BitVec 64

/-- A group of like things numbered from 0: key and value, keys strictly rising, no entry equal to the value that
an unlisted key stands for (the accessors in Machine/Ops.lean name that value). -/
abbrev SMap (α : Type) := List (Nat × α)

/-- Bytes by address or offset, in the same canonical form; an unlisted byte reads as zero (log entry 2). -/
abbrev Mem := List (Nat × BitVec 8)

end Sys2Proof
end

