-- ==== Sys2Proof/Syntax.lean ====
section
/-! DEFINITION. The commands of the IA960: one constructor of Instr for each row of the table of operations and
events, with the values that the outside gives with it (what a host read returned, what a frame holds, what a sensor
read). Block, cell, channel, port, stack and ring numbers are plain numbers; WellFormed.lean checks their ranges. -/

namespace Sys2Proof

/-- What a read of host memory returned (R366): bytes by offset from the address read, or a failed read. -/
inductive HostRead where
  | data (bytes : Mem)
  | failed
  /-- IMAGE_LOAD alone: the read fails while it serves entry `entry` of the load lists (R78); elsewhere as failed. -/
  | cut (bytes : Mem) (entry : Nat)
  deriving DecidableEq, Repr

/-- Why the 48 V side is lost (R412). -/
inductive LossCause where
  | underVoltage | overVoltage | fewConverters
  deriving DecidableEq, Repr

/-- Which link a vertical bundle belongs to (R232). -/
inductive BundleLink where
  | block (region slot : Nat)
  | shared
  deriving DecidableEq, Repr

/-- The passing window that a sweep or a re-check finds for a connection of a bundle, in taps (R233). -/
structure TapWindow where
  bundle : Nat
  link : BundleLink
  conn : Nat
  lo : Nat
  hi : Nat
  deriving DecidableEq, Repr

/-- What resets the host interface alone, or leads there (R351, R498, R350). -/
inductive HifCause where
  | perstAssert | perstRelease | hotReset | flr | linkDown | d3Enter | d3Exit
  deriving DecidableEq, Repr

/-- What a BOOT step found (Table 15.2, R420, R263, R395, R397), or sampled (R499). -/
inductive BootObs where
  /-- STRAP_RCV sampled as 1 in step 0x01 (R499). -/
  | strapRcv
  /-- Step 0x01: root PLL not locked within 20 ms, REFCLK absent, or housekeeping controller fault. -/
  | clockFault
  /-- Step 0x02: known-answer test of the mask ROM's SHA-256 or RSA engine. -/
  | romTest
  /-- Step 0x02: both reads of the stored image fail, whatever the store holds (R390). -/
  | imageUnreadable
  /-- Step 0x03: block firmware CRC fails twice (R84). -/
  | blockFwCrc (region slot : Nat)
  /-- Step 0x03: dead vertical bundle on a block link (R236). -/
  | deadBlockBundle (bundle region slot : Nat)
  /-- Step 0x03: dead vertical bundle on a shared link (R236). -/
  | deadSharedBundle (bundle : Nat)
  /-- Step 0x03: the sweep finds a signal connection of a bundle failed (R233, R234); with its link. -/
  | sparedBundle (bundle : Nat) (link : BundleLink)
  /-- Step 0x03: the passing window that the sweep finds for a connection (R233). -/
  | tapWindow (w : TapWindow)
  /-- Step 0x03: under-voltage with every phase enabled (R420). -/
  | slotUvAllPhases (region slot : Nat)
  /-- Step 0x03: under-voltage in a run with one phase disabled (R420). -/
  | slotUvOnePhase (region slot : Nat)
  /-- Step 0x03: the region uncore domain, every phase enabled (R420). -/
  | uncoreUvAllPhases (region : Nat)
  /-- Step 0x03: the region uncore domain, one phase disabled (R420). -/
  | uncoreUvOnePhase (region : Nat)
  /-- Step 0x04: a checker of a block slot. -/
  | slotChecker (region slot : Nat)
  /-- Step 0x04: a chip-level checker. -/
  | chipChecker
  /-- Step 0x05: a block engine. -/
  | slotEngine (region slot : Nat)
  /-- Step 0x05: crossbar, ring, reduce units, collective engine, host interface or security block. -/
  | chipEngine
  /-- Step 0x05: a Melob port controller. -/
  | portController (port : Nat)
  /-- Step 0x06: a cache-die cell, bank or reduce unit. -/
  | cacheCell
  /-- Step 0x07: HBM channel training. -/
  | hbmTraining (stack channel : Nat)
  /-- Step 0x08: helper data absent. -/
  | helperAbsent
  /-- Step 0x08: the power-up state of the identity array, byte by address (R237). -/
  | sramState (cells : Mem)
  /-- Step 0x09: check-code injection or channel path. -/
  | hbmPath
  /-- Step 0x09: a spare row of a bank of a channel fails its march (R262). -/
  | spareRow (stack channel bank spare : Nat)
  /-- Step 0x09: a near-bank unit (R395). -/
  | nearBankUnit (stack die pair : Nat)
  deriving DecidableEq, Repr

/-- The readings of one housekeeping round, in 1/16 °C; none is an invalid reading (R440). -/
structure Readings where
  /-- Diodes 0-95 of Table 17.1, in order. -/
  diode : List (Option Int)
  /-- Base-die diodes of stacks 0-7. -/
  hbm : List (Option Int)
  /-- EXT0, EXT1. -/
  ext : List (Option Int)
  /-- TH0-TH3. -/
  therm : List (Option Int)
  deriving DecidableEq, Repr

/-- A descriptor ring register group (R374). -/
inductive RingSel where
  | sq (q : Nat) | cq (c : Nat) | eq
  deriving DecidableEq, Repr

/-- The parts of a received frame's header and tail that every type shares (Table 11.3): the credit fields, whether
some reserved bit is not zero (Table 11.8, kind 3), and the relay byte 0x21A (R343). -/
structure FrameHdr where
  sent0 : BitVec 8
  sent1 : BitVec 8
  freed0 : BitVec 8
  freed1 : BitVec 8
  reservedSet : Bool
  relay : BitVec 8
  deriving DecidableEq, Repr

/-- S_DATA body and payload (Table 11.5). -/
structure SData where
  flow : BitVec 16
  seq : BitVec 16
  plyLo : W32
  pmask : BitVec 16
  payload : Mem
  deriving DecidableEq, Repr

/-- S_CHECK body (Table 11.5). -/
structure SCheck where
  clean : Bool
  replayable : Bool
  stop : Bool
  stretch : BitVec 8
  blame : Bool
  round : BitVec 8
  plyLo : W32
  deriving DecidableEq, Repr

/-- V operations (Table 11.5). -/
inductive VOp where
  | read | write | response | nak
  deriving DecidableEq, Repr

/-- V body and payload (Table 11.5). -/
structure VFrame where
  op : VOp
  tag : BitVec 12
  gen : BitVec 2
  dst : BitVec 15
  src : BitVec 15
  /-- len: 0 256 B, 1 512 B. -/
  len512 : Bool
  /-- Requests: device address bits [39:8]. -/
  addr : W32
  pmask : BitVec 16
  reason : Byte
  bwclass : BitVec 3
  vc : Bool
  payload : Mem
  deriving DecidableEq, Repr

/-- LINK commands (Table 11.5). -/
inductive LinkCmd where
  | laneMove | laneAck | echoReq | echoResp | width
  deriving DecidableEq, Repr

/-- A frame by type (Table 11.4). -/
inductive Frame where
  | idle
  | sData (f : SData)
  | sCheck (f : SCheck)
  | sArm (armed : Bool) (start : W64)
  | v (f : VFrame)
  | tBeacon (tick : W64) (master : BitVec 15) (holdover : Bool)
  | join (imageId : W64) (ldev : BitVec 15)
  | link (cmd : LinkCmd) (lane : BitVec 5) (width : Bool) (value : W32)
  deriving DecidableEq, Repr

/-- How a received frame fails before it is read (Table 11.8, kinds 1 and 2; kind 3 for an unknown type, whose header
passed its CRC). -/
inductive Corruption where
  | crc | fec (codewords : Nat) | sync
  | unknownType (h : FrameHdr)
  deriving DecidableEq, Repr

/-- Numeric sensors of PLDM Type 2 (Table 19.1). -/
inductive Sensor where
  | diode (i : Nat) | hbm (s : Nat) | ext (i : Nat) | therm (i : Nat) | inputPower | inputVoltage | deviceState
  deriving DecidableEq, Repr

/-- MCTP control requests, and what else the transport does (R472, R473). -/
inductive MctpReq where
  | setEid (eid : Byte) | getEid | getVersion | getMessageTypes
  /-- A message that is discarded: its tag-owner bit is clear, or it is above 8,192 B. -/
  | dropped
  /-- The bus owner sets the transmission unit, in bytes. -/
  | setUnit (n : Nat)
  /-- A packet of a message to the device: start and end of message, tag-owner bit, bytes of the message that it carries, and
  whether its PEC is right. -/
  | packet (start stop owner : Bool) (bytes : Nat) (pecOk : Bool)
  /-- The controller reads what the in-band interrupt announced. -/
  | privateRead
  deriving DecidableEq, Repr

/-- What the header of a vendor request says, beside its command and the IANA number (R476, R477). -/
structure VendorHdr where
  inst : Byte := 0
  /-- Bytes 6-7. -/
  pad : BitVec 16 := 0
  /-- The message has another length than its command's. -/
  badLen : Bool := false
  /-- A parameter is out of its range: a POWER op above 2. -/
  badParam : Bool := false
  /-- The main side answers the management domain. -/
  reach : Bool := true
  deriving DecidableEq, Repr

/-- The commands. Each docstring names the row's rule; the row's own words stand in spec/opcode_table.json. -/
inductive Instr where
  -- supplies and clocks
  /-- R9, R475, R499; operands: STRAP_HOLD as sampled, and whether the stored image can be read. -/
  | auxSupplyValid (strapHold : Bool) (readable : Bool := true)
  /-- R508 -/
  | auxSupplyLost
  /-- R411 -/
  | inputValidHold
  /-- R411 -/
  | suppliesValid
  /-- R411 -/
  | supplyStartTimeout
  /-- R411 -/
  | startRetry
  /-- R412 -/
  | input48vLoss (cause : LossCause)
  /-- R413; operand: the converter 0-3. -/
  | busConverterFault (k : Nat)
  /-- R418; operands: the physical slot. -/
  | blockUnderVoltage (region slot : Nat)
  /-- R419; operand: the domain number 0-29 (R415). -/
  | uncoreUnderVoltage (domain : Nat)
  /-- R428; operands: input power in W, input voltage in 0.1 V, the regions whose crossbar or power arbiter reports a fault in
  the sample's 100 µs (R458; log entry 90). -/
  | powerSample (p v : Nat) (faults : List Nat := [])
  /-- R426; operands: block and its current estimate in mA. -/
  | currentEstimateFrame (b est : Nat)
  /-- R421; operands: the physical slot, or 13 for the region's uncore domain (R423). -/
  | rampComplete (region slot : Nat)
  /-- R422 -/
  | rampDeferralEnd (region slot : Nat)
  /-- R432 -/
  | refclkLoss
  /-- R432 -/
  | refclkRestore
  /-- R432; operand: whether it is the upper die's PLL. -/
  | pllLockLoss (upper : Bool)
  -- start-up and thermal
  /-- R385; operands: the step code and what the step found. -/
  | bootStepComplete (step : Nat) (obs : List BootObs)
  /-- R386 -/
  | bootWatchdog
  /-- R393 -/
  | heldMainReset
  /-- R393; operand: whether erase, program and read-back succeeded. -/
  | fwStoreWriteComplete (ok : Bool)
  /-- R439 -/
  | housekeepingRound (r : Readings)
  /-- R439; operands: EXT0, EXT1 and TH0-TH3. -/
  | standbySensorRead (ext therm : List (Option Int))
  /-- R234; operands: the bundle, its link, and what was seen since the last pattern: c of 0-32, connection c mismatched;
  33 + c, a corrected error whose syndrome points to connection c. -/
  | bundleIdlePattern (bundle : Nat) (link : BundleLink) (bad : List Nat)
  /-- R233; operands: the bundles that sweep again for a narrow window, with their links; the windows found. -/
  | bundleRetuneComplete (narrow : List (Nat × BundleLink) := []) (windows : List TapWindow := [])
  -- host interface
  /-- R351, R498; operand: what resets the interface. -/
  | hostInterfaceReset (cause : HifCause := .flr)
  /-- R348; operands: rate and width codes, Flit mode. -/
  | linkChange (rate width : Nat) (flit : Bool)
  /-- R489; operands: BAR0 offset, access size in bytes, value. -/
  | registerWrite (off size : Nat) (value : W64)
  /-- R374 -/
  | hifResetWrite (value : W32)
  /-- R209 -/
  | schJournalCfgWrite (value : W32)
  /-- R247; operands: stack, whether the high register, value. -/
  | hbmGranWrite (stack : Nat) (hi : Bool) (value : W64)
  /-- R238 -/
  | ccdCfgWrite (value : W32)
  /-- R380; operands: group, master, value. -/
  | qosMinWrite (g m : Nat) (value : W32)
  /-- R383 -/
  | qosCfgWrite (value : W32)
  /-- R355 -/
  | ringCfgWrite (ring : RingSel) (value : W32)
  /-- R360 -/
  | msixVectorUnmask (vec : Nat)
  /-- R489 -/
  | heldRegisterWriteApply
  /-- R353; operands: offset and length in bytes. -/
  | bar2Read (off len : Nat)
  /-- R353; operands: offset, length and bytes by offset. -/
  | bar2Write (off len : Nat) (bytes : Mem)
  /-- R354; operand: the BAR4 offset written, 64 q for ring q. -/
  | sqTailDoorbell (off : Nat) (value : W32)
  /-- R354; operand: the BAR4 offset written, 0x800 + 64 c for ring c. -/
  | cqHeadDoorbell (off : Nat) (value : W32)
  /-- R354 -/
  | eqHeadDoorbell (value : W32)
  /-- R355; operands: ring and the slot's 16 dwords as read from host memory. -/
  | descriptorFetch (q : Nat) (dws : List W32)
  /-- R358; operand: the descriptor's number in the device. -/
  | descriptorComplete (uid : Nat)
  /-- R360 -/
  | cqInterruptDelay (c : Nat)
  -- descriptors; operand q: the submission ring whose next descriptor starts
  /-- R357 -/
  | hostNop (q : Nat)
  /-- R366 -/
  | copyH2d (q : Nat) (rd : HostRead)
  /-- R366 -/
  | copyD2h (q : Nat)
  /-- R366 -/
  | copyD2d (q : Nat)
  /-- R367 -/
  | hostFill (q : Nat)
  /-- R78 -/
  | imageLoad (q : Nat) (rd : HostRead)
  /-- R81 -/
  | domainJoin (q : Nat)
  /-- R82 -/
  | domainLeave (q : Nat)
  /-- R44 -/
  | plyRun (q : Nat)
  /-- R46 -/
  | plyStop (q : Nat)
  /-- R222 -/
  | cacheRangePrefetch (q : Nat)
  /-- R222 -/
  | cacheRangeFlush (q : Nat)
  /-- R222 -/
  | cacheRangeInvalidate (q : Nat)
  /-- R222 -/
  | cacheRangeCleanInvalidate (q : Nat)
  /-- R222 -/
  | cacheRangeDead (q : Nat)
  /-- R219 -/
  | cacheRangePin (q : Nat)
  /-- R222 -/
  | cacheRangeUnpin (q : Nat)
  /-- R368 -/
  | hostFence (q : Nat)
  /-- R282; operand: the micro-program as read from host memory. -/
  | pimSubmit (q : Nat) (rd : HostRead)
  /-- R402; operands: the licence as read, and whether the flash write succeeded. -/
  | licenceInstall (q : Nat) (rd : HostRead) (flashOk : Bool)
  /-- R369 -/
  | queryIdentity (q : Nat)
  /-- R369 -/
  | queryErrorLog (q : Nat)
  /-- R369 -/
  | querySlotMap (q : Nat)
  /-- R369 -/
  | queryMeasurements (q : Nat)
  /-- R369 -/
  | queryLicences (q : Nat)
  /-- R450 -/
  | queryThermal (q : Nat)
  /-- R369 -/
  | queryReplace (q : Nat)
  /-- R363 -/
  | eventAck (q : Nat)
  /-- R392 -/
  | fwStage (q : Nat) (rd : HostRead)
  /-- R368 -/
  | promote (q : Nat)
  /-- R368 -/
  | drain (q : Nat)
  -- plies, domain time, takeover, endgame
  /-- R44 -/
  | armEpoch
  /-- R44 -/
  | armVerdict
  /-- R44 -/
  | firstPlyStart
  /-- R38 -/
  | plyBoundary
  /-- R50; operand: the round. -/
  | checkFloodRound (i : Nat)
  /-- R53; operands: the stop that a clean check carries was raised by a member in holdover for 100 ms (R43); at a
  persistent verdict no member of the domain enters endgame (R341). -/
  | plyVerdict (lost : Bool := false) (orphan : Bool := false)
  /-- R59; operand: whether this member has finished its rollback. -/
  | plyRestart (finished : Bool)
  /-- R36 -/
  | endOfPlyPoint (b : Nat)
  /-- R40 -/
  | timeBeaconEmit
  /-- R42 -/
  | timeWatchdogExpiry
  /-- R43 -/
  | holdoverLimit
  /-- R41 -/
  | timeLockAchieved
  /-- R41 -/
  | timeLockTimeout
  /-- R81 -/
  | joinResend
  /-- R81 -/
  | joinFrameTimeout
  /-- R340 -/
  | takeoverGrant
  /-- R341 -/
  | standbyPreparationComplete
  /-- R341 -/
  | takeoverFlood
  /-- R341; operand: the standbys of this member that serve a place from now on, of which no message tells it (R335). -/
  | takeoverVerdict (serving : List Nat := [])
  /-- R465 -/
  | endgamePhaseComplete
  /-- R463 -/
  | promotionReady (region : Nat)
  -- ply sequencer; operand b: the logical block
  /-- R89 -/
  | seqAlu (b : Nat)
  /-- R89 -/
  | seqAddi (b : Nat)
  /-- R89 -/
  | seqAndi (b : Nat)
  /-- R89 -/
  | seqOri (b : Nat)
  /-- R89 -/
  | seqXori (b : Nat)
  /-- R89 -/
  | seqSlli (b : Nat)
  /-- R89 -/
  | seqSrli (b : Nat)
  /-- R89 -/
  | seqSrai (b : Nat)
  /-- R89 -/
  | seqSlti (b : Nat)
  /-- R89 -/
  | seqSltiu (b : Nat)
  /-- R89 -/
  | seqLui (b : Nat)
  /-- R89 -/
  | seqLw (b : Nat)
  /-- R89 -/
  | seqSw (b : Nat)
  /-- R89 -/
  | seqBeq (b : Nat)
  /-- R89 -/
  | seqBne (b : Nat)
  /-- R89 -/
  | seqBlt (b : Nat)
  /-- R89 -/
  | seqBge (b : Nat)
  /-- R89 -/
  | seqBltu (b : Nat)
  /-- R89 -/
  | seqBgeu (b : Nat)
  /-- R89 -/
  | seqJal (b : Nat)
  /-- R89 -/
  | seqJalr (b : Nat)
  /-- R89 -/
  | seqCissue (b : Nat)
  /-- R93 -/
  | seqLaunch (b : Nat)
  /-- R89 -/
  | seqWaitc (b : Nat)
  /-- R89 -/
  | seqWaitk (b : Nat)
  /-- R89 -/
  | seqWaitx (b : Nat)
  /-- R90 -/
  | seqSempost (b : Nat)
  /-- R90 -/
  | seqSemwait (b : Nat)
  /-- R89 -/
  | seqLoadi (b : Nat)
  /-- R86 -/
  | seqCsrr (b : Nat)
  /-- R86 -/
  | seqCsrw (b : Nat)
  /-- R89 -/
  | seqTrap (b : Nat)
  /-- R36 -/
  | seqEop (b : Nat)
  /-- R89 -/
  | seqIllegalInstruction (b : Nat)
  /-- R91 -/
  | seqStallRelease (b : Nat)
  /-- R91 -/
  | seqWaitRelease (b : Nat)
  /-- R90; operand: the semaphore. -/
  | semaphoreGrant (sem : Nat)
  -- matrix cells; operands: block and cell 0-1
  /-- R113 -/
  | mcNop (b k : Nat)
  /-- R114 -/
  | mcCfg (b k : Nat)
  /-- R113 -/
  | mcBase (b k : Nat)
  /-- R105 -/
  | mcLoadw (b k : Nat)
  /-- R106 -/
  | mcCastle (b k : Nat)
  /-- R108 -/
  | mcStream (b k : Nat)
  /-- R109 -/
  | mcClracc (b k : Nat)
  /-- R96 -/
  | mcRowIssue (b k : Nat)
  /-- R108; operand upset: columns 0-129 whose FP32 result the datapath got wrong, with the value it gave. -/
  | mcRowResult (b k : Nat) (upset : SMap W32)
  /-- R111 -/
  | mcLoadwComplete (b k : Nat)
  /-- R111 -/
  | mcStreamComplete (b k : Nat)
  -- DMA channels; operands: block and channel 0-3
  /-- R192 -/
  | dmaNop (b c : Nat)
  /-- R192 -/
  | dmaBase (b c : Nat)
  /-- R192 -/
  | dmaCopy (b c : Nat)
  /-- R192 -/
  | dmaFill (b c : Nat)
  /-- R195 -/
  | dmaRangePrefetch (b c : Nat)
  /-- R195 -/
  | dmaRangeFlush (b c : Nat)
  /-- R195 -/
  | dmaRangeInvalidate (b c : Nat)
  /-- R195 -/
  | dmaRangeCleanInvalidate (b c : Nat)
  /-- R195 -/
  | dmaRangeDead (b c : Nat)
  /-- R191 -/
  | dmaCommandComplete (b c : Nat)
  -- thread-group cell; operands: block and group
  /-- R145 -/
  | groupDispatch (b : Nat)
  /-- R147 -/
  | kernelComplete (b : Nat)
  /-- R153 -/
  | tgNop (b g : Nat)
  /-- R153 -/
  | tgAdd (b g : Nat)
  /-- R153 -/
  | tgAddI (b g : Nat)
  /-- R153 -/
  | tgSub (b g : Nat)
  /-- R153 -/
  | tgSubI (b g : Nat)
  /-- R153 -/
  | tgMullo (b g : Nat)
  /-- R153 -/
  | tgMulloI (b g : Nat)
  /-- R153 -/
  | tgMulhi (b g : Nat)
  /-- R153 -/
  | tgMulhiI (b g : Nat)
  /-- R153 -/
  | tgMuladd (b g : Nat)
  /-- R153 -/
  | tgMinmax (b g : Nat)
  /-- R153 -/
  | tgMinmaxI (b g : Nat)
  /-- R153 -/
  | tgAnd (b g : Nat)
  /-- R153 -/
  | tgAndI (b g : Nat)
  /-- R153 -/
  | tgOr (b g : Nat)
  /-- R153 -/
  | tgOrI (b g : Nat)
  /-- R153 -/
  | tgXor (b g : Nat)
  /-- R153 -/
  | tgXorI (b g : Nat)
  /-- R153 -/
  | tgShl (b g : Nat)
  /-- R153 -/
  | tgShlI (b g : Nat)
  /-- R153 -/
  | tgShr (b g : Nat)
  /-- R153 -/
  | tgShrI (b g : Nat)
  /-- R153 -/
  | tgBitcnt (b g : Nat)
  /-- R153 -/
  | tgLeadz (b g : Nat)
  /-- R153 -/
  | tgPick (b g : Nat)
  /-- R153 -/
  | tgMovr (b g : Nat)
  /-- R153 -/
  | tgMovk (b g : Nat)
  /-- R154 -/
  | tgAddf (b g : Nat)
  /-- R154 -/
  | tgAddfI (b g : Nat)
  /-- R154 -/
  | tgMulf (b g : Nat)
  /-- R154 -/
  | tgMulfI (b g : Nat)
  /-- R154 -/
  | tgMadf (b g : Nat)
  /-- R154 -/
  | tgMinmaxf (b g : Nat)
  /-- R154 -/
  | tgMinmaxfI (b g : Nat)
  /-- R153 -/
  | tgSignf (b g : Nat)
  /-- R154 -/
  | tgTrans (b g : Nat)
  /-- R155 -/
  | tgConv (b g : Nat)
  /-- R153 -/
  | tgPack (b g : Nat)
  /-- R153 -/
  | tgCmpi (b g : Nat)
  /-- R153 -/
  | tgCmpf (b g : Nat)
  /-- R153 -/
  | tgFlagop (b g : Nat)
  /-- R153 -/
  | tgXlane (b g : Nat)
  /-- R153 -/
  | tgCensus (b g : Nat)
  /-- R153 -/
  | tgLanered (b g : Nat)
  /-- R153 -/
  | tgSysr (b g : Nat)
  /-- R160 -/
  | tgSpld (b g : Nat)
  /-- R160 -/
  | tgSpst (b g : Nat)
  /-- R160 -/
  | tgDvld (b g : Nat)
  /-- R160 -/
  | tgDvst (b g : Nat)
  /-- R166 -/
  | tgSpat (b g : Nat)
  /-- R164 -/
  | tgDvat (b g : Nat)
  /-- R189; operand: the thread whose oldest outstanding load returns. -/
  | tgLoadDataReturn (b g t : Nat)
  /-- R153 -/
  | tgJump (b g : Nat)
  /-- R153 -/
  | tgCall (b g : Nat)
  /-- R153 -/
  | tgJreg (b g : Nat)
  /-- R153 -/
  | tgDone (b g : Nat)
  /-- R158 -/
  | tgMeet (b g : Nat)
  /-- R171 -/
  | tgFence (b g : Nat)
  /-- R165 -/
  | tgUwait (b g : Nat)
  /-- R165 -/
  | tgUwaitRelease (b g : Nat)
  /-- R153 -/
  | tgTrapi (b g : Nat)
  /-- R153 -/
  | tgIllegalInstruction (b g : Nat)
  /-- R159 -/
  | blockWatchdogExpiry (b g : Nat)
  /-- R201; operands: block and bank. -/
  | blockArrayScrub (b bank : Nat)
  -- cache die; operand sl: the slice
  /-- R213 -/
  | cacheDieRead (sl : Nat)
  /-- R214 -/
  | cacheDieWrite (sl : Nat)
  /-- R213 -/
  | cacheDieFill (sl : Nat)
  /-- R224 -/
  | cacheDieReduction (sl : Nat)
  /-- R231 -/
  | cacheDieScrub (sl : Nat)
  -- HBM; operands: stack and channel
  /-- R251; operand crcFails: how many attempts fail their interface CRC, 0-3 retried, above: after retraining (R259). -/
  | hbmRequestService (stk ch crcFails : Nat)
  /-- R256 -/
  | hbmRefresh (stk ch : Nat)
  /-- R258 -/
  | hbmScrub (stk ch : Nat)
  /-- R260 -/
  | hbmRetrainComplete (stk ch : Nat) (ok : Bool)
  /-- R262 -/
  | hbmRemapWindow (stk ch : Nat)
  /-- R262 -/
  | hbmRemapWindowEnd (stk ch : Nat)
  -- near-bank; operand: the block, or the stack
  /-- R283 -/
  | nbCommandAccept (b : Nat)
  /-- R281 -/
  | nbCommandStart (stk : Nat)
  /-- R288 -/
  | nbJournalPhaseEnd (stk : Nat)
  /-- R280; operand: whether a register parity error stopped the segment (Table 10.7, reason 0x12). -/
  | nbSegmentEnd (stk : Nat) (parity : Bool)
  /-- R280 -/
  | nbServiceWindowEnd (stk : Nat)
  /-- R280 -/
  | nbCommandComplete (stk : Nat)
  -- collective engine; operand i: the step's number in the engine
  /-- R320 -/
  | ceStepAccept (b : Nat)
  /-- R322 -/
  | ceSend (i : Nat)
  /-- R322 -/
  | ceRecv (i : Nat)
  /-- R323 -/
  | ceReduce (i : Nat)
  /-- R324 -/
  | ceCombine (i : Nat)
  /-- R335 -/
  | ceMirror (i : Nat)
  /-- R325 -/
  | ceContributionReady (i : Nat)
  /-- R322 -/
  | ceStepComplete (i : Nat)
  -- Melob fabric; operand p: the port
  /-- R302 -/
  | frameSlot (p : Nat)
  /-- R304; operand e: the transfer table entry. -/
  | sendReadLead (e : Nat)
  /-- R304 -/
  | sendEntryRelease (e : Nat)
  /-- R306 -/
  | expectEntryDeadline (e : Nat)
  /-- R301 -/
  | idleFrame (p : Nat) (h : FrameHdr)
  /-- R305 -/
  | sDataFrame (p : Nat) (h : FrameHdr) (f : SData)
  /-- R50 -/
  | sCheckFrame (p : Nat) (h : FrameHdr) (f : SCheck)
  /-- R44 -/
  | sArmFrame (p : Nat) (h : FrameHdr) (armed : Bool) (start : W64)
  /-- R311 -/
  | vRead (p : Nat) (h : FrameHdr) (f : VFrame)
  /-- R311 -/
  | vWrite (p : Nat) (h : FrameHdr) (f : VFrame)
  /-- R311 -/
  | vResponse (p : Nat) (h : FrameHdr) (f : VFrame)
  /-- R312 -/
  | vNak (p : Nat) (h : FrameHdr) (f : VFrame)
  /-- R40 -/
  | tBeacon (p : Nat) (h : FrameHdr) (tick : W64) (master : BitVec 15) (holdover : Bool)
  /-- R81 -/
  | joinFrame (p : Nat) (h : FrameHdr) (imageId : W64) (ldev : BitVec 15)
  /-- R297 -/
  | laneMove (p : Nat) (h : FrameHdr) (lane : Nat) (group : W32)
  /-- R297 -/
  | laneAck (p : Nat) (h : FrameHdr) (lane : Nat)
  /-- R303 -/
  | echoReq (p : Nat) (h : FrameHdr) (stamp : W32)
  /-- R303; operand: the round trip in ns. -/
  | echoResp (p : Nat) (h : FrameHdr) (stamp : W32) (roundTrip : Nat)
  /-- R298; operands: width 1 means 8 lanes. -/
  | widthFrame (p : Nat) (h : FrameHdr) (width : Bool) (group : W32)
  /-- R306 -/
  | corruptFrame (p : Nat) (kind : Corruption)
  /-- R296 -/
  | noFrameTimeout (p : Nat)
  /-- R296; operand: the lanes that did not train. -/
  | portUp (p : Nat) (bad : List Nat)
  /-- R297 -/
  | laneLossOfLock (p lane : Nat)
  /-- R297, R318; operands: lane, its corrected symbols in the window, and the codewords they fell in that no other
  lane's window counts. -/
  | laneSymbolWindow (p lane symbols : Nat) (codewords : Nat := symbols)
  /-- R297 -/
  | linkAnswerTimeout (p : Nat)
  /-- R297 -/
  | laneRetrainComplete (p lane : Nat) (ok : Bool)
  /-- R303 -/
  | latencyRemeasure (p : Nat)
  /-- R312 -/
  | serviceRetryTimeout (tag : Nat)
  /-- R312 -/
  | quarantineEnd (tag : Nat)
  /-- R377 -/
  | qosEpoch
  /-- R383 -/
  | qosWindowEnd
  -- management port
  /-- R472; operand: the dynamic address. -/
  | i3cEntdaa (addr : BitVec 7)
  /-- R473 -/
  | mctpControl (req : MctpReq)
  /-- R474 -/
  | pldmDiscovery
  /-- R474 -/
  | pldmSensorRead (sensor : Sensor)
  /-- R481; operands: the image's bytes and length. -/
  | pldmFirmwareUpdate (image : Mem) (len : Nat)
  /-- R406; operand doe: over PCIe DOE, else over MCTP. -/
  | getVersion (doe : Bool)
  /-- R406 -/
  | getCapabilities (doe : Bool)
  /-- R406 -/
  | negotiateAlgorithms (doe : Bool)
  /-- R406 -/
  | getDigests (doe : Bool)
  /-- R398 -/
  | getCertificate (doe : Bool)
  /-- R408; operand: the requester's nonce. -/
  | challenge (doe : Bool) (nonce : BitVec 256)
  /-- R407; operands: nonce, the index asked for (0 for all), and whether a signature is asked for. -/
  | getMeasurements (doe : Bool) (nonce : BitVec 256) (index : Nat) (signed : Bool)
  /-- R476 -/
  | getRecords (store index count : Nat) (hdr : VendorHdr := {})
  /-- R476 -/
  | getThermal (hdr : VendorHdr := {})
  /-- R476 -/
  | getReplace (hdr : VendorHdr := {})
  /-- R483 -/
  | clearReplace (mask : Byte) (hdr : VendorHdr := {})
  /-- R479 -/
  | powerRelease (hdr : VendorHdr := {})
  /-- R479 -/
  | powerHoldOff (hdr : VendorHdr := {})
  /-- R479; operand: byte 1 of the parameters. -/
  | powerForceOff (key : Byte) (hdr : VendorHdr := {})
  /-- R480 -/
  | mainReset (force : Byte) (hdr : VendorHdr := {})
  /-- R482; operands: the licence's 512 bytes, and whether the flash write succeeded. -/
  | installLicence (licence : Mem) (flashOk : Bool) (hdr : VendorHdr := {})
  /-- R484 -/
  | salvageRead (addr pages : Nat) (hdr : VendorHdr := {})
  /-- R484; operand: whether the controllers could read the page. -/
  | salvagePage (readable : Bool)
  /-- R42 -/
  | holdoverBeacon
  /-- R314 -/
  | receiverRealign (p : Nat)
  /-- R501 -/
  | tickOutFall
  deriving DecidableEq, Repr

end Sys2Proof
end

