-- ==== Sys2Proof/Decode.lean ====
section
/-! DEFINITION. The decoder. No row of the table of operations and events gives bits, since the commands of a block are
not encoded words; sequencer instruction words are decoded in Machine/SeqCode.lean. -/

namespace Sys2Proof

/-- The command that a word spells: none, since no row gives bits. -/
def decodeTableWord (_nbits _w : Nat) : Option Instr := none

end Sys2Proof
end

