-- ==== Sys2Proof/Config.lean ====
section
/-! DEFINITION. What an implementation fixes and the values the manual leaves open: opaque constants, so that no proof
can see what they are. Each names its log entry. -/

namespace Sys2Proof

/-- The n-th free number the device takes where the manual leaves a value open (log entry 5). -/
opaque Config.freeNat (n : Nat) : Nat

/-- The n-th free choice between two outcomes that the manual allows (log entry 5). -/
opaque Config.freeBool (n : Nat) : Bool

/-- The n-th free dword (log entry 5). -/
opaque Config.freeWord (n : Nat) : BitVec 32

/-- SHA-256 of the two firmware signing keys held in the mask ROM (R390; log entry 6). -/
opaque Config.romKeyHash (i : Fin 2) : BitVec 256

/-- The firmware image the device leaves the factory with: version, digest, licence trust key and block firmware
(R389; log entry 6). -/
opaque Config.factoryVersion : BitVec 32

/-- See factoryVersion. -/
opaque Config.factoryDigest : BitVec 256

/-- See factoryVersion. -/
opaque Config.factoryTrustModulus : Nat

/-- See factoryVersion. -/
opaque Config.factoryTrustExponent : Nat

/-- See factoryVersion. -/
opaque Config.factoryBlockFw : Mem

/-- CRC-32 of the factory image's block firmware. -/
opaque Config.factoryBlockCrc : BitVec 32

/-- The bytes of that image, and their number (R389; log entry 6). -/
opaque Config.factoryImage : Mem

/-- See factoryImage. -/
opaque Config.factoryLen : Nat

/-- The modulus of the identity key that Relsaton read at manufacture (R396, R398; log entry 6). -/
opaque Config.idModulus : Nat

/-- Cell k of block j of the identity array, as the helper data selects it: a bit number below 524,288 (R396). -/
opaque Config.helperCell (block k : Nat) : Nat

/-- A block's 1,024 cells after correction by its syndrome; none beyond 122 flipped cells (R396). -/
opaque Config.correctBlock (block cells : Nat) : Option Nat

/-- The syndrome that the helper data carries for a block, and the syndrome of a block's cells (R396; log entry 6). -/
opaque Config.helperSyndrome (block : Nat) : Nat

/-- The syndrome of the cells of a block under the code of R396 (log entry 6). -/
opaque Config.syndrome (cells : Nat) : Nat

/-- The power-up state of the identity array, where no observation gives it: byte by address, of the n-th power-up
(R237, R396). -/
opaque Config.powerUp (n addr : Nat) : BitVec 8

/-- How 1,536 bits of the generator make a candidate prime (R396). -/
opaque Config.candidate (bits : Nat) : Nat

/-- The base of round i of the Miller-Rabin test of a number (R396). -/
opaque Config.witness (n i : Nat) : Nat

/-- Relsaton's IANA enterprise number (R474, R476; log entry 48). -/
opaque Config.iana : BitVec 32

/-- The provisioned ID that ENTDAA answers with, built from the serial number (R472; log entry 48). -/
opaque Config.provisionedId (serial : BitVec 64) : BitVec 48

/-- Relsaton's PCI-SIG vendor ID (R350; log entry 67). -/
opaque Config.vendorId : BitVec 16

/-- The device serial number (R369; log entry 6). -/
opaque Config.serial : BitVec 64

/-- The Relsaton root certificate in DER (R398; log entry 6). -/
opaque Config.rootCert : List Byte

/-- The IA960 product certificate in DER (R398; log entry 6). -/
opaque Config.productCert : List Byte

/-- The device certificate in DER, by the modulus of its subject public key and its subject serial number (R398; log
entry 6). -/
opaque Config.deviceCert (modulus : Nat) (serial : BitVec 64) : List Byte

/-- The random salt of the n-th signature by the identity key, 32 bytes as a number (R406; log entry 6). -/
opaque Config.salt (n : Nat) : Nat

/-- The slot's manufacturing setpoint above 0.55 V in steps of 1.25 mV, by 13 * region + slot (R417; log entry 7). -/
opaque Config.setpoint (slot : Nat) : Nat

/-- Calibration values of the middle-layer estimate by channel group (R444; log entry 7). -/
opaque Config.kU (group : Nat) : Rat

/-- See kU. -/
opaque Config.kC (group : Nat) : Rat

/-- See kU. -/
opaque Config.kI (group : Nat) : Rat

/-- Where a result of TRANS is bounded and not fixed: which of the results within the bound it is, by function and
operand (R154; log entry 8). -/
opaque Config.transPick (fn x : Nat) : Nat

/-- Whether a port is a downstream port of the compiled time tree: the section names the upstream port alone (R40; log
entry 11). -/
opaque Config.downstream (imageId : BitVec 64) (ldev port : Nat) : Bool

end Sys2Proof
end

