-- ==== Sys2Proof/Machine/Sha.lean ====
section
/-! DEFINITION. SHA-256. A digest is its 32 bytes read as one number, the first byte highest. -/

namespace Sys2Proof.Machine

/-! ### SHA-256 (FIPS 180-4)

The constants are computed from what defines them: the first 32 bits after the point of the square roots of the first
eight primes, and of the cube roots of the first sixty-four. -/

/-- The primes below 312: the first sixty-four. -/
def shaPrimes : List Nat :=
  (List.range 312).filter fun n => decide (2 ≤ n) && (List.range 18).all fun d => decide (d < 2) || decide (n ≤ d) || n % d != 0

/-- The largest r below 2 ^ i above r0 whose p-th power is at most n, bit by bit. -/
def rootFrom (p n : Nat) : Nat → Nat → Nat
  | 0, r => r
  | i + 1, r => rootFrom p n i (if (r + 2 ^ i) ^ p ≤ n then r + 2 ^ i else r)

/-- The first 32 bits after the point of the p-th root of n. -/
def rootFrac (p n : Nat) : Nat := rootFrom p (n * 2 ^ (32 * p)) 37 0 % 2 ^ 32

/-- Round constants. -/
def shaRoundConsts : List Nat := shaPrimes.map (rootFrac 3)

/-- A chaining value, or the eight working variables of a block. -/
structure ShaVars where
  a : Nat
  b : Nat
  c : Nat
  d : Nat
  e : Nat
  f : Nat
  g : Nat
  h : Nat
  deriving DecidableEq, Repr

/-- Eight words as a chaining value. -/
def ShaVars.ofWord (w : Nat → Nat) : ShaVars where
  a := w 0
  b := w 1
  c := w 2
  d := w 3
  e := w 4
  f := w 5
  g := w 6
  h := w 7

/-- The initial chaining value. -/
def shaInit : ShaVars := ShaVars.ofWord fun i => rootFrac 2 (shaPrimes.getD i 0)

/-- Exclusive or of three rotations of x, right by i, j and k of 32. -/
def xorTurns (i j k x : Nat) : Nat :=
  let y := x * 2 ^ 32 + x
  ((y >>> i) ^^^ (y >>> j) ^^^ (y >>> k)) % 2 ^ 32

/-- Exclusive or of two rotations of x, right by i and j of 32, and x shifted right by k. -/
def xorShift (i j k x : Nat) : Nat :=
  let y := x * 2 ^ 32 + x
  ((y >>> i) ^^^ (y >>> j)) % 2 ^ 32 ^^^ (x >>> k)

/-- One round, with its schedule word and round constant already added. -/
def ShaVars.turn (v : ShaVars) (x : Nat) : ShaVars :=
  let up := v.h + xorTurns 6 11 25 v.e + (v.g ^^^ (v.e &&& (v.f ^^^ v.g))) + x
  let down := xorTurns 2 13 22 v.a + ((v.a &&& v.b) ||| (v.c &&& (v.a ||| v.b)))
  { a := (up + down) % 2 ^ 32, b := v.a, c := v.b, d := v.c, e := (v.d + up) % 2 ^ 32, f := v.e, g := v.f, h := v.g }

/-- The schedule words so far, newest first, with n more before them. -/
def shaGrow : Nat → List Nat → List Nat
  | 0, back => back
  | n + 1, back =>
    shaGrow n ((back.getD 15 0 + xorShift 7 18 3 (back.getD 14 0) + back.getD 6 0 + xorShift 17 19 10 (back.getD 1 0))
      % 2 ^ 32 :: back)

/-- The chaining value after a block of sixteen words. -/
def ShaVars.block (v : ShaVars) (ws : List Nat) : ShaVars :=
  let u := (List.zipWith (· + ·) shaRoundConsts (shaGrow 48 ws.reverse).reverse).foldl ShaVars.turn v
  { a := (v.a + u.a) % 2 ^ 32, b := (v.b + u.b) % 2 ^ 32, c := (v.c + u.c) % 2 ^ 32, d := (v.d + u.d) % 2 ^ 32
    e := (v.e + u.e) % 2 ^ 32, f := (v.f + u.f) % 2 ^ 32, g := (v.g + u.g) % 2 ^ 32, h := (v.h + u.h) % 2 ^ 32 }

/-- k bytes of a number, the highest first. -/
def beBytes (k v : Nat) : List Byte := (List.range k).map fun i => BitVec.ofNat 8 (v / 2 ^ (8 * (k - 1 - i)))

/-- Bytes as a number, the first highest. -/
def beNat (bs : List Byte) : Nat := bs.foldl (fun v b => 256 * v + b.toNat) 0

/-- The first k words of four bytes of a message, each with its first byte highest. -/
def shaWords : Nat → List Byte → List Nat
  | 0, _ => []
  | k + 1, bs => beNat (bs.take 4) :: shaWords k (bs.drop 4)

/-- The chaining value after k blocks of sixteen words. -/
def ShaVars.blocks (v : ShaVars) : Nat → List Nat → ShaVars
  | 0, _ => v
  | k + 1, ws => (v.block (ws.take 16)).blocks k (ws.drop 16)

/-- SHA-256: the message, a one bit, zeros, and the length in bits fill whole blocks of 64 bytes. -/
def sha256 (bs : List Byte) : BitVec 256 :=
  let n := bs.length
  let pad := bs ++ (0x80 : Byte) :: (List.replicate ((119 - n % 64) % 64) 0 ++ beBytes 8 (8 * n))
  let v := shaInit.blocks (pad.length / 64) (shaWords (pad.length / 4) pad)
  BitVec.ofNat 256 (beNat ([v.a, v.b, v.c, v.d, v.e, v.f, v.g, v.h].flatMap (beBytes 4)))

/-- The 32 bytes of a digest. -/
def digestBytes (d : BitVec 256) : List Byte := beBytes 32 d.toNat

/-- k bytes of a number, the lowest first. -/
def leBytes (k v : Nat) : List Byte := (List.range k).map fun i => BitVec.ofNat 8 (v / 2 ^ (8 * i))

/-- SHA-256 of an RSA-3072 modulus followed by its exponent (R390, R396). -/
def keyHash (modulus exponent : Nat) : BitVec 256 := sha256 (leBytes 384 modulus ++ leBytes 4 exponent)

end Sys2Proof.Machine
end

