-- ==== Sys2Proof/Machine/State.lean ====
section
/-! DEFINITION. The state of the IA960: every register, queue, buffer, counter, mode and pin the manual gives it, as
plain data. Groups of like things are sparse maps (SMap, RMap) whose unlisted keys stand for the reset value, so most
fields are empty at reset. Each field cites the rule that names it; field defaults are the reset values. -/

namespace Sys2Proof.Machine

/-- A piecewise constant map: an entry (k, v) gives v from key k up to the next entry; before the first entry the
accessor's default holds. Keys strictly rise and no entry repeats the value before it. -/
abbrev RMap (α : Type) := List (Nat × α)

/-- No command's meaning ends in a fault: every error the manual describes is an effect on State. -/
inductive Fault where
  /-- Raised by nothing: kept so that the type is not empty. Safe. -/
  | none
  deriving DecidableEq, Repr

/-- Why a command has no meaning. -/
inductive Refusal where
  /-- Raised by a row of Dispatch.lean that is not modelled yet. Safe: the model stops. -/
  | notModelled (mnemonic : String)
  /-- Raised by a command whose operand names a block, cell, channel, port, stack, ring, slice, region, slot or
  step that the device does not have (R19, R21, R294, R355). Safe: the model stops where no such event exists. -/
  | noSuchUnit
  deriving DecidableEq, Repr

/-- Device states (Table 0.5), and OFF, which has no code. -/
inductive DevState where
  | off | standby | boot | recovery | ready | joined | running | drained | fault
  deriving DecidableEq, Repr

/-- Check-bit state of a stored word: good, one correctable error, or uncorrectable (R196, R230, R246). -/
inductive Chk where
  | good | single | bad
  deriving DecidableEq, Repr

/-- Flags and check state of a 32-bit block-array word (R196). -/
structure WordSt where
  written : Bool := false
  poison : Bool := false
  chk : Chk := .good
  deriving DecidableEq, Repr

/-- Poison flag and check state of a 64-bit cache-die word (R230), and whether its poison is that of an HBM word never
written (R225, R246). -/
structure CWord where
  poison : Bool := false
  chk : Chk := .good
  unwritten : Bool := false
  deriving DecidableEq, Repr

/-- The mark a 256-bit HBM word holds in place of its check bits (R246). -/
inductive HMark where
  | data | poison | unwritten
  deriving DecidableEq, Repr

/-- Mark and check state of a 256-bit HBM word (R246). -/
structure HWord where
  mark : HMark := .unwritten
  chk : Chk := .good
  deriving DecidableEq, Repr

/-! ### Supplies, power and clocks -/

/-- Supply sides and the main side's start (R410-R413, R479). -/
structure Supply where
  /-- Auxiliary supply present. -/
  aux : Bool := true
  /-- 48 V side valid. -/
  v48 : Bool := true
  /-- The hold of R479. -/
  hold : Bool := false
  /-- Converter enables (R411). -/
  convEnabled : Bool := true
  /-- Tick at which the converters were enabled. -/
  enabledAt : Nat := 0
  /-- PWR_STAT.bc_good. -/
  bcGood : BitVec 4 := 0xF
  /-- Start failures since the last good start (R411). -/
  startFails : Nat := 0
  /-- Tick of the failure that a retry follows. -/
  retryFrom : Option Nat := none
  /-- The main side stays off until POWER op 0 or the auxiliary supply is cycled (R411, R447). -/
  lockedOff : Bool := false
  /-- PERST# is asserted (R498). -/
  perst : Bool := false
  deriving DecidableEq, Repr

/-- One physical block slot's voltage domain (R417, R418, R421, R422, R437). -/
structure SlotPwr where
  /-- RGN_BLK_PWR.vset. -/
  vset : BitVec 8 := 0
  /-- RGN_BLK_PWR.capped. -/
  capped : Bool := false
  /-- The lowered cap holds from the next attempt onward (R418). -/
  capDue : Bool := false
  /-- RGN_BLK_PWR.ramping. -/
  ramping : Bool := false
  /-- Tick at which the ramp began. -/
  rampAt : Nat := 0
  /-- Tick from which a ramp has been deferred. -/
  deferredAt : Option Nat := none
  /-- The ramp proceeded at the end of its deferral, so its neighbours' gates stay at 48 or less. -/
  limitsNeighbours : Bool := false
  /-- Supply removed by a thermal trip or FAULT (R446). -/
  poweredOff : Bool := false
  deriving DecidableEq, Repr

/-- Power arbiter, regulators and clocks (R416-R436). -/
structure Pwr where
  /-- PWR_CFG.cap_w. -/
  capW : Nat := 0xA28
  /-- PWR_CFG.peak_en. -/
  peakEn : Bool := true
  /-- Peak allowance A in samples. -/
  allowance : Nat := 2500
  /-- Samples at or below the cap since A last rose. -/
  refill : Nat := 0
  /-- tp (R428). -/
  tp : Rat := 1
  /-- Consecutive samples with P above T and tp at 0.25 (R429). -/
  overrun : Nat := 0
  /-- PWR_STAT.p_in and v_in. -/
  pIn : Nat := 0
  vIn : Nat := 0
  /-- g_p. -/
  gP : Nat := 64
  /-- Slot domains by 13 * region + slot. -/
  slots : SMap SlotPwr := []
  /-- Tokens in use per region power arbiter (R421). -/
  tokens : SMap Nat := []
  /-- BOOT ramps (R423): region uncore domains ramping now, each with the tick of its start, which hold the chip
  arbiter's tokens; how many have started and how many have ended; and per region the slots started. -/
  uncoreRamp : List (Nat × Nat) := []
  uncoreNext : Nat := 0
  uncoreUp : Nat := 0
  slotNext : SMap Nat := []
  /-- Uncore domains whose redundancy is spent (R419, R420), by domain number. -/
  uncoreSpent : SMap Bool := []
  /-- Region uncore domains powered off (R446). -/
  regionsOff : Bool := false
  /-- CLK_STAT. -/
  lockUpper : Bool := false
  lockLower : Bool := false
  refOk : Bool := true
  freeRun : Bool := false
  steer : BitVec 16 := 0
  refLoss : BitVec 16 := 0
  deriving DecidableEq, Repr

/-! ### Start-up, security, flash -/

/-- What the store or the running side knows of a verified firmware image (R389, R390). -/
structure FwInfo where
  version : W32
  /-- SHA-256 of the whole image. -/
  digest : BitVec 256
  /-- Licence trust key (section 0x06). -/
  trustModulus : Nat
  trustExponent : Nat
  /-- Block firmware (section 0x02), 16 KiB, and its CRC-32. -/
  blockFw : Mem
  blockFwCrc : W32
  /-- Whether the image carries management firmware (section 0x05). -/
  hasMgmt : Bool
  /-- The image itself, and its length. -/
  bytes : Mem
  len : Nat
  deriving DecidableEq, Repr

/-- Replace record (Table 18.11), without its copy bookkeeping. -/
structure ReplaceRec where
  seq : W32 := 0
  fwVersion : W32 := 0
  replace : Byte := 0
  cause : Byte := 0
  ldev : W32 := 0xFFFFFFFF
  imageId : W64 := 0
  ply : W64 := 0
  tick : W64 := 0
  causes : W32 := 0
  errIndex : W32 := 0
  exclude : BitVec 128 := 0
  hbmDead : BitVec 256 := 0
  promotions : BitVec 16 := 0
  endgames : BitVec 16 := 0
  deriving DecidableEq, Repr

/-- A remapped row: stack, channel, bank within the stack's channel, row (R262). -/
structure RemapEntry where
  stack : Nat
  channel : Nat
  bank : Nat
  row : Nat
  deriving DecidableEq, Repr

/-- The two copies of a flash area's record (R388): each a sequence number and the record, or none where the copy's
CRC-32 fails or nothing is written. -/
structure Two (α : Type) where
  c0 : Option (Nat × α) := none
  c1 : Option (Nat × α) := none
  deriving DecidableEq, Repr

/-- The identity area: the identity hash and the serial number. Its helper data is Config's (log entry 6). -/
structure IdArea where
  idHash : BitVec 256
  serial : W64
  deriving DecidableEq, Repr

/-- The certificate chain (R398): each certificate's DER bytes. -/
structure CertChain where
  root : List Byte
  product : List Byte
  device : List Byte
  deriving DecidableEq, Repr

/-- The licence area: slots 0-15 of 512 bytes, and the rollback floor (R403). -/
structure LicArea where
  licences : SMap (Option Mem) := []
  floor : W32 := 0
  deriving DecidableEq, Repr

/-- The remap area (R262): the list, and the spare rows recorded as used by stack, channel and bank. -/
structure RemapArea where
  remaps : List RemapEntry := []
  sparesUsed : SMap Nat := []
  deriving DecidableEq, Repr

/-- Package flash (Table 15.3). Manufacturing data is Config's (log entry 7). -/
structure Flash where
  /-- Firmware image store: none when the store does not hold an image that was verified and read back. -/
  store : Option FwInfo
  identity : Two IdArea
  chain : Two CertChain
  lic : Two LicArea := {}
  rep : Two ReplaceRec := {}
  remap : Two RemapArea := {}
  deriving DecidableEq, Repr

/-- Start-up (R385-R387) and the security unit (R406-R409). -/
structure Sec where
  /-- BOOT steps that have ended. -/
  stepsDone : List Nat := []
  /-- Tick of supplies valid or of the last main-side reset. -/
  bootAt : Nat := 0
  /-- SEC_BOOT. -/
  readyMs : BitVec 16 := 0
  failStep : Byte := 0
  /-- STRAP_RCV as sampled. -/
  strapRcv : Bool := false
  /-- Safe mode (R167, R394). -/
  safeMode : Bool := true
  /-- Running firmware; none before step 0x02 has ended. -/
  running : Option FwInfo := none
  /-- SEC_FW_STORE.staging, the image being written, and the descriptor that waits for it (none: management port). -/
  staging : Option (FwInfo × Option Nat) := none
  /-- SEC_FEATURES. -/
  features : W32 := 0
  /-- SEC_ID_STAT. -/
  idValid : Bool := false
  helper : Bool := false
  ignored : BitVec 16 := 0
  /-- Slots of BOOT that failed a test: by 13 * region + slot. -/
  slotFailed : SMap Bool := []
  /-- A near-bank unit failed step 0x09 (R395). -/
  nbFailed : Bool := false
  /-- A main-side reset held by a firmware write or an endgame (R393, R466). -/
  heldReset : Bool := false
  /-- The licence installed last: its licence_id, the tick, and whether the management port installed it (R478). -/
  licAt : Option (W32 × Nat × Bool) := none
  /-- Signatures made by the identity key since the main-side reset. -/
  spdmCount : Nat := 0
  /-- The image in the store failed verification in this BOOT (R390). -/
  storeBad : Bool := false
  /-- The identity key: the two primes that step 0x08 derived (R396). -/
  idKey : Option (Nat × Nat) := none
  /-- The identity array (R237): its supply switch, its cells, and the tick from which it has been unpowered. -/
  arrayOn : Bool := false
  array : Mem := []
  arrayOffAt : Nat := 0
  deriving DecidableEq, Repr

/-! ### Ply image -/

/-- Host exchange range (Table 3.1). -/
structure Xchg where
  offset : Nat
  len : Nat
  output : Bool
  deriving DecidableEq, Repr

/-- Block code table entry (Table 3.4). -/
structure CodeEntry where
  baseOff : Nat
  baseLen : Nat
  entry : Nat
  ovlOff : Nat
  ovlCount : Nat
  deriving DecidableEq, Repr

/-- Transfer table entry (Table 3.5). -/
structure Xfer where
  tick : Nat
  expect : Bool
  port : Nat
  frames : Nat
  period : Nat
  phase : Nat
  flow : Nat
  /-- Target kind, bits [63:56] of local. -/
  kind : Nat
  /-- Offset, bits [55:0] of local. -/
  offset : Nat
  deriving DecidableEq, Repr

/-- Load list entry (Table 3.6). -/
structure LoadEntry where
  fill : Bool
  kind : Nat
  block : Nat
  shared : Bool
  pattern : W32
  target : Nat
  source : Nat
  length : Nat
  deriving DecidableEq, Repr

/-- A member section (Table 3.3). -/
structure Section where
  ldev : Nat
  standby : Bool
  coords : List Nat
  timeUp : Nat
  portFn : List Nat
  portPartner : List Nat
  standbyA : Nat
  standbyB : Nat
  code : List CodeEntry
  blob : Mem
  blobLen : Nat
  xfers : List Xfer
  loads : List LoadEntry
  deriving DecidableEq, Repr

/-- A loaded ply image (Table 3.1), as far as this member reads it. -/
structure Image where
  imageId : W64
  plyLen : Nat
  slack : Nat
  checkDiam : Nat
  hopBudget : Nat
  dims : List Nat
  nActive : Nat
  nStandby : Nat
  timeMaster : Nat
  journalLines : Nat
  rollbackAllow : Nat
  takeoverAllow : Nat
  xchg : List Xchg
  /-- The logical device this member takes. -/
  ldev : Nat
  own : Section
  /-- On a standby, the sections of standby_a and standby_b. -/
  served : List Section
  /-- SHA-256 of header bytes 0x000-0x1FF (R77). -/
  digest : BitVec 256
  deriving DecidableEq, Repr

/-! ### Host interface -/

/-- A submission ring (R355, R374). -/
structure SqRing where
  base : W64 := 0
  en : Bool := false
  size : Nat := 6
  head : Nat := 0
  tail : Nat := 0
  /-- Descriptors read and not started, oldest first. -/
  fetched : List (List W32) := []
  deriving DecidableEq, Repr

/-- A completion entry (Table 13.6), without phase and sq_head, which are set when it is written. -/
structure CqEntry where
  cookie : W32
  sq : Nat
  status : Nat
  reason : Nat
  qualifier : Nat
  opcode : Nat
  value : Nat
  deriving DecidableEq, Repr

/-- A completion ring (R358, R360, R374). -/
structure CqRing where
  base : W64 := 0
  en : Bool := false
  size : Nat := 6
  ien : Bool := false
  vec : Nat := 0
  cnt : Nat := 1
  delay : Nat := 0
  head : Nat := 0
  tail : Nat := 0
  phase : Bool := true
  /-- Entries written since the last interrupt, and the tick of the first of them. -/
  unsignalled : Nat := 0
  firstAt : Nat := 0
  /-- Entries that wait for room. -/
  waiting : List CqEntry := []
  deriving DecidableEq, Repr

/-- An event record (Table 13.7a), without its phase. -/
structure EventRec where
  code : Nat
  ack : Bool
  seq : W32
  ply : W64
  tick : W64
  data : W64
  deriving DecidableEq, Repr

/-- The event ring (R361, R374). -/
structure EqRing where
  base : W64 := 0
  en : Bool := false
  size : Nat := 6
  ien : Bool := false
  vec : Nat := 0
  head : Nat := 0
  tail : Nat := 0
  phase : Bool := true
  /-- HIF_EQ_STAT.lost. -/
  lost : Nat := 0
  /-- Drops not yet reported by event 0x09. -/
  lostUnreported : Nat := 0
  waiting : List EventRec := []
  deriving DecidableEq, Repr

/-- An MSI-X vector (R351, R374). -/
structure MsixVec where
  addr : W64 := 0
  data : W32 := 0
  mask : Bool := true
  pending : Bool := false
  deriving DecidableEq, Repr

/-- How far a started descriptor is. -/
inductive DescSt where
  /-- Not finished. -/
  | running
  /-- Finished; the completion is due. -/
  | done (status reason qualifier value : Nat)
  deriving DecidableEq, Repr

/-- A started descriptor; numbers rise in start order. -/
structure Active where
  uid : Nat
  sq : Nat
  dws : List W32
  st : DescSt
  deriving DecidableEq, Repr

/-- A host exchange copy held in RUNNING (R60, R62). -/
structure HeldCopy where
  uid : Nat
  dev : Nat
  len : Nat
  bytes : Mem
  /-- Ply at whose start the copy was applied. -/
  applied : Option W64
  /-- Tick of the start at which it was last applied. -/
  arrivedAt : Nat
  deriving DecidableEq, Repr

/-- A write the device has sent to host memory: address, length, bytes by offset, and the parts (offset, bytes) sent in
TLPs with EP set. -/
structure HostWrite where
  addr : Nat
  len : Nat
  bytes : Mem
  ep : List (Nat × Nat)
  deriving DecidableEq, Repr

/-- A BAR2 read's answer (R353). -/
structure Bar2Resp where
  off : Nat
  len : Nat
  bytes : Mem
  ep : Bool
  /-- Outside installed memory: all ones. -/
  allOnes : Bool
  deriving DecidableEq, Repr

/-- Configuration space (Tables 13.2, 13.3): identity, base addresses, and what the base specification lets the host set.
No row of opcode_table.json reads or writes it (log entry 67). The Device Serial Number capability is flash.serial. -/
structure CfgSpace where
  vendorId : BitVec 16 := Config.vendorId
  deviceId : BitVec 16 := 0x0960
  classCode : BitVec 24 := 0x120000
  bar0 : W64 := 0
  bar2 : W64 := 0
  bar4 : W64 := 0
  /-- Maximum payload size and maximum read request size in bytes. -/
  maxPayload : Nat := 128
  maxRead : Nat := 512
  /-- The largest of both that the function supports. -/
  maxPayloadSup : Nat := 512
  maxReadSup : Nat := 4096
  /-- 10-bit tags, and the non-posted requests that may be outstanding. -/
  tenBitTags : Bool := true
  maxOutstanding : Nat := 256
  /-- MSI-X vectors; DOE data object types: discovery and SPDM. -/
  vectors : Nat := 128
  doeTypes : List Nat := [0, 1]
  /-- D3hot; D0 otherwise. -/
  d3hot : Bool := false
  /-- AER status: correctable, uncorrectable. -/
  aerCorr : W32 := 0
  aerUncorr : W32 := 0
  deriving DecidableEq, Repr

/-- The host interface (Tables 13.11, 13.12). -/
structure Hif where
  cfg : CfgSpace := {}
  /-- HIF_CTRL. -/
  expert : Bool := false
  ceEvents : Bool := false
  /-- HIF_LINK. -/
  linkRate : Nat := 0
  linkWidth : Nat := 0
  linkFlit : Bool := false
  /-- HIF_ACC_ERR. -/
  accCount : BitVec 16 := 0
  accOffset : W32 := 0
  accKind : BitVec 4 := 0
  /-- HIF_EVT_PEND. -/
  pendTimeLost : Bool := false
  pendUnrecoverable : Bool := false
  /-- Events posted since main-side reset. -/
  eventSeq : W32 := 0
  sq : SMap SqRing := []
  cq : SMap CqRing := []
  eq : EqRing := {}
  msix : SMap MsixVec := []
  /-- MSI-X messages sent, newest first. -/
  messages : List Nat := []
  /-- Writes sent to host memory, newest first. -/
  hostOut : List HostWrite := []
  /-- BAR2 read answers, newest first. -/
  bar2Out : List Bar2Resp := []
  /-- BAR2 reads being served, at most 32: by number, sectors not yet answered; reads that wait for a place, oldest
  first (offset, bytes); numbers given so far (R353). -/
  bar2Open : SMap Nat := []
  bar2Wait : List (Nat × Nat) := []
  bar2Next : Nat := 0
  /-- Started descriptors, oldest first. -/
  active : List Active := []
  nextUid : Nat := 0
  /-- Held register writes: BAR0 offset, access size, value; oldest first (R489). -/
  heldWrites : List (Nat × Nat × W64) := []
  heldCopies : List HeldCopy := []
  /-- COPY_D2H descriptors that wait for a committing verdict (R61). -/
  waitingD2h : List Nat := []
  /-- Ring after the one that last started a descriptor (R357). -/
  startPtr : Nat := 0
  deriving DecidableEq, Repr

/-! ### Time and ply unit -/

/-- What a member has gathered for one ply (R48, R49). -/
structure PlyCheck where
  clean : Bool := true
  replayable : Bool := true
  selfCulprit : Bool := false
  /-- Ports whose partner was named as culprit. -/
  blame : List Nat := []
  /-- The fec cause of a port is latched once per ply (R306). -/
  fecPorts : List Nat := []
  /-- Index of the record of the first cause whose culprit is the member itself. -/
  decider : Option W32 := none
  deriving DecidableEq, Repr

/-- Fields of a check flood (Table 2.3, R44, R341). -/
structure CheckFields where
  clean : Bool := true
  replayable : Bool := true
  stop : Bool := false
  stretch : Nat := 0
  armed : Bool := true
  start : Nat := 0
  deriving DecidableEq, Repr

/-- Which flood runs. -/
inductive FloodKind where
  | check | arm | takeover
  deriving DecidableEq, Repr

/-- A check, arm or takeover flood in progress (R50). -/
structure Flood where
  kind : FloodKind
  /-- T0, the arm epoch, or T1. -/
  t0 : Nat
  /-- Ply being checked. -/
  ply : W64
  /-- The member's own fields combined with all it has received. -/
  acc : CheckFields
  /-- Next round to leave. -/
  round : Nat := 0
  /-- Ports and rounds received. -/
  received : List (Nat × Nat) := []
  /-- A blame bit was received (R49). -/
  blamed : Bool := false
  deriving DecidableEq, Repr

/-- Key of a journal entry (R227). -/
inductive JKey where
  | line (n : Nat)
  | granule (b g : Nat)
  deriving DecidableEq, Repr

/-- A journal entry: the raw 1 KiB with its check state, and the slice whose half holds it (R227). -/
structure JEntry where
  key : JKey
  data : Mem
  home : Nat := 0
  /-- Word state of a line, by 64-bit word 0-127. -/
  cwords : RMap CWord
  /-- Word state of a granule, by 32-bit word 0-255. -/
  words : RMap WordSt
  deriving DecidableEq, Repr

/-- An armed PLY_RUN (R44, R47). -/
structure Arming where
  uid : Nat
  ply : W64
  tick : Nat
  /-- A PLY_STOP or DRAIN that withdraws the arming: the descriptor, and the tick at which it started. -/
  withdrawn : Option (Option Nat × Nat) := none
  deriving DecidableEq, Repr

/-- A DOMAIN_JOIN in progress (R81, R41). -/
structure JoinSt where
  uid : Nat
  startTick : Nat
  /-- Ports whose partner's JOIN has been received. -/
  heard : List Nat := []
  /-- Tick of the first beacon. -/
  firstBeacon : Option Nat := none
  /-- Last tick at which JOIN frames were sent. -/
  lastSent : Nat := 0
  deriving DecidableEq, Repr

/-- The time and ply unit (R32-R69, R493, R501). -/
structure Sch where
  /-- SCH_TIME minus the model's tick (R39); the same for the local count from the end of BOOT (R493). -/
  timeOff : Int := 0
  localOff : Int := 0
  /-- SCH_JOURNAL_CFG.size. -/
  journalSize : BitVec 2 := 2
  /-- SCH_PLY_NUM. -/
  committed : W64 := 0
  /-- SCH_PLY_STATUS. -/
  attempt : Nat := 0
  /-- Attempt of the ply whose check is under way. -/
  prevAttempt : Nat := 0
  /-- Plies are in progress: this member runs them, or relays for the standby in its place (R343). -/
  live : Bool := false
  locked : Bool := false
  holdover : Bool := false
  stretch : Nat := 0
  replays : W32 := 0
  /-- SCH_CHECK_CAUSE. -/
  causes : BitVec 7 := 0
  /-- Bits of SCH_CHECK_CAUSE set in tick setAt: a write of 1 in that tick does not clear them (R5; log entry 63). -/
  setNow : BitVec 7 := 0
  setAt : Nat := 0
  /-- Holdover entry tick, last beacon tick, whether the time-lost event of this holdover has been posted. -/
  holdoverAt : Nat := 0
  lastBeacon : Nat := 0
  timeLost : Bool := false
  join : Option JoinSt := none
  arming : Option Arming := none
  /-- First ply's start tick once an arm verdict has fixed it. -/
  firstStart : Option Nat := none
  /-- Ply in flight, its start tick, its length with stretch. -/
  ply : W64 := 0
  start : Nat := 0
  len : Nat := 0
  cur : PlyCheck := {}
  prev : PlyCheck := {}
  /-- The flood that runs: a takeover flood follows a check flood. Arm floods that began while an earlier one runs,
  oldest first (R44). -/
  flood : Option Flood := none
  laterArms : List Flood := []
  stopLatch : Option (Option Nat) := none
  /-- Restart tick of a replay, and whether a takeover precedes it. -/
  restartAt : Option Nat := none
  /-- This member is a persistent culprit at once, with this endgame cause (R59, R260, R446, R464). -/
  persistent : Option Nat := none
  /-- The slot whose block without a spare made it so: endgame excludes it (R464, R469). -/
  exclDue : BitVec 128 := 0
  /-- Index of the record that decides the endgame to come (Table 18.11). -/
  decider : Option W32 := none
  /-- The member records itself as culprit in every attempt, with this endgame cause (R368, R429). -/
  drainCause : Option Nat := none
  /-- The two generations, newest entry first; gen is the one in use (R55). -/
  gen0 : List JEntry := []
  gen1 : List JEntry := []
  gen : Bool := false
  /-- Device semaphores (R90). -/
  sems : SMap Nat := []
  /-- TICK_OUT (R501). -/
  tickOut : Bool := false
  tickOutAt : Nat := 0
  /-- Core cycle within its tick that a sequencer last read, and that tick (R86; log entry 5). -/
  cycleSub : Nat := 0
  cycleAt : Nat := 0
  /-- Free values taken so far: the model's own counter. -/
  fresh : Nat := 0
  deriving DecidableEq, Repr

/-! ### Standby takeover -/

/-- Mirroring and takeover (R335-R347). -/
structure Standby where
  /-- FAB_STANDBY_STAT.place; the relay of R343 runs. -/
  place : Option Nat := none
  relaying : Bool := false
  /-- The check unit of a device in endgame follows the plies: for the place that a standby has taken, or for an idle
  standby's own place in the floods (R339, R340, R343). -/
  tracking : Bool := false
  /-- Mirror marks of the served members. -/
  markA : W64 := 0
  markB : W64 := 0
  /-- Takeover requests received since the verdict and not yet answered, with the port each came on. -/
  requests : List (VFrame × Nat) := []
  /-- Member granted. -/
  granted : Option Nat := none
  prepared : Bool := false
  /-- Persistent verdict tick of the takeover in progress. -/
  verdictAt : Option Nat := none
  /-- On F: which standby the request went to (1 standby_a, 2 standby_b), whether a grant came, a refusal came. -/
  asked : Nat := 0
  gotGrant : Bool := false
  refused : Bool := false
  /-- Ranges recorded by MIRROR: ply, local, dest, bytes, class. -/
  ranges : List (W64 × Nat × Nat × Nat × Nat) := []
  /-- Requests of the mirror in progress not yet answered; 0 no mirror, 1 its writes, 2 its marks; the committed ply
  it is for. -/
  mirrorOpen : Nat := 0
  mirrorPhase : Nat := 0
  mirrorPly : W64 := 0
  /-- Assigned standbys that have answered mirror traffic with a NAK: they serve a place or have left. -/
  gone : List Nat := []
  deriving DecidableEq, Repr

/-! ### Blocks -/

/-- What a sequencer waits for. -/
inductive SeqWait where
  | units (mask : BitVec 8)
  | tick (t : Nat)
  | xfer (e : Nat)
  | sem (s n : Nat)
  | queue (target : Nat)
  | kernel
  deriving DecidableEq, Repr

/-- A sequencer's run state. -/
inductive SeqSt where
  /-- Held: no ply code runs. -/
  | idle
  | run
  | wait (w : SeqWait)
  /-- At EOP, holding for the end-of-ply point (R36). -/
  | eopHold
  /-- At its end-of-ply point. -/
  | eop
  /-- Halted by a trap (R92). -/
  | trapped
  /-- Stopped by a poisoned, uncorrectable or unwritten LW (Table 7.10). -/
  | stopped
  /-- Halted at the boundary or by an under-voltage event (R37, R418). -/
  | halted
  deriving DecidableEq, Repr

/-- A ply sequencer (R83-R92). -/
structure Seq where
  regs : SMap W32 := []
  pc : Nat := 0
  /-- Instruction memory, 64 KiB, and the check state of its words. -/
  imem : Mem := []
  imemChk : SMap Chk := []
  /-- CSRs. -/
  trapCause : W32 := 0
  bwclass : Nat := 0
  overlay : Nat := 0xFFFF
  st : SeqSt := .idle
  /-- Boundary record: s1-s15 and the overlay number. -/
  recRegs : SMap W32 := []
  recOverlay : Nat := 0xFFFF
  /-- The record of the ply before, kept until its verdict. -/
  recPrevRegs : SMap W32 := []
  recPrevOverlay : Nat := 0xFFFF
  /-- Target queues of CISSUE: 0-1 matrix cells, 2-5 DMA, 6 near-bank, 7 collective engine; word and class. -/
  queues : SMap (List (W64 × Nat)) := []
  /-- Targets 6 and 7 halted for the rest of the ply (R290, R332). -/
  tgtHalted : SMap Bool := []
  /-- Commands issued to and completed by units 0-5 in the ply. -/
  issued : SMap Nat := []
  completed : SMap Nat := []
  deriving DecidableEq, Repr

/-- CFG (Table 4.8). -/
structure McCfg where
  mode : Nat := 0
  ifmt : Nat := 0
  ofmt : Nat := 0
  stoch : Bool := false
  sat : Bool := true
  kq : Nat := 3
  nq : Nat := 3
  tol : Nat := 16
  topk : Nat := 0
  topkSmallest : Bool := false
  deriving DecidableEq, Repr

/-- A weight buffer (R105): raw element codes at 128 * n + k, raw scales at 4 * n + group (E8M0) or n (FP32),
checksum columns as FP32 bits by k, format tag, loaded depth positions. -/
structure WBuf where
  fmt : Nat := 0xF
  depth : Nat := 0
  w : SMap Nat := []
  scales : SMap Nat := []
  c0 : SMap W32 := []
  c1 : SMap W32 := []
  poisoned : Bool := false
  deriving DecidableEq, Repr

/-- An accumulator entry (R109, R124). -/
structure AccEntry where
  vals : SMap W32 := []
  poisoned : Bool := false
  /-- Nothing combined since it was cleared (R124). -/
  fresh : Bool := true
  deriving DecidableEq, Repr

/-- A row in the pipeline (Table 4.1): its index, the FP32 results of columns 0-129, the indices of modes 6 and 7, and
whether it is poisoned. -/
structure McRow where
  i : Nat
  vals : SMap W32
  idx : SMap Nat
  poisoned : Bool
  deriving DecidableEq, Repr

/-- A stream that has started and not completed (Table 4.12), with its command word and the configuration in force for
its rows. -/
structure McStream where
  word : W64
  cfg : McCfg
  castle : Bool
  acc : Nat
  abase : Nat
  rows : Nat
  sspace : Bool
  dspace : Bool
  src : Nat
  dst : Nat
  seq : Nat
  cls : Nat
  /-- The castling, if asked for, has been made. -/
  castled : Bool
  /-- Next row to issue. -/
  next : Nat := 0
  /-- Rows issued whose results have not been handled, oldest first. -/
  inFlight : List McRow := []
  /-- Top-k lists by column: FP32 bits and row index, best first. -/
  lists : SMap (List (W32 × Nat)) := []
  anyPoison : Bool := false
  deriving DecidableEq, Repr

/-- A LOADW in progress: the buffer it will leave, and its operand range. -/
structure McLoad where
  buf : WBuf
  space : Bool
  addr : Nat
  len : Nat
  deriving DecidableEq, Repr

/-- A matrix cell (R95-R121, R141, R142). -/
structure Mc where
  cfg : McCfg := {}
  baseSrc : Nat := 0
  baseDst : Nat := 0
  baseLoad : Nat := 0
  active : WBuf := {}
  shadow : WBuf := {}
  shadowFull : Bool := false
  acc : SMap AccEntry := []
  seqNo : Nat := 0
  /-- A LOADW in progress. -/
  loading : Option McLoad := none
  /-- Streams that have started and not completed, oldest first: only the newest has rows to issue. -/
  streams : List McStream := []
  err : Nat := 0
  halted : Bool := false
  /-- RGN_MC_CKSTAT. -/
  fails : BitVec 16 := 0
  skipped : BitVec 16 := 0
  lastCol : Nat := 0xFF
  lastReadout : Bool := false
  deriving DecidableEq, Repr

/-- A DMA channel (R191-R194, R204). -/
structure Dma where
  baseSrc : Nat := 0
  baseDst : Nat := 0
  /-- The command that runs. -/
  busy : Option W64 := none
  status : Nat := 0
  halted : Bool := false
  done : BitVec 16 := 0
  faultOff : W32 := 0xFFFFFFFF
  deriving DecidableEq, Repr

/-- A thread register (R148, R150, R161). -/
structure TReg where
  val : W32 := 0
  poison : Bool := false
  chk : Chk := .good
  deriving DecidableEq, Repr

/-- A thread's run state (R157, R158, R165). -/
inductive ThreadSt where
  | run
  | meet (id : Nat)
  | uwait (mask : BitVec 6)
  | exited
  deriving DecidableEq, Repr

/-- A load or device atomic whose data has not returned (R189): destination, device address, size code, and
sign extension. -/
structure PendLoad where
  rd : Nat
  addr : Nat
  size : Nat
  signed : Bool
  /-- Old value and poison of an atomic already performed at the slice. -/
  value : Option (W64 × Bool)
  /-- An acquire not yet performed: its scope plus one; 0 for a relaxed load (R170). -/
  acq : Nat
  deriving DecidableEq, Repr

/-- A thread (R143-R152). -/
structure Thread where
  pc : Nat
  regs : SMap TReg := []
  flags : SMap Bool := []
  flagPoison : SMap Bool := []
  st : ThreadSt := .run
  pend : List PendLoad := []
  deriving DecidableEq, Repr

/-- A resident thread group (R143-R145). -/
structure Group where
  set : Nat
  ctx : Nat
  threads : SMap Thread
  /-- Tick at which a thread first waited at the barrier in force (R159). -/
  meetAt : Option Nat := none
  deriving DecidableEq, Repr

/-- A resident kernel (Table 3.14, R144-R147). -/
structure Kernel where
  entry : Nat
  args : Nat
  groups : Nat
  width : Nat
  regs : Nat
  l1 : Nat
  cls : Nat
  /-- The split has taken effect: the first group has been dispatched (R180). -/
  started : Bool := false
  next : Nat := 0
  live : SMap Group := []
  /-- Context at which the round-robin of each segment set stands (R146); a kernel starts, and cycle 0 leaves it, at the
  lowest. -/
  turn : SMap Nat := []
  /-- Commands issued to units 0-5 before LAUNCH (R165). -/
  issued : SMap Nat := []
  deriving DecidableEq, Repr

/-- An L1 line: sector number, its way of eight, its 256 bytes by offset, its word state by 32-bit word 0-63 (R188,
R196). -/
structure L1Line where
  sector : Nat
  way : Nat
  data : Mem
  words : RMap CWord
  deriving DecidableEq, Repr

/-- The thread-group cell (R143-R178). -/
structure Tg where
  kernel : Option Kernel := none
  cause : Nat := 0
  trapped : Bool := false
  wdFall : Bool := false
  trapThread : Nat := 0
  trapGroup : Nat := 0
  /-- L1 lines, most recently used first. -/
  l1 : List L1Line := []
  /-- Check state of instruction-cache words, by 32-bit word of the ply-code area (R147). -/
  icChk : SMap Chk := []
  deriving DecidableEq, Repr

/-- A logical block: sequencer, cells, channels, array (R20, R179-R204, R426, R437). -/
structure Block where
  seq : Seq := {}
  mc : SMap Mc := []
  dma : SMap Dma := []
  tg : Tg := {}
  /-- Block-array bytes, and the state of its 32-bit words. -/
  ba : Mem := []
  baSt : RMap WordSt := []
  /-- RGN_BA_STAT, and the scrubber's next row of each bank. -/
  baCe : BitVec 16 := 0
  baUe : BitVec 16 := 0
  baLap : W32 := 0
  lapStart : Nat := 0
  scrubRow : SMap Nat := []
  /-- RGN_BLK_PWR.uv and gate. -/
  uv : Byte := 0
  gB : Nat := 64
  /-- Last current estimate in mA; sum and number of the estimates of the thermal round (R444). -/
  est : Nat := 0
  estSum : Nat := 0
  estN : Nat := 0
  /-- The whole block is halted for the rest of the ply (R418, R37). -/
  halted : Bool := false
  /-- Failed by an immediate cause of Table 18.7: its row number. -/
  failed : Option Nat := none
  /-- No slot holds the block (R464). -/
  lost : Bool := false
  /-- Strikes: cause row, unit (cell, or 2 for the block), ply, attempt (R460). -/
  strikes : List (Nat × Nat × W64 × Nat) := []
  /-- Reads of unwritten words of a promoted array stop the block (R463). -/
  promotedDark : Bool := false
  deriving DecidableEq, Repr

/-! ### Regions, bundles -/

/-- A region (R27, R141, R177, R202, R442, R463). -/
structure Region where
  /-- RGN_SLOT_MAP. -/
  slotState : BitVec 52 := 0xCBA9876543210
  mapGen : Byte := 0
  /-- RGN_CK_CFG. -/
  ckAction : Bool := false
  ckAcc : Bool := true
  /-- RGN_TG_CFG. -/
  wdExp : Nat := 20
  /-- RGN_BA_CFG. -/
  scrubEn : Bool := true
  scrubGap : Nat := 8
  /-- THM_RGN field. -/
  gTh : Nat := 64
  /-- A promotion under way: local block, failed slot, whether the array is copied, and the entries held back. -/
  promo : Option (Nat × Nat × Bool) := none
  heldEntries : List JEntry := []
  deriving DecidableEq, Repr

/-- A vertical bundle (R233-R236). -/
structure Bundle where
  /-- Connections that have failed. -/
  failed : List Nat := []
  half : Bool := false
  dead : Bool := false
  /-- Connections that mismatched in the last idle pattern. -/
  suspect : List Nat := []
  /-- A move to the spare that waits for the next ply (R234). -/
  moveDue : Bool := false
  /-- Corrected errors whose syndromes point to a connection: connection and tick, newest first (R234). -/
  errs : List (Nat × Nat) := []
  deriving DecidableEq, Repr

/-! ### Cache die and HBM -/

/-- A line of the cache ways (R205). -/
structure Line where
  way : Nat
  valid : BitVec 4
  dirty : BitVec 4
  /-- Use stamp: larger is more recent. -/
  use : Nat
  /-- Dead mark. Operation 4 drops its line (Table 8.6), so no command sets it on a line that is present. -/
  dead : Bool := false
  pinned : Bool := false
  /-- Temporary pins: the tick at which each is released, and whether it is a reduction's (R221, R226). -/
  tpins : List (Nat × Bool) := []
  /-- A fetch of invalid sectors is in progress. -/
  fetching : Bool := false
  deriving DecidableEq, Repr

/-- Who made a cache-die request (Table 14.2). -/
inductive Requester where
  | thread (b g t : Nat)
  | blockStore (b : Nat)
  /-- The L1 of block b fetches a sector again that it has dropped (R190). -/
  | l1Fill (b : Nat)
  /-- A BAR2 access; reads are numbered. -/
  | bar2 (rd : Nat)
  deriving DecidableEq, Repr

/-- A request at the cache die: one sector at most (R213-R215). -/
structure CReq where
  addr : Nat
  len : Nat
  write : Bool
  bytes : Mem
  poison : Bool
  who : Requester
  /-- Bandwidth class; none for scheduled traffic and scrubbers (R375). -/
  cls : Nat
  deriving DecidableEq, Repr

/-- A reduction at the cache die (R224-R226), of engine step number step with its class. -/
structure RedReq where
  step : Nat
  cls : Nat
  op : Nat
  /-- 256 source bytes by offset and the poisoned 64-bit words of the source. -/
  src : Mem
  srcPoison : BitVec 32
  dest : Nat
  first : Bool
  deriving DecidableEq, Repr

/-- Data delivered to a requester. -/
structure CResp where
  who : Requester
  addr : Nat
  len : Nat
  data : Mem
  words : RMap CWord
  /-- No later device write of the block has dropped the sector from its L1 (R189). -/
  fill : Bool
  deriving DecidableEq, Repr

/-- An access that has arrived and waits for its line (R213, R284): a service request with the port it came on, a scheduled
frame's write, data of a peer copy, an exchange copy, a journal entry to restore, a COPY_D2H read, or the mirror reads of a committed ply. -/
inductive HeldAccess where
  | request (f : VFrame) (port : Nat)
  /-- A scheduled frame's write, with its expect entry, its seq and the start tick of its ply. -/
  | frame (addr : Nat) (data : Mem) (pmask : BitVec 16) (e seq start : Nat)
  | copyData (uid cls addr n : Nat) (data : Mem) (pmask : BitVec 16)
  | exchange (cls addr n : Nat) (data : Mem)
  | restore (e : JEntry)
  | copyOut (uid : Nat)
  | mirror (n : W64)
  deriving DecidableEq, Repr

/-- Per-slice state (R222, R240). -/
structure Slice where
  ce : BitVec 16 := 0
  ue : BitVec 16 := 0
  refetch : BitVec 16 := 0
  resurrect : BitVec 16 := 0
  lap : W32 := 0
  lapStart : Nat := 0
  scrubPos : Nat := 0
  /-- Dead records by set, oldest first, at most four (R222). -/
  dead : SMap (List Nat) := []
  reads : List CReq := []
  writes : List CReq := []
  reds : List RedReq := []
  /-- Requests that wait for a line whose fetch is in progress, oldest first. -/
  merged : List CReq := []
  /-- Lines whose sectors have arrived from HBM. -/
  fills : List Nat := []
  deriving DecidableEq, Repr

/-- The cache die (R205-R241). -/
structure Ccd where
  /-- CCD_CFG. -/
  pinMax : Nat := 24
  strict : Bool := false
  scrubEn : Bool := true
  scrubGap : Nat := 4
  /-- Valid lines by device line number. -/
  lines : SMap Line := []
  stamp : Nat := 1
  /-- Bytes of valid sectors by device address, and the state of their 64-bit words. -/
  mem : Mem := []
  words : RMap CWord := []
  slices : SMap Slice := []
  responses : List CResp := []
  /-- Accesses that wait for their lines, oldest first (R213, R284). -/
  waiting : List HeldAccess := []
  /-- Ply-code area by byte offset (R80), and the check state of its 64-bit words (R229). -/
  plyCode : Mem := []
  plyChk : SMap Chk := []
  /-- Firmware area: the block firmware that BOOT leaves (R80, R229). The working storage's contents are held where they
  belong: boundary records in Seq, the error record log in Err, the engine's staging in Ce (Table 8.1). -/
  fwArea : Mem := []
  fwChk : SMap Chk := []
  /-- Check state of the working storage's 64-bit words (way 47 from set 2,048 on, Table 8.1). -/
  workChk : SMap Chk := []
  /-- Cells that persist in a fault, by place: ((slice * 8192 + set) * 48 + way) * 128 + word (R510). -/
  stuck : SMap Chk := []
  /-- CCD_VB_STAT. -/
  bundles : SMap Bundle := []
  bundleBand : Nat := 0
  retuning : Bool := false
  /-- Taps chosen for the connections whose window a sweep or re-check has shown, by 33 * bundle + connection (R233). -/
  taps : SMap Nat := []
  /-- Bundles that sweep again after a narrow re-check, with their links (R233). -/
  sweeping : List (Nat × BundleLink) := []
  /-- Block links that run at half rate or are dead, by 13 * region + slot (R235, R236). -/
  halfLinks : List Nat := []
  deadLinks : List Nat := []
  deriving DecidableEq, Repr

/-- A request queued at an HBM channel: line, sectors wanted or written, write, class (R251, R254). -/
structure HReq where
  line : Nat
  sectors : BitVec 4
  write : Bool
  /-- Write-back data by offset in the line, and its word state by 64-bit word 0-127. -/
  data : Mem
  words : RMap CWord
  cls : Nat
  master : Nat
  /-- The line whose miss evicted the line written back (R216). -/
  forLine : Option Nat
  /-- Tick of arrival. -/
  arrived : Nat
  /-- The sector that a fetch delivers first (R213). -/
  first : Nat := 0
  /-- The channel has retrained for this request (R259). -/
  retried : Bool := false
  deriving DecidableEq, Repr

/-- A remap window: bank and row. -/
structure Window where
  bank : Nat
  row : Nat
  deriving DecidableEq, Repr

/-- An HBM channel (R242, R251-R266). -/
structure Chan where
  /-- HBM_CH_STAT.state: 0 in service, 1 retraining, 2 dead. -/
  state : Nat := 0
  retrains : BitVec 16 := 0
  crc : BitVec 16 := 0
  /-- Retrainings failed in succession. -/
  failsInRow : Nat := 0
  /-- Ticks of the last CRC failures, newest first, at most 16. -/
  crcTicks : List Nat := []
  /-- A retraining waits for the stack's turn (R260). -/
  retrainDue : Bool := false
  /-- An interface check that a band change has started (R257); CRC failures that the next access made without a queued
  request meets (log entry 44). -/
  checkDue : Bool := false
  crcDue : Nat := 0
  queue : List HReq := []
  bypass : List HReq := []
  /-- Open row of each bank 0-31 of the channel, plus one; 0 is closed. -/
  openRow : SMap Nat := []
  /-- Corrected errors per row, by 65,536 * bank + row. -/
  rowErrs : SMap Nat := []
  candidates : List Window := []
  /-- Candidates that found no spare (R263). -/
  refusedRows : List Window := []
  window : Option Window := none
  /-- Spare rows in use by bank, and rows remapped. -/
  spares : SMap Nat := []
  remapped : List Window := []
  /-- Tick of the last refresh, the band that its tREFI follows, and the refreshes deferred to the end of a near-bank
  segment (R256, R280). -/
  refreshedAt : Option Nat := none
  refBand : Nat := 0
  deferred : Nat := 0
  scrubPos : Nat := 0
  lapStart : Nat := 0
  lap : W32 := 0
  lapped : Bool := false
  deriving DecidableEq, Repr

/-- An HBM stack (R245, R257, R265, R266). -/
structure Stack where
  scrubEn : Bool := true
  scrubGap : Nat := 6
  liveRemap : Bool := true
  remapThresh : Nat := 4
  /-- Open granules 0-79: HBM_GRAN_HI.open_hi and HBM_GRAN_LO.open_lo. -/
  openGran : BitVec 80 := 0
  band : Nat := 0
  ce : BitVec 16 := 0
  ue : BitVec 16 := 0
  refused : BitVec 9 := 0
  chans : SMap Chan := []
  deriving DecidableEq, Repr

/-! ### Near-bank -/

/-- Who issued a near-bank command. -/
inductive NbIssuer where
  | host (uid : Nat)
  | block (b sem : Nat) (ply : W64)
  deriving DecidableEq, Repr

/-- A near-bank command (Table 10.1) with its micro-program. -/
structure NbCmd where
  issuer : NbIssuer
  dieLo : Nat
  dieHi : Nat
  pairLo : Nat
  pairHi : Nat
  fmt : Nat
  prog : List W32
  colStart : Nat
  cols : Nat
  steps : Nat
  rowE : Nat
  rowO : Nat
  strideE : Nat
  strideO : Nat
  cls : Nat
  deriving DecidableEq, Repr

/-- Where a running command is (R280). -/
inductive NbPhase where
  | journal
  | segment (steps : Nat)
  | window
  | refresh
  deriving DecidableEq, Repr

/-- A running near-bank command: registers v0-v3 of unit u at 4 * u + i. -/
structure NbRun where
  cmd : NbCmd
  next : Nat := 0
  phase : NbPhase
  regs : SMap (BitVec 256) := []
  /-- Tick at which its service window opened. -/
  winAt : Nat := 0
  /-- A host command that endgame stops at the end of its segment (R291). -/
  stopping : Bool := false
  deriving DecidableEq, Repr

/-- A stack's near-bank sequencer (R281, R293). -/
structure NbStack where
  devQ : List NbCmd := []
  hostQ : List NbCmd := []
  run : Option NbRun := none
  lastReason : Nat := 0
  done : BitVec 16 := 0
  rejected : BitVec 12 := 0
  aborted : BitVec 12 := 0
  deriving DecidableEq, Repr

/-- Near-bank processing (R292). -/
structure Pim where
  compat : Bool := false
  hostInRun : Bool := false
  svcWin : Nat := 20
  seqs : SMap NbStack := []
  /-- Granule writes that wait for a running or queued command: stack, high register, value, and the bits of the register
  that the write names (R284, R489). -/
  heldGran : List (Nat × Bool × W64 × W64) := []
  deriving DecidableEq, Repr

/-! ### Collective engine -/

/-- A frame in an engine queue: payload, poisoned 32-byte chunks, port it came on; in an input queue, the expect entry it
is of, its index in the entry, and whether it is the entry's last. -/
structure CeFrame where
  payload : Mem
  pmask : BitVec 16
  port : Nat
  entry : Nat := 0
  seq : Nat := 0
  last : Bool := false
  deriving DecidableEq, Repr

/-- A step record (Table 12.1) with its issuer. -/
structure CeStep where
  i : Nat
  block : Nat
  sem : Nat
  ply : W64
  cls : Nat
  kind : Nat
  etype : Nat
  rop : Nat
  first : Bool
  useLocal : Bool
  declare : Bool
  addSlot : Bool
  slot : Nat
  nin : Nat
  d : Nat
  queues : List Nat
  localAddr : Nat
  dest : Nat
  bytes : Nat
  cid : W32
  deriving DecidableEq, Repr

/-- Progress of a running step. -/
inductive CeSt where
  /-- Waits for the digest frame of input k's contribution. -/
  | waiting (k : Nat)
  /-- Its writes are accepted or its frames queued. -/
  | finished
  deriving DecidableEq, Repr

/-- The collective engine (R319-R332, R346, R347). -/
structure Ce where
  resTol : Nat := 10
  inQ : SMap (List CeFrame) := []
  outQ : SMap (List CeFrame) := []
  stepQ : List CeStep := []
  running : List (CeStep × CeSt) := []
  nextStep : Nat := 0
  /-- Residue slots: ρ and μ as FP64 bits. -/
  rho : SMap W64 := []
  mu : SMap W64 := []
  crcFail : BitVec 16 := 0
  resFail : BitVec 16 := 0
  resSkip : BitVec 16 := 0
  stepFail : Byte := 0
  lastStatus : Nat := 0
  deriving DecidableEq, Repr

/-! ### Melob fabric -/

/-- A receive lane (Table 11.16). -/
structure Lane where
  /-- 0 in use, 1 spare, 2 retraining, 3 retired. -/
  state : Nat := 0
  position : Nat := 0x1F
  lock : Bool := false
  retrains : Byte := 0
  sym : BitVec 16 := 0
  failedRetrains : Nat := 0
  deriving DecidableEq, Repr

/-- A LINK answer a receiver waits for (R297, R298): the lane that moves, the spare that takes its position, and the
group; or the width and its group. Groups are counted without reduction. -/
inductive LinkWait where
  | laneAck (lane spare position : Nat) (group : Nat)
  | width (eight : Bool) (group : Nat)
  deriving DecidableEq, Repr

/-- An item of a port's scheduled queue: frame seq of send entry e, or a relayed frame (R304, R343). -/
inductive SchedItem where
  | entry (e seq : Nat)
  | frame (f : Frame)
  deriving DecidableEq, Repr

/-- A V frame buffer of a port's receiver that a frame in transit holds (R301): the port, the channel, and when the port
came up. -/
structure VBuf where
  port : Nat
  vc : Bool
  upAt : Nat
  deriving DecidableEq, Repr

/-- A Melob port (R294-R318). -/
structure Port where
  /-- FAB_PORT_STAT.state: 0 unlicensed, 1 training, 2 up, 3 up on 8 lanes, 4 down. -/
  state : Nat := 0
  fn : Nat := 0xFF
  partner : Nat := 0x7FFF
  latency : Nat := 0xFFF
  budget : Nat := 0
  lanes : SMap Lane := []
  fecCorr : BitVec 16 := 0
  fecUncorr : BitVec 16 := 0
  crcErr : BitVec 16 := 0
  viol : BitVec 16 := 0
  /-- Credits per virtual channel: sent, freed as last received, received, freed here. -/
  sent0 : BitVec 8 := 0
  sent1 : BitVec 8 := 0
  theirFreed0 : BitVec 8 := 0
  theirFreed1 : BitVec 8 := 0
  got0 : BitVec 8 := 0
  got1 : BitVec 8 := 0
  freed0 : BitVec 8 := 0
  freed1 : BitVec 8 := 0
  /-- Due beacons and checks; JOIN and LINK; scheduled frames; V frames: oldest first, with relay byte. -/
  due : List (Frame × Nat) := []
  linkQ : List (Frame × Nat) := []
  sched : List (SchedItem × Nat) := []
  vQ : List (Frame × Nat × Option VBuf) := []
  /-- Last frame transmitted, with its relay byte, and the header fields it carried. -/
  lastSent : Option (Frame × Nat) := none
  lastHdr : FrameHdr := { sent0 := 0, sent1 := 0, freed0 := 0, freed1 := 0, reservedSet := false, relay := 0 }
  framesSent : Nat := 0
  /-- Tick at which the port came up. -/
  upAt : Nat := 0
  wait : List LinkWait := []
  /-- Group numbering of each direction (R295): a group, and when its first codeword passes, in quarter nanoseconds from
  the port's coming up; it is moved on where the width changes. -/
  txBase : Nat := 0
  txAt : Nat := 0
  rxBase : Nat := 0
  rxAt : Nat := 0
  /-- As transmitter: the lane that carries no position, and whether it is one that a completed move freed (R297). -/
  txSpare : Nat := 16
  txUsed : Bool := false
  /-- As transmitter: the lane mirrored onto the spare, and the group at which it stops. -/
  mirror : Option (Nat × Nat) := none
  /-- As transmitter: the widths asked for and not yet answered, each with its group, in the order they came. -/
  txWidths : List (Bool × Nat) := []
  txEight : Bool := false
  /-- Held down by an identity mismatch or an excess latency (R296, R303). -/
  barred : Bool := false
  /-- After a retrain, JOIN must be exchanged before other frames (R296): the partner's has not come; this port's own has
  not left. joinOwn also holds at DOMAIN_JOIN until the JOIN leaves (R303). -/
  joinDue : Bool := false
  joinOwn : Bool := false
  /-- The latency that R296 and R303 have measured before the JOIN exchange is not known yet, and the JOINs received
  meanwhile, each of which is answered once it is. -/
  remeasure : Bool := false
  joinOwed : Nat := 0
  /-- Latency measurement (R303): the stamp of the ECHO_REQ not answered, when it was sent, and the equaliser delay in ns,
  zero without a hop budget. -/
  echo : Option W32 := none
  echoAt : Nat := 0
  equaliser : Nat := 0
  badSync : Nat := 0
  realigning : Bool := false
  /-- Tick of the last valid frame. -/
  lastValid : Nat := 0
  /-- Held down because its controller failed BOOT (Table 15.2). -/
  failedBoot : Bool := false
  deriving DecidableEq, Repr

/-- Why a service request was made. -/
inductive SvcUse where
  /-- Peer copy of a descriptor: source offset in the copy. -/
  | copy (uid off : Nat)
  | mirror
  | takeover
  deriving DecidableEq, Repr

/-- A service tag (R310, R312). -/
inductive TagSt where
  | free
  | out (f : VFrame) (sends : Nat) (lastAt : Nat) (use : SvcUse) (ply : W64)
  | quarantine (since : Nat)
  deriving DecidableEq, Repr

/-- Generation and state of a tag. -/
structure Tag where
  gen : BitVec 2 := 0
  st : TagSt := .free
  deriving DecidableEq, Repr

/-- Device-wide fabric state (R310-R317). -/
structure Fab where
  /-- FAB_CFG. -/
  quarantine : Nat := 0x28
  retry : Nat := 0x0A
  retries : Nat := 3
  laneThresh : Nat := 0x400
  ports : SMap Port := []
  tags : SMap Tag := []
  abandoned : BitVec 16 := 0
  late : BitVec 16 := 0
  /-- Requests that wait for a free tag. -/
  waiting : List (VFrame × SvcUse) := []
  /-- Frames of expect entry e accepted in this attempt, and those whose writes have been accepted too (R305). -/
  accepted : SMap (List Nat) := []
  received : SMap (List Nat) := []
  /-- Expect entries whose deadline has passed, send entries whose lead or release has happened, in this attempt. -/
  deadlines : List Nat := []
  led : SMap (List CeFrame) := []
  released : List Nat := []
  /-- Peer copies in progress: by descriptor, bytes not yet answered; descriptors that met poison. -/
  copies : SMap Nat := []
  copyPoison : List Nat := []
  deriving DecidableEq, Repr

/-! ### Bandwidth regulation -/

/-- Arbitration state of one resource (R377-R379); V egress of port p is number 10 + p, with the channels as masters. -/
structure QosRes where
  /-- Bytes of each master in the epoch, and those of an access made as one that stand over for later epochs (R377;
  DESIGN CHOICE, log entry 44). -/
  bytes : SMap Nat := []
  excess : SMap Nat := []
  /-- Next master of the guaranteed tier, next master of each class. -/
  rrGuar : Nat := 0
  rrClass : SMap Nat := []
  /-- Bytes each class has spent in the round, and the class that keeps the grant. -/
  spent : SMap Nat := []
  holder : Option Nat := none
  deriving DecidableEq, Repr

/-- Bandwidth regulation (R375-R384). -/
structure Qos where
  win : Nat := 100
  weights : W64 := 0x0102040810102040
  /-- Guarantees that differ from Table 14.4, by 128 * g + m; the value plus one. -/
  mins : SMap Nat := []
  res : SMap QosRes := []
  /-- Bytes counted in the window by 8 * r + c; the last completed window's. -/
  counting : SMap Nat := []
  snapshot : SMap Nat := []
  winSeq : W64 := 0
  /-- The window in progress is discarded: counting starts at the next boundary. -/
  discard : Bool := false
  /-- Ticks of the last epoch start and of the last window boundary: the model's own. -/
  epochAt : Option Nat := none
  winAt : Option Nat := none
  /-- Class and master of the request being served: the model's own; none counts nothing. -/
  who : Option (Nat × Nat) := none
  deriving DecidableEq, Repr

/-! ### Thermal, errors, management port -/

/-- Per channel-group state of the lower die (R445); temperatures in 1/16 °C. -/
structure GroupEst where
  /-- T_est of the last round, and the 16-bit value that reports it. -/
  est : Option Rat := none
  code : Int := 0
  overRounds : Nat := 0
  underRounds : Nat := 0
  /-- The estimate governs whenever it is formed. -/
  governs : Bool := false
  deriving DecidableEq, Repr

/-- The thermal unit (R438-R452). -/
structure Thm where
  tComp : Nat := 100
  tHbm : Nat := 95
  slope : Nat := 12
  round : Nat := 0
  roundTick : Nat := 0
  last : Readings := { diode := [], hbm := [], ext := [], therm := [] }
  stackBand : Nat := 0
  groups : SMap GroupEst := []
  throttling : Bool := false
  /-- Channels that read invalid in the last round and count, by object number of Table 17.3. -/
  invalidNow : List Nat := []
  /-- EXT0, EXT1, TH0, TH1 that have read valid since main-side reset. -/
  seenValid : List Nat := []
  /-- The last round held a reading at the trip limit; at the critical limit. -/
  wasTrip : Bool := false
  wasCrit : Bool := false
  /-- Codes of THM_STAT: max_stack, max_hbm, inlet, outlet. -/
  maxStack : Nat := 0
  maxHbm : Nat := 0
  inlet : Nat := 0
  outlet : Nat := 0
  /-- Block gates are held at 16 (R446). -/
  gateHeld : Bool := false
  /-- A trip has been acted on since main-side reset. -/
  tripped : Bool := false
  deriving DecidableEq, Repr

/-- An error record (Table 18.3), without reserved bits and CRC. -/
structure ErrRec where
  cls : Nat
  level : Nat
  unit : Nat
  code : Nat
  index : W32
  ply : W64
  tick : W64
  attempt : Nat
  state : Nat
  lblock : Option Nat
  /-- Region, slot and map_gen when known. -/
  phys : Option (Nat × Nat × Nat)
  loc : Nat
  addr : Nat
  data0 : Nat
  data1 : Nat
  deriving DecidableEq, Repr

/-- Errors and endgame (R453-R471). -/
structure Err where
  ceLimit : Nat := 1
  /-- The log, newest first, at most 16,384; next index. -/
  log : List ErrRec := []
  next : W32 := 0
  ce : BitVec 16 := 0
  de : BitVec 16 := 0
  uc : BitVec 16 := 0
  fa : BitVec 16 := 0
  /-- Records of the ply or millisecond window, for the CE and DE limit. -/
  recent : List ErrRec := []
  /-- Port events posted in the ply or window (R315): port and event. -/
  portEvents : List (Nat × Nat) := []
  msWindow : Nat := 0
  /-- ERR_ENDGAME. -/
  phase : Nat := 0
  cause : Nat := 0
  index : W32 := 0
  /-- What phase 4 of the endgame will record (R469). -/
  pendRec : Option ReplaceRec := none
  deriving DecidableEq, Repr

/-- SPDM answers (R406-R408). -/
inductive SpdmResp where
  | version
  | capabilities
  | algorithms
  | digests (chain : BitVec 256)
  | certificate (chain : List Byte)
  | challengeAuth (digest : BitVec 256) (signature : Nat)
  | measurements (blocks : List (Nat × BitVec 256)) (signature : Option Nat)
  | busy
  deriving DecidableEq, Repr

/-- What an SPDM requester asks (R406). -/
inductive SpdmReq where
  | version
  | capabilities
  | algorithms
  | digests
  | certificate
  | challenge (nonce : BitVec 256)
  | measurements (nonce : BitVec 256) (index : Nat) (signed : Bool)
  deriving DecidableEq, Repr

/-- The bytes that a signature covers, as SPDM 1.3 lays them out: earlier exchanges, the request, and the answer without
its signature (R406; log entry 6). -/
opaque spdmMessage (covered : List (SpdmReq × SpdmResp)) (q : SpdmReq) (r : SpdmResp) : List Byte

/-- What the management port, or the SPDM responder, last answered. -/
inductive MgmtResp where
  | mctp (eid : Byte)
  | mctpVersion
  | mctpTypes (types : List Nat)
  | pldmDiscovery (types : List Nat)
  | pldmSensor (value : Option Int)
  | pldmApply (code : Nat)
  /-- Completion code ALREADY_IN_UPDATE_MODE (R478). -/
  | pldmInUpdate
  | spdm (doe : Bool) (r : SpdmResp)
  /-- Vendor response: command, status, reason, data, instance number. -/
  | vendor (cmd status reason : Nat) (data : Mem) (inst : Byte := 0)
  /-- Records returned by GET_RECORDS. -/
  | records (rs : List ErrRec) (inst : Byte := 0)
  /-- A salvage page: address, bytes by offset, poison map. -/
  | salvage (addr : Nat) (bytes : Mem) (map : BitVec 128) (inst : Byte := 0)
  deriving DecidableEq, Repr

/-- A vendor request that may wait for its turn (Table 19.2, R478). -/
inductive VendorReq where
  | records (store index count : Nat)
  | thermal
  | replaceRec
  | clearReplace (mask : Byte)
  | release
  | holdOff
  | forceOff (key : Byte)
  | licence (bytes : Mem) (flashOk : Bool)
  deriving DecidableEq, Repr

/-- The management domain (R472-R484). -/
structure Mgmt where
  /-- Dynamic address; none before ENTDAA. -/
  addr : Option (BitVec 7) := none
  eid : Byte := 0
  /-- The provisioned ID that ENTDAA was answered with (R472). -/
  pidSent : Option (BitVec 48) := none
  /-- The transmission unit in bytes, and the bytes of the request being reassembled (R473). -/
  unit : Nat := 64
  assembly : Option Nat := none
  /-- The in-band interrupt: an answer waits to be read (R472). -/
  ibi : Bool := false
  /-- Management firmware runs; otherwise the ROM responder. -/
  fwRuns : Bool := true
  /-- Trust key of the image it verified. -/
  verified : Option FwInfo := none
  /-- Its record store, newest first, at most 256 (R456). -/
  store : List ErrRec := []
  /-- Readings of EXT0, EXT1 and TH0-TH3 in STANDBY. -/
  ext : List (Option Int) := []
  therm : List (Option Int) := []
  /-- A salvage in progress: next page address, pages left. -/
  salvage : Option (Nat × Nat) := none
  /-- The instance number of its request, and the vendor requests that wait behind it (R476, R478). -/
  salvageInst : Byte := 0
  waiting : List (VendorReq × VendorHdr) := []
  /-- A main-side reset waits for the salvage's current page (R478). -/
  resetAfterPage : Bool := false
  /-- The last answer, and how many have been given: the model's own. -/
  resp : Option MgmtResp := none
  answers : Nat := 0
  /-- Messages discarded (R473). -/
  discarded : Nat := 0
  /-- The SPDM exchanges that a signature may still cover, oldest first (R406). -/
  spdm : List (SpdmReq × SpdmResp) := []
  deriving DecidableEq, Repr

/-! ### The device -/

/-- What the registers outside HIF showed when FAULT was entered (R487). -/
structure Frozen where
  dom : Nat
  supply : Supply
  pwr : Pwr
  sec : Sec
  flash : Flash
  image : Option Image
  sch : Sch
  standby : Standby
  blocks : SMap Block
  regions : SMap Region
  ccd : Ccd
  hbmStacks : SMap Stack
  pim : Pim
  ce : Ce
  fab : Fab
  qos : Qos
  thm : Thm
  err : Err
  deriving DecidableEq, Repr

/-- The state of the device. -/
structure State where
  /-- Waiting commands, first in, first out: the model's own queue. -/
  pending : List Instr
  dev : DevState
  /-- Ticks of 10 ns that have passed: the model's own count, from which every duration is measured. The device's
  own count, SCH_TIME, is tick + sch.timeOff (R39, R493). -/
  tick : Nat
  supply : Supply
  pwr : Pwr
  flash : Flash
  sec : Sec
  image : Option Image
  hif : Hif
  sch : Sch
  standby : Standby
  /-- Logical blocks 0-95. -/
  blocks : SMap Block
  /-- Regions 0-7. -/
  regions : SMap Region
  ccd : Ccd
  /-- HBM bytes by place, and the state of the 256-bit words: 1 KiB line (stack, m, channel) of R243 stands at line
  number (2,621,440 * stack + m) * 32 + channel, so a granule of a stack is one range. -/
  hbm : Mem
  hbmWords : RMap HWord
  /-- HBM stacks 0-7. -/
  hbmStacks : SMap Stack
  pim : Pim
  ce : Ce
  fab : Fab
  qos : Qos
  thm : Thm
  err : Err
  mgmt : Mgmt
  /-- DBG_SCRATCH (R494). -/
  dbgScratch : W32
  /-- Register values held in FAULT (R487). -/
  frozen : Option Frozen
  deriving DecidableEq, Repr

/-- The firmware image in the store when the device leaves the factory (log entry 6). -/
def State.factoryFw : FwInfo where
  version := Config.factoryVersion
  digest := Config.factoryDigest
  trustModulus := Config.factoryTrustModulus
  trustExponent := Config.factoryTrustExponent
  blockFw := Config.factoryBlockFw
  blockFwCrc := Config.factoryBlockCrc
  hasMgmt := true
  bytes := Config.factoryImage
  len := Config.factoryLen

/-- An area as the factory wrote it: both copies, the second the older. -/
def Two.factory {α : Type} (a : α) : Two α where
  c0 := some (1, a)
  c1 := some (0, a)

/-- Flash as the factory left it (log entry 6): no licence, no floor, no replace record and no remap. -/
def Flash.factory : Flash where
  store := some State.factoryFw
  identity := Two.factory { idHash := keyHash Config.idModulus 65537, serial := Config.serial }
  chain := Two.factory
    { root := Config.rootCert, product := Config.productCert, device := Config.deviceCert Config.idModulus Config.serial }

/-- The management domain once it has verified the image given, or found none that verifies: its firmware runs if the image
carries one, else the mask ROM's responder (R475). -/
def Mgmt.boot (store : Option FwInfo) : Mgmt where
  fwRuns := match store with | some f => f.hasMgmt | none => false
  verified := store

/-- The machine on leaving a main-side reset: both supply sides valid, BOOT entered and none of its steps ended (R9,
R385); every register at its Reset column (R6); flash as the factory left it (log entry 6). -/
def State.reset : State where
  pending := []
  dev := .boot
  tick := 0
  supply := {}
  pwr := {}
  flash := Flash.factory
  sec := {}
  image := none
  hif := {}
  sch := {}
  standby := {}
  blocks := []
  regions := []
  ccd := {}
  hbm := []
  hbmWords := []
  hbmStacks := []
  pim := {}
  ce := {}
  fab := {}
  qos := { discard := true }
  thm := {}
  err := {}
  mgmt := Mgmt.boot (some State.factoryFw)
  dbgScratch := 0
  frozen := none

end Sys2Proof.Machine
end

