-- ==== Sys2Proof/Machine/Flash.lean ====
section
/-! DEFINITION. Package flash (R388): reading and writing an area's two copies, and what the areas hold. -/

namespace Sys2Proof.Machine

variable {α : Type}

/-- The first copy is the one in force. -/
def Two.first (t : Two α) : Bool :=
  match t.c0, t.c1 with
  | some a, some b => decide (b.1 ≤ a.1)
  | some _, none => true
  | none, _ => false

/-- The record in force: the valid copy with the higher sequence number; none when neither is valid. -/
def Two.get (t : Two α) : Option α := (if t.first then t.c0 else t.c1).map Prod.snd

/-- The sequence number in force. -/
def Two.seq (t : Two α) : Nat := ((if t.first then t.c0 else t.c1).map Prod.fst).getD 0

/-- Writes the copy that is not in force, under the next sequence number. -/
def Two.put (t : Two α) (a : α) : Two α :=
  if t.first then { t with c1 := some (t.seq + 1, a) } else { t with c0 := some (t.seq + 1, a) }

/-- A write that fails or is interrupted spoils the copy that was not in force. -/
def Two.torn (t : Two α) : Two α := if t.first then { t with c1 := none } else { t with c0 := none }

/-- An area of Table 15.3. -/
structure FlashArea where
  base : Nat
  size : Nat
  copies : Nat
  deriving DecidableEq, Repr

/-- The areas of Table 15.3 in order: identity, certificates, licences and floor, replace record, remap list,
manufacturing data, firmware store, reserved. -/
def flashLayout : List FlashArea :=
  [⟨0, 0x40000, 2⟩, ⟨0x40000, 0x40000, 2⟩, ⟨0x80000, 0x80000, 2⟩, ⟨0x100000, 0x100000, 2⟩, ⟨0x200000, 0x200000, 2⟩,
   ⟨0x400000, 0xC00000, 1⟩, ⟨0x1000000, 0x10000000, 1⟩, ⟨0x11000000, 0xF000000, 0⟩]

/-! ### What the areas hold; an absent record reads as R388 says -/

/-- The identity hash; none when the identity area is absent. -/
def Flash.idHash (f : Flash) : Option (BitVec 256) := f.identity.get.map IdArea.idHash

/-- The serial number. -/
def Flash.serial (f : Flash) : W64 := (f.identity.get.map IdArea.serial).getD 0

/-- The licence slots. -/
def Flash.licences (f : Flash) : SMap (Option Mem) := (f.lic.get.map LicArea.licences).getD []

/-- The rollback floor (R403). -/
def Flash.floor (f : Flash) : W32 := (f.lic.get.map LicArea.floor).getD 0

/-- The replace record. -/
def Flash.replace (f : Flash) : ReplaceRec := f.rep.get.getD {}

/-- The remap list (R262). -/
def Flash.remaps (f : Flash) : List RemapEntry := (f.remap.get.map RemapArea.remaps).getD []

/-- Spare rows recorded as used (R262, R263). -/
def Flash.sparesUsed (f : Flash) : SMap Nat := (f.remap.get.map RemapArea.sparesUsed).getD []

/-- The certificate chain that SPDM serves as slot 0 (R398). -/
def Flash.certChain (f : Flash) : List Byte :=
  match f.chain.get with
  | some c => c.root ++ c.product ++ c.device
  | none => []

/-- Its SHA-256. -/
def Flash.certDigest (f : Flash) : BitVec 256 := sha256 f.certChain

end Sys2Proof.Machine
end

