-- ==== Sys2Proof/Machine/Maps.lean ====
section
/-! DEFINITION. Reading and writing the sparse containers that State is made of: SMap (groups of like things by
number), RMap (piecewise constant maps) and Mem (bytes in one canonical form, log entry 2). -/

namespace Sys2Proof.Machine

/-! ### SMap -/

/-- The thing numbered k; d is what an unlisted number stands for. -/
def SMap.get {α : Type} (d : α) : SMap α → Nat → α
  | [], _ => d
  | (j, v) :: m, k => if j = k then v else SMap.get d m k

/-- m without key k. -/
def SMap.del {α : Type} : SMap α → Nat → SMap α
  | [], _ => []
  | (j, v) :: m, k => if j = k then SMap.del m k else (j, v) :: SMap.del m k

/-- Puts (k, v) before the first larger key. -/
def SMap.ins {α : Type} (k : Nat) (v : α) : SMap α → SMap α
  | [] => [(k, v)]
  | (j, w) :: m => if k < j then (k, v) :: (j, w) :: m else (j, w) :: SMap.ins k v m

/-- Sets the thing numbered k; a thing equal to the default is not listed. -/
def SMap.set {α : Type} [DecidableEq α] (d : α) (m : SMap α) (k : Nat) (v : α) : SMap α :=
  if v = d then SMap.del m k else SMap.ins k v (SMap.del m k)

/-- Changes the thing numbered k. -/
def SMap.upd {α : Type} [DecidableEq α] (d : α) (m : SMap α) (k : Nat) (f : α → α) : SMap α :=
  SMap.set d m k (f (SMap.get d m k))

/-- Changes every listed thing; one that becomes the default is no longer listed. -/
def SMap.mapVals {α : Type} [DecidableEq α] (d : α) : SMap α → (α → α) → SMap α
  | [], _ => []
  | (j, v) :: m, f => SMap.set d (SMap.mapVals d m f) j (f v)

/-- The listed keys. -/
def SMap.keys {α : Type} (m : SMap α) : List Nat := m.map Prod.fst

/-! ### RMap -/

/-- The value at key k: the last entry at or below k. -/
def RMap.get {α : Type} (d : α) : RMap α → Nat → α
  | [], _ => d
  | (j, v) :: m, k => if k < j then d else RMap.get v m k

/-- Drops entries that repeat the value before them. -/
def RMap.norm {α : Type} [DecidableEq α] (d : α) : RMap α → RMap α
  | [] => []
  | (j, v) :: m => if v = d then RMap.norm d m else (j, v) :: RMap.norm v m

/-- The part from key a for n keys, rebased to 0 and starting with an explicit entry at 0. -/
def RMap.slice {α : Type} (d : α) (m : RMap α) (a n : Nat) : RMap α :=
  (0, RMap.get d m a) ::
    (m.filter fun e => decide (a < e.1) && decide (e.1 < a + n)).map fun e => (e.1 - a, e.2)

/-- Replaces keys a to a + n - 1 by sub, which is based at 0; ds is what sub says before its first entry. -/
def RMap.splice {α : Type} [DecidableEq α] (d : α) (m : RMap α) (a n : Nat) (ds : α) (sub : RMap α) : RMap α :=
  if n = 0 then m else
  RMap.norm d <|
    m.filter (fun e => decide (e.1 < a)) ++
    (a, RMap.get ds sub 0) ::
    ((sub.filter fun e => decide (0 < e.1) && decide (e.1 < n)).map fun e => (e.1 + a, e.2)) ++
    (a + n, RMap.get d m (a + n)) ::
    m.filter (fun e => decide (a + n < e.1))

/-- Sets keys a to a + n - 1 to v. -/
def RMap.fill {α : Type} [DecidableEq α] (d : α) (m : RMap α) (a n : Nat) (v : α) : RMap α :=
  RMap.splice d m a n v []

/-- Changes the value at one key. -/
def RMap.upd {α : Type} [DecidableEq α] (d : α) (m : RMap α) (k : Nat) (f : α → α) : RMap α :=
  RMap.fill d m k 1 (f (RMap.get d m k))

/-- Changes keys a to a + n - 1, each by f. -/
def RMap.mapRange {α : Type} [DecidableEq α] (d : α) (m : RMap α) (a n : Nat) (f : α → α) : RMap α :=
  RMap.splice d m a n d ((RMap.slice d m a n).map fun e => (e.1, f e.2))

/-- Some key from a for n keys satisfies p. -/
def RMap.anyIn {α : Type} (d : α) (m : RMap α) (a n : Nat) (p : α → Bool) : Bool :=
  decide (0 < n) && (RMap.slice d m a n).any fun e => p e.2

/-- The keys from a for n keys that satisfy p, as segments (first key, count). -/
def RMap.segs {α : Type} (d : α) (m : RMap α) (a n : Nat) (p : α → Bool) : List (Nat × Nat) :=
  let l := RMap.slice d m a n
  let ends := (l.drop 1).map Prod.fst ++ [n]
  ((l.zip ends).filter fun e => p e.1.2).map fun e => (a + e.1.1, e.2 - e.1.1)

/-- The least key from a for n keys that satisfies p. -/
def RMap.firstIn {α : Type} (d : α) (m : RMap α) (a n : Nat) (p : α → Bool) : Option Nat :=
  if n = 0 then none else ((RMap.slice d m a n).find? fun e => p e.2).map fun e => a + e.1

/-! ### Mem -/

/-- Whether every listed address is above lo and they rise strictly, and no listed byte is zero. -/
def Mem.wfFrom : Nat → Mem → Bool
  | _, [] => true
  | lo, (a, b) :: m => decide (lo ≤ a) && decide (b ≠ 0) && Mem.wfFrom (a + 1) m

/-- The canonical form: addresses strictly rising, no byte equal to what an unlisted address reads as. -/
def Mem.wf (m : Mem) : Bool := Mem.wfFrom 0 m

/-- The byte at address a; an unlisted address reads zero (log entry 2). -/
def Mem.get : Mem → Nat → Byte
  | [], _ => 0
  | (j, v) :: m, a => if j = a then v else Mem.get m a

/-- Writes one byte. -/
def Mem.set : Mem → Nat → Byte → Mem
  | [], a, b => if b = 0 then [] else [(a, b)]
  | (j, v) :: m, a, b =>
    if a < j then (if b = 0 then (j, v) :: m else (a, b) :: (j, v) :: m)
    else if a = j then (if b = 0 then m else (a, b) :: m)
    else (j, v) :: Mem.set m a b

/-- n bytes from address a, based at 0. -/
def Mem.slice (m : Mem) (a n : Nat) : Mem :=
  (m.filter fun e => decide (a ≤ e.1) && decide (e.1 < a + n)).map fun e => (e.1 - a, e.2)

/-- Replaces the n bytes from address a by those of sub, which is based at 0. -/
def Mem.splice (m : Mem) (a n : Nat) (sub : Mem) : Mem :=
  m.filter (fun e => decide (e.1 < a)) ++
  ((sub.filter fun e => decide (e.1 < n)).map fun e => (e.1 + a, e.2)) ++
  m.filter (fun e => decide (a + n ≤ e.1))

/-- Zeroes the n bytes from address a. -/
def Mem.clear (m : Mem) (a n : Nat) : Mem := Mem.splice m a n []

/-- The n bytes from address a as a little-endian number (R2). -/
def Mem.rd (m : Mem) (a : Nat) : Nat → Nat
  | 0 => 0
  | n + 1 => (Mem.get m a).toNat + 256 * Mem.rd m (a + 1) n

/-- Writes the low n bytes of v from address a, little-endian (R2). -/
def Mem.wr (m : Mem) (a : Nat) : Nat → Nat → Mem
  | 0, _ => m
  | n + 1, v => Mem.wr (Mem.set m a (BitVec.ofNat 8 v)) (a + 1) n (v / 256)

/-- A dword. -/
def Mem.rd32 (m : Mem) (a : Nat) : W32 := BitVec.ofNat 32 (Mem.rd m a 4)

/-- A 64-bit value. -/
def Mem.rd64 (m : Mem) (a : Nat) : W64 := BitVec.ofNat 64 (Mem.rd m a 8)

/-- Writes a dword. -/
def Mem.wr32 (m : Mem) (a : Nat) (v : W32) : Mem := Mem.wr m a 4 v.toNat

/-- Writes a 64-bit value. -/
def Mem.wr64 (m : Mem) (a : Nat) (v : W64) : Mem := Mem.wr m a 8 v.toNat

/-- The bytes from address a for n, in order. -/
def Mem.bytes (m : Mem) (a : Nat) : Nat → List Byte
  | 0 => []
  | n + 1 => Mem.get m a :: Mem.bytes m (a + 1) n

/-- A list of bytes as a Mem from address a. -/
def Mem.ofBytes : Nat → List Byte → Mem
  | _, [] => []
  | a, b :: bs => if b = 0 then Mem.ofBytes (a + 1) bs else (a, b) :: Mem.ofBytes (a + 1) bs

/-- Bytes given by the outside, brought into canonical form and cut to length n. -/
def Mem.take (m : Mem) (n : Nat) : Mem :=
  m.foldr (fun e acc => if e.1 < n then Mem.set acc e.1 e.2 else acc) []

/-- One dword repeated over n bytes from address 0. -/
def Mem.pattern (p : W32) (n : Nat) : Mem :=
  if p = 0 then [] else
  Mem.ofBytes 0 ((List.range n).map fun i => BitVec.ofNat 8 (p.toNat >>> (8 * (i % 4))))

/-! ### Numbers -/

/-- Bits hi to lo of v. -/
def bitsN (v hi lo : Nat) : Nat := (v >>> lo) % 2 ^ (hi + 1 - lo)

/-- Bit i of v. -/
def bitN (v i : Nat) : Bool := v.testBit i

/-- 1 for true. -/
def b2n (b : Bool) : Nat := if b then 1 else 0

/-- v as a two's complement number of w bits. -/
def sgn (w v : Nat) : Int := if v % 2 ^ w < 2 ^ (w - 1) then (v % 2 ^ w : Int) else (v % 2 ^ w : Int) - 2 ^ w

/-- The low w bits of a two's complement number. -/
def unsgn (w : Nat) (i : Int) : Nat := (i % 2 ^ w).toNat

/-- Quotient rounded up. -/
def ceilDiv (a b : Nat) : Nat := (a + b - 1) / b

/-- Adds to a counter that saturates at its largest value. -/
def satAdd {w : Nat} (c : BitVec w) (n : Nat) : BitVec w :=
  if c.toNat + n < 2 ^ w then BitVec.ofNat w (c.toNat + n) else BitVec.allOnes w

/-- x held between lo and hi. -/
def clampN (lo hi x : Nat) : Nat := max lo (min hi x)

end Sys2Proof.Machine
end

