-- ==== Sys2Proof/Machine/Ops.lean ====
section
/-! DEFINITION. Named operations over the state: units by number, the slot map, time, host writes, interrupts, events,
completions, error records, entering FAULT, and resets. -/

namespace Sys2Proof.Machine

/-- What a command's meaning answers. -/
abbrev Out := Host.Outcome State Fault Refusal

/-- The command has its effect, unless it names a unit that the device does not have. -/
def onUnit (exists_ : Bool) (s : State) : Out :=
  if exists_ then .next s else .refused .noSuchUnit

/-! ### Units by number -/

/-- Logical block b. -/
def State.blk (s : State) (b : Nat) : Block := SMap.get {} s.blocks b

/-- Changes logical block b. -/
def State.updBlk (s : State) (b : Nat) (f : Block → Block) : State :=
  { s with blocks := SMap.upd {} s.blocks b f }

/-- Changes the sequencer of block b. -/
def State.updSeq (s : State) (b : Nat) (f : Seq → Seq) : State :=
  s.updBlk b fun k => { k with seq := f k.seq }

/-- Changes the thread-group cell of block b. -/
def State.updTg (s : State) (b : Nat) (f : Tg → Tg) : State :=
  s.updBlk b fun k => { k with tg := f k.tg }

/-- Matrix cell k of block b. -/
def State.mcAt (s : State) (b k : Nat) : Mc := SMap.get {} (s.blk b).mc k

/-- Changes matrix cell k of block b. -/
def State.updMc (s : State) (b k : Nat) (f : Mc → Mc) : State :=
  s.updBlk b fun B => { B with mc := SMap.upd {} B.mc k f }

/-- DMA channel c of block b. -/
def State.dmaAt (s : State) (b c : Nat) : Dma := SMap.get {} (s.blk b).dma c

/-- Changes DMA channel c of block b. -/
def State.updDma (s : State) (b c : Nat) (f : Dma → Dma) : State :=
  s.updBlk b fun B => { B with dma := SMap.upd {} B.dma c f }

/-- Region r. -/
def State.region (s : State) (r : Nat) : Region := SMap.get {} s.regions r

/-- Changes region r. -/
def State.updRegion (s : State) (r : Nat) (f : Region → Region) : State :=
  { s with regions := SMap.upd {} s.regions r f }

/-- Cache-die slice n. -/
def State.slice (s : State) (n : Nat) : Slice := SMap.get {} s.ccd.slices n

/-- Changes cache-die slice n. -/
def State.updSlice (s : State) (n : Nat) (f : Slice → Slice) : State :=
  { s with ccd := { s.ccd with slices := SMap.upd {} s.ccd.slices n f } }

/-- HBM stack n. -/
def State.stack (s : State) (n : Nat) : Stack := SMap.get {} s.hbmStacks n

/-- Changes HBM stack n. -/
def State.updStack (s : State) (n : Nat) (f : Stack → Stack) : State :=
  { s with hbmStacks := SMap.upd {} s.hbmStacks n f }

/-- Channel c of HBM stack n. -/
def State.chan (s : State) (n c : Nat) : Chan := SMap.get {} (s.stack n).chans c

/-- Changes channel c of HBM stack n. -/
def State.updChan (s : State) (n c : Nat) (f : Chan → Chan) : State :=
  s.updStack n fun k => { k with chans := SMap.upd {} k.chans c f }

/-- Melob port p. -/
def State.port (s : State) (p : Nat) : Port := SMap.get {} s.fab.ports p

/-- Changes Melob port p. -/
def State.updPort (s : State) (p : Nat) (f : Port → Port) : State :=
  { s with fab := { s.fab with ports := SMap.upd {} s.fab.ports p f } }

/-- Service tag t. -/
def State.tag (s : State) (t : Nat) : Tag := SMap.get {} s.fab.tags t

/-- Changes service tag t. -/
def State.updTag (s : State) (t : Nat) (f : Tag → Tag) : State :=
  { s with fab := { s.fab with tags := SMap.upd {} s.fab.tags t f } }

/-- Near-bank sequencer of stack n. -/
def State.nbStack (s : State) (n : Nat) : NbStack := SMap.get {} s.pim.seqs n

/-- Changes the near-bank sequencer of stack n. -/
def State.updNb (s : State) (n : Nat) (f : NbStack → NbStack) : State :=
  { s with pim := { s.pim with seqs := SMap.upd {} s.pim.seqs n f } }

/-- Submission ring q. -/
def State.sq (s : State) (q : Nat) : SqRing := SMap.get {} s.hif.sq q

/-- Changes submission ring q. -/
def State.updSq (s : State) (q : Nat) (f : SqRing → SqRing) : State :=
  { s with hif := { s.hif with sq := SMap.upd {} s.hif.sq q f } }

/-- Completion ring c. -/
def State.cq (s : State) (c : Nat) : CqRing := SMap.get {} s.hif.cq c

/-- Changes completion ring c. -/
def State.updCq (s : State) (c : Nat) (f : CqRing → CqRing) : State :=
  { s with hif := { s.hif with cq := SMap.upd {} s.hif.cq c f } }

/-- Slot domain of (region, slot). -/
def State.slotPwr (s : State) (r n : Nat) : SlotPwr := SMap.get {} s.pwr.slots (13 * r + n)

/-- Changes the slot domain of (region, slot). -/
def State.updSlotPwr (s : State) (r n : Nat) (f : SlotPwr → SlotPwr) : State :=
  { s with pwr := { s.pwr with slots := SMap.upd {} s.pwr.slots (13 * r + n) f } }

/-! ### Free values (log entry 5) -/

/-- Counts one free value as taken. -/
def State.tookFree (s : State) : State := { s with sch := { s.sch with fresh := s.sch.fresh + 1 } }

/-- The next free number. -/
def State.freeNat (s : State) : Nat := Config.freeNat s.sch.fresh

/-- The next free choice. -/
def State.freeBool (s : State) : Bool := Config.freeBool s.sch.fresh

/-- The next free dword. -/
def State.freeWord (s : State) : W32 := Config.freeWord s.sch.fresh

/-! ### SCH_CHECK_CAUSE -/

/-- Latches bit i of SCH_CHECK_CAUSE (R69), and notes that it was set in this tick (R5). -/
def State.causeBit (s : State) (i : Nat) : State :=
  let b := BitVec.ofNat 7 (2 ^ i)
  { s with sch := { s.sch with
      causes := s.sch.causes ||| b
      setNow := (if s.sch.setAt = s.tick then s.sch.setNow else 0) ||| b
      setAt := s.tick } }

/-- Software writes w to SCH_CHECK_CAUSE: 1 clears a bit, but not one that was set in the same cycle (R4, R5). One tick
stands for one cycle here (DESIGN CHOICE, log entry 63). -/
def State.causeClear (s : State) (w : BitVec 7) : State :=
  let kept := if s.sch.setAt = s.tick then s.sch.setNow else 0
  { s with sch := { s.sch with causes := s.sch.causes &&& ~~~ (w &&& ~~~ kept) } }

/-! ### Time and states -/

/-- The device's tick count: the domain count in a domain, else the local count (R39, R493). -/
def State.dom (s : State) : Nat := ((s.tick : Int) + s.sch.timeOff).toNat

/-- The local tick count, from the end of BOOT (R39, R493). -/
def State.localTick (s : State) : Nat := ((s.tick : Int) + s.sch.localOff).toNat

/-- The main side is powered and out of reset. -/
def State.mainOn (s : State) : Bool :=
  match s.dev with
  | .off | .standby => false
  | _ => true

/-- The code of HIF_STATE.state (Table 0.5). -/
def DevState.code : DevState → Nat
  | .off => 0 | .standby => 1 | .boot => 2 | .recovery => 3 | .ready => 4 | .joined => 5 | .running => 6
  | .drained => 7 | .fault => 8

/-- The device executes plies. -/
def State.running (s : State) : Bool := s.dev == .running

/-- Armed by PLY_RUN, with the first ply not started: counts as RUNNING for descriptor checks (R47, R364). -/
def State.armed (s : State) : Bool := s.dev == .joined && s.sch.arming.isSome

/-- Endgame is in progress: phases 1 to 4, in RUNNING or JOINED; an FA error has ended it (R465, R466). -/
def State.inEndgame (s : State) : Bool :=
  s.err.phase != 0 && s.err.phase != 5 && (s.dev == .joined || s.dev == .running)

/-! ### Who is served (R375, R376, R382) -/

/-- The requests made from here on are of a class and a master (Tables 14.1, 14.2). -/
def State.serveAs (s : State) (cls master : Nat) : State := { s with qos := { s.qos with who := some (cls, master) } }

/-- Scheduled traffic and journal restores: no master, counted as class 0 (R375). -/
def State.serveSched (s : State) : State := s.serveAs 0 100

/-- Scrubbers: no class and not counted. -/
def State.serveScrub (s : State) : State := { s with qos := { s.qos with who := none } }

/-- Bytes of an epoch at which master m is no longer served on resource r: a block's ceiling; others have none (R377). -/
def qosLimit (r m : Nat) : Option Nat :=
  if 96 ≤ m then none else if r = 0 then some 500000 else if r = 1 then some 250000 else none

/-- A count of n bytes has reached a limit. -/
def reached (limit : Option Nat) (n : Nat) : Bool :=
  match limit with
  | some l => decide (l ≤ n)
  | none => false

/-- Counts n bytes that resource r takes for the request being served: in the window by class, in the epoch by master
(R377, R382). What a bulk access takes beyond its block's ceiling stands over (DESIGN CHOICE, log entry 44). -/
def State.qosAdd (s : State) (r n : Nat) : State :=
  match s.qos.who with
  | none => s
  | some (c, m) =>
    { s with qos := { s.qos with
        counting := if s.qos.discard then s.qos.counting else SMap.upd 0 s.qos.counting (8 * r + c) (· + n)
        res := SMap.upd {} s.qos.res r fun q =>
          if reached (qosLimit r m) (SMap.get 0 q.bytes m) then { q with excess := SMap.upd 0 q.excess m (· + n) }
          else { q with bytes := SMap.upd 0 q.bytes m (· + n) } } }

/-! ### The slot map (R20-R28) -/

/-- Entry n of a slot_state field. -/
def slotEntry (m : BitVec 52) (n : Nat) : Nat := bitsN m.toNat (4 * n + 3) (4 * n)

/-- A slot_state field with entry n set to v. -/
def setSlotEntry (m : BitVec 52) (n v : Nat) : BitVec 52 :=
  BitVec.ofNat 52 (m.toNat - (slotEntry m n) <<< (4 * n) + v <<< (4 * n))

/-- The slot that holds a local number in region r. -/
def State.slotOfLocal (s : State) (r l : Nat) : Option Nat :=
  (List.range 13).find? fun n => slotEntry (s.region r).slotState n == l

/-- The physical place of a logical block. -/
def State.slotOf (s : State) (b : Nat) : Option (Nat × Nat) :=
  (s.slotOfLocal (b / 12) (b % 12)).map fun n => (b / 12, n)

/-- The logical block that (region, slot) holds. -/
def State.blockAt (s : State) (r n : Nat) : Option Nat :=
  let e := slotEntry (s.region r).slotState n
  if e < 12 then some (12 * r + e) else none

/-- The region's spare slot, if it has one (R26). -/
def State.spareOf (s : State) (r : Nat) : Option Nat := s.slotOfLocal r 0xC

/-- Writes a region's map; map_gen counts every change (R27). -/
def State.setMap (s : State) (r : Nat) (m : BitVec 52) : State :=
  s.updRegion r fun g =>
    if m = g.slotState then g else { g with slotState := m, mapGen := g.mapGen + 1 }

/-! ### Host writes and interrupts -/

/-- Sends a write to host memory. -/
def State.hostWrite (s : State) (w : HostWrite) : State :=
  { s with hif := { s.hif with hostOut := w :: s.hif.hostOut } }

/-- Raises an MSI-X vector: a message, or its pending bit while it is masked (R360). -/
def State.raiseVec (s : State) (v : Nat) : State :=
  let m := SMap.get {} s.hif.msix v
  if m.mask then
    { s with hif := { s.hif with msix := SMap.set {} s.hif.msix v { m with pending := true } } }
  else { s with hif := { s.hif with messages := v :: s.hif.messages } }

/-- Logs a host-interface access error (Table 13.11). -/
def State.accErr (s : State) (kind off : Nat) : State :=
  { s with hif := { s.hif with
      accCount := satAdd s.hif.accCount 1, accOffset := BitVec.ofNat 32 off, accKind := BitVec.ofNat 4 kind } }

/-- The next index on a ring of 2 ^ size entries (R355). -/
def ringNext (size i : Nat) : Nat := (i + 1) % 2 ^ size

/-! ### Events (R361-R363) -/

/-- The 32 bytes of an event record (Table 13.7a). -/
def EventRec.bytes (e : EventRec) (phase : Bool) : Mem :=
  let m := Mem.wr [] 0 4 (e.code + 0x100 * b2n e.ack + 0x80000000 * b2n phase)
  let m := Mem.wr32 m 4 e.seq
  let m := Mem.wr64 m 8 e.ply
  let m := Mem.wr64 m 16 e.tick
  Mem.wr64 m 24 e.data

/-- The event ring can take a record. -/
def EqRing.room (r : EqRing) : Bool := r.en && ringNext r.size r.tail != r.head

/-- Writes one record into the event ring and raises its vector (R360, R361). -/
def State.eqWrite (s : State) (e : EventRec) : State :=
  let r := s.hif.eq
  let s := s.hostWrite { addr := r.base.toNat + 32 * r.tail, len := 32, bytes := e.bytes r.phase, ep := [] }
  let t := ringNext r.size r.tail
  let s := { s with hif := { s.hif with eq := { r with tail := t, phase := if t = 0 then !r.phase else r.phase } } }
  if r.ien then s.raiseVec r.vec else s

/-- The next event record, with its place in the count of events posted. -/
def State.mkEvent (s : State) (code data : Nat) : EventRec where
  code := code
  ack := code == 1 || code == 3
  seq := s.hif.eventSeq
  ply := s.sch.committed
  tick := BitVec.ofNat 64 s.dom
  data := BitVec.ofNat 64 data

/-- Counts an event as posted. -/
def State.countEvent (s : State) : State := { s with hif := { s.hif with eventSeq := s.hif.eventSeq + 1 } }

/-- Hands a record to the event ring: written, waiting (at most 64), or dropped and counted (R361). -/
def State.eqPush (s : State) (e : EventRec) : State :=
  let r := s.hif.eq
  if r.waiting.isEmpty && r.room then s.eqWrite e
  else if r.waiting.length < 64 then
    { s with hif := { s.hif with eq := { r with waiting := r.waiting ++ [e] } } }
  else { s with hif := { s.hif with
      eq := { r with lost := min 0x7FFF (r.lost + 1), lostUnreported := r.lostUnreported + 1 } } }

/-- Posts an event while the host interface is powered; an event with ack set sets its bit of HIF_EVT_PEND (R363). -/
def State.postEvent (s : State) (code data : Nat) : State :=
  if !s.mainOn then s else
  let e := s.mkEvent code data
  let s := s.countEvent.eqPush e
  if code = 1 then { s with hif := { s.hif with pendTimeLost := true } }
  else if code = 3 then { s with hif := { s.hif with pendUnrecoverable := true } }
  else s

/-- Writes waiting records while there is room; event 0x09 follows the records that waited (R361). -/
def State.eqDrain : Nat → State → State
  | 0, s => s
  | n + 1, s =>
    if !s.hif.eq.room then s else
    match s.hif.eq.waiting with
    | [] => s
    | e :: rest =>
      let s := { s with hif := { s.hif with eq := { s.hif.eq with waiting := rest } } }
      let s := s.eqWrite e
      let s :=
        if s.hif.eq.lostUnreported = 0 then s else
        let l := s.mkEvent 9 s.hif.eq.lostUnreported
        let s := s.countEvent
        { s with hif := { s.hif with
            eq := { s.hif.eq with waiting := s.hif.eq.waiting ++ [l], lostUnreported := 0 } } }
      State.eqDrain n s

/-! ### Completions (R358-R360) -/

/-- The 16 bytes of a completion entry (Table 13.6). -/
def CqEntry.bytes (e : CqEntry) (sqHead : Nat) (phase : Bool) : Mem :=
  let m := Mem.wr32 [] 0 e.cookie
  let m := Mem.wr m 4 4 (sqHead + e.sq <<< 16)
  let m := Mem.wr m 8 4 (e.status + e.reason <<< 8 + e.qualifier <<< 16 + e.opcode <<< 24)
  Mem.wr m 12 4 (e.value % 2 ^ 31 + 0x80000000 * b2n phase)

/-- The completion ring can take an entry. -/
def CqRing.room (r : CqRing) : Bool := ringNext r.size r.tail != r.head

/-- Writes one entry into completion ring c, and raises its vector when cnt entries are unsignalled (R360). -/
def State.cqWrite (s : State) (c : Nat) (e : CqEntry) : State :=
  let r := s.cq c
  let s := s.hostWrite
    { addr := r.base.toNat + 16 * r.tail, len := 16, bytes := e.bytes (s.sq e.sq).head r.phase, ep := [] }
  let t := ringNext r.size r.tail
  let n := r.unsignalled + 1
  let fire := r.ien && decide (r.cnt ≤ n)
  let s := s.updCq c fun r => { r with
    tail := t
    phase := if t = 0 then !r.phase else r.phase
    unsignalled := if fire then 0 else n
    firstAt := if r.unsignalled = 0 then s.tick else r.firstAt }
  if fire then s.raiseVec r.vec else s

/-- Raises ring c's vector when ien is 1 and cnt entries have been written since its last interrupt: asked whenever its
configuration is written (R360). -/
def State.cqSignal (s : State) (c : Nat) : State :=
  let r := s.cq c
  if r.ien && r.unsignalled != 0 && decide (r.cnt ≤ r.unsignalled) then
    (s.updCq c fun r => { r with unsignalled := 0 }).raiseVec r.vec
  else s

/-- Hands an entry to completion ring c: written, waiting in order, or discarded and logged with kind 6 (R358). -/
def State.cqPush (s : State) (c : Nat) (e : CqEntry) : State :=
  let r := s.cq c
  if !r.en then s.accErr 6 0
  else if r.waiting.isEmpty && r.room then s.cqWrite c e
  else s.updCq c fun r => { r with waiting := r.waiting ++ [e] }

/-- Writes waiting entries of ring c while there is room. -/
def State.cqDrain (c : Nat) : Nat → State → State
  | 0, s => s
  | n + 1, s =>
    if !((s.cq c).en && (s.cq c).room) then s else
    match (s.cq c).waiting with
    | [] => s
    | e :: rest => State.cqDrain c n ((s.updCq c fun r => { r with waiting := rest }).cqWrite c e)

/-- Dword i of a descriptor. -/
def dwN (dws : List W32) (i : Nat) : Nat := (dws.getD i 0).toNat

/-- Dwords i and i + 1 of a descriptor as one number. -/
def dwQ (dws : List W32) (i : Nat) : Nat := dwN dws i + 2 ^ 32 * dwN dws (i + 1)

/-- Completes a started descriptor: it leaves the device and its entry is posted, unless nocomp is set and it
succeeded (R356, R358). -/
def State.complete (s : State) (a : Active) (status reason qualifier value : Nat) : State :=
  let s := { s with hif := { s.hif with active := s.hif.active.filter fun x => x.uid != a.uid } }
  if bitN (dwN a.dws 0) 12 && status == 0 then s else
  s.cqPush (bitsN (dwN a.dws 0) 11 8)
    { cookie := a.dws.getD 1 0, sq := a.sq, status := status, reason := reason, qualifier := qualifier,
      opcode := bitsN (dwN a.dws 0) 7 0, value := value }

/-- The started descriptor of number uid. -/
def State.desc (s : State) (uid : Nat) : Option Active := s.hif.active.find? fun a => a.uid == uid

/-- Completes the descriptor of number uid, if it is still there. -/
def State.completeUid (s : State) (uid status reason qualifier value : Nat) : State :=
  match s.desc uid with
  | some a => s.complete a status reason qualifier value
  | none => s

/-- Marks a started descriptor that has not finished as finished: its completion entry is due. -/
def State.finish (s : State) (uid status reason qualifier value : Nat) : State :=
  { s with hif := { s.hif with active := s.hif.active.map fun a =>
      if a.uid = uid && a.st == .running then { a with st := .done status reason qualifier value } else a } }

/-! ### Error records (R453-R457) -/

/-- The window of the record limit: the attempt in flight in RUNNING, else the millisecond of the device's count, domain
time in JOINED and the local count in every other state (R457). -/
def State.limitWindow (s : State) : Nat :=
  if s.running then 2 * s.sch.start + 1
  else 2 * ((if s.dev == .joined then s.dom else s.localTick) / 100000)

/-- Two records have one class, code and location (R457). -/
def ErrRec.same (x y : ErrRec) : Bool :=
  x.cls == y.cls && x.code == y.code && x.unit == y.unit && x.level == y.level && x.lblock == y.lblock &&
  (x.phys.map fun p => (p.1, p.2.1)) == (y.phys.map fun p => (p.1, p.2.1)) && x.loc == y.loc && x.addr == y.addr

/-- What a poster gives of a record. -/
structure RecArg where
  cls : Nat
  level : Nat
  unit : Nat
  code : Nat
  lblock : Option Nat := none
  slot : Option (Nat × Nat) := none
  loc : Nat := 0
  addr : Nat := 0
  data0 : Nat := 0
  data1 : Nat := 0
  deriving DecidableEq, Repr

/-- The record a poster's fields make now (Table 18.3): a logical block's record also names its slot. -/
def State.mkRec (s : State) (a : RecArg) : ErrRec where
  cls := a.cls
  level := a.level
  unit := a.unit
  code := a.code
  index := s.err.next
  ply := if s.running then s.sch.ply else s.sch.committed
  tick := BitVec.ofNat 64 s.dom
  attempt := s.sch.attempt
  state := s.dev.code
  lblock := a.lblock
  phys := ((a.slot.orElse fun _ => a.lblock.bind s.slotOf)).map fun p =>
    (p.1, p.2, (s.region p.1).mapGen.toNat)
  loc := a.loc
  addr := a.addr
  data0 := a.data0
  data1 := a.data1

/-- Counts an error of a class (ERR_CLASS_CNT). -/
def Err.count (e : Err) (cls : Nat) : Err :=
  match cls with
  | 1 => { e with ce := satAdd e.ce 1 }
  | 2 => { e with de := satAdd e.de 1 }
  | 3 => { e with uc := satAdd e.uc 1 }
  | _ => { e with fa := satAdd e.fa 1 }

/-- The management domain's own store keeps the latest 256 UC and FA records (R456). -/
def State.mgmtStore (s : State) (r : ErrRec) : State :=
  if r.cls < 3 then s
  else { s with mgmt := { s.mgmt with store := (r :: s.mgmt.store).take 256 } }

/-- Posts a record only in the management domain's store: the main side cannot write the log (R456). -/
def State.postMgmtOnly (s : State) (a : RecArg) : State := s.mgmtStore (s.mkRec a)

/-- Starts a new limit window when the last one has ended. -/
def State.rollWindow (s : State) : State :=
  if s.err.msWindow = s.limitWindow then s
  else { s with err := { s.err with msWindow := s.limitWindow, recent := [], portEvents := [] } }

/-- Posts an error record: counted, limited for classes CE and DE, logged, kept by the management domain, and
reported by event 0x06 (R362, R456, R457). -/
def State.post (s : State) (a : RecArg) : State :=
  let r := s.mkRec a
  if !s.mainOn then s.mgmtStore r else
  let s := s.rollWindow
  let recent := s.err.recent
  let s := { s with err := s.err.count a.cls }
  if a.cls < 3 && decide (s.err.ceLimit ≤ (recent.filter (ErrRec.same r)).length) then s else
  let s := { s with err := { s.err with
    log := (r :: s.err.log).take 16384
    next := s.err.next + 1
    recent := if a.cls < 3 then r :: recent else recent } }
  let s := s.mgmtStore r
  if a.cls = 1 && !s.hif.ceEvents then s
  else s.postEvent 6 (r.index.toNat + a.cls <<< 32)

/-- Posts a record whose data0 is a syndrome of so many check bits: the spec does not give the SECDED codes, so it is a
free value (log entry 85). -/
def State.postSyndrome (s : State) (bits : Nat) (a : RecArg) : State :=
  (s.post { a with data0 := s.freeNat % 2 ^ bits }).tookFree

/-- The 64 bytes of a record (Table 18.3); crc is filled in by the caller. -/
def ErrRec.bytes0 (r : ErrRec) : Mem :=
  let m := Mem.wr [] 0 4 (r.cls + r.level <<< 4 + r.unit <<< 8 + r.code <<< 16)
  let m := Mem.wr32 m 4 r.index
  let m := Mem.wr64 m 8 r.ply
  let m := Mem.wr64 m 16 r.tick
  let ph := match r.phys with
    | some (g, n, gen) => 1 <<< 6 + g <<< 15 + n <<< 18 + gen <<< 22
    | none => 0
  let m := Mem.wr m 0x18 4 (r.attempt + r.state <<< 2 + ph + (r.lblock.getD 0x7F) <<< 8)
  let m := Mem.wr m 0x1C 4 r.loc
  let m := Mem.wr m 0x20 8 r.addr
  let m := Mem.wr m 0x28 8 r.data0
  Mem.wr m 0x30 8 r.data1

/-! ### State changes -/

/-- Moves to a device state and posts event 0x07 (Table 13.7b). -/
def State.enter (s : State) (d : DevState) : State :=
  let old := s.dev
  if d = old then s else
  let s := { s with dev := d }
  s.postEvent 7 (d.code + old.code <<< 4)

/-- Every block slot and region uncore domain is powered off (R446). -/
def State.powerOffRegions (s : State) : State :=
  { s with pwr := { s.pwr with
      regionsOff := true
      slots := (List.range 104).foldl (fun m i => SMap.upd {} m i fun p => { p with poweredOff := true }) s.pwr.slots } }

/-- The ply unit issues nothing more: no ply, arming, join, flood, stop or endgame of its own is in progress (R467). -/
def Sch.stopped (c : Sch) : Sch := { c with
  live := false, join := none, arming := none, firstStart := none, flood := none, laterArms := [], stopLatch := none
  restartAt := none, persistent := none, exclDue := 0, decider := none, drainCause := none, tickOut := false }

/-- No takeover and no mirror is in progress, and nothing is relayed (R343, R467). -/
def Standby.stopped (b : Standby) : Standby := { b with
  relaying := false, tracking := false, requests := [], granted := none, prepared := false, verdictAt := none, gotGrant := false
  mirrorOpen := 0, mirrorPhase := 0 }

/-- Near-bank commands end without a completion (R371, R467). -/
def Pim.stopped (p : Pim) : Pim := { p with
  seqs := SMap.mapVals {} p.seqs fun k => { k with devQ := [], hostQ := [], run := none }, heldGran := [] }

/-- The engine holds no step (R467). -/
def Ce.stopped (c : Ce) : Ce := { c with stepQ := [], running := [] }

/-- Enters FAULT: descriptors stop without completions, and the set-up writes that one held are ignored and logged; the main
side issues nothing, regions are powered off, and the registers outside HIF hold their values (R371, R446, R467, R487,
R489). -/
def State.enterFault (s : State) : State :=
  if s.dev = .fault then s else
  let s := { s with hif := { (s.hif.heldWrites.foldl (fun (s : State) (w : Nat × Nat × W64) => s.accErr 2 w.1) s).hif with
    active := [], heldCopies := [], waitingD2h := [], heldWrites := [] } }
  let s := { s with frozen := some {
    dom := s.dom, supply := s.supply, pwr := s.pwr, sec := s.sec, flash := s.flash, image := s.image, sch := s.sch, standby := s.standby
    blocks := s.blocks, regions := s.regions, ccd := s.ccd, hbmStacks := s.hbmStacks, pim := s.pim, ce := s.ce
    fab := s.fab, qos := s.qos, thm := s.thm, err := s.err } }
  let s := { s with sch := s.sch.stopped, standby := s.standby.stopped, pim := s.pim.stopped, ce := s.ce.stopped }
  s.powerOffRegions.enter .fault

/-- Raises an FA error: its record, then FAULT from any main-side state (R9, R467). -/
def State.raiseFA (s : State) (a : RecArg) : State :=
  if !s.mainOn then s.postMgmtOnly { a with cls := 4 }
  else (s.post { a with cls := 4 }).enterFault

/-! ### Resets -/

/-- The vectors after a reset: masked, not pending, address and data kept (R351, R491). -/
def msixReset (m : SMap MsixVec) : SMap MsixVec :=
  m.foldl (fun acc e => SMap.set {} acc e.1 { e.2 with mask := true, pending := false }) []

/-- A host interface reset (R351): rings and HIF registers at reset but HIF_STATE, HIF_LINK and HIF_EVT_PEND;
descriptors stop without completions; exchange copies not yet applied are discarded; a latched PLY_STOP stays
latched (Table 13.10). -/
def State.hifReset (s : State) : State :=
  let h := s.hif
  { s with hif := {
      linkRate := h.linkRate, linkWidth := h.linkWidth, linkFlit := h.linkFlit
      pendTimeLost := h.pendTimeLost, pendUnrecoverable := h.pendUnrecoverable
      eventSeq := h.eventSeq, msix := msixReset h.msix, messages := h.messages, hostOut := h.hostOut
      bar2Out := h.bar2Out, bar2Next := h.bar2Next, nextUid := h.nextUid
      heldCopies := h.heldCopies.filter fun c => c.applied.isSome } }

/-- The state a main-side reset leaves (R491): every register at its Reset value; flash, supplies, the management
domain and the MSI-X addresses are kept; BOOT starts at step 0x01. -/
def State.mainReset (s : State) : State :=
  { State.reset with
      pending := s.pending
      tick := s.tick
      supply := s.supply
      flash := s.flash
      mgmt := { s.mgmt with salvage := none, resetAfterPage := false }
      sec := { bootAt := s.tick, arrayOffAt := s.tick, spdmCount := s.sec.spdmCount }
      hif := {
        msix := msixReset s.hif.msix, messages := s.hif.messages, hostOut := s.hif.hostOut
        bar2Out := s.hif.bar2Out, bar2Next := s.hif.bar2Next, nextUid := s.hif.nextUid
        linkRate := s.hif.linkRate, linkWidth := s.hif.linkWidth, linkFlit := s.hif.linkFlit }
      qos := { discard := true }
      ccd := { stuck := s.ccd.stuck }
      sch := { fresh := s.sch.fresh, timeOff := -(s.tick : Int), localOff := -(s.tick : Int) } }

/-- A main-side reset asked for now: held while a firmware store write or endgame phases 1-4 run (R393, R466). -/
def State.requestReset (s : State) : State :=
  if s.sec.staging.isSome || s.inEndgame then { s with sec := { s.sec with heldReset := true } }
  else s.mainReset

/-- An answer of the management port, or of the SPDM responder over DOE: one of the port raises the in-band interrupt
(R472). -/
def MgmtResp.onPort (r : MgmtResp) : Bool :=
  match r with
  | .spdm true _ => false
  | _ => true

/-- Sends an answer. -/
def State.answer (s : State) (r : MgmtResp) : State :=
  { s with mgmt := { s.mgmt with resp := some r, answers := s.mgmt.answers + 1, ibi := s.mgmt.ibi || r.onPort } }

/-- The main side is held in reset without its 48 V side: nothing is saved, and a store write stops and leaves no valid
image; one of the management port reports that as its apply result (R393, R412). In STANDBY that write runs on the auxiliary
side alone, and goes on (R481). -/
def State.mainOff (s : State) : State :=
  let m := s.mainReset
  let stops := s.sec.staging.isSome && s.dev != .standby
  let m := if stops && (s.sec.staging.bind Prod.snd).isNone then m.answer (.pldmApply 0x87) else m
  { m with
      dev := .standby
      supply := { s.supply with v48 := false, convEnabled := false, bcGood := 0 }
      sec := { m.sec with staging := if s.dev == .standby then s.sec.staging else none }
      flash := if stops then { s.flash with store := none } else s.flash
      hif := { msix := [], messages := s.hif.messages, hostOut := s.hif.hostOut, bar2Out := s.hif.bar2Out,
               bar2Next := s.hif.bar2Next, nextUid := s.hif.nextUid } }

end Sys2Proof.Machine
end

