-- ==== Sys2Proof/Machine/Qos.lean ====
section
/-! DEFINITION. Bandwidth classes and arbitration (chapter 14): guarantees, tiers, class rounds, ties, counting
windows. -/

namespace Sys2Proof.Machine

/-- Reset guarantee of master m in group g (Table 14.4). -/
def minReset (g m : Nat) : Nat :=
  if m < 96 then (if g = 2 then 8 else 10)
  else if g = 2 then 64
  else if m = 96 then 16 else if m = 97 then 8 else if m = 98 then 24 else 16

/-- Guarantee of master m in group g. -/
def Qos.min (q : Qos) (g m : Nat) : Nat :=
  match SMap.get 0 q.mins (128 * g + m) with
  | 0 => minReset g m
  | v + 1 => v

/-- Weight of class c. -/
def Qos.weight (q : Qos) (c : Nat) : Nat := bitsN q.weights.toNat (8 * c + 7) (8 * c)

/-- What is held for number r: the byte counts of a resource (0-10), or the pointers and round of an arbiter. -/
def Qos.resAt (q : Qos) (r : Nat) : QosRes := SMap.get {} q.res r

/-- Bytes of master m on resource r in the epoch. -/
def Qos.used (q : Qos) (r m : Nat) : Nat := SMap.get 0 (q.resAt r).bytes m

/-- The count of master m on resource r is below its guarantee (R377): QOS_MIN units of 1/1024 of Table 14.3. -/
def Qos.guaranteed (q : Qos) (r m : Nat) : Bool :=
  if r = 0 then decide (q.used r m < q.min 0 m * 46875)
  else if r = 1 then decide (2 * q.used r m < q.min 1 m * 46875)
  else if r < 10 then decide (q.used r m < q.min 2 m * 3200)
  else false

/-- A block at its ceiling is not served until the next epoch (R377). -/
def Qos.ceiling (q : Qos) (r m : Nat) : Bool :=
  reached (qosLimit r m) (q.used r m)

/-- The first request in cyclic order of master number from pointer p; one master's requests stay in order. Requests
are (index, master, class). -/
def rrPick (p : Nat) (rs : List (Nat × Nat × Nat)) : Option (Nat × Nat × Nat) :=
  let key (m : Nat) : Nat := if p ≤ m then m - p else m + 128 - p
  match rs with
  | [] => none
  | x :: rest => some (rest.foldl (fun b y => if key y.2.1 < key b.2.1 then y else b) x)

/-- The class that takes the grant in the shared tier, and the round state that this leaves (R379): the holder while
it may keep the grant, else the lowest class with allowance left, else a new round; weight 0 comes last. -/
def Qos.classPick (q : Qos) (k : QosRes) (cs : List Nat) : Option (Nat × QosRes) :=
  let can (k : QosRes) (c : Nat) : Bool := cs.contains c && decide (SMap.get 0 k.spent c < 256 * q.weight c)
  let first (k : QosRes) : Option Nat :=
    match k.holder with
    | some h => if can k h then some h else (List.range 8).find? (can k)
    | none => (List.range 8).find? (can k)
  match first k with
  | some c => some (c, { k with holder := some c })
  | none =>
    let k := { k with spent := [], holder := none }
    match first k with
    | some c => some (c, { k with holder := some c })
    | none => ((List.range 8).find? fun c => cs.contains c).map fun c => (c, k)

/-- Slice of line L (R207). -/
def lineSlice (L : Nat) : Nat := (L ^^^ (L >>> 13) ^^^ (L >>> 26)) % 8

/-- Set of line L within its slice (R207). -/
def lineSet (L : Nat) : Nat := (L >>> 3) % 0x2000

/-- Number of the arbiter of a slice bank for reads or writes (Table 14.5). -/
def bankArb (write : Bool) (L : Nat) : Nat :=
  64 + ((if write then 8 else 0) + lineSlice L) * 32 + lineSet L % 32

/-- Number of the arbiter of an HBM channel's queue (Table 14.5). -/
def chanArb (stk ch : Nat) : Nat := 1024 + 32 * stk + ch

/-- Arbiter a serves one of the waiting requests (index, master, class) on resource r by steps 3 and 4 of R378: the
index, and the state with the arbiter's pointers moved on; none when no request is eligible. size gives, by index, what
is charged to the class round. -/
def State.qosPick (s : State) (r a : Nat) (size : Nat → Nat) (rs : List (Nat × Nat × Nat)) : Option (Nat × State) :=
  let q := s.qos
  let rs := rs.filter fun x => !q.ceiling r x.2.1
  let k := q.resAt a
  let upd (k : QosRes) : State := { s with qos := { q with res := SMap.set {} q.res a k } }
  match rrPick k.rrGuar (rs.filter fun x => q.guaranteed r x.2.1) with
  | some x => some (x.1, upd { k with rrGuar := x.2.1 + 1 })
  | none =>
    match q.classPick k (rs.map fun x => x.2.2) with
    | none => none
    | some (c, k) =>
      match rrPick (SMap.get 0 k.rrClass c) (rs.filter fun x => x.2.2 == c) with
      | none => none
      | some x => some (x.1, upd { k with
          rrClass := SMap.set 0 k.rrClass c (x.2.1 + 1)
          spent := SMap.upd 0 k.spent c (· + size x.1) })

/-- An arbiter a of one pointer grants its requester i: the pointer moves past it (R381). -/
def State.tieGrant (s : State) (a i : Nat) : State :=
  { s with qos := { s.qos with res := SMap.upd {} s.qos.res a fun k => { k with rrGuar := i + 1 } } }

/-- Number of the arbiter of the queues of block b into its vertical link: matrix cells 0 and 1, thread-group cell, DMA
channels 0 to 3 (Table 14.5). -/
def linkArb (b : Nat) : Nat := 2048 + b

/-- Number of the arbiter of region r's crossbar into its home slice (Table 14.5). -/
def xbarArb (r : Nat) : Nat := 2304 + r

/-- Number of the arbiter of insertions at slice k's ring stop (Table 14.5). -/
def ringArb (k : Nat) : Nat := 2320 + k

/-- A request of unit u of block b passes the block's vertical link. -/
def State.linkGrant (s : State) (b u : Nat) : State := s.tieGrant (linkArb b) u

/-- A request of the block being served enters the home slice of its region, and crosses the ring when line L lies in
another slice. -/
def State.routeGrant (s : State) (L : Nat) : State :=
  match s.qos.who with
  | none => s
  | some (_, m) =>
    if 96 ≤ m then s else
    let s := s.tieGrant (xbarArb (m / 12)) (m % 12)
    if lineSlice L = m / 12 then s else s.tieGrant (ringArb (lineSlice L)) (m / 12)

/-- Counts n bytes of a line of a bulk access ahead of it, as long as a block's ceiling is not reached. -/
def State.qosTry (s : State) (r n : Nat) : State :=
  match s.qos.who with
  | none => s
  | some (_, m) =>
    if reached (qosLimit r m) (s.qos.used r m + n) then s else
    { s with qos := { s.qos with
        res := SMap.upd {} s.qos.res r fun q => { q with bytes := SMap.upd 0 q.bytes m (· + n) } } }

/-- A channel's queue grants an access of n bytes that is made with nothing before it (R378, R381): scheduled traffic and
class-0 reads move no pointer. -/
def State.chanGrant (s : State) (write : Bool) (stk ch n : Nat) : State :=
  match s.qos.who with
  | none => s
  | some (c, m) =>
    if 100 ≤ m || c == 0 && !write then s
    else ((s.qosPick (2 + stk) (chanArb stk ch) (fun _ => n) [(0, m, c)]).map Prod.snd).getD s

/-- Pointers, rounds and allowances return to their first requester, that of the descriptor starts too (R381); byte
counts stay. -/
def State.qosTies (s : State) : State :=
  { s with
    qos := { s.qos with
      res := (s.qos.res.map fun e => (e.1, ({ bytes := e.2.bytes, excess := e.2.excess } : QosRes))).filter fun e => e.2 != {} }
    hif := { s.hif with startPtr := 0 } }

/-- The tick that epochs and windows follow: the domain tick in JOINED and RUNNING, else the local tick. -/
def State.qosTick (s : State) : Nat := if s.dev == .joined || s.dev == .running then s.dom else s.localTick

/-- The counts of resource r when an epoch starts: zero, or what stands over of the last epochs, up to the ceiling. -/
def QosRes.restart (k : QosRes) (r : Nat) : QosRes :=
  { k with
    bytes := k.excess.map fun e => (e.1, min e.2 ((qosLimit r e.1).getD e.2))
    excess := (k.excess.map fun e => (e.1, e.2 - (qosLimit r e.1).getD e.2)).filter fun e => e.2 != 0 }

/-- An epoch starts at each tick that is a multiple of 100: every master's count restarts (R377). -/
def execQosEpoch (s : State) : Out :=
  .next (
    if !s.mainOn || s.dev == .fault || s.qosTick % 100 ≠ 0 || s.qos.epochAt == some s.tick then s else
    { s with qos := { s.qos with
        epochAt := some s.tick
        res := (s.qos.res.map fun e => (e.1, e.2.restart e.1)).filter fun e => e.2 != {} } })

/-- A window ends at each tick that is a multiple of its length: the 88 counters move together, or, after a discard,
counting starts (R382, R383). -/
def execQosWindowEnd (s : State) : Out :=
  .next (
    if !s.mainOn || s.dev == .fault || s.qosTick % (100 * s.qos.win) ≠ 0 || s.qos.winAt == some s.tick then s else
    if s.qos.discard then
      { s with qos := { s.qos with discard := false, counting := [], winSeq := 0, winAt := some s.tick } }
    else
      { s with qos := { s.qos with
          snapshot := s.qos.counting, counting := [], winSeq := s.qos.winSeq + 1, winAt := some s.tick } })

end Sys2Proof.Machine
end

