-- ==== Sys2Proof/Machine/Claims.lean ====
section
/-! DEFINITION. Where lines lie in the stacks (R243, R244), what a near-bank command claims and opens (R271, R284), and the
waits that a channel imposes (R260, R262, R284). -/

namespace Sys2Proof.Machine

/-! ### Placement -/

/-- Where a line lies in the stacks (R243). -/
structure Place where
  stk : Nat
  ch : Nat
  m : Nat
  b : Nat
  row : Nat
  half : Nat
  deriving DecidableEq, Repr

/-- The place of line L (R243). -/
def place (L : Nat) : Place :=
  let m := L >>> 8
  let g := (L ^^^ (L >>> 9) ^^^ (L >>> 17)) % 256
  { stk := g >>> 5, ch := g % 32, m := m, b := (m >>> 1) % 32, row := m >>> 6, half := m % 2 }

/-- The line at a place (R244). -/
def lineAt (stk ch m : Nat) : Nat :=
  (m <<< 8) ||| (((stk * 32 + ch) ^^^ (m >>> 1) ^^^ (m >>> 9)) % 256)

/-- The line's number in the HBM store. -/
def Place.store (p : Place) : Nat := (2621440 * p.stk + p.m) * 32 + p.ch

/-- Granule k of the stack is open (R245). -/
def Stack.isOpen (k : Stack) (m : Nat) : Bool := bitN k.openGran.toNat (m >>> 15)

/-! ### Claims of near-bank commands -/

/-- A micro-op's fields (Table 10.2). -/
structure MicroOp where
  op : Nat
  dst : Nat
  a : Nat
  b : Nat
  res : Nat
  imm : Nat
  deriving DecidableEq, Repr

/-- Reads the fields of a micro-op word. -/
def microOp (w : W32) : MicroOp :=
  let n := w.toNat
  { op := bitsN n 3 0, dst := bitsN n 6 4, a := bitsN n 9 7, b := bitsN n 12 10, res := bitsN n 15 13,
    imm := bitsN n 31 16 }

/-- ADD and MUL take two sources. -/
def MicroOp.two (u : MicroOp) : Bool := u.op == 2 || u.op == 3

/-- Operand codes a micro-op names. -/
def MicroOp.codes (u : MicroOp) : List Nat := u.dst :: u.a :: if u.two then [u.b] else []

/-- The micro-ops of a command. -/
def NbCmd.ops (c : NbCmd) : List MicroOp := c.prog.map microOp

/-- Some micro-op names the bank of operand code k (4 even, 5 odd). -/
def NbCmd.names (c : NbCmd) (k : Nat) : Bool := c.ops.any fun u => u.codes.contains k

/-- Row of step j in the bank of parity p. -/
def NbCmd.row (c : NbCmd) (p j : Nat) : Nat :=
  if p = 0 then c.rowE + j * c.strideE else c.rowO + j * c.strideO

/-- The claimed rows by parity and step, of the banks that some micro-op names (R271). -/
def NbCmd.rows (c : NbCmd) : List (Nat × Nat) :=
  [0, 1].flatMap fun p => if c.names (4 + p) then (List.range c.steps).map fun j => (p, c.row p j) else []

/-- Line L lies in a claimed row of the command (R271). -/
def NbCmd.claims (c : NbCmd) (stk L : Nat) : Bool :=
  let p := place L
  p.stk == stk && decide (c.dieLo ≤ p.b / 2) && decide (p.b / 2 ≤ c.dieHi) && decide (c.pairLo ≤ p.ch) &&
  decide (p.ch ≤ c.pairHi) && c.rows.any fun r => r.1 == p.b % 2 && r.2 == p.row

/-- Line L is claimed by a running command (R284). -/
def State.claimed (s : State) (L : Nat) : Bool :=
  match (s.nbStack (place L).stk).run with
  | some r => r.cmd.claims (place L).stk L
  | none => false

/-! ### Waits of a channel -/

/-- The running near-bank command of a stack opens bank b of channel ch (R271). -/
def State.nbOpens (s : State) (stk ch b : Nat) : Option NbRun :=
  match (s.nbStack stk).run with
  | some r =>
    if r.cmd.pairLo ≤ ch && ch ≤ r.cmd.pairHi && r.cmd.dieLo ≤ b / 2 && b / 2 ≤ r.cmd.dieHi && r.cmd.names (4 + b % 2)
    then some r else none
  | none => none

/-- Requests to a bank wait: for the end of its remap window, or for the next service window of a near-bank command that
has opened it (R262, R284). -/
def State.bankHeld (s : State) (stk ch b : Nat) : Bool :=
  (match (s.chan stk ch).window with | some w => w.bank == b | none => false) ||
  (match s.nbOpens stk ch b with
   | some r => (match r.phase with | .segment _ => true | .refresh => true | _ => false)
   | none => false)

/-- A queued request that must wait. -/
def State.hbmHeld (s : State) (r : HReq) : Bool :=
  let p := place r.line
  s.claimed r.line || s.bankHeld p.stk p.ch p.b

/-- The requests of a channel that stand before an access made now: none before scheduled traffic and restores, the bypass
alone before a class-0 read (R254, R378). -/
def State.standBefore (s : State) (write : Bool) (c : Chan) : List HReq :=
  match s.qos.who with
  | some (k, m) => if 100 ≤ m then [] else if k == 0 && !write then c.bypass else c.bypass ++ c.queue
  | none => c.bypass ++ c.queue

/-- An access to HBM at a place can be made now: the channel is in service (a dead one answers at once), the bank is not
held, and no queued request that can be served stands before it. -/
def State.placeFree (s : State) (p : Place) (write : Bool := false) : Bool :=
  let c := s.chan p.stk p.ch
  c.state == 2 || (c.state == 0 && !c.retrainDue && !s.bankHeld p.stk p.ch p.b &&
    !(s.standBefore write c).any fun r => !s.hbmHeld r)

end Sys2Proof.Machine
end

