-- ==== Sys2Proof/Machine/Memory.lean ====
section
/-! DEFINITION. The memories and their shared operations: HBM placement and sector accesses (chapter 9), cache-die
lines, victims, write-back and SECDED outcomes (chapter 8), the journal (R55-R57, R227), and the block array's words
(chapter 7). A bulk access (copies, matrix and DMA beats, frames) is made line by line with these operations; thread
and BAR2 requests go through the slice and channel queues of Cache.lean and Hbm.lean to the same ones. -/

namespace Sys2Proof.Machine

/-- Bytes of installed memory (R206). -/
def memBytes : Nat := 0xA000000000

/-- Journal ways j (R208). -/
def State.journalWays (s : State) : Nat := 2 ^ s.sch.journalSize.toNat

/-- Entries that one half of a slice's journal area holds (R227). -/
def State.halfCap (s : State) : Nat := s.journalWays * 8192 / 2

/-- Entries that one journal generation holds over all slices (R227). -/
def State.journalCap (s : State) : Nat := 8 * s.halfCap

/-- Record location of an HBM word (Table 18.4). -/
def Place.loc (p : Place) : Nat := p.stk + p.ch <<< 3 + (p.b >>> 1) <<< 8 + (2 * p.ch + p.b % 2) <<< 12

/-! ### HBM sectors -/

/-- Spare rows of a bank that are in use or recorded as used, one bit each (R262, R263). -/
def State.sparesUsed (s : State) (stk ch bank : Nat) : Nat :=
  SMap.get 0 (s.chan stk ch).spares bank ||| SMap.get 0 s.flash.sparesUsed ((stk * 32 + ch) * 32 + bank)

/-- The next unused spare row of a bank (R262). -/
def State.nextSpare (s : State) (stk ch bank : Nat) : Option Nat :=
  (List.range 16).find? fun i => !(s.sparesUsed stk ch bank).testBit i

/-- A candidate with no spare is refused: counted, with a CE record; its row is no candidate again (R261, R263). -/
def State.refuseRemap (s : State) (p : Place) : State :=
  ((s.updChan p.stk p.ch fun c => { c with refusedRows := c.refusedRows ++ [{ bank := p.b, row := p.row }] }).updStack
    p.stk fun k => { k with refused := satAdd k.refused 1 }).post
    { cls := 1, level := 3, unit := 0x22, code := 7, loc := p.loc, addr := lineAt p.stk p.ch p.m * 1024, data0 := p.row }

/-- A row becomes a remap candidate once (R261): recorded in order of detection, refused when its bank has no spare
(R263). -/
def State.candidate (s : State) (p : Place) : State :=
  let c := s.chan p.stk p.ch
  let w : Window := { bank := p.b, row := p.row }
  if c.candidates.contains w || c.window == some w || c.remapped.contains w || c.refusedRows.contains w ||
      s.flash.remaps.contains { stack := p.stk, channel := p.ch, bank := p.b, row := p.row } then s
  else if (s.nextSpare p.stk p.ch p.b).isNone then s.refuseRemap p
  else s.updChan p.stk p.ch fun c => { c with candidates := c.candidates ++ [w] }

/-- A corrected word: counted, and its row is a candidate when its count reaches the threshold (R261, R264). -/
def State.hbmCorrected (s : State) (p : Place) : State :=
  let s := s.updStack p.stk fun k => { k with ce := satAdd k.ce 1 }
  let key := 65536 * p.b + p.row
  let s := s.updChan p.stk p.ch fun c => { c with rowErrs := SMap.upd 0 c.rowErrs key (· + 1) }
  if (s.stack p.stk).remapThresh = SMap.get 0 (s.chan p.stk p.ch).rowErrs key then s.candidate p else s

/-- Posts the record of a word read from HBM poisoned (Table 9.5). -/
def State.hbmPoisonRec (s : State) (p : Place) (cls code addr : Nat) : State :=
  s.post { cls := cls, level := 3, unit := 0x22, code := code, loc := p.loc, addr := addr, data0 := p.row }

/-- What one 256-bit word read from HBM leaves in the cache die (R246, R248, R260): the new state, and the state of its
64-bit words. A word of a dead channel is poisoned; the record of the access names it. -/
def State.hbmWord (s : State) (L w : Nat) : State × CWord :=
  let p := place L
  let addr := L * 1024 + 32 * w
  let k := s.stack p.stk
  if (s.chan p.stk p.ch).state = 2 then (s, { poison := true })
  else if k.isOpen p.m then (s, {})
  else
    let h := RMap.get {} s.hbmWords (p.store * 32 + w)
    let ue (s : State) : State := s.updStack p.stk fun k => { k with ue := satAdd k.ue 1 }
    match h.mark, h.chk with
    | .data, .good => (s, {})
    | .data, .single => (s.hbmCorrected p, {})
    | .poison, .good => ((ue s).hbmPoisonRec p 2 3 addr, { poison := true })
    | .unwritten, .good => ((ue s).hbmPoisonRec p 2 4 addr, { poison := true, unwritten := true })
    | _, _ => (((ue s).hbmPoisonRec p 2 2 addr).candidate p, { poison := true })

/-- Cells that persist in a fault are wrong again in the words w to w + n - 1 of line L, which have just been set
(R510). -/
def State.stuckAgain (s : State) (L w n : Nat) : State :=
  match s.ccd.stuck, s.ccd.lines.lookup L with
  | e :: es, some l =>
    let k := ((lineSlice L * 8192 + lineSet L) * 48 + l.way) * 128
    { s with ccd := { s.ccd with
        words := (e :: es).foldl (fun m e =>
          if k + w ≤ e.1 && e.1 < k + w + n then RMap.mapRange {} m (L * 128 + (e.1 - k)) 1 fun c => { c with chk := e.2 }
          else m) s.ccd.words } }
  | _, _ => s

/-- Reads the eight words of sector q of line L from HBM into the cache die (R213). -/
def State.fetchSector (s : State) (L q : Nat) : State :=
  let p := place L
  let s := s.qosAdd (2 + p.stk) 256
  let data := Mem.slice s.hbm (p.store * 1024 + 256 * q) 256
  let s := { s with ccd := { s.ccd with mem := Mem.splice s.ccd.mem (L * 1024 + 256 * q) 256 data } }
  let s := (List.range 8).foldl (fun s i =>
    let r := s.hbmWord L (8 * q + i)
    { r.1 with ccd := { r.1.ccd with
        words := RMap.fill {} r.1.ccd.words (L * 128 + 32 * q + 4 * i) 4 r.2 } }) s
  ({ s with ccd := { s.ccd with
      lines := SMap.upd { way := 0, valid := 0, dirty := 0, use := 0 } s.ccd.lines L fun l =>
        { l with valid := l.valid ||| BitVec.ofNat 4 (2 ^ q), dirty := l.dirty &&& ~~~ BitVec.ofNat 4 (2 ^ q) } } }).stuckAgain
    L (32 * q) 32

/-- Stores bytes and word states of sector q of line L in HBM: whole 256-bit words only (R249). A poisoned word takes
the poison mark in a protected granule; an open granule keeps its bits and a UC record names the line (R217). -/
def State.hbmStore (s : State) (L q : Nat) (data : Mem) (words : RMap CWord) : State :=
  let p := place L
  let s := { s.qosAdd (2 + p.stk) 256 with hbm := Mem.splice s.hbm (p.store * 1024 + 256 * q) 256 data }
  let opn := (s.stack p.stk).isOpen p.m
  (List.range 8).foldl (fun s i =>
    let psn := RMap.anyIn {} words (4 * i) 4 fun w => w.poison || w.chk == .bad
    let s := { s with hbmWords := RMap.fill {} s.hbmWords (p.store * 32 + 8 * q + i) 1
                        { mark := if psn && !opn then .poison else .data } }
    if psn && opn then
      s.postSyndrome 8 { cls := 3, level := 3, unit := 0x20, code := 3, loc := lineSlice L, addr := L * 1024 }
    else s) s

/-- The row of a place is the open one of its bank (R253). -/
def State.openBank (s : State) (p : Place) : State :=
  s.updChan p.stk p.ch fun c => { c with openRow := SMap.set 0 c.openRow p.b (p.row + 1) }

/-- Stores the sectors of mask of line L, data and word states by offset in the line. A dead channel discards the write
with a UC record (R260). -/
def State.hbmPut (s : State) (L : Nat) (mask : BitVec 4) (data : Mem) (words : RMap CWord) : State :=
  let p := place L
  if mask = 0 then s
  else if (s.chan p.stk p.ch).state = 2 then s.hbmPoisonRec p 3 6 (L * 1024)
  else (List.range 4).foldl (fun s q =>
    if mask.getLsbD q then s.hbmStore L q (Mem.slice data (256 * q) 256) (RMap.slice {} words (32 * q) 32) else s)
    (s.openBank p)

/-! ### Interface errors (R259, R260) -/

/-- Starts a channel's retraining, or leaves it to wait while another channel of the stack retrains (R260). -/
def State.retrain (s : State) (stk ch : Nat) : State :=
  if (s.chan stk ch).state ≠ 0 then s
  else if (List.range 32).any fun c => (s.chan stk c).state == 1 then
    s.updChan stk ch fun c => { c with retrainDue := true }
  else s.updChan stk ch fun c => { c with
    state := 1, retrainDue := false, retrains := satAdd c.retrains 1, openRow := [], crcTicks := [] }

/-- Counts n interface CRC failures; sixteen within 1 ms start a retraining (R259). -/
def State.crcFailed (s : State) (stk ch n : Nat) : State :=
  if n = 0 then s else
  let s := s.updChan stk ch fun c => { c with
    crc := satAdd c.crc n, crcTicks := (List.replicate n s.tick ++ c.crcTicks).take 16 }
  match ((s.chan stk ch).crcTicks)[15]? with
  | some t => if s.tick < t + 100000 then s.retrain stk ch else s
  | none => s

/-- The 256-bit words of the sectors of mask. -/
def maskWords (mask : BitVec 4) : List Nat := (List.range 32).filter fun i => mask.getLsbD (i / 8)

/-- Some of the words ws, at least one: a free choice. -/
def State.someOf (s : State) (ws : List Nat) : List Nat :=
  let v := s.freeNat
  ws.filter fun i => ws[v % ws.length]? == some i || (v / ws.length).testBit i

/-- A read of the sectors of mask of line L fails after retraining: some of its words, a free choice, each with a UC
record (R259). -/
def State.failedRead (s : State) (L : Nat) (mask : BitVec 4) : State × List Nat :=
  let ws := s.someOf (maskWords mask)
  (ws.foldl (fun s i => s.hbmPoisonRec (place L) 3 5 (L * 1024 + 32 * i)) s.tookFree, ws)

/-- Words of a fill that fails after retraining are delivered poisoned (R259). -/
def State.poisonRead (s : State) (L : Nat) (mask : BitVec 4) : State :=
  let f := s.failedRead L mask
  if (s.ccd.lines.lookup L).isNone then f.1 else
  f.2.foldl (fun s i =>
    { s with ccd := { s.ccd with words := RMap.fill {} s.ccd.words (L * 128 + 4 * i) 4 { poison := true } } }) f.1

/-- A write that fails after retraining leaves each of its words at its old or at the written value, a free choice, and
posts a UC record that names the line (R259). -/
def State.tornPut (s : State) (L : Nat) (mask : BitVec 4) (data : Mem) (words : RMap CWord) : State :=
  let a := (place L).store
  let kept := s.freeNat
  let t := s.tookFree.hbmPut L mask data words
  ((maskWords mask).foldl (fun t i =>
    if kept.testBit i then
      { t with hbm := Mem.splice t.hbm (a * 1024 + 32 * i) 32 (Mem.slice s.hbm (a * 1024 + 32 * i) 32)
               hbmWords := RMap.fill {} t.hbmWords (a * 32 + i) 1 (RMap.get {} s.hbmWords (a * 32 + i)) }
    else t) t).hbmPoisonRec (place L) 3 5 (L * 1024)

/-- An access made without a queued request meets the CRC failures noted for its channel: up to two are repeated; where the
channel has retrained for it, and a further one is noted, it fails (R259; log entry 44). Whether it fails. -/
def State.crcMet (s : State) (p : Place) : State × Bool :=
  let n := (s.chan p.stk p.ch).crcDue
  if n = 0 || (s.chan p.stk p.ch).state = 2 then (s, false) else
  let s := s.updChan p.stk p.ch fun c => { c with crcDue := 0 }
  if n < 3 then (s.crcFailed p.stk p.ch n, false) else (s.crcFailed p.stk p.ch 1, true)

/-- Sectors in a mask. -/
def sectorCount (mask : BitVec 4) : Nat := ((List.range 4).filter fun q => mask.getLsbD q).length

/-- A write of the sectors of mask made now, without a queued request. -/
def State.putNow (s : State) (L : Nat) (mask : BitVec 4) (data : Mem) (words : RMap CWord) : State :=
  let p := place L
  if mask = 0 then s else
  let c := (s.chanGrant true p.stk p.ch (256 * sectorCount mask)).crcMet p
  if c.2 then c.1.tornPut L mask data words else c.1.hbmPut L mask data words

/-! ### Cache-die lines -/

/-- The valid line L, if the cache holds it. -/
def State.line (s : State) (L : Nat) : Option Line := s.ccd.lines.lookup L

/-- Changes a present line. -/
def State.updLine (s : State) (L : Nat) (f : Line → Line) : State :=
  { s with ccd := { s.ccd with lines := s.ccd.lines.map fun e => if e.1 = L then (e.1, f e.2) else e } }

/-- The lines of the set of line L. -/
def State.setLines (s : State) (L : Nat) : List (Nat × Line) :=
  s.ccd.lines.filter fun e => lineSlice e.1 == lineSlice L && lineSet e.1 == lineSet L

/-- Marks a line most recently used. -/
def State.touchLine (s : State) (L : Nat) : State :=
  let s := s.updLine L fun l => { l with use := s.ccd.stamp }
  { s with ccd := { s.ccd with stamp := s.ccd.stamp + 1 } }

/-- Drops a line: its sectors become invalid. -/
def State.dropLine (s : State) (L : Nat) : State :=
  { s with ccd := { s.ccd with
      lines := SMap.del s.ccd.lines L
      mem := Mem.clear s.ccd.mem (L * 1024) 1024
      words := RMap.fill {} s.ccd.words (L * 128) 128 {} } }

/-- The bytes and word states of sector q of line L, as the cache die holds them. -/
def State.sectorOf (s : State) (L q : Nat) : Mem × RMap CWord :=
  (Mem.slice s.ccd.mem (L * 1024 + 256 * q) 256, RMap.slice {} s.ccd.words (L * 128 + 32 * q) 32)


/-- Counts words poisoned by uncorrectable errors (R240). -/
def State.countUe (s : State) (L n : Nat) : State :=
  if n = 0 then s else s.updSlice (lineSlice L) fun k => { k with ue := satAdd k.ue n }

/-- Words with an uncorrectable error among n words from word w of the cache die. -/
def State.bads (s : State) (w n : Nat) : Nat :=
  (RMap.segs {} s.ccd.words w n fun c => c.chk == .bad).foldl (fun a e => a + e.2) 0

/-- Words with one correctable error among n words from word w of the cache die. -/
def State.singles (s : State) (w n : Nat) : Nat :=
  (RMap.segs {} s.ccd.words w n fun c => c.chk == .single).foldl (fun a e => a + e.2) 0

/-- The corrected words among n words from word w of line L: each counts and posts a CE record (Table 8.8, R240, R455). -/
def State.countCe (s : State) (L w n : Nat) : State :=
  let ce := s.singles w n
  if ce = 0 then s else
  (RMap.segs {} s.ccd.words w n fun c => c.chk == .single).foldl (fun s e => (List.range e.2).foldl (fun s i =>
    s.postSyndrome 8 { cls := 1, level := 3, unit := 0x20, code := 1, loc := lineSlice L, addr := 8 * (e.1 + i) }) s)
    (s.updSlice (lineSlice L) fun k => { k with ce := satAdd k.ce ce })

/-- Does the queued write-backs of line L at once, in arrival order, so that what follows on the line finds them (R251).
They are counted for the request that made them. -/
def State.drainLine (s : State) (L : Nat) : State :=
  let p := place L
  let c := s.chan p.stk p.ch
  let mine := c.queue.filter fun r => r.write && r.line == L
  if mine.isEmpty then s else
  let w := s.qos.who
  let s := s.updChan p.stk p.ch fun c => { c with queue := c.queue.filter fun r => !(r.write && r.line == L) }
  let s := mine.foldl (fun s r => (s.serveAs r.cls r.master).putNow L r.sectors r.data r.words) s
  { s with qos := { s.qos with who := w } }

/-- Counts what Table 8.8 has a write-back of the sectors of mask count: corrected words, and uncorrectable ones, which
are written poisoned. -/
def State.countPut (s : State) (L : Nat) (mask : BitVec 4) : State :=
  (List.range 4).foldl (fun s q =>
    if mask.getLsbD q then
      (s.countCe L (L * 128 + 32 * q) 32).countUe L (s.bads (L * 128 + 32 * q) 32)
    else s) s

/-- Puts a request into its channel's queue, or the bypass for a class-0 read (R254). -/
def State.hbmSend (s : State) (r : HReq) : State :=
  let p := place r.line
  s.updChan p.stk p.ch fun c =>
    if r.cls = 0 && !r.write then { c with bypass := c.bypass ++ [r] } else { c with queue := c.queue ++ [r] }

/-- A write-back of the sectors of mask of line L as the cache die holds them, for the request being served; forLine is
the line whose miss evicts it (R216). -/
def State.backReq (s : State) (L : Nat) (mask : BitVec 4) (forLine : Option Nat) : HReq where
  line := L
  sectors := mask
  write := true
  data := Mem.slice s.ccd.mem (L * 1024) 1024
  words := RMap.slice {} s.ccd.words (L * 128) 128
  cls := (s.qos.who.map Prod.fst).getD 0
  master := (s.qos.who.map Prod.snd).getD 100
  forLine := forLine
  arrived := s.tick

/-- Writes the sectors of mask of line L back to HBM as the cache die holds them (R217): at once, or through its
channel's queue where the channel cannot take it now (R260, R262, R284). -/
def State.putLine (s : State) (L : Nat) (mask : BitVec 4) : State :=
  let s := s.countPut L mask
  let r := s.backReq L mask none
  if s.claimed L || !s.placeFree (place L) true then s.hbmSend r else (s.drainLine L).putNow L mask r.data r.words

/-- Writes line L back to HBM, after what its channel holds to write of it, and drops it. -/
def State.flushLine (s : State) (L : Nat) : State :=
  let s := s.drainLine L
  match s.line L with
  | none => s
  | some l =>
    ((s.countPut L l.dirty).putNow L l.dirty (Mem.slice s.ccd.mem (L * 1024) 1024)
      (RMap.slice {} s.ccd.words (L * 128) 128)).dropLine L

/-- Writes the dirty sectors of line L back to HBM; the line stays, clean (R217). -/
def State.writeBack (s : State) (L : Nat) : State :=
  match s.line L with
  | none => s
  | some l => if l.dirty = 0 then s else (s.putLine L l.dirty).updLine L fun l => { l with dirty := 0 }

/-- The least recently used of some lines. -/
def oldest : List (Nat × Line) → Option (Nat × Line)
  | [] => none
  | e :: rest => some (rest.foldl (fun b x => if x.2.use < b.2.use then x else b) e)

/-- A temporary pin holds the line (R221, R226). -/
def State.heldLine (s : State) (l : Line) : Bool := l.tpins.any fun t => decide (s.tick < t.1)

/-- Pins line L temporarily until the next tick, for a reduction or for an atomic (R221, R226): both hold it for less than
a tick after their last write (log entry 74). -/
def State.tempPin (s : State) (L : Nat) (red : Bool) : State :=
  s.updLine L fun l => { l with tpins := (s.tick + 1, red) :: l.tpins.filter fun t => decide (s.tick < t.1) }

/-- A line that a miss may take the way of: in a cache way, with no pin of either kind (R216). -/
def State.mayEvict (s : State) (ways : Nat) (l : Line) : Bool :=
  decide (l.way < ways) && !l.pinned && !s.heldLine l

/-- The way a miss takes: an invalid cache way, else the least recently used line with the dead mark, else the least
recently used one; a pinned line's never (R216). -/
def State.victim (s : State) (L ways : Nat) : Option (Nat × Option Nat) :=
  let ls := s.setLines L
  match (List.range ways).find? fun w => !ls.any fun e => e.2.way == w with
  | some w => some (w, none)
  | none =>
    let free := ls.filter fun e => s.mayEvict ways e.2
    match (oldest (free.filter fun e => e.2.dead)).orElse fun _ => oldest free with
    | none => none
    | some e => some (e.2.way, some e.1)

/-- The line that a miss of line L would evict is dirty, and cannot be written back now: the miss waits (R216). -/
def State.victimBusy (s : State) (L ways : Nat) : Bool :=
  match s.victim L ways with
  | some (_, some v) =>
    (match s.line v with | some l => l.dirty != 0 | none => false) && (s.claimed v || !s.placeFree (place v) true)
  | _ => false

/-- A miss of line L finds a way (R221). -/
def State.hasRoom (s : State) (L ways : Nat) : Bool :=
  let ls := s.setLines L
  (List.range ways).any (fun w => !ls.any fun e => e.2.way == w) || ls.any fun e => s.mayEvict ways e.2

/-- Cache ways in force (R208). -/
def State.cacheWays (s : State) : Nat := 45 - s.journalWays

/-- Allocates line L with no valid sector, writing its victim back at once (R216). -/
def State.allocLine (s : State) (L : Nat) : State :=
  match s.line L with
  | some _ => s
  | none =>
    match s.victim L s.cacheWays with
    | none => s
    | some (w, ev) =>
      let s := match ev with
        | some v => (s.writeBack v).dropLine v
        | none => s
      { s with ccd := { s.ccd with
          lines := SMap.ins L { way := w, valid := 0, dirty := 0, use := s.ccd.stamp } s.ccd.lines
          stamp := s.ccd.stamp + 1 } }

/-- Reads the sectors of need of line L from HBM, sector first before the others (R213). A dead channel delivers them
poisoned with a UC record (R260). -/
def State.fetchNow (s : State) (L : Nat) (need : BitVec 4) (first : Nat) : State :=
  let p := place L
  let s := s.drainLine L
  let s := if (s.chan p.stk p.ch).state = 2 then s.hbmPoisonRec p 3 6 (L * 1024) else s.openBank p
  (first :: (List.range 4).filter (· != first)).foldl (fun s q => if need.getLsbD q then s.fetchSector L q else s) s

/-- Fetches the sectors of mask that are not valid, sector first before the others. -/
def State.fetchMissing (s : State) (L : Nat) (mask : BitVec 4) (first : Nat := 0) : State :=
  match s.line L with
  | none => s
  | some l =>
    let need := mask &&& ~~~ l.valid
    if need = 0 then s else
    let p := place L
    let c := (s.chanGrant false p.stk p.ch (256 * sectorCount need)).crcMet p
    let s := c.1.fetchNow L need first
    if c.2 then s.poisonRead L need else s

/-- Clears the dead record of line L, if one holds it: whether one did (R223). -/
def State.clearDead (s : State) (L : Nat) : State × Bool :=
  let d := SMap.get [] (s.slice (lineSlice L)).dead (lineSet L)
  if d.contains L then
    (s.updSlice (lineSlice L) fun k => { k with dead := SMap.set [] k.dead (lineSet L) (d.filter (· != L)) }, true)
  else (s, false)

/-- A read of a dead-recorded line: counted, and reported when strict is set (R223). -/
def State.resurrect (s : State) (L : Nat) : State :=
  let r := s.clearDead L
  if !r.2 then s else
  let s := r.1.updSlice (lineSlice L) fun k => { k with resurrect := satAdd k.resurrect 1 }
  if s.ccd.strict then s.postEvent 4 (L * 1024) else s

/-- Applies Table 8.8 to the words w to w + n - 1 of one valid sector q of line L: corrected in place; an uncorrectable
word of a clean sector invalidates the sector; one of a dirty sector becomes poisoned. A cell that persists in a fault is
wrong again after the word is rewritten (R510). -/
def State.secded (s : State) (L q w n : Nat) : State :=
  let ce := s.singles w n
  let s := s.countCe L w n
  let s := if ce = 0 then s else { s with ccd := { s.ccd with
    words := RMap.mapRange {} s.ccd.words w n fun c => if c.chk == .single then { c with chk := .good } else c } }
  let bad := RMap.segs {} s.ccd.words w n fun c => c.chk == .bad
  if bad.isEmpty then (if ce = 0 then s else s.stuckAgain L (w - L * 128) n) else
  let dirty := match s.line L with | some l => l.dirty.getLsbD q | none => false
  if dirty then
    let s : State := { s with ccd := { s.ccd with
      words := RMap.mapRange {} s.ccd.words w n fun c =>
        if c.chk == .bad then { poison := true } else c } }
    let s := bad.foldl (fun s e => (List.range e.2).foldl (fun s i =>
      let s := s.updSlice (lineSlice L) fun k => { k with ue := satAdd k.ue 1 }
      s.postSyndrome 8 { cls := 2, level := 3, unit := 0x20, code := 2, loc := lineSlice L, addr := 8 * (e.1 + i) }) s) s
    s.stuckAgain L (w - L * 128) n
  else
    let s := s.updSlice (lineSlice L) fun k => { k with refetch := satAdd k.refetch 1 }
    let s := { s with ccd := { s.ccd with
      mem := Mem.clear s.ccd.mem (L * 1024 + 256 * q) 256
      words := RMap.fill {} s.ccd.words (L * 128 + 32 * q) 32 {} } }
    s.updLine L fun l => { l with valid := l.valid &&& ~~~ BitVec.ofNat 4 (2 ^ q) }

/-- The sectors that n bytes from offset o of a line touch. -/
def sectorMask (o n : Nat) : BitVec 4 :=
  BitVec.ofNat 4 ((List.range 4).foldl (fun a q => if o < 256 * (q + 1) && 256 * q < o + n then a + 2 ^ q else a) 0)

/-- The sectors that n bytes from offset o of a line cover whole. -/
def wholeMask (o n : Nat) : BitVec 4 :=
  BitVec.ofNat 4 ((List.range 4).foldl (fun a q => if o ≤ 256 * q && 256 * (q + 1) ≤ o + n then a + 2 ^ q else a) 0)

/-- Words that a refetch has left uncorrectable, cells that persist in a fault, are delivered poisoned and counted (R240;
DESIGN CHOICE, log entry 73). -/
def State.stuckPoison (s : State) (L w n : Nat) : State :=
  if s.ccd.stuck.isEmpty then s else
  { s.countUe L (s.bads w n) with
    ccd := { (s.countUe L (s.bads w n)).ccd with
      words := RMap.mapRange {} s.ccd.words w n fun c => if c.chk == .bad then { c with poison := true } else c } }

/-- The 64-bit words of sector q that n bytes from offset o of line L touch: the first, and how many. -/
def sectorWords (L o n q : Nat) : Nat × Nat :=
  let lo := max o (256 * q)
  let hi := min (o + n) (256 * (q + 1))
  (L * 128 + lo / 8, if lo < hi then (hi + 7) / 8 - lo / 8 else 0)

/-- Sector q of line L is valid. -/
def State.holds (s : State) (L q : Nat) : Bool := match s.line L with | some l => l.valid.getLsbD q | none => false

/-- Applies Table 8.8 to every word that n bytes from offset o of line L touch. -/
def State.secdedRange (s : State) (L o n : Nat) : State :=
  (List.range 4).foldl (fun s q =>
    let x := sectorWords L o n q
    if x.2 = 0 || !s.holds L q then s else s.secded L q x.1 x.2) s

/-- As secdedRange, and an invalidated sector is fetched again alone. -/
def State.checkLine (s : State) (L o n : Nat) : State :=
  (List.range 4).foldl (fun s q =>
    let x := sectorWords L o n q
    if x.2 = 0 then s else
    let s := s.secded L q x.1 x.2
    if s.holds L q then s else (s.fetchMissing L (BitVec.ofNat 4 (2 ^ q))).stuckPoison L x.1 x.2) s

/-- The n bytes from offset o of line L hold an uncorrectable word of a clean sector: it is fetched again (Table 8.8). -/
def State.refetches (s : State) (L o n : Nat) : Bool :=
  (List.range 4).any fun q =>
    let x := sectorWords L o n q
    x.2 != 0 && s.holds L q && !(match s.line L with | some l => l.dirty.getLsbD q | none => false) &&
      RMap.anyIn {} s.ccd.words x.1 x.2 fun c => c.chk == .bad

/-- The words w to w + n - 1 of the cache die as they are sent on: corrected, or poisoned. -/
def State.sentWords (s : State) (w n : Nat) : RMap CWord :=
  let ws := RMap.slice {} s.ccd.words w n
  if s.ccd.stuck.isEmpty then ws else RMap.mapRange {} ws 0 n fun c => { c with chk := .good }

/-- Makes n bytes from offset o of line L readable (R213): allocated and fetched whole if absent, its missing sectors
alone if present; then Table 8.8. -/
def State.lineServe (s : State) (L o n : Nat) : State :=
  let s := match s.line L with
    | some _ => s.fetchMissing L (sectorMask o n) (o / 256)
    | none => ((s.resurrect L).allocLine L).fetchMissing L 0xF (o / 256)
  (s.touchLine L).checkLine L o n

/-- Master number of a requester (Table 14.2). -/
def Requester.master : Requester → Nat
  | .thread b _ _ => b
  | .blockStore b => b
  | .l1Fill b => b
  | .bar2 _ => 96

/-- The line a request names. -/
def CReq.line (r : CReq) : Nat := r.addr / 1024

/-- The first request of each master, with its place in the list: one master's requests stay in order. -/
def firsts : List Nat → Nat → List CReq → List (Nat × CReq)
  | _, _, [] => []
  | seen, i, r :: rs =>
    if seen.contains r.who.master then firsts seen (i + 1) rs
    else (i, r) :: firsts (r.who.master :: seen) (i + 1) rs

/-- Requests at the bank of line L that contend with an access made there now: a slice's queued reads or writes, the
first of each master (Table 14.5). -/
def State.rivals (s : State) (write : Bool) (L : Nat) : List CReq :=
  let k := s.slice (lineSlice L)
  ((firsts [] 0 (if write then k.writes else k.reads)).map Prod.snd).filter fun r => lineSet r.line % 32 == lineSet L % 32

/-- The bank of line L grants an access of n bytes made now, for the master being served, ahead of the requests in held
out that cannot be served: none when another has the grant or a ceiling is reached (R377, R378). Scheduled traffic and
restores always have it; scrubbers have it when nothing contends. -/
def State.bankGrant (s : State) (write : Bool) (L n : Nat) (out : CReq → Bool) : Option State :=
  let rs := (s.rivals write L).filter fun r => !out r
  match s.qos.who with
  | none => if rs.isEmpty then some s else none
  | some (c, m) =>
    if 100 ≤ m then some s else
    match s.qosPick (if write then 1 else 0) (bankArb write L) (fun i => if i = 0 then n else ((rs[i - 1]?).map CReq.len).getD 0)
      ((0, m, c) :: ((List.range rs.length).zip rs).map fun x => (x.1 + 1, x.2.who.master, x.2.cls)) with
    | some (0, t) => some t
    | _ => none

/-- An access that is made has the grant of its bank, whose pointers move on (R381). -/
def State.granted (s : State) (write : Bool) (L n : Nat) : State :=
  (s.bankGrant write L n fun _ => true).getD s

/-- Reads n bytes from offset o of line L: granted and counted, then as lineServe. -/
def State.lineRead (s : State) (L o n : Nat) : State := (((s.granted false L n).routeGrant L).qosAdd 0 n).lineServe L o n

/-! ### The journal (R55-R57, R227) -/

/-- The generation that writes go to. -/
def State.genNow (s : State) : List JEntry := if s.sch.gen then s.sch.gen1 else s.sch.gen0

/-- A ply executes: RUNNING, with no rollback and no endgame in progress (R56, R59, R339). -/
def State.inPly (s : State) : Bool := s.running && s.sch.restartAt.isNone && s.err.phase == 0

/-- The write is the first in the ply to what key names. -/
def State.firstWrite (s : State) (key : JKey) : Bool :=
  s.inPly && !s.genNow.any fun e => e.key == key

/-- The slice whose half an entry goes to first: a line's own, a granule's region's home slice (R227). -/
def JKey.slice : JKey → Nat
  | .line L => lineSlice L
  | .granule b _ => b / 12

/-- The half of slice k has room in the generation in use. -/
def State.halfRoom (s : State) (k : Nat) : Bool :=
  decide ((s.genNow.filter fun e => e.home == k).length < s.halfCap)

/-- The slice that takes an entry: its own, else the next in ascending order that has room (R227). -/
def State.journalHome (s : State) (key : JKey) : Option Nat :=
  ((List.range 8).map fun i => (key.slice + i) % 8).find? s.halfRoom

/-- Adds an entry to the generation in use, or notes its overflow when all eight halves are full (R57, R227). -/
def State.journalAdd (s : State) (e : JEntry) : State :=
  match s.journalHome e.key with
  | some k =>
    let e := { e with home := k }
    let s := s.qosAdd 1 1024
    if s.sch.gen then { s with sch := { s.sch with gen1 := e :: s.sch.gen1 } }
    else { s with sch := { s.sch with gen0 := e :: s.sch.gen0 } }
  | none => { s.causeBit 5 with sch := { (s.causeBit 5).sch with cur := { s.sch.cur with replayable := false } } }

/-- Journals line L before its first write in the ply, fetching what the cache die lacks of it (R56, R214). -/
def State.journalLine (s : State) (L : Nat) : State :=
  if !s.firstWrite (.line L) then s else
  let s := s.fetchMissing L 0xF
  s.journalAdd { key := .line L, data := Mem.slice s.ccd.mem (L * 1024) 1024,
                 cwords := RMap.slice {} s.ccd.words (L * 128) 128, words := [] }

/-- Writes n bytes from offset o of line L (R214, R215, R230): data is based at 0; psn says, by 64-bit word of the
line, which words the data poisons. A word covered in part keeps its own poison. -/
def State.linePut (s : State) (L o n : Nat) (data : Mem) (psn : RMap Bool) : State :=
  if n = 0 then s else
  let s := (s.clearDead L).1
  let s := s.allocLine L
  let part := sectorMask o n &&& ~~~ wholeMask o n
  let s := s.journalLine L
  let s := match s.line L with
    | some l => if part &&& ~~~ l.valid = 0 then s else s.fetchMissing L 0xF
    | none => s
  let s := if o % 8 = 0 then s else s.checkLine L o 1
  let s := if (o + n) % 8 = 0 then s else s.checkLine L (o + n - 1) 1
  let w0 := o / 8
  let w1 := (o + n + 7) / 8
  let old := s.ccd.words
  let keep (i : Nat) : Bool :=
    (i == w0 && o % 8 != 0 || i + 1 == w1 && (o + n) % 8 != 0) && (RMap.get {} old (L * 128 + i)).poison
  let words := RMap.splice {} old (L * 128 + w0) (w1 - w0) { poison := false }
    (((RMap.slice false psn w0 (w1 - w0)).map fun e => (e.1, ({ poison := e.2 } : CWord))))
  let words := if keep w0 then RMap.fill {} words (L * 128 + w0) 1 { poison := true } else words
  let words := if keep (w1 - 1) then RMap.fill {} words (L * 128 + w1 - 1) 1 { poison := true } else words
  let s := { s with ccd := { s.ccd with mem := Mem.splice s.ccd.mem (L * 1024 + o) n data, words := words } }
  ((s.updLine L fun l =>
    { l with valid := l.valid ||| sectorMask o n, dirty := l.dirty ||| sectorMask o n }).touchLine L).stuckAgain L w0 (w1 - w0)

/-- Writes n bytes from offset o of line L: granted and counted, then as linePut. -/
def State.lineWrite (s : State) (L o n : Nat) (data : Mem) (psn : RMap Bool) : State :=
  if n = 0 then s else (((s.granted true L n).routeGrant L).qosAdd 1 n).linePut L o n data psn

/-- Hands a request to the slice of its address (R207). -/
def State.cacheSend (s : State) (r : CReq) : State :=
  s.updSlice (lineSlice (r.addr / 1024)) fun k =>
    if r.write then { k with writes := k.writes ++ [r] } else { k with reads := k.reads ++ [r] }

/-! ### What makes an access wait (R213, R221, R260, R262, R284, R378) -/

/-- The pieces of a device range by line: line, offset in it, bytes, offset in the range. -/
def pieces (A n : Nat) : List (Nat × Nat × Nat × Nat) :=
  if n = 0 then [] else
  (List.range ((A + n - 1) / 1024 - A / 1024 + 1)).map fun i =>
    let L := A / 1024 + i
    let lo := max A (L * 1024)
    let hi := min (A + n) ((L + 1) * 1024)
    (L, lo - L * 1024, hi - lo, lo - A)

/-- The device ranges that a waiting access names. -/
def HeldAccess.ranges : HeldAccess → List (Nat × Nat)
  | .request f _ => [(256 * f.addr.toNat, if f.len512 then 512 else 256)]
  | .frame a _ _ _ _ _ => [(a, 512)]
  | .copyData _ _ a n _ _ => [(a, n)]
  | .exchange _ a n _ => [(a, n)]
  | .restore e => (match e.key with | .line L => [(1024 * L, 1024)] | .granule _ _ => [])
  | .copyOut _ => []
  | .mirror _ => []

/-- An access that came earlier waits for line L. -/
def State.waitedFor (s : State) (L : Nat) : Bool :=
  s.ccd.waiting.any fun h => h.ranges.any fun r => decide (r.1 / 1024 ≤ L) && decide (L * 1024 < r.1 + r.2)

/-- The sectors that a read of n bytes from offset o of line L wants. -/
def State.readNeed (s : State) (L o n : Nat) : BitVec 4 := if (s.line L).isSome then sectorMask o n else 0xF

/-- The sectors that a write must have fetched first (R214): all that the line lacks, at its first write in the ply or
where the write covers a missing sector in part. -/
def State.writeNeed (s : State) (L o n : Nat) : BitVec 4 :=
  let lacking := match s.line L with | some l => ~~~ l.valid | none => 0xF
  if s.firstWrite (.line L) || sectorMask o n &&& ~~~ wholeMask o n &&& lacking != 0 then lacking else 0

/-- An access to line L that wants some sectors valid must wait: the line is claimed, being fetched, temporarily pinned,
or waited for; it is absent and no way can be taken, or the way's dirty line cannot be written back yet (R216); or what it lacks cannot be
fetched now. Reductions do not wait for
one another's pins (R226). -/
def State.lineBusy (s : State) (L : Nat) (need : BitVec 4) (red : Bool := false) : Bool :=
  s.claimed L || s.waitedFor L ||
  (match s.line L with
   | some l => l.fetching || l.tpins.any (fun t => decide (s.tick < t.1) && !(red && t.2)) ||
      ((need &&& ~~~ l.valid != 0 || RMap.anyIn {} s.ccd.words (L * 128) 128 fun c => c.chk == .bad) &&
        !s.placeFree (place L))
   | none => !s.hasRoom L s.cacheWays || s.victimBusy L s.cacheWays || (need != 0 && !s.placeFree (place L)))

/-- A bundle of a shared link sweeps again: what crosses the shared links is held (R232, R233; log entry 47). -/
def State.sharedHolds (s : State) : Bool := s.ccd.sweeping.any fun e => e.2 == .shared

/-- The traffic of block b is held: a bundle of its slot's link, or of a shared link, sweeps again (R233). -/
def State.linkHolds (s : State) (b : Nat) : Bool :=
  s.sharedHolds || s.ccd.sweeping.any fun e =>
    match e.2 with
    | .block r n => s.slotOf b == some (r, n)
    | .shared => false

/-- The block that a request comes from has its link held. -/
def State.whoHeld (s : State) (w : Requester) : Bool :=
  match w with
  | .thread b _ _ => s.linkHolds b
  | .blockStore b => s.linkHolds b
  | .l1Fill b => s.linkHolds b
  | .bar2 _ => s.sharedHolds

/-- A request or response is of a thread or of the L1 of block b. -/
def Requester.ofBlock (w : Requester) (b : Nat) : Bool :=
  match w with
  | .thread c _ _ => c == b
  | .blockStore c => c == b
  | .l1Fill c => c == b
  | .bar2 _ => false

/-- Two ranges meet in a 256-byte sector. -/
def sectorsMeet (a n c m : Nat) : Bool := decide (a / 256 ≤ (c + m - 1) / 256) && decide (c / 256 ≤ (a + n - 1) / 256)

/-- A store of block b to a sector of the range has not been accepted. -/
def State.storeOpen (s : State) (b a n : Nat) : Bool :=
  s.ccd.slices.any fun e => e.2.writes.any fun r => r.write && r.who.ofBlock b && sectorsMeet a n r.addr r.len

/-- A queued request that must wait (R190, R221, R233, R284); one to a line being fetched joins the fetch (R213). -/
def State.reqHeld (s : State) (r : CReq) : Bool :=
  s.whoHeld r.who || (match r.who with | .l1Fill b => s.storeOpen b r.addr r.len | _ => false) || s.claimed r.line || s.waitedFor r.line ||
  (match s.line r.line with
   | some l => s.heldLine l
   | none => !s.hasRoom r.line s.cacheWays)

/-- The banks of an access of n bytes at device address A grant its lines one after the other, with the requests that wait
there as rivals and the bytes of the lines before counted (R378, R379). -/
def State.bankGrants (s : State) (write : Bool) (A n : Nat) : Bool :=
  ((pieces A n).foldl (fun (t : Option State) p => t.bind fun t =>
    (t.bankGrant write p.1 p.2.2.1 s.reqHeld).map fun t => t.qosTry (if write then 1 else 0) p.2.2.1) (some s)).isSome

/-- An access of n bytes at device address A made now, for the class and master being served, must wait: for a line, or
for the grant of a bank. -/
def State.waits (s : State) (write : Bool) (A n : Nat) : Bool :=
  s.sharedHolds || ((pieces A n).any fun p =>
    s.lineBusy p.1 (if write then s.writeNeed p.1 p.2.1 p.2.2.1 else s.readNeed p.1 p.2.1 p.2.2.1)) ||
  !s.bankGrants write A n

/-- An access waits behind those that wait already. -/
def State.defer (s : State) (h : HeldAccess) : State := { s with ccd := { s.ccd with waiting := s.ccd.waiting ++ [h] } }

/-! ### Bulk device accesses -/

/-- The range lies in installed memory (R206). -/
def installed (A n : Nat) : Bool := decide (A + n ≤ memBytes)

/-- Reads n bytes at device address A through the cache die. -/
def State.devTouch (s : State) (A n : Nat) : State :=
  (pieces A n).foldl (fun s p => s.lineRead p.1 p.2.1 p.2.2.1) s

/-- What a device range holds after devTouch: its bytes, and the state of its 64-bit words from A / 8. -/
def State.devData (s : State) (A n : Nat) : Mem × RMap CWord :=
  (Mem.slice s.ccd.mem A n, s.sentWords (A / 8) ((A + n + 7) / 8 - A / 8))

/-- Reads n bytes at A piece by piece; the data of each piece is taken before the next is read, since a later
allocation may evict an earlier line. -/
def State.devRead (s : State) (A n : Nat) : State × Mem × RMap CWord :=
  (pieces A n).foldl (fun acc p =>
    let s := acc.1.lineRead p.1 p.2.1 p.2.2.1
    let d := Mem.slice s.ccd.mem (p.1 * 1024 + p.2.1) p.2.2.1
    let w0 := (p.1 * 1024 + p.2.1) / 8
    let w1 := (p.1 * 1024 + p.2.1 + p.2.2.1 + 7) / 8
    (s, Mem.splice acc.2.1 p.2.2.2 p.2.2.1 d,
      RMap.splice {} acc.2.2 (w0 - A / 8) (w1 - w0) {} (s.sentWords w0 (w1 - w0)))) (s, [], [])

/-- Writes n bytes at device address A; psn gives poison by 64-bit word from A / 8. -/
def State.devWrite (s : State) (A n : Nat) (data : Mem) (psn : RMap Bool) : State :=
  (pieces A n).foldl (fun s p =>
    s.lineWrite p.1 p.2.1 p.2.2.1 (Mem.slice data p.2.2.2 p.2.2.1)
      (let w0 := (p.1 * 1024 + p.2.1) / 8
       let cnt := (p.1 * 1024 + p.2.1 + p.2.2.1 + 7) / 8 - w0
       RMap.splice false [] (p.2.1 / 8) cnt false (RMap.slice false psn (w0 - A / 8) cnt))) s

/-- The poison of 64-bit words as a map of truth values. -/
def poisonOf (m : RMap CWord) : RMap Bool := RMap.norm false (m.map fun e => (e.1, e.2.poison))

/-! ### The block array (chapter 7) -/

/-- Bytes of a block array (R179). -/
def baBytes : Nat := 0x200000

/-- Journals granule g of block b before its first write in the ply (R56, R199). -/
def State.journalGranule (s : State) (b g : Nat) : State :=
  if !s.firstWrite (.granule b g) then s else
  let B := s.blk b
  s.journalAdd { key := .granule b g, data := Mem.slice B.ba (g * 1024) 1024, cwords := [],
                 words := RMap.slice {} B.baSt (g * 256) 256 }

/-- Journals every granule that n bytes from offset o touch. -/
def State.journalGranules (s : State) (b o n : Nat) : State :=
  if n = 0 then s else
  (List.range ((o + n - 1) / 1024 - o / 1024 + 1)).foldl (fun s i => s.journalGranule b (o / 1024 + i)) s

/-- Writes whole words: n bytes (a multiple of 4) from offset o; psn gives poison by 32-bit word from o / 4 (R196). -/
def State.baWrite (s : State) (b o n : Nat) (data : Mem) (psn : RMap Bool) : State :=
  if n = 0 then s else
  (s.journalGranules b o n).updBlk b fun B => { B with
    ba := Mem.splice B.ba o n data
    baSt := RMap.splice {} B.baSt (o / 4) (n / 4) { written := true }
      ((RMap.slice false psn 0 (n / 4)).map fun e => (e.1, ({ written := true, poison := e.2 } : WordSt))) }

/-- The word at index w of a block array. -/
def Block.word (B : Block) (w : Nat) : W32 := Mem.rd32 B.ba (4 * w)

/-- The state of the word at index w of a block array. -/
def Block.wordSt (B : Block) (w : Nat) : WordSt := RMap.get {} B.baSt w

/-- Marks n bytes from offset o unwritten, which copies nothing to the journal (R94, R182). -/
def State.baUnwrite (s : State) (b o n : Nat) : State :=
  if n = 0 then s else s.updBlk b fun B => { B with
    baSt := RMap.mapRange {} B.baSt (o / 4) (n / 4) fun w => { w with written := false } }

/-- A strike against a unit of block b in the attempt in flight (R460): unit 0-1 a matrix cell, 2 the block. -/
def State.strike (s : State) (b unit row : Nat) : State :=
  if !s.inPly then s else
  s.updBlk b fun B =>
    let k := (row, unit, s.sch.ply, s.sch.attempt)
    if B.strikes.contains k then B else { B with strikes := k :: B.strikes }

/-- The CE record of a corrected word of block b's memory, at word w of the array (R455, R458). -/
def State.baCeRec (s : State) (b w : Nat) : State :=
  s.postSyndrome 7 { cls := 1, level := 1, unit := 0x05, code := 1, lblock := some b, loc := w % 256 / 8, addr := 4 * w }

/-- Corrects the singly wrong words of w to w + n - 1 of block b in place; each is counted and posts a CE record, within the
limit of R457 (R200, R455). -/
def State.baCorrect (s : State) (b w n : Nat) : State :=
  let B := s.blk b
  let segs := RMap.segs {} B.baSt w n fun c => c.chk == .single
  let ce := segs.foldl (fun a e => a + e.2) 0
  if ce = 0 then s else
  let s := s.updBlk b fun B => { B with
    baCe := satAdd B.baCe ce
    baSt := RMap.mapRange {} B.baSt w n fun c => if c.chk == .single then { c with chk := .good } else c }
  segs.foldl (fun s e => (List.range e.2).foldl (fun s i => s.baCeRec b (e.1 + i)) s) s

/-- The sequencer stops without a trap (Table 7.10): a UC record at block level; R37 applies at the boundary. -/
def State.seqStop (s : State) (b o : Nat) : State :=
  let q := (s.blk b).seq
  (s.post { cls := 3, level := 1, unit := 0x01, code := 0x200, lblock := some b, addr := o, data0 := q.pc,
            data1 := Mem.rd q.imem q.pc 4 }).updSeq b fun q => { q with st := .stopped }

/-- An uncorrectable or unwritten word met by a consumer: counted in ue; an uncorrectable one is a strike (R200,
R460). -/
def State.baCount (s : State) (b : Nat) (st : WordSt) : State :=
  let s := s.updBlk b fun B => { B with baUe := satAdd B.baUe 1 }
  if st.chk == .bad then s.strike b 2 6 else s

/-- As baCount for word w; an unwritten word of an array promoted dark stops the block (R463). -/
def State.baMet (s : State) (b w : Nat) (st : WordSt) : State :=
  let s := s.baCount b st
  if (s.blk b).promotedDark && !st.written && s.inPly then s.seqStop b (4 * w) else s

/-- Counts the dark words among n words from word w of block b as a consumer meets them (R200). -/
def State.baDarkMet (s : State) (b w n : Nat) : State :=
  let B := s.blk b
  (RMap.segs {} B.baSt w n fun c => !c.written || c.chk == .bad).foldl (fun s e =>
    (List.range e.2).foldl (fun s i => s.baMet b (e.1 + i) (B.wordSt (e.1 + i))) s) s

/-- The DE record of a block-array word (Table 18.4). -/
def State.baRec (s : State) (b w : Nat) (st : WordSt) : State :=
  s.postSyndrome 7 { cls := 2, level := 1, unit := 0x05, code := if st.chk == .bad then 2 else 3, lblock := some b,
                     loc := w % 256 / 8, addr := 4 * w }

/-- A word that no consumer may use as data: poisoned, uncorrectable or unwritten. -/
def WordSt.dark (w : WordSt) : Bool := w.poison || w.chk == .bad || !w.written

/-- Reads word w of block b for a consumer that takes a dark word as poison (matrix operand, thread): the new state,
the value, and whether it is poisoned (Table 7.10). -/
def State.baTake (s : State) (b w : Nat) : State × W32 × Bool :=
  let s := s.baCorrect b w 1
  let st := (s.blk b).wordSt w
  let v := (s.blk b).word w
  if !st.written || st.chk == .bad then ((s.baMet b w st).baRec b w st, v, true)
  else (s, v, st.poison)

/-- Merges a narrow store of n bytes at offset o of block b into its word (R198): a poisoned word stays poisoned; an
uncorrectable or unwritten one is written poisoned, with a DE record. -/
def State.baMerge (s : State) (b o n v : Nat) (psn : Bool) : State :=
  let w := o / 4
  let s := (s.journalGranule b (o / 1024)).baCorrect b w 1
  let st := (s.blk b).wordSt w
  let s := if !st.written || st.chk == .bad then (s.baMet b w st).baRec b w st else s
  s.updBlk b fun B => { B with
    ba := Mem.splice B.ba o n (Mem.wr [] 0 n v)
    baSt := RMap.fill {} B.baSt w 1 { written := true, poison := st.dark || psn } }

end Sys2Proof.Machine
end

