-- ==== Sys2Proof/Machine/Check.lean ====
section
/-! DEFINITION. The ply check's causes (R48, Table 2.2), flag falls (Table 18.4, unit 0x29), and port event records
(R315). -/

namespace Sys2Proof.Machine

/-- Index of the newest record, if there is one. -/
def Err.newest (e : Err) : Option W32 := if e.next = 0 then none else some (e.next - 1)

/-- A check cause of the ply in flight whose culprit is the member itself. A cause that arises while no ply is in flight
sets nothing, not even its bit of SCH_CHECK_CAUSE, since the device contributes no cause then (DESIGN CHOICE, log entry
87). -/
def State.checkSelf (s : State) (i : Nat) : State :=
  if !s.inPly then s else
  { s.causeBit i with sch := { (s.causeBit i).sch with
      cur := { s.sch.cur with
        clean := false, selfCulprit := true, decider := s.sch.cur.decider.orElse fun _ => s.err.newest } } }

/-- A check cause of the ply in flight whose culprit is the partner on port p; outside a ply it sets nothing (DESIGN
CHOICE, log entry 87). -/
def State.checkPort (s : State) (i p : Nat) : State :=
  if !s.inPly then s else
  { s.causeBit i with sch := { (s.causeBit i).sch with
      cur := { s.sch.cur with
        clean := false
        blame := if s.sch.cur.blame.contains p then s.sch.cur.blame else s.sch.cur.blame ++ [p] } } }

/-- The record of a flag fall: 1 ply, 2 rollback, 3 time, 4 mirror, 5 near-bank, 6 collective. -/
def State.fallRec (s : State) (code : Nat) (b : Option Nat) : State :=
  s.post { cls := 3, level := 3, unit := 0x29, code := code, lblock := b }

/-- A watchdog of this member falls its flag (R48). -/
def State.flagFall (s : State) (code : Nat) (b : Option Nat) : State := (s.fallRec code b).checkSelf 4

/-- Class of a port event (Table 11.9). -/
def portEventClass (code : Nat) : Nat :=
  if code = 4 || code = 6 || code = 7 || code = 8 then 3 else 1

/-- Records a port event: at most one record of each code per port in the ply or window; later ones are only counted
(R315). -/
def State.portEvent (s : State) (p code lane kind : Nat) : State :=
  if !s.mainOn then s else
  let s := s.rollWindow
  if s.err.portEvents.contains (p, code) then { s with err := s.err.count (portEventClass code) } else
  let s := { s with err := { s.err with portEvents := (p, code) :: s.err.portEvents } }
  s.post { cls := portEventClass code, level := 3, unit := 0x24, code := code, loc := p + lane <<< 5, data0 := kind }

/-- Counts a partner's misbehaviour of kinds 3 to 13 and records it (R314). -/
def State.misbehaved (s : State) (p kind : Nat) : State :=
  (s.updPort p fun k => { k with viol := satAdd k.viol 1 }).portEvent p 9 0x1F kind

end Sys2Proof.Machine
end

