-- ==== Sys2Proof/Machine/SeqCode.lean ====
section
/-! DEFINITION. The ply sequencer's instruction words: their formats (Table 3.10), their decoding (Table 3.11, R88,
R89), and an encoder written from the same tables. -/

namespace Sys2Proof.Machine

/-- ALU functions (Table 3.11). -/
inductive AluFn where
  | add | sub | and | or | xor | sll | srl | sra | slt | sltu | mul | mulhu | min | max | minu | maxu
  deriving DecidableEq, Repr

/-- I-format operations with an immediate operand. -/
inductive ImmOp where
  | addi | andi | ori | xori | slli | srli | srai | slti | sltiu
  deriving DecidableEq, Repr

/-- Branch conditions. -/
inductive BrOp where
  | beq | bne | blt | bge | bltu | bgeu
  deriving DecidableEq, Repr

/-- A decoded sequencer instruction; immediates and offsets are kept as their raw bits. -/
inductive SeqIns where
  | alu (f : AluFn) (rd ra rb : Nat)
  | immOp (f : ImmOp) (rd ra imm : Nat)
  | lui (rd imm : Nat)
  | lw (rd ra imm : Nat)
  | sw (rd ra imm : Nat)
  | br (f : BrOp) (ra rb off : Nat)
  | jal (rd off : Nat)
  | jalr (rd ra imm : Nat)
  | cissue (target ra rb : Nat)
  | launch (ra : Nat)
  | waitc (mask : Nat)
  | waitk (ra imm : Nat)
  | waitx (ra imm : Nat)
  | sempost (sem n : Nat)
  | semwait (sem n : Nat)
  | loadi (ra : Nat)
  | csrr (rd csr : Nat)
  | csrw (csr ra : Nat)
  | trap (imm : Nat)
  | eop
  /-- An unlisted opcode or funct, or a non-zero reserved field (R89). -/
  | illegal
  deriving DecidableEq, Repr

/-- Funct codes of ALU. -/
def AluFn.code : AluFn → Nat
  | .add => 0 | .sub => 1 | .and => 2 | .or => 3 | .xor => 4 | .sll => 5 | .srl => 6 | .sra => 7
  | .slt => 8 | .sltu => 9 | .mul => 10 | .mulhu => 11 | .min => 12 | .max => 13 | .minu => 14 | .maxu => 15

/-- The ALU function of a funct code. -/
def AluFn.ofCode : Nat → Option AluFn
  | 0 => some .add | 1 => some .sub | 2 => some .and | 3 => some .or | 4 => some .xor | 5 => some .sll
  | 6 => some .srl | 7 => some .sra | 8 => some .slt | 9 => some .sltu | 10 => some .mul | 11 => some .mulhu
  | 12 => some .min | 13 => some .max | 14 => some .minu | 15 => some .maxu | _ => none

/-- Opcodes of the immediate operations. -/
def ImmOp.code : ImmOp → Nat
  | .addi => 1 | .andi => 2 | .ori => 3 | .xori => 4 | .slli => 5 | .srli => 6 | .srai => 7 | .slti => 8
  | .sltiu => 9

/-- The shifts take five bits of immediate, and its other bits must be zero. -/
def ImmOp.isShift : ImmOp → Bool
  | .slli | .srli | .srai => true
  | _ => false

/-- The immediate operation of an opcode. -/
def ImmOp.ofCode : Nat → Option ImmOp
  | 1 => some .addi | 2 => some .andi | 3 => some .ori | 4 => some .xori | 5 => some .slli | 6 => some .srli
  | 7 => some .srai | 8 => some .slti | 9 => some .sltiu | _ => none

/-- Opcodes of the branches. -/
def BrOp.code : BrOp → Nat
  | .beq => 0x18 | .bne => 0x19 | .blt => 0x1A | .bge => 0x1B | .bltu => 0x1C | .bgeu => 0x1D

/-- The branch of an opcode. -/
def BrOp.ofCode : Nat → Option BrOp
  | 0x18 => some .beq | 0x19 => some .bne | 0x1A => some .blt | 0x1B => some .bge | 0x1C => some .bltu
  | 0x1D => some .bgeu | _ => none

/-- Legal if c holds. -/
def legalIf (c : Bool) (i : SeqIns) : SeqIns := if c then i else .illegal

/-- Decodes an instruction word (R88, R89). -/
def seqDecode (w : Nat) : SeqIns :=
  let op := bitsN w 31 26
  let f1 := bitsN w 25 22
  let f2 := bitsN w 21 18
  let f3 := bitsN w 17 14
  let lo14 := bitsN w 13 0
  let imm := bitsN w 17 0
  let mask := bitsN w 25 18
  let sem := bitsN w 23 18
  match op with
  | 0x00 => match AluFn.ofCode lo14 with
    | some f => .alu f f1 f2 f3
    | none => .illegal
  | 0x0A => .lui f1 (bitsN w 21 0)
  | 0x10 => .lw f1 f2 imm
  | 0x11 => .sw f1 f2 imm
  | 0x1E => .jal f1 (bitsN w 21 0)
  | 0x1F => .jalr f1 f2 imm
  | 0x20 => legalIf (lo14 == 0 && decide (f1 < 8)) (.cissue f1 f2 f3)
  | 0x21 => legalIf (lo14 == 0 && f1 == 0 && f3 == 0) (.launch f2)
  | 0x22 => legalIf (decide (mask < 128) && imm == 0) (.waitc mask)
  | 0x23 => legalIf (f1 == 0) (.waitk f2 imm)
  | 0x24 => legalIf (f1 == 0) (.waitx f2 imm)
  | 0x25 => legalIf (bitsN w 25 24 == 0 && decide (0 < imm) && decide (imm ≤ 4095)) (.sempost sem imm)
  | 0x26 => legalIf (bitsN w 25 24 == 0) (.semwait sem imm)
  | 0x28 => legalIf (f1 == 0 && imm == 0) (.loadi f2)
  | 0x2C => legalIf (f2 == 0) (.csrr f1 imm)
  | 0x2D => legalIf (f1 == 0) (.csrw imm f2)
  | 0x3E => legalIf (f1 == 0 && f2 == 0) (.trap imm)
  | 0x3F => legalIf (bitsN w 25 0 == 0) .eop
  | _ =>
    match ImmOp.ofCode op with
    | some f => legalIf (!f.isShift || decide (imm < 32)) (.immOp f f1 f2 imm)
    | none =>
      match BrOp.ofCode op with
      | some f => .br f f1 f2 imm
      | none => .illegal

/-- A word from its opcode and the three fields above an 18-bit immediate. -/
def seqWord (op f1 f2 imm : Nat) : Nat := op * 2 ^ 26 + f1 * 2 ^ 22 + f2 * 2 ^ 18 + imm

/-- Encodes an instruction (Tables 3.10 and 3.11); illegal has no word of its own and takes opcode 0x3D. -/
def seqEncode : SeqIns → Nat
  | .alu f rd ra rb => seqWord 0 rd ra (rb * 2 ^ 14 + f.code)
  | .immOp f rd ra imm => seqWord f.code rd ra imm
  | .lui rd imm => 0x0A * 2 ^ 26 + rd * 2 ^ 22 + imm
  | .lw rd ra imm => seqWord 0x10 rd ra imm
  | .sw rd ra imm => seqWord 0x11 rd ra imm
  | .br f ra rb off => seqWord f.code ra rb off
  | .jal rd off => 0x1E * 2 ^ 26 + rd * 2 ^ 22 + off
  | .jalr rd ra imm => seqWord 0x1F rd ra imm
  | .cissue t ra rb => seqWord 0x20 t ra (rb * 2 ^ 14)
  | .launch ra => seqWord 0x21 0 ra 0
  | .waitc mask => 0x22 * 2 ^ 26 + mask * 2 ^ 18
  | .waitk ra imm => seqWord 0x23 0 ra imm
  | .waitx ra imm => seqWord 0x24 0 ra imm
  | .sempost sem n => 0x25 * 2 ^ 26 + sem * 2 ^ 18 + n
  | .semwait sem n => 0x26 * 2 ^ 26 + sem * 2 ^ 18 + n
  | .loadi ra => seqWord 0x28 0 ra 0
  | .csrr rd csr => seqWord 0x2C rd 0 csr
  | .csrw csr ra => seqWord 0x2D 0 ra csr
  | .trap imm => seqWord 0x3E 0 0 imm
  | .eop => 0xFC000000
  | .illegal => 0xF4000000

/-- The fields fit their places in the word. -/
def SeqIns.wf : SeqIns → Bool
  | .alu _ rd ra rb => decide (rd < 16) && decide (ra < 16) && decide (rb < 16)
  | .immOp f rd ra imm =>
    decide (rd < 16) && decide (ra < 16) && if f.isShift then decide (imm < 32) else decide (imm < 2 ^ 18)
  | .lui rd imm => decide (rd < 16) && decide (imm < 2 ^ 22)
  | .lw rd ra imm | .sw rd ra imm | .jalr rd ra imm =>
    decide (rd < 16) && decide (ra < 16) && decide (imm < 2 ^ 18)
  | .br _ ra rb off => decide (ra < 16) && decide (rb < 16) && decide (off < 2 ^ 18)
  | .jal rd off => decide (rd < 16) && decide (off < 2 ^ 22)
  | .cissue t ra rb => decide (t < 8) && decide (ra < 16) && decide (rb < 16)
  | .launch ra | .loadi ra => decide (ra < 16)
  | .waitc mask => decide (mask < 128)
  | .waitk ra imm | .waitx ra imm => decide (ra < 16) && decide (imm < 2 ^ 18)
  | .sempost sem n => decide (sem < 64) && decide (0 < n) && decide (n ≤ 4095)
  | .semwait sem n => decide (sem < 64) && decide (n < 2 ^ 18)
  | .csrr rd csr => decide (rd < 16) && decide (csr < 2 ^ 18)
  | .csrw csr ra => decide (ra < 16) && decide (csr < 2 ^ 18)
  | .trap imm => decide (imm < 2 ^ 18)
  | .eop => true
  | .illegal => true

end Sys2Proof.Machine
end

