-- ==== Sys2Proof/Machine/Seq.lean ====
section
/-! DEFINITION. The ply sequencer (chapter 3): fetch, traps, CSRs, and one meaning per instruction. A row names the
instruction that the sequencer of block b executes next; where the word at its pc is another, the row has not happened
and nothing changes (log entry 4). -/

namespace Sys2Proof.Machine

/-- Block b runs: a ply is in flight, its slot holds it, it is neither halted nor being promoted. -/
def State.blockLive (s : State) (b : Nat) : Bool :=
  s.inPly && !(s.blk b).halted && !(s.blk b).lost &&
  match (s.region (b / 12)).promo with
  | some (l, _, _) => l != b % 12
  | none => true

/-- Sequencer register r; s0 reads zero. -/
def Seq.reg (q : Seq) (r : Nat) : W32 := if r = 0 then 0 else SMap.get 0 q.regs r

/-- Writes a sequencer register; writes to s0 are discarded. -/
def Seq.setReg (q : Seq) (r : Nat) (v : W32) : Seq := if r = 0 then q else { q with regs := SMap.set 0 q.regs r v }

/-- Goes on to the next word. -/
def Seq.advance (q : Seq) : Seq := { q with pc := q.pc + 4, st := .run }

/-- The word at the pc. -/
def Seq.word (q : Seq) : Nat := Mem.rd q.imem q.pc 4

/-- A trap (R92): the sequencer halts, its cause is recorded, and a UC record is posted at block level. An
uncorrectable instruction word is a strike (Table 18.6). -/
def State.seqTrap (s : State) (b cause : Nat) : State :=
  let q := (s.blk b).seq
  let s := s.updSeq b fun q => { q with st := .trapped, trapCause := BitVec.ofNat 32 cause }
  let s := s.post { cls := 3, level := 1, unit := 0x01, code := cause, lblock := some b, data0 := q.pc,
                    data1 := q.word }
  if cause = 4 then s.strike b 2 3 else s

/-- What stops the fetch at the pc: past 0xFFFC (0x007), an empty overlay slot (0x005), an uncorrectable word
(0x004). -/
def Seq.fetchFault (q : Seq) : Option Nat :=
  if 0xFFFC < q.pc then some 7
  else if 0xC000 ≤ q.pc && q.overlay == 0xFFFF then some 5
  else if SMap.get .good q.imemChk (q.pc / 4) == .bad then some 4
  else none

/-- Executes the next instruction of block b if f takes it. -/
def State.seqStep (s : State) (b : Nat) (f : SeqIns → State → Option State) : State :=
  let q := (s.blk b).seq
  if !(s.blockLive b && q.st == .run) then s else
  let t := s.serveAs q.bwclass b
  match q.fetchFault with
  | some c => t.seqTrap b c
  | none =>
    (f (seqDecode q.word) (t.updSeq b fun q => { q with imemChk := SMap.set .good q.imemChk (q.pc / 4) .good })).getD s

/-- A register-only result. -/
def State.seqWrite (s : State) (b rd : Nat) (v : W32) : State := s.updSeq b fun q => (q.setReg rd v).advance

/-- The value of a sequencer register of block b. -/
def State.seqReg (s : State) (b r : Nat) : W32 := (s.blk b).seq.reg r

/-- An 18-bit immediate, sign-extended. -/
def imm18s (i : Nat) : W32 := BitVec.signExtend 32 (BitVec.ofNat 18 i)

/-- An 18-bit immediate, unsigned. -/
def imm18u (i : Nat) : W32 := BitVec.ofNat 32 (i % 2 ^ 18)

/-- ALU results (Table 3.11). -/
def aluOp (f : AluFn) (x y : W32) : W32 :=
  match f with
  | .add => x + y
  | .sub => x - y
  | .and => x &&& y
  | .or => x ||| y
  | .xor => x ^^^ y
  | .sll => x <<< (y.toNat % 32)
  | .srl => x >>> (y.toNat % 32)
  | .sra => x.sshiftRight (y.toNat % 32)
  | .slt => if x.slt y then 1 else 0
  | .sltu => if x.ult y then 1 else 0
  | .mul => x * y
  | .mulhu => BitVec.ofNat 32 (x.toNat * y.toNat / 2 ^ 32)
  | .min => if x.slt y then x else y
  | .max => if x.slt y then y else x
  | .minu => if x.ult y then x else y
  | .maxu => if x.ult y then y else x

/-- Results of the immediate operations (Table 3.11). SLTIU extends its immediate by sign before it compares unsigned
(DEDUCED from R88, log entry 9). -/
def immResult (f : ImmOp) (x : W32) (i : Nat) : W32 :=
  match f with
  | .addi => x + imm18s i
  | .andi => x &&& imm18u i
  | .ori => x ||| imm18u i
  | .xori => x ^^^ imm18u i
  | .slli => x <<< (i % 32)
  | .srli => x >>> (i % 32)
  | .srai => x.sshiftRight (i % 32)
  | .slti => if x.slt (imm18s i) then 1 else 0
  | .sltiu => if x.ult (imm18s i) then 1 else 0

/-- Branch conditions. -/
def brTaken (f : BrOp) (x y : W32) : Bool :=
  match f with
  | .beq => x == y
  | .bne => x != y
  | .blt => x.slt y
  | .bge => !x.slt y
  | .bltu => x.ult y
  | .bgeu => !x.ult y

/-- Goes to a target address, or traps with cause 0x007 outside 0x0000-0xFFFF. -/
def State.seqGoto (s : State) (b : Nat) (t : Int) (f : Seq → Seq) : State :=
  if 0 ≤ t && t ≤ 0xFFFF then s.updSeq b fun q => { f q with pc := t.toNat, st := .run } else s.seqTrap b 7

/-- Bytes of scratchpad in the split in force (R94, R180). -/
def State.scratchTop (s : State) (b : Nat) : Nat :=
  match (s.blk b).tg.kernel with
  | some k => if k.started then (8 - k.l1) * 0x40000 else baBytes
  | none => baBytes

/-- End of the scratchpad for cells, channels and frames: the L1 range of a resident kernel is refused from its LAUNCH on
(R181). -/
def State.unitTop (s : State) (b : Nat) : Nat :=
  match (s.blk b).tg.kernel with
  | some k => (8 - k.l1) * 0x40000
  | none => baBytes

/-- Immediate operations. -/
def State.seqImm (s : State) (b : Nat) (want : ImmOp) : State :=
  s.seqStep b fun i s =>
    match i with
    | .immOp f rd ra imm => if f = want then some (s.seqWrite b rd (immResult f (s.seqReg b ra) imm)) else none
    | _ => none

/-- Branches. -/
def State.seqBranch (s : State) (b : Nat) (want : BrOp) : State :=
  s.seqStep b fun i s =>
    match i with
    | .br f ra rb off =>
      if f ≠ want then none
      else if brTaken f (s.seqReg b ra) (s.seqReg b rb) then
        some (s.seqGoto b ((s.blk b).seq.pc + sgn 18 off * 4) id)
      else some (s.updSeq b Seq.advance)
    | _ => none

/-- Register ALU operations. -/
def execSeqAlu (b : Nat) (s : State) : Out :=
  onUnit (decide (b < 96)) (s.seqStep b fun i s =>
    match i with
    | .alu f rd ra rb => some (s.seqWrite b rd (aluOp f (s.seqReg b ra) (s.seqReg b rb)))
    | _ => none)

/-- ADDI. -/
def execSeqAddi (b : Nat) (s : State) : Out := onUnit (decide (b < 96)) (s.seqImm b .addi)
/-- ANDI. -/
def execSeqAndi (b : Nat) (s : State) : Out := onUnit (decide (b < 96)) (s.seqImm b .andi)
/-- ORI. -/
def execSeqOri (b : Nat) (s : State) : Out := onUnit (decide (b < 96)) (s.seqImm b .ori)
/-- XORI. -/
def execSeqXori (b : Nat) (s : State) : Out := onUnit (decide (b < 96)) (s.seqImm b .xori)
/-- SLLI. -/
def execSeqSlli (b : Nat) (s : State) : Out := onUnit (decide (b < 96)) (s.seqImm b .slli)
/-- SRLI. -/
def execSeqSrli (b : Nat) (s : State) : Out := onUnit (decide (b < 96)) (s.seqImm b .srli)
/-- SRAI. -/
def execSeqSrai (b : Nat) (s : State) : Out := onUnit (decide (b < 96)) (s.seqImm b .srai)
/-- SLTI. -/
def execSeqSlti (b : Nat) (s : State) : Out := onUnit (decide (b < 96)) (s.seqImm b .slti)
/-- SLTIU. -/
def execSeqSltiu (b : Nat) (s : State) : Out := onUnit (decide (b < 96)) (s.seqImm b .sltiu)

/-- LUI. -/
def execSeqLui (b : Nat) (s : State) : Out :=
  onUnit (decide (b < 96)) (s.seqStep b fun i s =>
    match i with
    | .lui rd imm => some (s.seqWrite b rd (BitVec.ofNat 32 (imm <<< 10)))
    | _ => none)

/-- LW: misaligned traps 0x002, outside the scratchpad 0x003; a dark word stops the sequencer (Table 7.10). -/
def execSeqLw (b : Nat) (s : State) : Out :=
  onUnit (decide (b < 96)) (s.seqStep b fun i s =>
    match i with
    | .lw rd ra imm =>
      let a := (s.seqReg b ra + imm18s imm).toNat
      if a % 4 ≠ 0 then some (s.seqTrap b 2)
      else if s.scratchTop b ≤ a then some (s.seqTrap b 3)
      else
        let s := s.baCorrect b (a / 4) 1
        let st := (s.blk b).wordSt (a / 4)
        if st.dark then
          some ((if st.chk == .bad || !st.written then s.baCount b st else s).seqStop b a)
        else some (s.seqWrite b rd ((s.blk b).word (a / 4)))
    | _ => none)

/-- SW: a whole-word write (R196). -/
def execSeqSw (b : Nat) (s : State) : Out :=
  onUnit (decide (b < 96)) (s.seqStep b fun i s =>
    match i with
    | .sw rd ra imm =>
      let a := (s.seqReg b ra + imm18s imm).toNat
      if a % 4 ≠ 0 then some (s.seqTrap b 2)
      else if s.scratchTop b ≤ a then some (s.seqTrap b 3)
      else some ((s.baWrite b a 4 (Mem.wr32 [] 0 (s.seqReg b rd)) []).updSeq b Seq.advance)
    | _ => none)

/-- BEQ. -/
def execSeqBeq (b : Nat) (s : State) : Out := onUnit (decide (b < 96)) (s.seqBranch b .beq)
/-- BNE. -/
def execSeqBne (b : Nat) (s : State) : Out := onUnit (decide (b < 96)) (s.seqBranch b .bne)
/-- BLT. -/
def execSeqBlt (b : Nat) (s : State) : Out := onUnit (decide (b < 96)) (s.seqBranch b .blt)
/-- BGE. -/
def execSeqBge (b : Nat) (s : State) : Out := onUnit (decide (b < 96)) (s.seqBranch b .bge)
/-- BLTU. -/
def execSeqBltu (b : Nat) (s : State) : Out := onUnit (decide (b < 96)) (s.seqBranch b .bltu)
/-- BGEU. -/
def execSeqBgeu (b : Nat) (s : State) : Out := onUnit (decide (b < 96)) (s.seqBranch b .bgeu)

/-- JAL. -/
def execSeqJal (b : Nat) (s : State) : Out :=
  onUnit (decide (b < 96)) (s.seqStep b fun i s =>
    match i with
    | .jal rd off =>
      let pc := (s.blk b).seq.pc
      some (s.seqGoto b (pc + sgn 22 off * 4) fun q => q.setReg rd (BitVec.ofNat 32 (pc + 4)))
    | _ => none)

/-- JALR. -/
def execSeqJalr (b : Nat) (s : State) : Out :=
  onUnit (decide (b < 96)) (s.seqStep b fun i s =>
    match i with
    | .jalr rd ra imm =>
      let pc := (s.blk b).seq.pc
      let t := (s.seqReg b ra + imm18s imm).toNat / 4 * 4
      some (s.seqGoto b t fun q => q.setReg rd (BitVec.ofNat 32 (pc + 4)))
    | _ => none)

/-- A CISSUE target that discards commands without stalling: a halted cell, channel or target (R117, R194, R290,
R332). -/
def State.targetHalted (s : State) (b t : Nat) : Bool :=
  if t < 2 then (s.mcAt b t).halted
  else if t < 6 then (s.dmaAt b (t - 2)).halted
  else SMap.get false (s.blk b).seq.tgtHalted t

/-- CISSUE proper: the command enters its target's queue of four, or the sequencer stalls (R91). -/
def State.seqCissue (s : State) (b t ra rb : Nat) : State :=
  let q := (s.blk b).seq
  let w : W64 := BitVec.ofNat 64 ((q.reg ra).toNat + 2 ^ 32 * (q.reg rb).toNat)
  let queue := SMap.get [] q.queues t
  if s.targetHalted b t then
    s.updSeq b fun q => ({ q with issued := SMap.upd 0 q.issued t (· + 1) } : Seq).advance
  else if 4 ≤ queue.length then s.updSeq b fun q => { q with st := .wait (.queue t) }
  else s.updSeq b fun q =>
    ({ q with queues := SMap.set [] q.queues t (queue ++ [(w, q.bwclass)])
              issued := SMap.upd 0 q.issued t (· + 1) } : Seq).advance

/-- CISSUE. -/
def execSeqCissue (b : Nat) (s : State) : Out :=
  onUnit (decide (b < 96)) (s.seqStep b fun i s =>
    match i with
    | .cissue t ra rb => some (s.seqCissue b t ra rb)
    | _ => none)

/-- A launch record is valid (Table 3.14): its eight words by index. -/
def launchOk (w : Nat → Nat) : Bool :=
  let entry := w 0 + 2 ^ 32 * w 1
  let args := w 2 + 2 ^ 32 * w 3
  let regs := bitsN (w 5) 9 2
  let l1 := bitsN (w 5) 13 10
  entry % 8 == 0 && decide (entry < 0x8000000) && args % 4 == 0 && decide (l1 ≤ 8) &&
  decide (args < (8 - l1) * 0x40000) && decide (0 < w 4) && decide (w 4 ≤ 16777216) && decide (16 ≤ regs) &&
  bitsN (w 5) 31 17 == 0 && w 6 == 0 && w 7 == 0

/-- Threads in a group of a width code. -/
def widthOf (code : Nat) : Nat := 8 * 2 ^ code

/-- LAUNCH proper (R93, R94, R182): while a kernel is resident the sequencer stalls; a bad record traps 0x006. -/
def State.seqLaunch (s : State) (b ra : Nat) : State :=
  if (s.blk b).tg.kernel.isSome then s.updSeq b fun q => { q with st := .wait .kernel } else
  let a := (s.seqReg b ra).toNat
  if a % 32 ≠ 0 || baBytes < a + 32 then s.seqTrap b 6 else
  let s := s.baCorrect b (a / 4) 8
  let B := s.blk b
  let dark := (List.range 8).filter fun i => (B.wordSt (a / 4 + i)).dark
  if !dark.isEmpty then
    (dark.foldl (fun s i =>
      let st := B.wordSt (a / 4 + i)
      if st.chk == .bad || !st.written then s.baCount b st else s) s).seqTrap b 6
  else
    let w (i : Nat) : Nat := (B.word (a / 4 + i)).toNat
    if !launchOk w then s.seqTrap b 6 else
    let l1 := bitsN (w 5) 13 10
    let k : Kernel :=
      { entry := w 0 + 2 ^ 32 * w 1, args := w 2 + 2 ^ 32 * w 3, groups := w 4
        width := widthOf (bitsN (w 5) 1 0), regs := bitsN (w 5) 9 2, l1 := l1, cls := bitsN (w 5) 16 14
        issued := B.seq.issued }
    let s := s.baUnwrite b ((8 - l1) * 0x40000) (l1 * 0x40000)
    (s.updTg b fun g => { g with kernel := some k, l1 := [] }).updSeq b Seq.advance

/-- LAUNCH. -/
def execSeqLaunch (b : Nat) (s : State) : Out :=
  onUnit (decide (b < 96)) (s.seqStep b fun i s =>
    match i with
    | .launch ra => some (s.seqLaunch b ra)
    | _ => none)

/-- Unit u of WAITC has completed every command issued to it: cells 0-1, channels 2-5, the thread-group cell 6. A
halted unit never does (R117, R194). -/
def State.unitDone (s : State) (b u : Nat) : Bool :=
  if u = 6 then (s.blk b).tg.kernel.isNone
  else !s.targetHalted b u &&
    SMap.get 0 (s.blk b).seq.issued u == SMap.get 0 (s.blk b).seq.completed u

/-- Ticks since the ply start. -/
def State.plyTick (s : State) : Nat := s.dom - s.sch.start

/-- The section whose code, transfers and ports are in force: on a standby that has taken a place, the served
member's (R341). -/
def State.plan (s : State) : Option Section :=
  match s.image with
  | none => none
  | some im =>
    match s.standby.place with
    | none => some im.own
    | some p => (im.served.find? fun x => x.ldev == p).orElse fun _ => some im.own

/-- Transfer table entry e applies in the ply in flight (R74). -/
def State.xferApplies (s : State) (x : Xfer) : Bool := s.sch.ply.toNat % x.period == x.phase

/-- Expect entry e has all its frames, or does not apply in this ply. -/
def State.xferDone (s : State) (e : Nat) : Bool :=
  match s.plan.bind fun p => p.xfers[e]? with
  | none => true
  | some x => !s.xferApplies x || decide (x.frames ≤ (SMap.get [] s.fab.received e).length)

/-- The condition a sequencer waits for holds (R91). -/
def State.seqCond (s : State) (b : Nat) (w : SeqWait) : Bool :=
  match w with
  | .units mask => (List.range 7).all fun u => !mask.getLsbD u || s.unitDone b u
  | .tick t => decide (t ≤ s.plyTick)
  | .xfer e => s.xferDone e
  | .sem _ _ => false
  | .queue t => s.targetHalted b t || decide ((SMap.get [] (s.blk b).seq.queues t).length < 4)
  | .kernel => (s.blk b).tg.kernel.isNone

/-- Waits, or goes on at once when the condition already holds. -/
def State.seqWaitFor (s : State) (b : Nat) (w : SeqWait) : State :=
  if s.seqCond b w then s.updSeq b Seq.advance else s.updSeq b fun q => { q with st := .wait w }

/-- WAITC. -/
def execSeqWaitc (b : Nat) (s : State) : Out :=
  onUnit (decide (b < 96)) (s.seqStep b fun i s =>
    match i with
    | .waitc m => some (s.seqWaitFor b (.units (BitVec.ofNat 8 m)))
    | _ => none)

/-- WAITK. -/
def execSeqWaitk (b : Nat) (s : State) : Out :=
  onUnit (decide (b < 96)) (s.seqStep b fun i s =>
    match i with
    | .waitk ra imm => some (s.seqWaitFor b (.tick (s.seqReg b ra + imm18s imm).toNat))
    | _ => none)

/-- WAITX: an index at or above xfer_entries, or of a send entry, traps 0x008. -/
def execSeqWaitx (b : Nat) (s : State) : Out :=
  onUnit (decide (b < 96)) (s.seqStep b fun i s =>
    match i with
    | .waitx ra imm =>
      let e := (s.seqReg b ra + imm18s imm).toNat
      match s.plan.bind fun p => p.xfers[e]? with
      | some x => if x.expect then some (s.seqWaitFor b (.xfer e)) else some (s.seqTrap b 8)
      | none => some (s.seqTrap b 8)
    | _ => none)

/-- A device semaphore. -/
def State.sem (s : State) (n : Nat) : Nat := SMap.get 0 s.sch.sems n

/-- Sets a device semaphore. -/
def State.setSem (s : State) (n v : Nat) : State := { s with sch := { s.sch with sems := SMap.set 0 s.sch.sems n v } }

/-- Adds to a device semaphore, which saturates at 0x0FFF_FFFF (R90). -/
def State.postSem (s : State) (n k : Nat) : State := s.setSem n (min 0x0FFFFFFF (s.sem n + k))

/-- SEMPOST. -/
def execSeqSempost (b : Nat) (s : State) : Out :=
  onUnit (decide (b < 96)) (s.seqStep b fun i s =>
    match i with
    | .sempost n k => some ((s.postSem n k).updSeq b Seq.advance)
    | _ => none)

/-- What block b waits for on a semaphore. -/
def State.semNeed (s : State) (b n : Nat) : Option Nat :=
  if !s.blockLive b then none else
  match (s.blk b).seq.st with
  | .wait (.sem m k) => if m = n then some k else none
  | _ => none

/-- SEMWAIT: granted at once when the count suffices and no waiter is due before it (R90). -/
def execSeqSemwait (b : Nat) (s : State) : Out :=
  onUnit (decide (b < 96)) (s.seqStep b fun i s =>
    match i with
    | .semwait n k =>
      let due := (List.range 96).any fun c => match s.semNeed c n with
        | some m => decide (m ≤ s.sem n)
        | none => false
      if k ≤ s.sem n && !due then some ((s.setSem n (s.sem n - k)).updSeq b Seq.advance)
      else some (s.updSeq b fun q => { q with st := .wait (.sem n k) })
    | _ => none)

/-- Grants waiters of one semaphore in ascending logical block order; each grant subtracts before the next is tested
(R90). -/
def execSemaphoreGrant (sem : Nat) (s : State) : Out :=
  onUnit (decide (sem < 64)) ((List.range 96).foldl (fun s b =>
    match s.semNeed b sem with
    | some k => if k ≤ s.sem sem then (s.setSem sem (s.sem sem - k)).updSeq b Seq.advance else s
    | none => s) s)

/-- The code table entry of block b in the plan in force. -/
def State.codeOf (s : State) (b : Nat) : Option CodeEntry := s.plan.bind fun p => p.code[b]?

/-- Where the code blob of the plan in force starts in the ply-code area: a standby's served members' blobs follow its
own, in the order of its section header (R78, R80; DEDUCED, log entry 10). -/
def State.blobBase (s : State) : Nat :=
  match s.image, s.standby.place with
  | some im, some p =>
    im.own.blobLen + ((im.served.takeWhile fun x => x.ldev != p).map Section.blobLen).sum
  | _, _ => 0

/-- The check state of instruction memory, by 32-bit word, when n bytes from offset a of an area with the check state src,
by 64-bit word, are copied to offset d: an uncorrectable word stays one, a correctable one is corrected (R84, R229). -/
def chkInto (dst : SMap Chk) (d n : Nat) (src : SMap Chk) (a : Nat) : SMap Chk :=
  (src.filter fun e => e.2 == .bad).foldl (fun m e =>
    [0, 4].foldl (fun m h =>
      let x := 8 * e.1 + h
      if a ≤ x && x + 4 ≤ a + n then SMap.set .good m ((d + (x - a)) / 4) .bad else m) m)
    (dst.filter fun e => !(decide (d / 4 ≤ e.1) && decide (e.1 < (d + n) / 4)))

/-- Loads overlay segment n of block b into 0xC000-0xFFFF. -/
def State.loadOverlay (s : State) (b n : Nat) : State :=
  match s.codeOf b with
  | none => s
  | some c => s.updSeq b fun q => { q with
      imem := Mem.splice q.imem 0xC000 0x4000 (Mem.slice s.ccd.plyCode (s.blobBase + c.ovlOff + 0x4000 * n) 0x4000)
      imemChk := chkInto q.imemChk 0xC000 0x4000 s.ccd.plyChk (s.blobBase + c.ovlOff + 0x4000 * n)
      overlay := n }

/-- LOADI: a segment at or above ovl_count, or executing from the overlay slot, traps 0x005. -/
def execSeqLoadi (b : Nat) (s : State) : Out :=
  onUnit (decide (b < 96)) (s.seqStep b fun i s =>
    match i with
    | .loadi ra =>
      let n := (s.seqReg b ra).toNat
      let cnt := match s.codeOf b with | some c => c.ovlCount | none => 0
      if cnt ≤ n || 0xC000 ≤ (s.blk b).seq.pc then some (s.seqTrap b 5)
      else some ((s.loadOverlay b n).updSeq b Seq.advance)
    | _ => none)

/-- The logical device number that ply code sees (Table 3.9). -/
def State.ldevSeen (s : State) : Nat :=
  match s.standby.place with
  | some p => p
  | none => match s.image with | some im => im.ldev | none => 0

/-- This member's section is a standby's. -/
def State.isStandby (s : State) : Bool := match s.image with | some im => im.own.standby | none => false

/-- The core cycle within the tick that a read of the cycle CSR meets: an open one of the 13, not before one that was
read in the tick (R86; log entry 5). -/
def State.cycleSub (s : State) : Nat :=
  let lo := if s.sch.cycleAt = s.tick then min 12 s.sch.cycleSub else 0
  lo + s.freeNat % (13 - lo)

/-- The cycle CSR has been read. -/
def State.readCycle (s : State) : State :=
  { s with sch := { s.sch with cycleSub := s.cycleSub, cycleAt := s.tick } }.tookFree

/-- A CSR's value (Table 3.9); none for an unlisted number. The cycle count within a tick is a free value. -/
def State.seqCsr (s : State) (b n : Nat) : Option W32 :=
  let q := (s.blk b).seq
  match n with
  | 0x00 => some (BitVec.ofNat 32 s.sch.ply.toNat)
  | 0x01 => some (BitVec.ofNat 32 (s.sch.ply.toNat / 2 ^ 32))
  | 0x02 => some (BitVec.ofNat 32 s.sch.attempt)
  | 0x03 => some (BitVec.ofNat 32 b)
  | 0x04 => some (BitVec.ofNat 32 s.ldevSeen)
  | 0x05 => some (BitVec.ofNat 32 s.plyTick)
  | 0x06 => some (BitVec.ofNat 32 (13 * s.plyTick + s.cycleSub))
  | 0x07 => some q.trapCause
  | 0x08 => some (BitVec.ofNat 32 q.bwclass)
  | 0x09 => some (BitVec.ofNat 32 q.overlay)
  | 0x0A => some (if s.isStandby then 1 else 0)
  | _ => none

/-- CSRR: an unlisted number traps as illegal (R86). -/
def execSeqCsrr (b : Nat) (s : State) : Out :=
  onUnit (decide (b < 96)) (s.seqStep b fun i s =>
    match i with
    | .csrr rd n =>
      match s.seqCsr b n with
      | some v => some ((if n = 6 then s.readCycle else s).seqWrite b rd v)
      | none => some (s.seqTrap b 1)
    | _ => none)

/-- CSRW: only bwclass is writable, with 0-7; anything else traps as illegal (R86). -/
def execSeqCsrw (b : Nat) (s : State) : Out :=
  onUnit (decide (b < 96)) (s.seqStep b fun i s =>
    match i with
    | .csrw n ra =>
      let v := (s.seqReg b ra).toNat
      if n = 8 && v < 8 then some (s.updSeq b fun q => ({ q with bwclass := v } : Seq).advance)
      else some (s.seqTrap b 1)
    | _ => none)

/-- TRAP: cause 0x100 + imm[7:0]. -/
def execSeqTrap (b : Nat) (s : State) : Out :=
  onUnit (decide (b < 96)) (s.seqStep b fun i s =>
    match i with
    | .trap imm => some (s.seqTrap b (0x100 + imm % 256))
    | _ => none)

/-- EOP: the sequencer holds for its end-of-ply point (R36). -/
def execSeqEop (b : Nat) (s : State) : Out :=
  onUnit (decide (b < 96)) (s.seqStep b fun i s =>
    match i with
    | .eop => some (s.updSeq b fun q => { q with st := .eopHold })
    | _ => none)

/-- An unlisted opcode or funct, or a non-zero reserved field, traps 0x001 (R89). -/
def execSeqIllegalInstruction (b : Nat) (s : State) : Out :=
  onUnit (decide (b < 96)) (s.seqStep b fun i s =>
    match i with
    | .illegal => some (s.seqTrap b 1)
    | _ => none)

/-- A CISSUE that waited for room, or a LAUNCH behind a resident kernel, proceeds (R91). -/
def execSeqStallRelease (b : Nat) (s : State) : Out :=
  onUnit (decide (b < 96)) (
    let q := (s.blk b).seq
    if !s.blockLive b then s else
    match q.st, seqDecode q.word with
    | .wait (.queue t), .cissue _ ra rb => if s.seqCond b (.queue t) then s.seqCissue b t ra rb else s
    | .wait .kernel, .launch ra => if s.seqCond b .kernel then s.seqLaunch b ra else s
    | _, _ => s)

/-- The condition of a WAITC, WAITK or WAITX holds, and issue resumes (R91). -/
def execSeqWaitRelease (b : Nat) (s : State) : Out :=
  onUnit (decide (b < 96)) (
    if !s.blockLive b then s else
    match (s.blk b).seq.st with
    | .wait (.units m) => if s.seqCond b (.units m) then s.updSeq b Seq.advance else s
    | .wait (.tick t) => if s.seqCond b (.tick t) then s.updSeq b Seq.advance else s
    | .wait (.xfer e) => if s.seqCond b (.xfer e) then s.updSeq b Seq.advance else s
    | _ => s)

/-- A matrix cell has written every result and completed every comparison. -/
def Mc.idle (m : Mc) : Bool := m.streams.isEmpty && m.loading.isNone && !m.halted

/-- Every unit of block b is idle and every write of it has been accepted by the cache die (R36). -/
def State.blockIdle (s : State) (b : Nat) : Bool :=
  let B := s.blk b
  (List.range 2).all (fun k => (s.mcAt b k).idle && (SMap.get [] B.seq.queues k).isEmpty) &&
  (List.range 4).all (fun c => (s.dmaAt b c).busy.isNone && !(s.dmaAt b c).halted &&
    (SMap.get [] B.seq.queues (2 + c)).isEmpty) &&
  B.tg.kernel.isNone &&
  (List.range 8).all (fun n =>
    ((s.slice n).writes ++ (s.slice n).merged).all fun r => !(r.write && r.who == .blockStore b))

/-- A block held at EOP finds its units idle and its writes accepted (R36). -/
def execEndOfPlyPoint (b : Nat) (s : State) : Out :=
  onUnit (decide (b < 96)) (
    if s.blockLive b && (s.blk b).seq.st == .eopHold && s.blockIdle b then
      s.updSeq b fun q => { q with st := .eop }
    else s)

end Sys2Proof.Machine
end

