-- ==== Sys2Proof/Machine/Fabric.lean ====
section
/-! DEFINITION. Melob ports, lanes, routing and service traffic (chapter 11, R309-R315): operations that the frame rows
of Frames.lean and the engines share. -/

namespace Sys2Proof.Machine

/-! ### Ports -/

/-- The port carries frames: up, or up on 8 lanes (Table 11.14). -/
def Port.isUp (k : Port) : Bool := k.state == 2 || k.state == 3

/-- Ports that the feature word enables (Table 15.7, R294). -/
def State.portLicensed (s : State) (p : Nat) : Bool :=
  match bitsN s.sec.features.toNat 1 0 with
  | 0 => false
  | 1 => decide (p < 4)
  | 2 => decide (p < 12)
  | _ => decide (p < 20)

/-- The port is powered: in BOOT, where licences are not verified yet, every port (R385); then the licensed ones. -/
def State.portPowered (s : State) (p : Nat) : Bool := s.dev == .boot || s.portLicensed p

/-- The fabric can act: the main side is on, out of FAULT, and past BOOT's port power-up. -/
def State.fabricOn (s : State) : Bool := s.mainOn && s.dev != .fault

/-- JOINED or RUNNING. -/
def State.inDomain (s : State) : Bool := s.dev == .joined || s.dev == .running

/-- The member's own section. -/
def State.ownSec (s : State) : Option Section := s.image.map Image.own

/-- The partner that the image names for a physical port. -/
def State.partnerOf (s : State) (p : Nat) : Nat :=
  match s.ownSec with
  | some x => x.portPartner.getD p 0xFFFFFFFF
  | none => 0xFFFFFFFF

/-- Physical ports whose function in force is a torus function. -/
def State.torusPorts (s : State) : List Nat := (List.range 20).filter fun p => decide ((s.port p).fn < 16)

/-- Physical express ports whose partner is a device, in ascending order of their codes (R343). -/
def State.expressTo (s : State) (dev : Nat) : List Nat :=
  [16, 17, 18, 19].flatMap fun c =>
    (List.range 20).filter fun p => (s.port p).fn == c && s.partnerOf p == dev

/-- Mapped express ports. -/
def State.expressPorts (s : State) : List Nat :=
  (List.range 20).filter fun p => decide (16 ≤ (s.port p).fn) && decide ((s.port p).fn < 20)

/-- Mapped ports. -/
def State.mappedPorts (s : State) : List Nat := (List.range 20).filter fun p => (s.port p).fn != 0xFF

/-- The port that carries a torus function. -/
def State.portOfFn (s : State) (fn : Nat) : Option Nat := (List.range 20).find? fun p => (s.port p).fn == fn

/-- Nanoseconds since the port came up, by the tick count. -/
def State.upNs (s : State) (p : Nat) : Nat := 10 * (s.tick - (s.port p).upAt)

/-- An alignment group in quarter nanoseconds (Table 11.1, R298). -/
def groupTime (eight : Bool) : Nat := if eight then 170 else 85

/-- The group that passes t quarter nanoseconds from the time the port came up, by a direction's numbering. -/
def groupNow (base at_ : Nat) (eight : Bool) (t : Nat) : Nat := base + (t - at_) / groupTime eight

/-- When group g of the numbering starts. -/
def groupStart (base at_ : Nat) (eight : Bool) (g : Nat) : Nat := at_ + (g - base) * groupTime eight

/-- The first group of the numbering that starts at or after t quarter nanoseconds (DEDUCED, log entry 12). -/
def groupFrom (base at_ : Nat) (eight : Bool) (t : Nat) : Nat := base + ceilDiv (t - at_) (groupTime eight)

/-- The group that a number modulo 2^32 names, near the group that passes now (R295). -/
def groupNamed (now g : Nat) : Nat :=
  let x := now + 2 ^ 31
  x - (x + 2 ^ 32 - g % 2 ^ 32) % 2 ^ 32

/-- One hop of a port in ns: its budget, or the latency it last measured (R297). -/
def Port.hopNs (k : Port) : Nat := if k.budget = 0 then k.latency else 10 * k.budget

/-- The group that the receiver's direction has reached. -/
def State.rxGroup (s : State) (p : Nat) : Nat :=
  let k := s.port p
  groupNow k.rxBase k.rxAt (k.state == 3) (4 * s.upNs p)

/-- The group that the transmitter's direction has reached. -/
def State.txGroup (s : State) (p : Nat) : Nat :=
  let k := s.port p
  groupNow k.txBase k.txAt k.txEight (4 * s.upNs p)

/-- The group that a LANE_MOVE or WIDTH sent now names (R297). -/
def State.moveGroup (s : State) (p : Nat) : Nat :=
  let k := s.port p
  groupFrom k.rxBase k.rxAt (k.state == 3) (4 * (s.upNs p + 2 * k.hopNs + 200))

/-- The group that an answer waited for belongs to. -/
def LinkWait.group (w : LinkWait) : Nat :=
  match w with
  | .laneAck _ _ _ g => g
  | .width _ g => g

/-- The answer's time has come: group G or G + 1 passes (R297, R298). -/
def State.inTime (s : State) (p : Nat) (w : LinkWait) : Bool :=
  decide (w.group ≤ s.rxGroup p) && decide (s.rxGroup p ≤ w.group + 1)

/-- Groups G and G + 1 have passed. -/
def State.overdue (s : State) (p : Nat) (w : LinkWait) : Bool := decide (w.group + 1 < s.rxGroup p)

/-- Queues a frame among the due beacons, checks and arms of a port that is up. -/
def State.sendDue (s : State) (p : Nat) (f : Frame) (relay : Nat) : State :=
  if (s.port p).isUp then s.updPort p fun k => { k with due := k.due ++ [(f, relay)] } else s

/-- Queues a JOIN or LINK frame of a port that is up. -/
def State.sendLink (s : State) (p : Nat) (f : Frame) (relay : Nat) : State :=
  if (s.port p).isUp then s.updPort p fun k => { k with linkQ := k.linkQ ++ [(f, relay)] } else s

/-- A port goes down (R296): it sends and receives nothing and retrains; port event 0x04. Its due and link frames are
lost; its scheduled and V frames wait. -/
def State.portDown (s : State) (p : Nat) : State :=
  if !(s.port p).isUp then s else
  (s.updPort p fun k => { k with
    state := 4, due := [], linkQ := [], wait := [], mirror := none, txWidths := [], txEight := false
    joinDue := false, joinOwn := false, remeasure := false, joinOwed := 0, echo := none, badSync := 0
    realigning := false }).portEvent p 4 0x1F 0

/-! ### Lanes (R297, R298) -/

/-- Lane l of a port. -/
def Port.lane (k : Port) (l : Nat) : Lane := SMap.get {} k.lanes l

/-- Changes lane l of a port. -/
def Port.updLane (k : Port) (l : Nat) (f : Lane → Lane) : Port := { k with lanes := SMap.upd {} k.lanes l f }

/-- Lanes in use or spare. -/
def Port.goodLanes (k : Port) : List Nat := (List.range 17).filter fun l => decide ((k.lane l).state < 2)

/-- The free spare. -/
def Port.spare (k : Port) : Option Nat := (List.range 17).find? fun l => (k.lane l).state == 1

/-- Gives positions to the lanes chosen, in order; every other good lane becomes a spare that carries none. -/
def Port.assign (k : Port) (chosen : List Nat) : Port :=
  k.goodLanes.foldl (fun k l =>
    match chosen.idxOf? l with
    | some i => k.updLane l fun x => { x with state := 0, position := i, lock := true }
    | none => k.updLane l fun x => { x with state := 1, position := 0x1F, lock := true }) k

/-- Lanes as they stand when a port comes up: every lane but those retired for good, and those that did not train, which
retrain, is good again; lane 16 is the spare while 16 others are good, and a port with fewer than 16 runs on the eight
lowest (R297, R298; DEDUCED, log entry 13). -/
def Port.train (k : Port) (bad : List Nat) : Port :=
  let k := (List.range 17).foldl (fun k l =>
    if 3 ≤ (k.lane l).failedRetrains then k.updLane l fun x => { x with state := 3, position := 0x1F }
    else if bad.contains l then k.updLane l fun x => { x with
      state := 2, position := 0x1F, lock := false, retrains := if x.retrains = 0xFF then 0xFF else x.retrains + 1 }
    else k.updLane l fun x => { x with state := 0, failedRetrains := 0 }) k
  let g := k.goodLanes
  if 16 ≤ g.length then { k.assign (g.take 16) with state := 2 } else { k.assign (g.take 8) with state := 3 }

/-- Asks the transmitter for a width at a group (R298). -/
def State.askWidth (s : State) (p : Nat) (eight : Bool) : State :=
  let g := s.moveGroup p
  (s.sendLink p (.link .width 0 eight (BitVec.ofNat 32 g)) 0).updPort p fun k => { k with
    wait := k.wait ++ [.width eight g] }

/-- The lanes as the receiver has them once group now passes: at group G of a move that is waited for it takes the
position from the spare, unless the spare itself is no longer good (R297). -/
def Port.settled (k : Port) (now : Nat) : Port :=
  k.wait.foldl (fun k w =>
    match w with
    | .laneAck l sp pos g =>
      if g ≤ now && (k.lane l).position == pos && (k.lane sp).state == 1 then
        (k.updLane sp fun x => { x with state := 0, position := pos }).updLane l fun x => { x with position := 0x1F }
      else k
    | .width _ _ => k) k

/-- The port as it stands now (R297). -/
def State.portNow (s : State) (p : Nat) : Port := (s.port p).settled (s.rxGroup p)

/-- A lane retires (R297): onto the spare by LANE_MOVE; with no spare free the port asks for 8 lanes; with fewer than 8
good lanes it goes down. A spare that retires moves nothing. -/
def State.retireLane (s : State) (p l : Nat) (lost : Bool) : State :=
  let k := s.portNow p
  if !k.isUp || 1 < (k.lane l).state then s else
  let inUse := (k.lane l).state == 0 && (k.lane l).position != 0x1F
  let k1 := k.updLane l fun x => { x with
    state := 2, position := 0x1F, lock := if lost then false else x.lock
    retrains := if x.retrains = 0xFF then 0xFF else x.retrains + 1 }
  let taken := k.wait.any fun w => match w with | .laneAck _ _ _ _ => true | _ => false
  if k1.goodLanes.length < 8 then (s.updPort p fun _ => k1).portDown p
  else if !inUse then s.updPort p fun _ => k1
  else
    match k1.spare with
    | some sp =>
      if taken || k.state = 3 then (s.updPort p fun _ => k1).askWidth p true else
      let g := s.moveGroup p
      let pos := (k.lane l).position
      let s := s.updPort p fun _ =>
        { k1.updLane l (fun x => { x with position := pos }) with wait := k1.wait ++ [.laneAck l sp pos g] }
      s.sendLink p (.link .laneMove (BitVec.ofNat 5 l) false (BitVec.ofNat 32 g)) 0
    | none => (s.updPort p fun _ => k1).askWidth p true

/-! ### Relay and ports as the image names them (R343, R344) -/

/-- On a device that relays, the standby that took its place. -/
def State.relayTo (s : State) : Option Nat :=
  if !s.standby.relaying then none else
  s.ownSec.map fun x => if s.standby.asked = 2 then x.standbyB else x.standbyA

/-- The physical port and relay byte on which a frame for torus function fn leaves. -/
def State.torusEgress (s : State) (fn : Nat) : Option (Nat × Nat) :=
  match s.standby.place with
  | none => (s.portOfFn fn).map fun p => (p, 0)
  | some f =>
    let e := s.expressTo f
    (e[fn % e.length]?).map fun p => (p, fn + 1)

/-- The physical port and relay byte of a transfer entry's port. -/
def State.entryEgress (s : State) (port : Nat) : Option (Nat × Nat) :=
  match s.standby.place with
  | none => some (port, 0)
  | some _ => s.plan.bind fun x =>
      let fn := x.portFn.getD port 0xFF
      if fn < 16 then s.torusEgress fn else none

/-- The port of the plan in force on which a frame that came on physical port p with a relay byte arrives. -/
def State.entryPort (s : State) (p relay : Nat) : Nat :=
  match s.standby.place, s.plan with
  | some _, some x =>
    if relay = 0 then 20 else ((List.range 20).find? fun i => x.portFn.getD i 0xFF == relay - 1).getD 20
  | _, _ => p

/-- Ticks that a standby in a place adds for the relay hop (R344). -/
def State.relayShift (s : State) : Nat :=
  match s.standby.place, s.image with
  | some _, some im => im.hopBudget + 10
  | _, _ => 0

/-- The relay byte may be set on this port: an express port between a relaying device and the standby in its place, or
granted it. -/
def State.relayPort (s : State) (p : Nat) : Bool :=
  match s.standby.place.orElse (fun _ => s.standby.granted), s.relayTo with
  | some f, _ => (s.expressTo f).contains p
  | none, some d => (s.expressTo d).contains p
  | none, none => false

/-! ### Routing (R309) -/

/-- Torus coordinates of an active member. -/
def Image.coordsOf (im : Image) (dev : Nat) : List Nat :=
  let d (i : Nat) : Nat := max 1 (im.dims.getD i 1)
  [dev % d 0, dev / d 0 % d 1, dev / (d 0 * d 1) % d 2, dev / (d 0 * d 1 * d 2) % d 3]

/-- The first dimension to correct toward dst: dimension, direction (true minus), and whether the hop crosses the wrap
link. -/
def Image.nextHop (im : Image) (me dst : Nat) : Option (Nat × Bool × Bool) :=
  let a := im.coordsOf me
  let b := im.coordsOf dst
  ((List.range 4).find? fun i => a.getD i 0 != b.getD i 0).map fun i =>
    let d := max 1 (im.dims.getD i 1)
    let c := a.getD i 0
    let diff := (b.getD i 0 + d - c) % d
    let minus := decide (d < 2 * diff)
    (i, minus, if minus then c == 0 else c + 1 == d)

/-- Where a service frame held here goes: the port, the relay byte, and its virtual channel; none when no route exists.
from is the torus function it came on, with its channel. -/
def State.route (s : State) (dst tag : Nat) (came : Option (Nat × Bool)) : Option (Nat × Nat × Bool) :=
  match s.image with
  | none => none
  | some im =>
    let direct := (s.expressPorts.filter fun p => s.partnerOf p == dst)
    if !direct.isEmpty then (direct.find? fun p => (s.port p).isUp).map fun p => (p, 0, false)
    else
      let me := s.ldevSeen
      if im.nActive ≤ dst || im.nActive ≤ me then none else
      match im.nextHop me dst with
      | none => none
      | some (i, minus, wrap) =>
        let base := 4 * i + 2 * b2n minus
        let vc := wrap || (match came with | some (fn, v) => v && fn / 4 == i | none => false)
        let up (fn : Nat) : Option (Nat × Nat) := (s.torusEgress fn).filter fun e => (s.port e.1).isUp
        let pick := (up (base + tag % 2)).orElse fun _ => up (base + (tag + 1) % 2)
        pick.map fun e => (e.1, e.2, vc)

/-- The service frame is for this device. -/
def State.isMe (s : State) (dst : Nat) : Bool :=
  dst == s.ldevSeen || (match s.image with | some im => dst == im.ldev | none => false)

/-- Queues a V frame toward its destination, with the buffer it holds until it leaves; none when there is no route. -/
def State.vForward (s : State) (f : VFrame) (came : Option (Nat × Bool)) (buf : Option VBuf := none) : Option State :=
  (s.route f.dst.toNat f.tag.toNat came).map fun r =>
    s.updPort r.1 fun k => { k with vQ := k.vQ ++ [(.v { f with vc := r.2.2 }, r.2.1, buf)] }

/-! ### Answers (R311, R312) -/

/-- Number of members of the domain. -/
def State.members (s : State) : Nat := match s.image with | some im => im.nActive + im.nStandby | none => 0

/-- Bytes of a request or of a response's data. -/
def vBytes (f : VFrame) : Nat := if f.len512 then 512 else 256

/-- The answer to a request: dst and src exchanged. -/
def vReply (f : VFrame) (op : VOp) : VFrame :=
  { f with op := op, dst := f.src, src := f.dst, addr := 0, pmask := 0, reason := 0, payload := [], vc := false }

/-- A NAK with a reason. -/
def vNakFor (f : VFrame) (reason : Nat) : VFrame := { vReply f .nak with reason := BitVec.ofNat 8 reason }

/-- Sends an answer; a NAK to a device that is no member is not sent. -/
def State.vAnswer (s : State) (f : VFrame) : State :=
  if f.op = .nak && s.members ≤ f.dst.toNat then s else (s.vForward f none).getD s

/-- Device address that a request names. -/
def vAddr (f : VFrame) : Nat := 256 * f.addr.toNat

/-- The address of mirror marks (R336). -/
def markAddr : Nat := 0xFFFFFFFF00

/-- Runs f without journal copies (R336). -/
def State.unjournalled (s : State) (f : State → State) : State :=
  let t := f { s with sch := { s.sch with restartAt := some (s.sch.restartAt.getD 0) } }
  { t with sch := { t.sch with restartAt := s.sch.restartAt } }

/-- src is one of the members that this standby serves: 1 the first, 2 the second. -/
def State.servedBy (s : State) (src : Nat) : Option Nat :=
  match s.ownSec with
  | some x => if !x.standby then none else if x.standbyA = src then some 1 else if x.standbyB = src then some 2 else none
  | none => none

/-- Poisoned 32-byte chunks of n bytes whose 64-bit word states are given. -/
def chunkMask (n : Nat) (w : RMap CWord) : BitVec 16 :=
  BitVec.ofNat 16 ((List.range (n / 32)).foldl
    (fun a c => if RMap.anyIn {} w (4 * c) 4 (fun x => x.poison) then a + 2 ^ c else a) 0)

/-- Poison by unit, k units to a 32-byte chunk. -/
def maskUnits (k : Nat) (m : BitVec 16) : RMap Bool :=
  RMap.norm false ((List.range 16).map fun c => (k * c, m.getLsbD c))

/-- The request asks a standby to take a place (R340). -/
def asksTakeover (f : VFrame) : Bool :=
  f.op == .write && vAddr f == markAddr && !f.len512 && Mem.get f.payload 8 == 1

/-- Executes a request at its destination (R311, R336, Table 11.7): the state, and the answer if one goes now; it waits
while its lines are not free (R284). A standby
that serves a place refuses marks, so that its other member stops mirroring to it (R335; log entry 68). -/
def State.vExec (s : State) (f : VFrame) (p : Nat) : State × Option VFrame :=
  let n := vBytes f
  let a := vAddr f
  if !s.inDomain then (s, some (vNakFor f 4)) else
  if f.op = .write && a = markAddr && !f.len512 then
    match if s.standby.place.isSome && !asksTakeover f then none else s.servedBy f.src.toNat with
    | none => (s, some (vNakFor f 2))
    | some k =>
      let mark := Mem.rd64 f.payload 0
      let s := { s with standby :=
        if k = 1 then { s.standby with markA := mark } else { s.standby with markB := mark } }
      if Mem.get f.payload 8 = 1 then
        ({ s with standby := { s.standby with
            requests := (s.standby.requests.filter fun r => r.1.src != f.src) ++ [(f, p)] } }, none)
      else (s, some (vReply f .response))
  else if !installed a n || a % n ≠ 0 then (s, some (vNakFor f 2))
  else if (s.serveAs f.bwclass.toNat 99).waits (f.op != .read) a n then (s.defer (.request f p), none)
  else
    let s := s.serveAs f.bwclass.toNat 99
    match f.op with
    | .read =>
      let r := s.devRead a n
      (r.1, some { vReply f .response with payload := r.2.1, pmask := chunkMask n r.2.2 })
    | _ =>
      let w (s : State) : State := s.devWrite a n f.payload (maskUnits 4 f.pmask)
      (if (s.servedBy f.src.toNat).isSome then s.unjournalled w else w s, some (vReply f .response))

/-! ### Initiator (R310-R313) -/

/-- A peer copy is told of n bytes answered; the last one finishes it (R366). -/
def State.copyPart (s : State) (uid n : Nat) : State :=
  match s.desc uid with
  | none => s
  | some a =>
    let left := SMap.get 0 s.fab.copies uid - n
    let s := { s with fab := { s.fab with copies := SMap.set 0 s.fab.copies uid left } }
    if left ≠ 0 then s else
    let bad := s.fab.copyPoison.contains uid
    let s := { s with fab := { s.fab with copyPoison := s.fab.copyPoison.filter (· != uid) } }
    s.finish uid (if bad then 9 else 0) 0 0 (ceilDiv (dwQ a.dws 6 % 2 ^ 40) 1024)

/-- The mark write to a standby, with the ply whose mirror is complete (R336); request asks for a takeover (R340). -/
def State.markReq (s : State) (dst : Nat) (mark : W64) (request : Bool) : VFrame where
  op := .write
  tag := 0
  gen := 0
  dst := BitVec.ofNat 15 dst
  src := BitVec.ofNat 15 s.ldevSeen
  len512 := false
  addr := BitVec.ofNat 32 (markAddr / 256)
  pmask := 0
  reason := 0
  bwclass := 0
  vc := false
  payload := if request then Mem.set (Mem.wr64 [] 0 mark) 8 1 else Mem.wr64 [] 0 mark

/-- Devices that this member's section names as its standbys. -/
def Section.standbys (x : Section) : List Nat :=
  if x.standby then [] else [x.standbyA, x.standbyB].filter (· != 0xFFFFFFFF)

/-- The standbys that a member mirrors to: all its own but those that serve a place or have left (R335). -/
def State.mirrorTo (s : State) : List Nat :=
  match s.ownSec with
  | some x => x.standbys.filter fun d => !s.standby.gone.contains d
  | none => []

/-- Once every mirror write is answered the marks leave; once they are answered too the mirror of its ply is done and
its ranges are dropped (R335, R337). -/
def State.mirrorNext (s : State) : State :=
  let ended (s : State) : State :=
    let rest := s.standby.ranges.filter fun r => decide (s.standby.mirrorPly < r.1)
    { s with standby := { s.standby with mirrorPhase := 0, ranges := rest } }
  if s.standby.mirrorOpen ≠ 0 then s else
  if s.standby.mirrorPhase = 1 then
    let ds := s.mirrorTo
    let reqs := ds.map fun d => (s.markReq d s.standby.mirrorPly false, SvcUse.mirror)
    if ds.isEmpty then ended s
    else { s with
      standby := { s.standby with mirrorPhase := 2, mirrorOpen := ds.length }
      fab := { s.fab with waiting := s.fab.waiting ++ reqs } }
  else if s.standby.mirrorPhase = 2 then ended s
  else s

/-- Data of a peer copy arrives: written once its lines are free, and then answered for (R366). -/
def State.copyData (s : State) (uid cls A n : Nat) (data : Mem) (pmask : BitVec 16) : State :=
  let t := s.serveAs cls 96
  if t.waits true A n then s.defer (.copyData uid cls A n data pmask)
  else (t.devWrite A n data (maskUnits 4 pmask)).copyPart uid n

/-- The relay of R343 runs from endgame phase 2 on (R465), once a standby has granted the place. -/
def State.relayFrom (s : State) : State :=
  if s.standby.gotGrant && decide (2 ≤ s.err.phase) then { s with standby := { s.standby with relaying := true } } else s

/-- Tells the initiator that its request succeeded. -/
def State.svcOk (s : State) (use : SvcUse) (req f : VFrame) : State :=
  match use with
  | .copy uid off =>
    (match s.desc uid with
     | none => s
     | some a =>
       let s := if f.pmask = 0 || s.fab.copyPoison.contains uid then s else
         { s with fab := { s.fab with copyPoison := uid :: s.fab.copyPoison } }
       if req.op = .read then s.copyData uid req.bwclass.toNat (dwQ a.dws 4 + off) (vBytes req) f.payload f.pmask
       else s.copyPart uid (vBytes req))
  | .mirror => { s with standby := { s.standby with mirrorOpen := s.standby.mirrorOpen - 1 } }.mirrorNext
  | .takeover => { s with standby := { s.standby with gotGrant := true } }.relayFrom

/-- Tells the initiator that its request failed, with the NAK reason or 0xFF. A failed mirror request stays open, so its
watchdog falls (R337). -/
def State.svcFail (s : State) (use : SvcUse) (req : VFrame) (reason : Nat) : State :=
  match use with
  | .copy uid _ =>
    { (s.finish uid 0xF reason 0 0) with fab := { s.fab with
        copies := SMap.del s.fab.copies uid
        copyPoison := s.fab.copyPoison.filter (· != uid)
        waiting := s.fab.waiting.filter fun w => match w.2 with | .copy u _ => u != uid | _ => true } }
  | .mirror =>
    if reason = 0xFF then s else
    { s with standby := { s.standby with
        gone := if s.standby.gone.contains req.dst.toNat then s.standby.gone else req.dst.toNat :: s.standby.gone
        mirrorOpen := s.standby.mirrorOpen - 1 } }.mirrorNext
  | .takeover =>
    (match s.standby.asked, s.ownSec with
     | 1, some x =>
       if x.standbyB = 0xFFFFFFFF then { s with standby := { s.standby with refused := true } }
       else { s with
         standby := { s.standby with asked := 2 }
         fab := { s.fab with waiting := s.fab.waiting ++
           [(s.markReq x.standbyB (Mem.rd64 req.payload 0) true, .takeover)] } }
     | _, _ => { s with standby := { s.standby with refused := true } })

/-- The lowest free tag. -/
def State.freeTag (s : State) : Option Nat := (List.range 4096).find? fun t => (s.tag t).st == .free

/-- A request of tag t that names this device has been executed here. -/
def State.svcSelf (s : State) (t : Nat) (r : VFrame) : State :=
  match (s.tag t).st with
  | .out req _ _ use _ =>
    let s := s.updTag t fun g => { g with st := .free }
    if r.op = .nak then s.svcFail use req r.reason.toNat else s.svcOk use req r
  | _ => s

/-- Issues a request under a tag (R310): routed, executed here when it names this device, or failed with reason 0x03. -/
def State.svcIssue (s : State) (t : Nat) (req : VFrame) (use : SvcUse) : State :=
  let g := (s.tag t).gen + 1
  let f := { req with tag := BitVec.ofNat 12 t, gen := g }
  if s.isMe f.dst.toNat then
    let s := s.updTag t fun _ => { gen := g, st := .out f 1 s.tick use s.sch.ply }
    match s.vExec f 20 with
    | (s, some r) => s.svcSelf t r
    | (s, none) => s
  else
    match s.vForward f none with
    | some s => s.updTag t fun _ => { gen := g, st := .out f 1 s.tick use s.sch.ply }
    | none => (s.updTag t fun _ => { gen := g, st := .free }).svcFail use f 3

/-- Issues waiting requests while a tag is free. -/
def State.svcPump : Nat → State → State
  | 0, s => s
  | n + 1, s =>
    match s.fab.waiting, s.freeTag with
    | w :: rest, some t =>
      State.svcPump n ({ s with fab := { s.fab with waiting := rest } }.svcIssue t w.1 w.2)
    | _, _ => s

/-- Makes service requests; they wait while no tag is free. -/
def State.svcRequest (s : State) (rs : List (VFrame × SvcUse)) : State :=
  let s := { s with fab := { s.fab with waiting := s.fab.waiting ++ rs } }
  State.svcPump (s.fab.waiting.length) s

/-- A request frame from this device. -/
def State.mkReq (s : State) (op : VOp) (dst addr n cls : Nat) (data : Mem) (pmask : BitVec 16) : VFrame where
  op := op
  tag := 0
  gen := 0
  dst := BitVec.ofNat 15 dst
  src := BitVec.ofNat 15 s.ldevSeen
  len512 := n == 512
  addr := BitVec.ofNat 32 (addr / 256)
  pmask := pmask
  reason := 0
  bwclass := BitVec.ofNat 3 cls
  vc := false
  payload := data

/-- A tag's request has been answered: free, or in quarantine when it was sent more than once (R312). -/
def State.tagDone (s : State) (t sends : Nat) : State :=
  s.updTag t fun g => { g with st := if 1 < sends then .quarantine s.tick else .free }

/-- The port on which a request to dst leaves, for the record of its abandonment. -/
def State.svcPort (s : State) (req : VFrame) : Nat :=
  match s.route req.dst.toNat req.tag.toNat none with
  | some r => r.1
  | none => 0

/-- A request is abandoned: its initiator is told, event 0x08, and the tag goes to quarantine (R312). -/
def State.svcAbandon (s : State) (t : Nat) (req : VFrame) (use : SvcUse) : State :=
  let s := s.updTag t fun g => { g with st := .quarantine s.tick }
  let s := { s with fab := { s.fab with abandoned := satAdd s.fab.abandoned 1 } }
  let s := (s.portEvent (s.svcPort req) 8 0x1F 0).svcFail use req 0xFF
  State.svcPump s.fab.waiting.length s

/-- A request's retry timer has expired (R312): it is sent again, or abandoned after the last retry; without
a route the member that holds it, this one, answers NAK 0x03 (R309). -/
def State.svcExpired (s : State) (t : Nat) (req : VFrame) (sends : Nat) (use : SvcUse) (ply : W64) : State :=
  if s.fab.retries < sends then s.svcAbandon t req use
  else match s.vForward req none with
    | some s => s.updTag t fun g => { g with st := .out req (sends + 1) s.tick use ply }
    | none =>
      let s := (s.tagDone t sends).svcFail use req 3
      State.svcPump s.fab.waiting.length s

/-- An answer to no request of this device, which came on port p: discarded, counted as late, and recorded (Table 11.8,
kind 9). -/
def State.svcLate (s : State) (p : Nat) : State :=
  { s with fab := { s.fab with late := satAdd s.fab.late 1 } }.portEvent p 9 0x1F 9

/-- An answer arrives on port p (R311): accepted for an outstanding tag whose gen and destination match. -/
def State.svcAnswer (s : State) (p : Nat) (f : VFrame) : State :=
  let t := f.tag.toNat
  match (s.tag t).st with
  | .out req sends _ use ply =>
    if f.gen ≠ (s.tag t).gen || f.src ≠ req.dst then s.svcLate p
    else if f.op = .nak && f.reason = 6 then s.svcExpired t req sends use ply
    else
      let s := s.tagDone t sends
      let s := if f.op = .nak then s.svcFail use req f.reason.toNat else s.svcOk use req f
      State.svcPump s.fab.waiting.length s
  | _ => s.svcLate p

/-- At a verdict that rolls back, requests of plies n and n + 1 are abandoned to quarantine and no failure is reported
(R313); mirror requests are made again from the restart (R337). A copy's request is made again, since nothing has told
its descriptor of a failure (DEDUCED, log entry 14). -/
def State.svcRollback (s : State) (n : W64) : State :=
  let s := { s with
    standby := { s.standby with mirrorOpen := 0 }
    fab := { s.fab with waiting := s.fab.waiting.filter fun w => w.2 != .mirror } }
  (List.range 4096).foldl (fun s t =>
    match (s.tag t).st with
    | .out req _ _ use ply =>
      if ply = n || ply = n + 1 then
        let s := s.updTag t fun g => { g with st := .quarantine s.tick }
        let s := { s with fab := { s.fab with abandoned := satAdd s.fab.abandoned 1 } }
        (match use with
         | .copy _ _ => { s with fab := { s.fab with waiting := s.fab.waiting ++ [(req, use)] } }
         | _ => s)
      else s
    | _ => s) s

/-! ### Floods (R44, R49-R51, R334, R341) -/

/-- Ports on which a flood's rounds leave and are due: torus ports, and express ports to the member's standbys; a
standby uses every express port it has mapped (R334). -/
def State.floodPorts (s : State) : List Nat :=
  if s.isStandby then s.expressPorts
  else s.torusPorts ++ (match s.ownSec with
    | some x => s.expressPorts.filter fun p => x.standbys.contains (s.partnerOf p)
    | none => [])

/-- Fields combined (Table 2.3, R44). -/
def CheckFields.combine (a b : CheckFields) : CheckFields where
  clean := a.clean && b.clean
  replayable := a.replayable && b.replayable
  stop := a.stop || b.stop
  stretch := max a.stretch b.stretch
  armed := a.armed && b.armed
  start := max a.start b.start

/-- H and h of the loaded image. -/
def State.diam (s : State) : Nat := match s.image with | some im => im.checkDiam | none => 0

/-- See diam. -/
def State.hop (s : State) : Nat := match s.image with | some im => im.hopBudget | none => 0

/-- The verdict tick of a flood. -/
def State.verdictTick (s : State) (f : Flood) : Nat := f.t0 + 150 + s.diam * s.hop

/-- The round due on arrival now: round i leaves at T0 + 20 + i h and arrives h later (R50; DEDUCED, log entry 15). -/
def State.roundDue (s : State) (f : Flood) : Option Nat :=
  let t := s.dom
  if t < f.t0 + 20 + s.hop || s.hop = 0 then none else
  let i := (t - f.t0 - 20) / s.hop - 1
  if i < s.diam then some i else none

/-- A flood with round i's fields from port p taken in. -/
def Flood.take (f : Flood) (p i : Nat) (b : CheckFields) (blame : Bool) : Flood := { f with
  acc := f.acc.combine b
  received := if f.received.contains (p, i) then f.received else f.received ++ [(p, i)]
  blamed := f.blamed || blame }

/-- A round's fields arrive on port p. -/
def State.floodTake (s : State) (p i : Nat) (b : CheckFields) (blame : Bool) : State :=
  match s.sch.flood with
  | none => s
  | some f =>
    let s := if blame then s.causeBit 6 else s
    { s with sch := { s.sch with flood := some (f.take p i b blame) } }

/-- A round of an arm flood that is due from port p now and has not come. -/
def State.armDue (s : State) (p : Nat) (f : Flood) : Bool :=
  match s.roundDue f with
  | some i => !f.received.contains (p, i)
  | none => false

/-- Arm fields arrive on port p while flood fl runs. The frame carries no epoch: it belongs to the oldest arm flood that a
round is due for (DEDUCED, log entry 65). -/
def State.armTake (s : State) (p : Nat) (fl : Flood) (b : CheckFields) : State :=
  let i (f : Flood) : Nat := (s.roundDue f).getD 0
  match if s.armDue p fl then none else s.sch.laterArms.find? fun g => s.armDue p g with
  | some g => { s with sch := { s.sch with laterArms := s.sch.laterArms.replace g (g.take p (i g) b false) } }
  | none => s.floodTake p (i fl) b false

end Sys2Proof.Machine
end

