-- ==== Sys2Proof/Machine/Hash.lean ====
section
/-! DEFINITION. CRC-64 of R299, CRC-32 of R389, and RSASSA-PSS with SHA-256 and a 32-byte salt (R76, R389, R399,
R406). -/

namespace Sys2Proof.Machine

/-- n bytes from address a of a canonical Mem, in order, in one pass. -/
def Mem.dense : Nat → Nat → Mem → List Byte
  | _, 0, _ => []
  | a, n + 1, [] => 0 :: Mem.dense (a + 1) n []
  | a, n + 1, (j, b) :: m => if j = a then b :: Mem.dense (a + 1) n m else 0 :: Mem.dense (a + 1) n ((j, b) :: m)

/-- The n bytes from address a, in order. -/
def Mem.span (m : Mem) (a n : Nat) : List Byte := Mem.dense 0 n (Mem.slice m a n)

/-! ### CRCs -/

/-- k shifts of the CRC-64 register. -/
def crc64Shift : Nat → Nat → Nat
  | 0, c => c
  | k + 1, c => crc64Shift k (if c.testBit 63 then (2 * c) % 2 ^ 64 ^^^ 0x42F0E1EBA9EA3693 else 2 * c)

/-- CRC-64 (ECMA-182): not reflected, initial value and final XOR zero (R299). -/
def crc64 (bs : List Byte) : W64 :=
  BitVec.ofNat 64 (bs.foldl (fun c b => crc64Shift 8 (c ^^^ b.toNat * 2 ^ 56)) 0)

/-- k shifts of the reflected CRC-32 register. -/
def crc32Shift : Nat → Nat → Nat
  | 0, c => c
  | k + 1, c => crc32Shift k (if c % 2 = 1 then (c / 2) ^^^ 0xEDB88320 else c / 2)

/-- CRC-32 (ISO-HDLC, R389). -/
def crc32 (bs : List Byte) : W32 :=
  BitVec.ofNat 32 (bs.foldl (fun c b => crc32Shift 8 (c ^^^ b.toNat)) 0xFFFFFFFF ^^^ 0xFFFFFFFF)

/-! ### RSASSA-PSS -/

/-- b^e mod n by repeated squaring over k bits of e. -/
def powMod (n : Nat) : Nat → Nat → Nat → Nat → Nat
  | 0, _, _, r => r
  | k + 1, b, e, r => powMod n k (b * b % n) (e / 2) (if e % 2 = 1 then r * b % n else r)

/-- MGF1 with SHA-256: len bytes. -/
def mgf1 (seed : List Byte) (len : Nat) : List Byte :=
  ((List.range ((len + 31) / 32)).flatMap fun i => digestBytes (sha256 (seed ++ beBytes 4 i))).take len

/-- RSASSA-PSS verification of a signature over a message with the given digest, SHA-256 and a 32-byte salt
(RFC 8017, 8.1.2 and 9.1.2). -/
def pssVerify (n e : Nat) (mHash : BitVec 256) (sig : Nat) : Bool :=
  let emBits := Nat.log2 n
  let emLen := (emBits + 7) / 8
  if n ≤ sig || emLen < 66 then false else
  let m := powMod n (Nat.log2 e + 1) sig e 1
  if 2 ^ (8 * emLen) ≤ m then false else
  let em := beBytes emLen m
  let dbLen := emLen - 33
  let h := (em.drop dbLen).take 32
  let db := beNat (em.take dbLen) ^^^ beNat (mgf1 h dbLen)
  let body := db % 2 ^ (8 * dbLen - (8 * emLen - emBits))
  let salt := beBytes 32 (body % 2 ^ 256)
  decide (m < 2 ^ emBits) && m % 256 == 0xBC && body / 2 ^ 256 == 1 &&
  sha256 (List.replicate 8 0 ++ digestBytes mHash ++ salt) == BitVec.ofNat 256 (beNat h)

end Sys2Proof.Machine
end

