-- ==== Sys2Proof/Machine/Num.lean ====
section
/-! DEFINITION. Floating-point formats and exact arithmetic on their values: every result is formed exactly as a
dyadic number and rounded once (R102, R154, R275). Real functions are evaluated in fixed point far below the last
place of the format they are rounded to. -/

namespace Sys2Proof.Machine

/-- A floating-point value: NaN, an infinity, or (-1)^neg * m * 2^e. -/
inductive Fp where
  | nan
  | inf (neg : Bool)
  | fin (neg : Bool) (m : Nat) (e : Int)
  deriving DecidableEq, Repr

/-- How a format uses its highest codes. -/
inductive FmtKind where
  /-- Infinities and NaNs as IEEE 754. -/
  | ieee
  /-- E4M3: no infinity; all ones is NaN. -/
  | e4m3
  /-- Every code is finite. -/
  | finite
  deriving DecidableEq, Repr

/-- A binary format: exponent bits, mantissa bits, kind. -/
structure Fmt where
  eb : Nat
  mb : Nat
  kind : FmtKind
  deriving DecidableEq, Repr

def fp32 : Fmt := ⟨8, 23, .ieee⟩
def fp64 : Fmt := ⟨11, 52, .ieee⟩
def bf16 : Fmt := ⟨8, 7, .ieee⟩
def fp16 : Fmt := ⟨5, 10, .ieee⟩
def e5m2 : Fmt := ⟨5, 2, .ieee⟩
def e4m3 : Fmt := ⟨4, 3, .e4m3⟩
def e3m2 : Fmt := ⟨3, 2, .finite⟩
def e2m3 : Fmt := ⟨2, 3, .finite⟩
def e2m1 : Fmt := ⟨2, 1, .finite⟩

/-- Exponent bias. -/
def Fmt.bias (f : Fmt) : Nat := 2 ^ (f.eb - 1) - 1

/-- Bits of a code. -/
def Fmt.width (f : Fmt) : Nat := 1 + f.eb + f.mb

/-- The largest finite magnitude code. -/
def Fmt.maxCode (f : Fmt) : Nat :=
  match f.kind with
  | .ieee => (2 ^ f.eb - 1) * 2 ^ f.mb - 1
  | .e4m3 => 2 ^ (f.eb + f.mb) - 2
  | .finite => 2 ^ (f.eb + f.mb) - 1

/-- The value of a code. -/
def Fmt.dec (f : Fmt) (c : Nat) : Fp :=
  let neg := c.testBit (f.eb + f.mb)
  let mag := c % 2 ^ (f.eb + f.mb)
  let ex := mag / 2 ^ f.mb
  let man := mag % 2 ^ f.mb
  if f.maxCode < mag then
    match f.kind with
    | .ieee => if man = 0 then .inf neg else .nan
    | _ => .nan
  else if ex = 0 then .fin neg man (1 - (f.bias : Int) - f.mb)
  else .fin neg (man + 2 ^ f.mb) ((ex : Int) - f.bias - f.mb)

/-- m / 2^n rounded to nearest, ties to even. -/
def rneShift (m n : Nat) : Nat :=
  let q := m / 2 ^ n
  let r := m % 2 ^ n
  if n = 0 then m
  else if r < 2 ^ (n - 1) then q
  else if 2 ^ (n - 1) < r then q + 1
  else q + q % 2

/-- The sign bit of a code. -/
def Fmt.signBit (f : Fmt) (neg : Bool) : Nat := if neg then 2 ^ (f.eb + f.mb) else 0

/-- The infinity, or in a format without one the largest finite value. -/
def Fmt.infCode (f : Fmt) (neg : Bool) : Nat :=
  f.signBit neg + match f.kind with
    | .ieee => f.maxCode + 1
    | _ => f.maxCode

/-- The magnitude code of m * 2^e with the given way to shift right; it may exceed the largest finite code. -/
def Fmt.magCode (f : Fmt) (rnd : Nat → Nat → Nat) (m : Nat) (e : Int) : Nat :=
  if m = 0 then 0 else
  let top : Int := (Nat.log2 m : Int) + e
  let q : Int := max top (1 - (f.bias : Int)) - f.mb
  let k := if q ≤ e then m * 2 ^ (e - q).toNat else rnd m (q - e).toNat
  ((q + f.mb + f.bias).toNat) * 2 ^ f.mb + k - 2 ^ f.mb

/-- Encodes a value, rounded to nearest even: NaN as the given code, overflow as infCode. -/
def Fmt.enc (f : Fmt) (nanCode : Nat) (v : Fp) : Nat :=
  match v with
  | .nan => nanCode
  | .inf neg => f.infCode neg
  | .fin neg m e =>
    let c := f.magCode rneShift m e
    if f.maxCode < c then f.infCode neg else f.signBit neg + c

/-- FP32 with the one NaN that results take (R102, R154). -/
def enc32 (v : Fp) : W32 := BitVec.ofNat 32 (fp32.enc 0x7FC00000 v)

/-- The value of FP32 bits. -/
def dec32 (w : W32) : Fp := fp32.dec w.toNat

/-- Signed mantissa of a finite value at exponent x, x at most its own. -/
def scaledTo (neg : Bool) (m : Nat) (e x : Int) : Int :=
  let v : Int := m * 2 ^ (e - x).toNat
  if neg then -v else v

/-- A finite value from a signed mantissa; zero takes the given sign. -/
def ofInt (zneg : Bool) (v : Int) (e : Int) : Fp :=
  if v = 0 then .fin zneg 0 e else .fin (decide (v < 0)) v.natAbs e

/-- Exact sum; an exact zero from unlike signs is +0. -/
def Fp.add (x y : Fp) : Fp :=
  match x, y with
  | .nan, _ => .nan
  | _, .nan => .nan
  | .inf a, .inf b => if a = b then .inf a else .nan
  | .inf a, _ => .inf a
  | _, .inf b => .inf b
  | .fin a m e, .fin b n k =>
    let x := min e k
    ofInt (a && b) (scaledTo a m e x + scaledTo b n k x) x

/-- Sign change. -/
def Fp.neg : Fp → Fp
  | .nan => .nan
  | .inf a => .inf !a
  | .fin a m e => .fin (!a) m e

/-- Magnitude. -/
def Fp.abs : Fp → Fp
  | .nan => .nan
  | .inf _ => .inf false
  | .fin _ m e => .fin false m e

/-- Exact product; infinity times zero is NaN. -/
def Fp.mul (x y : Fp) : Fp :=
  match x, y with
  | .nan, _ => .nan
  | _, .nan => .nan
  | .inf a, .inf b => .inf (a != b)
  | .inf a, .fin b n _ => if n = 0 then .nan else .inf (a != b)
  | .fin a m _, .inf b => if m = 0 then .nan else .inf (a != b)
  | .fin a m e, .fin b n k => .fin (a != b) (m * n) (e + k)

/-- Order of two values that are not NaN: x < y, with -0 and +0 equal. -/
def Fp.lt (x y : Fp) : Bool :=
  match x, y with
  | .nan, _ => false
  | _, .nan => false
  | .inf a, .inf b => a && !b
  | .inf a, .fin _ _ _ => a
  | .fin _ _ _, .inf b => !b
  | .fin a m e, .fin b n k =>
    let x := min e k
    decide (scaledTo a m e x < scaledTo b n k x)

/-- Equal values, with -0 equal to +0. -/
def Fp.eq (x y : Fp) : Bool :=
  match x, y with
  | .nan, _ => false
  | _, .nan => false
  | .inf a, .inf b => a == b
  | .inf _, .fin _ _ _ => false
  | .fin _ _ _, .inf _ => false
  | .fin a m e, .fin b n k =>
    let x := min e k
    decide (scaledTo a m e x = scaledTo b n k x)

/-- The sign of a value. -/
def Fp.isNeg : Fp → Bool
  | .nan => false
  | .inf a => a
  | .fin a _ _ => a

/-- Is NaN. -/
def Fp.isNan : Fp → Bool
  | .nan => true
  | _ => false

/-- Is finite. -/
def Fp.isFin : Fp → Bool
  | .fin _ _ _ => true
  | _ => false

/-- Maximum of two values as FP32 bits: -0 below +0, a NaN operand gives NaN (R154, R225). -/
def fmax32 (a b : W32) : W32 :=
  let x := dec32 a
  let y := dec32 b
  if x.isNan || y.isNan then 0x7FC00000
  else if x.lt y then b
  else if y.lt x then a
  else if x.isNeg then b else a

/-- Minimum, with the same order. -/
def fmin32 (a b : W32) : W32 :=
  let x := dec32 a
  let y := dec32 b
  if x.isNan || y.isNan then 0x7FC00000
  else if x.lt y then a
  else if y.lt x then b
  else if x.isNeg then a else b

/-- An integer as a value. -/
def Fp.ofI (i : Int) : Fp := ofInt false i 0

/-! ### Fixed point -/

/-- Fraction bits of the fixed-point evaluations. -/
def fxBits : Nat := 256

/-- 1.0. -/
def fxOne : Int := 2 ^ 256

/-- Product, rounded down. -/
def fxMul (a b : Int) : Int := a * b / fxOne

/-- Quotient, rounded down. -/
def fxDiv (a b : Int) : Int := a * fxOne / b

/-- A finite value in fixed point, rounded down. -/
def fxOf (neg : Bool) (m : Nat) (e : Int) : Int :=
  let v : Int := if 0 ≤ e + 256 then m * 2 ^ (e + 256).toNat else m / 2 ^ (-(e + 256)).toNat
  if neg then -v else v

/-- ln 2. -/
def fxLn2 : Int :=
  693147180559945309417232121458176568075500134360255254120680009493393621969694715605863326996418687 *
    fxOne / 10 ^ 99

/-- pi. -/
def fxPi : Int :=
  3141592653589793238462643383279502884197169399375105820974944592307816406286208998628034825342117067 *
    fxOne / 10 ^ 99

/-- e^x by Taylor series on x / 2^8 and eight squarings; for |x| up to 64. -/
def fxExp (x : Int) : Int :=
  let y := x / 256
  let r := (List.range 48).foldl
    (fun (acc : Int × Int) (i : Nat) => let t := fxMul acc.2 y / ((i : Int) + 1); (acc.1 + t, t)) (fxOne, fxOne)
  (List.range 8).foldl (fun v _ => fxMul v v) r.1

/-- 2^u for 0 ≤ u < 1. -/
def fxExp2 (u : Int) : Int := fxExp (fxMul u fxLn2)

/-- 1 / (1 + e^-y). -/
def fxSigmoid (y : Int) : Int := fxDiv fxOne (fxOne + fxExp (-y))

/-- log2 of v for 1 ≤ v < 2, bit by bit by squaring. -/
def fxLog2 (v : Int) : Int :=
  let r := (List.range 128).foldl (fun (acc : Int × Int) _ =>
    let s := fxMul acc.1 acc.1
    if 2 * fxOne ≤ s then (s / 2, 2 * acc.2 + 1) else (s, 2 * acc.2)) (v, (0 : Int))
  r.2 * 2 ^ 128

/-- A fixed-point number as a value. -/
def fxFp (v : Int) : Fp := ofInt false v (-256)

/-- The largest integer at or below a finite value. -/
def floorOf (neg : Bool) (m : Nat) (e : Int) : Int :=
  let v : Int := if neg then -(m : Int) else m
  if 0 ≤ e then v * 2 ^ e.toNat else v / 2 ^ (-e).toNat

end Sys2Proof.Machine
end

