-- ==== Sys2Proof/Machine/Nb.lean ====
section
/-! DEFINITION. Near-bank processing (chapter 10): command checks, micro-ops on the open rows of a rectangle of units,
segments, claims, completion, rejection and abort. -/

namespace Sys2Proof.Machine

/-! ### Element arithmetic (R275, R276) -/

/-- The format of a float command format code. -/
def nbFmt (fmt : Nat) : Fmt := if fmt = 0 then bf16 else if fmt = 1 then fp16 else e4m3

/-- The NaN a command format gives. -/
def nbNan (fmt : Nat) : Nat := if fmt = 0 then 0x7FC0 else if fmt = 1 then 0x7E00 else 0x7F

/-- Bits of an element. -/
def nbWidth (fmt : Nat) : Nat := if fmt < 2 then 16 else 8

/-- Saturates to INT8, as a code. -/
def satI8 (v : Int) : Nat := unsgn 8 (max (-128) (min 127 v))

/-- A signed value divided by 2^n, rounded to nearest even. -/
def rneInt (v : Int) (n : Nat) : Int :=
  let q : Int := rneShift v.natAbs n
  if v < 0 then -q else q

/-- Encodes an element. -/
def nbEnc (fmt : Nat) (v : Fp) : Nat := (nbFmt fmt).enc (nbNan fmt) v

/-- Sum of two elements. -/
def nbAdd (fmt x y : Nat) : Nat :=
  if fmt = 2 then satI8 (sgn 8 x + sgn 8 y) else nbEnc fmt (((nbFmt fmt).dec x).add ((nbFmt fmt).dec y))

/-- Product of two elements. -/
def nbMul (fmt x y : Nat) : Nat :=
  if fmt = 2 then satI8 (sgn 8 x * sgn 8 y) else nbEnc fmt (((nbFmt fmt).dec x).mul ((nbFmt fmt).dec y))

/-- SCALE: by a BF16 constant, or in INT8 by a / 2^b. -/
def nbScale (fmt imm x : Nat) : Nat :=
  if fmt = 2 then satI8 (rneInt (sgn 8 x * sgn 8 (imm % 256)) (bitsN imm 11 8))
  else nbEnc fmt (((nbFmt fmt).dec x).mul (bf16.dec imm))

/-- The real function behind ACT code f, in fixed point: GELU in its tanh form, SiLU, sigmoid. -/
def actReal (f : Nat) (x : Int) : Int :=
  if f = 1 then
    let c := fxMul x (fxMul x x) * 44715 / 1000000
    let k : Int := (Nat.sqrt ((fxDiv (2 * fxOne) fxPi * fxOne).toNat) : Int)
    fxMul x (fxSigmoid (2 * fxMul k (x + c)))
  else if f = 2 then fxMul x (fxSigmoid x)
  else fxSigmoid x

/-- Segment constants c1 and c0 over [a, a + 1/d) of a function, each rounded once to FP32. -/
def segConst (g : Int → Int) (a : Int) (d : Int) : W32 × W32 :=
  let f1 := g a
  let df := (g (a + fxOne / d) - f1) * d
  (enc32 (fxFp df), enc32 (fxFp (f1 - fxMul a df)))

/-- c1 * x + c0 in FP32 with one rounding. -/
def segEval (c : W32 × W32) (x : Fp) : W32 := enc32 (((dec32 c.1).mul x).add (dec32 c.2))

/-- ACT on an exact value, before the final rounding to the format (Table 10.4). -/
def nbAct (f : Nat) (v : Fp) : Fp :=
  match v with
  | .nan => .nan
  | .inf neg =>
    if neg then .fin false 0 0 else if f = 4 then .fin false 1 0 else .inf false
  | .fin neg m e =>
    if f = 0 then (if neg || m = 0 then .fin false 0 0 else v)
    else if f = 3 then
      let n := floorOf neg m e
      let u := v.add (.ofI (-n))
      let k := match u with
        | .fin _ a x => floorOf false (64 * a) x
        | _ => 0
      let t := dec32 (segEval (segConst fxExp2 (k * fxOne / 64) 64) u)
      t.mul (.fin false 1 (max (-1000) (min 1000 n)))
    else if v.lt (.ofI (-8)) then .fin false 0 0
    else if !v.lt (.ofI 8) then (if f = 4 then .fin false 1 0 else v)
    else
      let q := match v.add (.ofI 8) with
        | .fin _ a x => floorOf false (4 * a) x
        | _ => 0
      dec32 (segEval (segConst (actReal f) ((q - 32) * fxOne / 4) 4) v)

/-- ACT on an element. -/
def nbActElem (fmt f x : Nat) : Nat :=
  if fmt = 2 then (if 0 < sgn 8 x then x else 0) else nbEnc fmt (nbAct f ((nbFmt fmt).dec x))

/-- Element by element over a 256-bit word. -/
def mapWord (fmt : Nat) (g : Nat → Nat → Nat) (x y : BitVec 256) : BitVec 256 :=
  let w := nbWidth fmt
  BitVec.ofNat 256 ((List.range (256 / w)).foldl (fun acc k =>
    acc + g (bitsN x.toNat (w * k + w - 1) (w * k)) (bitsN y.toNat (w * k + w - 1) (w * k)) * 2 ^ (w * k)) 0)

/-! ### Micro-ops and checks -/

/-- A micro-op obeys R272-R275 in a format. -/
def MicroOp.ok (u : MicroOp) (fmt : Nat) : Bool :=
  decide (1 ≤ u.op) && decide (u.op ≤ 6) && u.res == 0 && u.codes.all (fun c => decide (c < 6)) &&
  decide ((u.codes.filter fun c => 4 ≤ c).length ≤ 1) && (u.two || u.b == 0) &&
  (match u.op with
   | 4 => fmt != 2 || bitsN u.imm 15 12 == 0
   | 5 => decide (u.imm ≤ 4) && (fmt != 2 || u.imm == 0)
   | 6 => u.imm == 0 && decide (u.dst < 4) && decide (u.a < 4)
   | _ => u.imm == 0)

/-- Some micro-op writes the bank of operand code k. -/
def NbCmd.writes (c : NbCmd) (k : Nat) : Bool := c.ops.any fun u => u.dst == k

/-- The units in group order: die and pair (R277). -/
def NbCmd.units (c : NbCmd) : List (Nat × Nat) :=
  (List.range (c.dieHi + 1 - c.dieLo)).flatMap fun d =>
    (List.range (c.pairHi + 1 - c.pairLo)).map fun p => (c.dieLo + d, c.pairLo + p)

/-- The units form a chain group or a segment group (R277). -/
def NbCmd.chainOk (c : NbCmd) : Bool :=
  (c.dieLo == c.dieHi && decide (c.units.length ≤ 8)) || (c.pairLo % 8 == 0 && (c.pairHi + 1) % 8 == 0)

/-- Cycles of a CHAIN_ADD (Table 10.5). -/
def NbCmd.chainCycles (c : NbCmd) : Nat :=
  let n := c.units.length
  if c.dieLo == c.dieHi && decide (n ≤ 8) then n else 24 * (n / 8) - 16

/-- Time of a step in ns (R279). -/
def NbCmd.stepNs (c : NbCmd) : Nat :=
  28 + 2 * c.cols * (c.ops.map fun u => if u.op = 6 then c.chainCycles else 1).sum

/-- m of half h of a row of the bank of parity p on a die (R268). -/
def nbM (die p row h : Nat) : Nat := row * 64 + (2 * die + p) * 2 + h

/-- The device lines of the given rows in every unit (R268, R271). -/
def NbCmd.lines (c : NbCmd) (stk : Nat) (rows : List (Nat × Nat)) : List Nat :=
  c.units.flatMap fun u => rows.flatMap fun r => [0, 1].map fun h => lineAt stk u.2 (nbM u.1 r.1 r.2 h)

/-- The near-bank licence is in force (R269, R395). -/
def State.nbLicensed (s : State) : Bool := bitN s.sec.features.toNat 4

/-- Checks a command's fields in the order of Table 10.7, with its micro-program already read; ply tells a ply-code
command. The reason of the first failing check, or the command. -/
def nbBuild (issuer : NbIssuer) (ply : Bool) (cls : Nat) (dws prog : List W32) : Nat ⊕ NbCmd :=
  let d2 := dwN dws 2
  let d3 := dwN dws 3
  let c : NbCmd :=
    { issuer := issuer, dieLo := bitsN d2 7 4, dieHi := bitsN d2 11 8, pairLo := bitsN d2 16 12
      pairHi := bitsN d2 21 17, fmt := bitsN d2 23 22, prog := prog, colStart := bitsN d3 11 6
      cols := bitsN d3 17 12 + 1, steps := bitsN d3 28 18 + 1, rowE := bitsN (dwN dws 4) 15 0
      rowO := bitsN (dwN dws 4) 31 16, strideE := bitsN (dwN dws 5) 15 0, strideO := bitsN (dwN dws 5) 31 16
      cls := cls }
  let reserved := bitN d2 3 || bitsN d2 31 24 != 0 || bitsN d3 31 29 != 0 ||
    (List.range 8).any (fun i => dwN dws (8 + i) != 0) || (ply && (dwN dws 0 != 0x14 || dwN dws 1 != 0))
  if reserved || c.dieHi < c.dieLo || c.pairHi < c.pairLo || 64 < c.colStart + c.cols || dwN dws 6 % 4 != 0 then
    .inl 2
  else if !c.ops.all (fun u => u.ok c.fmt) then .inl 3
  else if c.rows.any fun r => 40959 < r.2 then .inl 4
  else if 3900 < c.stepNs || 32000 < c.steps * c.stepNs then .inl 6
  else if c.ops.any (fun u => u.op == 6) && !c.chainOk then .inl 7
  else .inr c

/-! ### Granule writes (R245, R247, R284, R490) -/

/-- Discards a loaded image: measurement 3 becomes zero (R404, R490). -/
def State.discardImage (s : State) : State := { s with image := none }

/-- The marking pass over granule k of a stack: its cached lines are written back and dropped first, and what its channels'
queues hold to write is written, then every word takes the unwritten mark with all-zero data; it runs in every bank of the
stack, whose open rows close (R247, R253). -/
def State.markGranule (s : State) (stk k : Nat) : State :=
  let queued := (List.range 32).flatMap fun c => ((s.chan stk c).queue.filter fun r => r.write).map fun r => r.line
  let ls := (s.ccd.lines.map Prod.fst ++ queued).eraseDups.filter fun L => (place L).stk == stk && (place L).m >>> 15 == k
  let s := ls.foldl State.flushLine s.serveScrub
  let first := (2621440 * stk + 32768 * k) * 32
  (List.range 32).foldl (fun s c => s.updChan stk c fun k => { k with openRow := [] })
    { s with hbm := Mem.clear s.hbm (first * 1024) (32768 * 32 * 1024)
             hbmWords := RMap.fill {} s.hbmWords (first * 32) (32768 * 32 * 32) {} }

/-- A command running or queued in the stack names a row of granule k. -/
def State.granBusy (s : State) (stk k : Nat) : Bool :=
  let n := s.nbStack stk
  let named (c : NbCmd) : Bool := c.rows.any fun r => r.2 / 512 == k
  (match n.run with | some r => named r.cmd | none => false) || n.devQ.any named || n.hostQ.any named

/-- The granules that a write of new open bits makes protected. -/
def newlyProtected (old new : BitVec 80) : List Nat :=
  (List.range 80).filter fun k => old.getLsbD k && !new.getLsbD k

/-- The open bits after a write of the bits m of HBM_GRAN_LO or HBM_GRAN_HI; the register's other bits stay (R489). -/
def granBits (old : BitVec 80) (hi : Bool) (v m : W64) : BitVec 80 :=
  let was : W64 := if hi then BitVec.ofNat 64 (old.toNat / 2 ^ 64) else BitVec.ofNat 64 (old.toNat % 2 ^ 64)
  let v := was &&& ~~~m ||| v &&& m
  if hi then BitVec.ofNat 80 (old.toNat % 2 ^ 64 + v.toNat % 2 ^ 16 * 2 ^ 64)
  else BitVec.ofNat 80 (old.toNat / 2 ^ 64 * 2 ^ 64 + v.toNat)

/-- Applies a granule write now: newly protected granules are marked, and a loaded image is then discarded. -/
def State.applyGran (s : State) (stk : Nat) (hi : Bool) (v m : W64) : State :=
  let old := (s.stack stk).openGran
  let new := granBits old hi v m
  let prot := newlyProtected old new
  let s := prot.foldl (fun s k => s.markGranule stk k) s
  let s := s.updStack stk fun k => { k with openGran := new }
  if prot.isEmpty then s else s.discardImage

/-- A write of the bits m of a granule register: it waits while a command that runs or is queued names a row it would protect
(Table 10.6), or an earlier write to those bits waits. -/
def State.writeGran (s : State) (stk : Nat) (hi : Bool) (v m : W64) : State :=
  let old := (s.stack stk).openGran
  if (s.pim.heldGran.any fun g => g.1 == stk && g.2.1 == hi && g.2.2.2 &&& m != 0) ||
      (newlyProtected old (granBits old hi v m)).any fun k => s.granBusy stk k then
    { s with pim := { s.pim with heldGran := s.pim.heldGran ++ [(stk, hi, v, m)] } }
  else s.applyGran stk hi v m

/-- Applies the waiting granule writes that may take effect, in order. -/
def State.releaseGran (s : State) : State :=
  s.pim.heldGran.foldl (fun s g => s.writeGran g.1 g.2.1 g.2.2.1 g.2.2.2) { s with pim := { s.pim with heldGran := [] } }

/-! ### Failure -/

/-- A command fails (R290), and a granule write that waited for it alone takes effect (Table 10.6): counted; a host command completes with status 0x07; a device-issued one posts its record,
except under 0x10, and halts its block's target 6, except under 0x10 and 0x13. -/
def State.nbFail (s : State) (stk : Nat) (issuer : NbIssuer) (loc reason : Nat) : State :=
  let s := s.updNb stk fun k => { k with
    lastReason := reason
    rejected := if reason < 0x10 then satAdd k.rejected 1 else k.rejected
    aborted := if reason < 0x10 then k.aborted else satAdd k.aborted 1 }
  let s := s.releaseGran
  match issuer with
  | .host uid => s.finish uid 7 reason 0 0
  | .block b _ _ =>
    let s := if reason = 0x10 then s else
      s.post { cls := 3, level := 1, unit := 0x23, code := reason, lblock := some b, loc := loc, data0 := b }
    if reason = 0x10 || reason = 0x13 then s else
    s.updSeq b fun q => { q with tgtHalted := SMap.set false q.tgtHalted 6 true, queues := SMap.set [] q.queues 6 [] }

/-- Record location of a command's first unit (Table 18.4). -/
def NbCmd.loc (c : NbCmd) (stk : Nat) : Nat := stk + c.dieLo <<< 3 + c.pairLo <<< 7

/-! ### Running -/

/-- Byte address of word i of an open row in the HBM store. -/
def nbWordAddr (stk die pair p row i : Nat) : Nat :=
  ((2621440 * stk + nbM die p row (i / 32)) * 32 + pair) * 1024 + 32 * (i % 32)

/-- Reads operand code k in unit (number, die, pair) at row step j, column i. -/
def State.nbRead (s : State) (stk : Nat) (c : NbCmd) (regs : SMap (BitVec 256)) (u : Nat × Nat × Nat)
    (j i k : Nat) : BitVec 256 :=
  if k < 4 then SMap.get 0 regs (4 * u.1 + k)
  else BitVec.ofNat 256 (Mem.rd s.hbm (nbWordAddr stk u.2.1 u.2.2 (k - 4) (c.row (k - 4) j) i) 32)

/-- Writes operand code k. -/
def State.nbWrite (sr : State × SMap (BitVec 256)) (stk : Nat) (c : NbCmd) (u : Nat × Nat × Nat) (j i k : Nat)
    (v : BitVec 256) : State × SMap (BitVec 256) :=
  if k < 4 then (sr.1, SMap.set 0 sr.2 (4 * u.1 + k) v)
  else
    let a := nbWordAddr stk u.2.1 u.2.2 (k - 4) (c.row (k - 4) j) i
    ({ sr.1 with hbm := Mem.splice sr.1.hbm a 32 (Mem.wr [] 0 32 v.toNat),
                 hbmWords := RMap.fill {} sr.1.hbmWords (a / 32) 1 { mark := .data } }, sr.2)

/-- The value a micro-op other than CHAIN_ADD makes from its sources. -/
def MicroOp.value (o : MicroOp) (fmt : Nat) (x y : BitVec 256) : BitVec 256 :=
  match o.op with
  | 1 => x
  | 2 => mapWord fmt (nbAdd fmt) x y
  | 3 => mapWord fmt (nbMul fmt) x y
  | 4 => mapWord fmt (fun e _ => nbScale fmt o.imm e) x y
  | _ => mapWord fmt (fun e _ => nbActElem fmt o.imm e) x y

/-- The numbered units of a command. -/
def NbCmd.numbered (c : NbCmd) : List (Nat × Nat × Nat) := (List.range c.units.length).zip c.units

/-- One micro-op in every unit (R273, R278). -/
def nbMicro (stk : Nat) (c : NbCmd) (j i : Nat) (sr : State × SMap (BitVec 256)) (o : MicroOp) :
    State × SMap (BitVec 256) :=
  if o.op = 6 then
    (c.numbered.foldl (fun (acc : (State × SMap (BitVec 256)) × BitVec 256) u =>
      let x := acc.1.1.nbRead stk c acc.1.2 u j i o.a
      let p := if u.1 = 0 then x else mapWord c.fmt (nbAdd c.fmt) acc.2 x
      (State.nbWrite acc.1 stk c u j i o.dst p, p)) (sr, 0)).1
  else c.numbered.foldl (fun sr u =>
    let x := sr.1.nbRead stk c sr.2 u j i o.a
    let y := if o.two then sr.1.nbRead stk c sr.2 u j i o.b else 0
    State.nbWrite sr stk c u j i o.dst (o.value c.fmt x y)) sr

/-- Row step j: the program once per column (R273, R274). -/
def nbStep (stk : Nat) (c : NbCmd) (sr : State × SMap (BitVec 256)) (j : Nat) : State × SMap (BitVec 256) :=
  (List.range c.cols).foldl (fun sr i => c.ops.foldl (nbMicro stk c j (c.colStart + i)) sr) sr

/-- Runs k steps of a running command. -/
def State.nbSteps (s : State) (stk : Nat) (r : NbRun) (k : Nat) : State × NbRun :=
  let sr := (List.range k).foldl (fun sr j => nbStep stk r.cmd sr (r.next + j)) (s, r.regs)
  (sr.1, { r with regs := sr.2, next := r.next + k })

/-- Steps of the next segment: as many as fit in the limit in force (R280). -/
def State.segSteps (s : State) (stk : Nat) (r : NbRun) : Nat :=
  min (r.cmd.steps - r.next) ((if (s.stack stk).band = 2 then 3900 else 4000) / r.cmd.stepNs)

/-- The rows of the command's channels close, and the refreshes that a segment deferred are issued (R280). -/
def State.nbClose (s : State) (stk : Nat) (c : NbCmd) : State :=
  (List.range (c.pairHi + 1 - c.pairLo)).foldl (fun s i =>
    s.updChan stk (c.pairLo + i) fun k => { k with openRow := [], deferred := 0 }) s

/-- An abort: the rows being worked on are closed, so some of the segment's steps have reached the array (a free
number of them, log entry 5). -/
def State.nbStop (s : State) (stk : Nat) : State :=
  match (s.nbStack stk).run with
  | none => s
  | some r =>
    let s := match r.phase with
      | .segment n => (s.nbSteps stk r (s.freeNat % (n + 1))).1.tookFree
      | _ => s
    (s.nbClose stk r.cmd).updNb stk fun k => { k with run := none }

/-- The running command of a stack ends with a reason. -/
def State.nbAbort (s : State) (stk reason : Nat) : State :=
  match (s.nbStack stk).run with
  | none => s
  | some r => (s.nbStop stk).nbFail stk r.cmd.issuer (r.cmd.loc stk) reason

/-- The block that issued a command, if one did. -/
def NbIssuer.blocks : NbIssuer → List Nat
  | .host _ => []
  | .block b _ _ => [b]

/-- A command was issued from ply code. -/
def NbIssuer.device : NbIssuer → Bool
  | .host _ => false
  | .block _ _ _ => true

/-- Journals a line of a write set as the cache die would deliver it, without bringing it into the cache; what it reads
from HBM opens its row and is counted, and words that fail after a retraining are copied poisoned (R253, R259, R288,
R382). -/
def State.nbJournal (s : State) (L : Nat) : State :=
  if !s.firstWrite (.line L) then s else
  let s := s.drainLine L
  let valid := match s.line L with | some l => l.valid | none => 0
  let p := place L
  let hb := Mem.slice s.hbm (p.store * 1024) 1024
  let need := ~~~ valid
  let r : State × List Nat :=
    if need = 0 then (s, []) else
    let n := 256 * sectorCount need
    let c := (((s.chanGrant false p.stk p.ch n).qosAdd (2 + p.stk) n).openBank p).crcMet p
    if c.2 then c.1.failedRead L need else (c.1, [])
  let s := r.1
  let e := (List.range 4).foldl (fun (acc : Mem × RMap CWord) q =>
    if valid.getLsbD q then
      (Mem.splice acc.1 (256 * q) 256 (s.sectorOf L q).1, RMap.splice {} acc.2 (32 * q) 32 {} (s.sectorOf L q).2)
    else acc) (hb, [])
  let cwords := r.2.foldl (fun m i => RMap.fill {} m (4 * i) 4 ({ poison := true } : CWord)) e.2
  s.journalAdd { key := .line L, data := e.1, cwords := cwords, words := [] }

/-- The host queue holds 16 commands; later ones wait behind it, and one that moves up then enters it, which in IA540
fence mode completes its descriptor (R282, R287). before is the length it had. -/
def State.nbEntered (s : State) (stk before : Nat) : State :=
  let k := s.nbStack stk
  if !s.pim.compat || before ≤ k.hostQ.length then s else
  match k.hostQ[15]? with
  | some c => (match c.issuer with
    | .host uid => s.finish uid 0 0 0 0
    | .block _ _ _ => s)
  | none => s

/-- The reason with which a command is refused at its start: protected rows, a dead channel (R285). -/
def State.nbRefused (s : State) (stk : Nat) (c : NbCmd) : Option Nat :=
  if c.rows.any fun r => !(s.stack stk).isOpen (r.2 * 64) then some 5
  else if c.units.any fun u => (s.chan stk u.2).state == 2 then some 9
  else none

/-- The accesses to HBM that the start of a command makes cannot be made yet: the journal copies of a device-issued
command, the cleaning of a host command in IA540 fence mode (R260, R287, R288). -/
def State.nbStartWaits (s : State) (stk : Nat) (c : NbCmd) : Bool :=
  let s := s.serveAs c.cls 97
  if c.issuer.device then
    (c.lines stk (c.rows.filter fun x => c.writes (4 + x.1))).any fun L =>
      s.firstWrite (.line L) && (match s.line L with | some l => l.valid != 0xF | none => true) && !s.placeFree (place L)
  else s.pim.compat && (c.lines stk c.rows).any fun L =>
    (match s.line L with | some l => l.dirty != 0 | none => false) && !s.placeFree (place L) true

/-- Starts the next queued command of a stack: the device queue first (R281); protected granules and dead channels
reject it (R285); its claims hold from here; a device-issued command begins its journal phase (R288). -/
def State.nbStart (s : State) (stk : Nat) : State :=
  let k := s.nbStack stk
  if k.run.isSome then s else
  let take : Option (NbCmd × NbStack) :=
    match k.devQ with
    | c :: rest => some (c, { k with devQ := rest })
    | [] => match k.hostQ with
      | c :: rest => some (c, { k with hostQ := rest })
      | [] => none
  match take.filter fun x => (s.nbRefused stk x.1).isSome || !s.nbStartWaits stk x.1 with
  | none => s
  | some (c, k') =>
    let s := (s.updNb stk fun _ => k').nbEntered stk k.hostQ.length
    match s.nbRefused stk c with
    | some reason => s.nbFail stk c.issuer (c.loc stk) reason
    | none =>
      let s := s.serveAs c.cls 97
      let s := if !c.issuer.device && s.pim.compat then (c.lines stk c.rows).foldl State.flushLine s else s
      let r : NbRun := { cmd := c, phase := .journal }
      if c.issuer.device then
        let ws := c.rows.filter fun x => c.writes (4 + x.1)
        ((c.lines stk ws).foldl State.nbJournal s).updNb stk fun k => { k with run := some r }
      else s.updNb stk fun k => { k with run := some { r with phase := .segment (s.segSteps stk r) } }

/-- The device-issued commands running and queued, each with its stack, in the order of their blocks (R456). -/
def State.nbDevice (s : State) : List (Nat × NbCmd) :=
  let all := (List.range 8).flatMap fun stk =>
    ((((s.nbStack stk).run.map NbRun.cmd).toList.filter fun c => c.issuer.device) ++ (s.nbStack stk).devQ).map fun c => (stk, c)
  (List.range 96).flatMap fun b => all.filter fun x => x.2.issuer.blocks == [b]

/-- Device-issued commands are aborted with a reason, queued ones discarded: a rollback (0x10), a ply boundary (0x13;
R289) or endgame (0x11, R291). -/
def State.nbDropDevice (s : State) (reason : Nat) : State :=
  let cs := s.nbDevice
  let s := (List.range 8).foldl (fun s stk =>
    let run := match (s.nbStack stk).run with | some r => r.cmd.issuer.device | none => false
    (if run then s.nbStop stk else s).updNb stk fun k => { k with devQ := [] }) s
  cs.foldl (fun s x => s.nbFail x.1 x.2.issuer (x.2.loc x.1) reason) s

/-- The near-bank part of an abort at a ply boundary (R289): device-issued commands running, queued, or still in a
block's target queue are dropped; the issuing blocks are answered. -/
def State.nbBoundary (s : State) : State × List Nat :=
  let t := s.nbDropDevice 0x13
  (t, (s.nbDevice.flatMap fun x => x.2.issuer.blocks) ++
    (List.range 96).filter fun b => !(SMap.get [] (t.blk b).seq.queues 6).isEmpty)

/-- Host commands at endgame: queued ones complete with reason 0x11, a running one stops at the end of its segment
(R291). -/
def State.nbEndHost (s : State) : State :=
  (List.range 8).foldl (fun s stk =>
    let k := s.nbStack stk
    let s := s.updNb stk fun k => { k with
      hostQ := [], run := k.run.map fun r => { r with stopping := true } }
    let s := k.hostQ.foldl (fun s c => s.nbFail stk c.issuer (c.loc stk) 0x11) s
    match k.run with
    | some r => (match r.phase with
      | .segment _ => s
      | _ => s.nbAbort stk 0x11)
    | none => s) s

/-! ### Rows -/

/-- The words of a scratchpad range for the sequencer port, or none if one is dark (R283, reason 0x08). -/
def State.portWords (s : State) (b o n : Nat) : State × Option (List W32) :=
  if o % 4 ≠ 0 || baBytes < o + 4 * n then (s, none) else
  let s := s.baCorrect b (o / 4) n
  let B := s.blk b
  let dark := (List.range n).filter fun i => (B.wordSt (o / 4 + i)).dark
  if dark.isEmpty then (s, some ((List.range n).map fun i => B.word (o / 4 + i)))
  else
    (dark.foldl (fun s i =>
      let st := B.wordSt (o / 4 + i)
      if st.chk == .bad || !st.written then s.baMet b (o / 4 + i) st else s) s, none)

/-- Removes the head of target queue t of block b. -/
def State.popTarget (s : State) (b t : Nat) : State :=
  s.updSeq b fun q => { q with
    queues := SMap.set [] q.queues t ((SMap.get [] q.queues t).drop 1)
    completed := SMap.upd 0 q.completed t (· + 1) }

/-- A ply-code near-bank command is read over the sequencer port, checked, and enters its stack's device queue, or
waits while that queue is full; the record of a refusal names the unit that its fields name, once they are read (R283, R290,
Table 18.4). -/
def execNbCommandAccept (b : Nat) (s : State) : Out :=
  onUnit (decide (b < 96)) (
    if !s.inPly || (s.blk b).halted then s else
    match SMap.get [] (s.blk b).seq.queues 6 with
    | [] => s
    | (w, cls) :: _ =>
      let ra := w.toNat % 2 ^ 32
      let rb := w.toNat / 2 ^ 32
      let iss : NbIssuer := .block b (rb % 64) s.sch.ply
      let s0 := s.popTarget b 6
      let fail (s : State) (stk reason : Nat) (loc : Nat := stk) : State := s.nbFail stk iss loc reason
      if !s.nbLicensed || s.sec.nbFailed then fail s0 0 1 else
      if ra % 64 ≠ 0 || s.scratchTop b < ra + 64 then fail s0 0 8 else
      match s0.portWords b ra 16 with
      | (s1, none) => fail s1 0 8
      | (s1, some dws) =>
        let stk := bitsN (dwN dws 2) 2 0
        let n := bitsN (dwN dws 3) 5 0 + 1
        let loc := stk + bitsN (dwN dws 2) 7 4 <<< 3 + bitsN (dwN dws 2) 16 12 <<< 7
        if dwN dws 7 ≠ 0 || s.scratchTop b < dwN dws 6 + 4 * n then fail s1 stk 8 loc else
        match s1.portWords b (dwN dws 6) n with
        | (s2, none) => fail s2 stk 8 loc
        | (s2, some prog) =>
          if rb / 64 ≠ 0 then fail s2 stk 2 loc else
          match nbBuild iss true cls dws prog with
          | .inl reason => fail s2 stk reason loc
          | .inr c =>
            if 16 ≤ (s2.nbStack stk).devQ.length then s
            else s2.updNb stk fun k => { k with devQ := k.devQ ++ [c] })

/-- The stack's sequencer starts its next command. -/
def execNbCommandStart (stk : Nat) (s : State) : Out := onUnit (decide (stk < 8)) (s.nbStart stk)

/-- The last journal copy is accepted and the units start (R288). -/
def execNbJournalPhaseEnd (stk : Nat) (s : State) : Out :=
  onUnit (decide (stk < 8)) (
    match (s.nbStack stk).run with
    | some r => if r.phase = .journal then
        s.updNb stk fun k => { k with run := some { r with phase := .segment (s.segSteps stk r) } } else s
    | none => s)

/-- A segment ends: its steps have run and their rows close; the deferred refreshes and, except after the last
segment, a service window follow, or with svc_win 0 the next segment (R280). A register parity error aborts the command
instead, and a command that endgame stops ends here (R291). -/
def execNbSegmentEnd (stk : Nat) (parity : Bool) (s : State) : Out :=
  onUnit (decide (stk < 8)) (
    match (s.nbStack stk).run with
    | some r =>
      (match r.phase with
       | .segment n =>
         if parity then s.nbAbort stk 0x12 else
         let p := s.nbSteps stk r n
         let s := (p.1.nbClose stk r.cmd).updNb stk fun k => { k with
           run := some { p.2 with
             phase := if r.stopping || decide (r.cmd.steps ≤ p.2.next) then .refresh
               else if s.pim.svcWin = 0 then .segment (s.segSteps stk p.2) else .window
             winAt := s.tick } }
         if r.stopping then s.nbAbort stk 0x11 else s
       | _ => s)
    | none => s)

/-- The service window ends, svc_win * 10 ns after it opened, and the next segment starts. -/
def execNbServiceWindowEnd (stk : Nat) (s : State) : Out :=
  onUnit (decide (stk < 8)) (
    match (s.nbStack stk).run with
    | some r => if r.phase = .window && decide (r.winAt + s.pim.svcWin ≤ s.tick) then
        s.updNb stk fun k => { k with run := some { r with phase := .segment (s.segSteps stk r) } } else s
    | none => s)

/-! ### Completion -/

/-- The final deferred refreshes have ended: claims are released, and the semaphore is posted or the descriptor
completes (R280, R283, R286). -/
def execNbCommandComplete (stk : Nat) (s : State) : Out :=
  onUnit (decide (stk < 8)) (
    match (s.nbStack stk).run with
    | some r =>
      if r.phase ≠ .refresh then s else
      let s := s.updNb stk fun k => { k with run := none, done := k.done + 1 }
      let s := match r.cmd.issuer with
        | .host uid => s.finish uid 0 0 0 0
        | .block _ sem _ => s.postSem sem 1
      s.releaseGran
    | none => s)

end Sys2Proof.Machine
end

