-- ==== Sys2Proof/Machine/Trans.lean ====
section
/-! DEFINITION. The functions of TRANS (R154), which COMBINE uses too (R324): any one fixed result within the stated
number of units in the last place; where the manual states no result, a free value (log entry 8). -/

namespace Sys2Proof.Machine

/-- The real result of a TRANS function on a finite operand, far closer than the last place of FP32; none where the
function has no real value: reciprocal of zero, reciprocal square root or logarithm of zero or a negative number. -/
def transReal (fn : Nat) (neg : Bool) (m : Nat) (e : Int) : Option Fp :=
  match fn with
  | 0 => if m = 0 then none else some (.fin neg (2 ^ 320 / m) (-320 - e))
  | 1 =>
    if m = 0 || neg then none else
    let m' := if e % 2 = 0 then m else 2 * m
    let e' := if e % 2 = 0 then e else e - 1
    some (.fin false (Nat.sqrt (2 ^ 640 / m')) (-320 - e' / 2))
  | 2 =>
    let n := floorOf neg m e
    if 200 < n then some (.fin false 1 200)
    else if n < -300 then some (.fin false 1 (-300))
    else
      let u := fxOf neg m e - n * fxOne
      some (.fin false (fxExp2 u).toNat (n - 256))
  | 3 =>
    if m = 0 || neg then none else
    let k : Int := Nat.log2 m
    let v := fxOf false m (-k)
    some (fxFp (fxLog2 v + (k + e) * fxOne))
  | _ =>
    let x := max (-64 * fxOne) (min (64 * fxOne) (fxOf neg m e))
    let t := fxExp (2 * (x.natAbs : Int) / 2)
    let t2 := fxMul t t
    let r := fxDiv (t2 - fxOne) (t2 + fxOne)
    some (ofInt neg (if neg then -r else r) (-256))

/-- Units in the last place that a function may be off (R154). -/
def transUlps (fn : Nat) : Nat := if fn < 2 then 1 else 2

/-- The FP32 code d places from a code, counting through zero. -/
def stepCode (c : Nat) (d : Int) : Nat :=
  let neg := 2 ^ 31 ≤ c
  let o : Int := if neg then -((c - 2 ^ 31 : Nat) : Int) else c
  let v := o + d
  if v = 0 then (if neg then 2 ^ 31 else 0) else if v < 0 then 2 ^ 31 + v.natAbs else v.natAbs

/-- Spacing of FP32 codes at a finite value, as an exponent. -/
def ulpExp (v : Fp) : Int :=
  match v with
  | .fin _ m e => if m = 0 then -149 else max ((Nat.log2 m : Int) + e) (-126) - 23
  | _ => 0

/-- One fixed FP32 result within the function's bound of a real value. -/
def transNear (fn x : Nat) (v : Fp) : W32 :=
  let r := enc32 v
  let k := transUlps fn
  let c := stepCode r.toNat ((Config.transPick fn x % (2 * k + 1) : Nat) - (k : Int))
  let w := fp32.dec c
  if (dec32 r).isFin && w.isFin && !(Fp.fin false k (ulpExp v)).lt ((w.add v.neg).abs) then BitVec.ofNat 32 c else r

/-- TRANS: 0 reciprocal, 1 reciprocal square root, 2 EXP2, 3 LOG2, 4 TANH (R154). EXP2 of minus infinity is +0 (R324). -/
def trans (fn : Nat) (x : W32) : W32 :=
  match dec32 x with
  | .nan => 0x7FC00000
  | .inf neg => if fn = 2 && neg then 0 else BitVec.ofNat 32 (Config.transPick fn x.toNat)
  | .fin neg m e =>
    match transReal fn neg m e with
    | some v => transNear fn x.toNat v
    | none => BitVec.ofNat 32 (Config.transPick fn x.toNat)

end Sys2Proof.Machine
end

