-- ==== Sys2Proof/Machine/Ce.lean ====
section
/-! DEFINITION. The collective engine (R319-R332, R335): step records, digests, sends, receives, ordered folds, attention
triples, and step failure. Reductions pass through the slices' reduce units (Cache.lean). -/

namespace Sys2Proof.Machine

/-! ### Elements and residues (R328) -/

/-- The element format of an etype. -/
def ceFmt (etype : Nat) : Fmt :=
  if etype = 1 then bf16 else if etype = 2 then e4m3 else if etype = 3 then e5m2 else fp32

/-- The elements of n bytes that a residue sums: s and o of every triple for etype 4. -/
def ceElems (etype d n : Nat) (m : Mem) : List Fp :=
  if etype = 4 then
    (List.range (n / (16 + 4 * d))).flatMap fun j =>
      let t := j * (16 + 4 * d)
      dec32 (Mem.rd32 m (t + 4)) :: (List.range d).map fun i => dec32 (Mem.rd32 m (t + 16 + 4 * i))
  else
    let f := ceFmt etype
    let k := f.width / 8
    (List.range (n / k)).map fun i => f.dec (Mem.rd m (i * k) k)

/-- Encodes FP64; which NaN it writes is a free value (log entry 5). -/
def enc64 (v : Fp) : W64 := BitVec.ofNat 64 (fp64.enc (0x7FF0000000000001 + Config.transPick 5 0 % (2 ^ 52 - 1)) v)

/-- The value of FP64 bits. -/
def dec64 (w : W64) : Fp := fp64.dec w.toNat

/-- FP64 sum, rounded to nearest even. -/
def add64 (a b : W64) : W64 := enc64 ((dec64 a).add (dec64 b))

/-- Residue and magnitude of a list of elements, in order (R328). -/
def residue (es : List Fp) : W64 × W64 :=
  es.foldl (fun acc x => (add64 acc.1 (enc64 x), add64 acc.2 (enc64 x.abs))) (0, 0)

/-! ### Failure (R332) -/

/-- A step fails: counted, recorded except under 0x07 and 0x08; except under 0x06 to 0x08 target 7 of its block halts. -/
def State.ceFail (s : State) (b status : Nat) (cid : W32) : State :=
  let s := { s with ce := { s.ce with
    stepFail := if s.ce.stepFail = 0xFF then 0xFF else s.ce.stepFail + 1, lastStatus := status } }
  let s := if status = 7 || status = 8 then s else
    s.post { cls := 3, level := 1, unit := 0x25, code := 0x100 + status, lblock := some b, data0 := cid.toNat }
  if 6 ≤ status && status ≤ 8 then s else
  s.updSeq b fun q => { q with tgtHalted := SMap.set false q.tgtHalted 7 true, queues := SMap.set [] q.queues 7 [] }

/-- Every running and queued step is aborted with a status, in the order of their blocks (R456), and every queue is
emptied (R325, R339): the blocks whose steps were aborted. -/
def State.ceAbort (s : State) (status : Nat) : State × List Nat :=
  let all := s.ce.running.map Prod.fst ++ s.ce.stepQ
  let steps := (List.range 96).flatMap fun b => all.filter fun x => x.block == b
  let s := { s with
    ce := { s.ce with running := [], stepQ := [], inQ := [], outQ := [] }
    ccd := { s.ccd with slices := (s.ccd.slices.map fun e => (e.1, { e.2 with reds := [] })).filter fun e => e.2 != {} } }
  (steps.foldl (fun s x => s.ceFail x.block status x.cid) s, steps.map CeStep.block)

/-- The engine's part of a ply boundary (R325): steps aborted with 0x06; the blocks whose watchdog falls, those with a
command not yet accepted included. -/
def State.ceBoundary (s : State) : State × List Nat :=
  let r := s.ceAbort 6
  (r.1, r.2 ++ (List.range 96).filter fun b => !(SMap.get [] (s.blk b).seq.queues 7).isEmpty)

/-! ### Acceptance (R320, R321, Table 12.5) -/

/-- Source type of a reduction code (Table 8.7). -/
def redType (rop : Nat) : Nat := if rop < 4 then rop else rop - 4

/-- Destination bytes of n source bytes. -/
def redDest (rop n : Nat) : Nat := if redType rop = 0 then n else if redType rop = 1 then 2 * n else 4 * n

/-- Reads a step record of 16 dwords. -/
def ceStepOf (b cls : Nat) (ply : W64) (sem : Nat) (w : List W32) : CeStep :=
  let byte (o : Nat) : Nat := bitsN (dwN w (o / 4)) (8 * (o % 4) + 7) (8 * (o % 4))
  { i := 0, block := b, sem := sem, ply := ply, cls := cls, kind := byte 0, etype := byte 1, rop := byte 2
    first := bitN (byte 3) 0, useLocal := bitN (byte 3) 1, declare := bitN (byte 3) 2, addSlot := bitN (byte 3) 3
    slot := byte 4, nin := byte 5, d := bitsN (dwN w 1) 31 16, queues := (List.range 8).map fun k => byte (8 + k)
    localAddr := dwQ w 4, dest := dwQ w 6, bytes := dwN w 8, cid := w.getD 9 0 }

/-- Queue entries that a step uses. -/
def CeStep.used (c : CeStep) : Nat := if c.kind = 3 || c.kind = 4 then c.nin else if c.kind = 5 then 0 else 1

/-- The step's fields are in range and compatible (R321, R328). d is also given with etype 4 on SEND and RECV, since
the digest carries it and the residue needs it (DEDUCED, log entry 18). -/
def CeStep.ok (c : CeStep) : Bool :=
  decide (c.etype ≤ 4) && decide (c.slot < 64) && decide (c.nin ≤ 8) &&
  (c.queues.take c.used).all (fun q => decide (q < 64)) && (c.queues.drop c.used).all (· == 0) &&
  (if c.kind = 3 then decide (c.rop ≤ 5) && redType c.rop == c.etype else c.rop == 0) &&
  (if c.kind = 4 then c.etype == 4 else true) &&
  (if c.etype = 4 && c.kind != 5 then c.d % 32 == 0 && decide (32 ≤ c.d) && decide (c.d ≤ 256) else c.d == 0) &&
  (!c.declare || c.kind == 1) && (!c.addSlot || c.kind == 3) &&
  !((c.declare || c.addSlot) && (c.etype == 4 || c.rop == 4 || c.rop == 5)) &&
  !((c.kind == 3 || c.kind == 4) && c.first && !c.useLocal && c.nin == 0) &&
  (if c.kind = 5 then c.bytes % 512 == 0 && decide (512 ≤ c.bytes) && decide (c.bytes ≤ 16777216)
   else c.bytes % 16 == 0 && decide (16 ≤ c.bytes) && decide (c.bytes ≤ 131072)) &&
  (c.kind != 3 || c.bytes % 256 == 0) && (c.kind != 4 || c.bytes % (16 + 4 * c.d) == 0)

/-- Bytes that a step writes at dest. -/
def CeStep.destBytes (c : CeStep) : Nat := if c.kind = 3 then redDest c.rop c.bytes else c.bytes

/-- The step's addresses are aligned and inside installed memory. -/
def CeStep.addrOk (c : CeStep) : Bool :=
  let al := if c.kind = 5 then 512 else 256
  let ok (a n : Nat) : Bool := a % al == 0 && installed a n
  (!(c.kind == 1 || c.kind == 5 || (c.kind == 3 || c.kind == 4) && c.useLocal) || ok c.localAddr c.bytes) &&
  (!(c.kind == 2 || c.kind == 3 || c.kind == 4 || c.kind == 5) || ok c.dest c.destBytes) &&
  (c.kind != 3 || c.dest % redDest c.rop 256 == 0)

/-- The status of a record's first failing check, in the order of Table 12.5 (log entry 19). -/
def ceCheck (s : State) (w : List W32) (rbHigh : Bool) (c : CeStep) : Option Nat :=
  if c.kind = 0 || 5 < c.kind || bitsN (dwN w 0) 31 28 != 0 || rbHigh || (List.range 6).any (fun i => dwN w (10 + i) != 0) then
    some 1
  else if !c.ok then some 2
  else if !c.addrOk then some 3
  else if c.kind = 5 && !bitN s.sec.features.toNat 6 then some 5
  else none

/-- A step record is read over the sequencer port, checked, and enters the step queue, or waits while it is full. -/
def execCeStepAccept (b : Nat) (s : State) : Out :=
  onUnit (decide (b < 96)) (
    if !s.inPly || (s.blk b).halted then s else
    match SMap.get [] (s.blk b).seq.queues 7 with
    | [] => s
    | (w, cls) :: _ =>
      let ra := w.toNat % 2 ^ 32
      let rb := w.toNat / 2 ^ 32
      if 64 ≤ s.ce.stepQ.length then s else
      let s := s.popTarget b 7
      if ra % 64 ≠ 0 || s.scratchTop b < ra + 64 then s.ceFail b 3 0 else
      match s.portWords b ra 16 with
      | (s, none) => s.ceFail b 9 0
      | (s, some dws) =>
        let c := ceStepOf b cls s.sch.ply (rb % 64) dws
        match ceCheck s dws (rb / 64 != 0) c with
        | some st => s.ceFail b st c.cid
        | none => { s with ce := { s.ce with
            stepQ := s.ce.stepQ ++ [{ c with i := s.ce.nextStep }], nextStep := s.ce.nextStep + 1 } })

/-! ### Contributions and digests (R325, R327, R329, R331) -/

/-- Data frames of a contribution. -/
def CeStep.frames (c : CeStep) : Nat := ceilDiv c.bytes 512

/-- The digest frame's payload (Table 12.4). -/
def digestFrame (c : CeStep) (crc rho mu : W64) (src : Nat) (plyLo : Nat) : Mem :=
  let m := Mem.wr [] 0 4 0x44475354
  let m := Mem.wr m 4 4 c.frames
  let m := Mem.wr m 8 4 c.bytes
  let m := Mem.wr m 0xC 1 c.etype
  let m := Mem.wr m 0xD 1 (b2n c.declare)
  let m := Mem.wr m 0xE 2 c.d
  let m := Mem.wr64 (Mem.wr64 (Mem.wr64 m 0x10 crc) 0x18 rho) 0x20 mu
  Mem.wr32 (Mem.wr (Mem.wr m 0x28 4 src) 0x2C 4 plyLo) 0x30 c.cid

/-- A contribution: its count of data frames, its bytes, the poison of its 64-bit words, digest payload, and the port of
the digest frame. -/
structure Contribution where
  n : Nat
  data : Mem
  psn : RMap Bool
  digest : Mem
  port : Nat
  deriving DecidableEq, Repr

/-- The frames at the front of a queue that follow one another without a gap: each entry's from its first on, an entry
after the end of another. -/
def queueRun (ok : CeFrame → Bool) : List CeFrame → List CeFrame
  | [] => []
  | f :: rest =>
    if !ok f then [] else
    f :: (match rest with
      | [] => []
      | g :: _ => if g.entry == f.entry || f.last then queueRun ok rest else [])

/-- The frame reads as the digest of the n data frames before it (Table 12.4). -/
def CeFrame.digests (f : CeFrame) (n : Nat) : Bool :=
  Mem.rd f.payload 0 4 == 0x44475354 && Mem.rd f.payload 4 4 == n

/-- The place of the frame that ends the contribution at the front of a queue, for a step that expects n data frames: the
first that reads as the digest of those before it; failing that, the last frame of an expect entry, from place n on, whose
marker or count is wrong (DESIGN CHOICE, log entry 71). -/
def digestAtQueue (n : Nat) (l : List CeFrame) : Option Nat :=
  (List.range l.length).find? fun j =>
    match l[j]? with
    | some f => j != 0 && (f.digests j || decide (n ≤ j) && f.last)
    | none => false

/-- The next contribution of a queue, once its digest frame has been received (R325). -/
def State.contribution (s : State) (c : CeStep) (q : Nat) : Option Contribution :=
  let ok (f : CeFrame) : Bool := (List.range f.seq).all fun i => (SMap.get [] s.fab.received f.entry).contains i
  let l := queueRun ok (SMap.get [] s.ce.inQ q)
  (digestAtQueue c.frames l).bind fun n => (l[n]?).map fun dg =>
    let fs := (List.range n).zip (l.take n)
    { n := n
      data := fs.foldl (fun m e => Mem.splice m (512 * e.1) 512 e.2.payload) []
      psn := fs.foldl (fun m e => (List.range 16).foldl (fun m k =>
        if e.2.pmask.getLsbD k then RMap.fill false m (64 * e.1 + 4 * k) 4 true else m) m) []
      digest := dg.payload, port := dg.port }

/-- Takes a contribution's frames off its queue: all of them, whatever the step expected. -/
def State.takeContribution (s : State) (x : Contribution) (q : Nat) : State :=
  { s with ce := { s.ce with
      inQ := SMap.set [] s.ce.inQ q ((SMap.get [] s.ce.inQ q).drop (x.n + 1)) } }

/-- The contribution or its digest does not fit the consuming step (R329). -/
def Contribution.malformed (k : Contribution) (c : CeStep) : Bool :=
  k.n != c.frames || Mem.rd k.digest 0 4 != 0x44475354 || Mem.rd k.digest 4 4 != c.frames || Mem.rd k.digest 8 4 != c.bytes ||
  Mem.rd k.digest 0xC 1 != c.etype || Mem.rd k.digest 0xE 2 != c.d

/-- A digest mismatch (R331): code 1 CRC, 2 residue. -/
def State.digestMismatch (s : State) (k : Contribution) (code : Nat) : State :=
  let s := { s with ce := if code = 1 then { s.ce with crcFail := satAdd s.ce.crcFail 1 }
                          else { s.ce with resFail := satAdd s.ce.resFail 1 } }
  (s.checkPort 1 k.port).post
    { cls := 1, level := 3, unit := 0x25, code := code, loc := k.port
      data0 := Mem.rd k.digest 0x30 4, data1 := Mem.rd k.digest 0x28 4 }

/-- Checks a contribution's CRC and residue (R329). -/
def State.checkDigest (s : State) (c : CeStep) (k : Contribution) : State :=
  let crc := crc64 (Mem.span k.data 0 (512 * c.frames))
  let s := if crc = Mem.rd64 k.digest 0x10 then s else s.digestMismatch k 1
  let r := (residue (ceElems c.etype c.d c.bytes k.data)).1
  let rho := Mem.rd64 k.digest 0x18
  let mu := Mem.rd64 k.digest 0x20
  if !((dec64 r).isFin && (dec64 rho).isFin && (dec64 mu).isFin) then
    { s with ce := { s.ce with resSkip := satAdd s.ce.resSkip 1 } }
  else
    let diff := ((dec64 r).add (dec64 rho).neg).abs
    let bound := (dec64 mu).mul (.fin false 1 (-(s.ce.resTol : Int)))
    if bound.lt diff then s.digestMismatch k 2 else s

/-! ### Starting steps -/

/-- Step i is running. -/
def State.ceRunning (s : State) (i : Nat) : Option (CeStep × CeSt) := s.ce.running.find? fun e => e.1.i == i

/-- Sets the progress of a running step. -/
def State.ceSet (s : State) (i : Nat) (st : CeSt) : State :=
  { s with ce := { s.ce with running := s.ce.running.map fun e => if e.1.i = i then (e.1, st) else e } }

/-- Starts the step at the head of the queue if it is number i of the given kind and a run slot is free (R320): the
step, or none. -/
def State.ceStart (s : State) (i kind : Nat) : Option (State × CeStep) :=
  if !s.inPly || 16 ≤ s.ce.running.length then none else
  match s.ce.stepQ with
  | [] => none
  | c :: rest =>
    if c.i ≠ i || c.kind ≠ kind then none
    else some ({ s with ce := { s.ce with stepQ := rest, running := s.ce.running ++ [(c, .waiting 0)] } }, c)

/-- A running step stops with a status. -/
def State.ceStop (s : State) (c : CeStep) (status : Nat) : State :=
  ({ s with ce := { s.ce with running := s.ce.running.filter fun e => e.1.i != c.i } }).ceFail c.block status c.cid

/-- The collective engine serves its accesses as master 98 with the step's class (Tables 14.1, 14.2). -/
def State.serveCe (s : State) (c : CeStep) : State := s.serveAs c.cls 98

/-- Reads a local operand: its bytes, and the poison of its 64-bit words. -/
def State.ceLocal (s : State) (c : CeStep) : State × Mem × RMap Bool :=
  let r := (s.serveCe c).devRead c.localAddr c.bytes
  (r.1, r.2.1, poisonOf r.2.2)

/-- The local operand cannot be read yet (R284). -/
def State.localWaits (s : State) (c : CeStep) : Bool := (s.serveCe c).waits false c.localAddr c.bytes

/-- The step's destination cannot be written, or read by a COMBINE, yet (R284). A REDUCE hands its operands to the
slices. -/
def State.destWaits (s : State) (c : CeStep) : Bool :=
  (c.kind == 2 || c.kind == 4) && (s.serveCe c).waits true c.dest c.bytes ||
    c.kind == 4 && (s.serveCe c).waits false c.dest c.bytes

/-- Data frame k of a contribution: a 32-byte chunk with a poisoned word is poisoned. -/
def dataFrame (data : Mem) (psn : RMap Bool) (k : Nat) : CeFrame where
  payload := Mem.slice data (512 * k) 512
  pmask := BitVec.ofNat 16 ((List.range 16).foldl (fun a j =>
    if RMap.anyIn false psn (64 * k + 4 * j) 4 id then a + 2 ^ j else a) 0)
  port := 0

/-- SEND (R322): data frames, zero-padded, then the digest frame, in output queue queue[0]; it waits for room. -/
def execCeSend (i : Nat) (s : State) : Out :=
  .next (
    match s.ceStart i 1 with
    | none => s
    | some (t, c) =>
      let q := c.queues.getD 0 0
      if 512 < (SMap.get [] s.ce.outQ q).length + c.frames + 1 || s.localWaits c then s else
      let r := t.ceLocal c
      let data := r.2.1
      let dg := digestFrame c (crc64 (Mem.span data 0 (512 * c.frames)))
        (if c.declare then SMap.get 0 r.1.ce.rho c.slot else (residue (ceElems c.etype c.d c.bytes data)).1)
        (if c.declare then SMap.get 0 r.1.ce.mu c.slot else (residue (ceElems c.etype c.d c.bytes data)).2)
        r.1.ldevSeen (r.1.sch.ply.toNat % 2 ^ 32)
      let fs := (List.range c.frames).map (dataFrame data r.2.2)
      let last : CeFrame := { payload := dg, pmask := 0, port := 0 }
      let u := r.1
      let u := { u with ce := { u.ce with outQ := SMap.set [] u.ce.outQ q (SMap.get [] u.ce.outQ q ++ fs ++ [last]) } }
      u.ceSet i .finished)

/-- Adds a residue pair to a slot, or sets it (R328). -/
def State.slotAdd (s : State) (c : CeStep) (set : Bool) (rho mu : W64) : State :=
  if !c.addSlot then s else
  { s with ce := { s.ce with
      rho := SMap.set 0 s.ce.rho c.slot (if set then rho else add64 (SMap.get 0 s.ce.rho c.slot) rho)
      mu := SMap.set 0 s.ce.mu c.slot (if set then mu else add64 (SMap.get 0 s.ce.mu c.slot) mu) } }

/-- Hands one operand of a REDUCE to the slices' reduce units, sector by sector (R224). -/
def State.redIssue (s : State) (c : CeStep) (first : Bool) (data : Mem) (psn : RMap Bool) : State :=
  (List.range (c.bytes / 256)).foldl (fun s k =>
    let dest := c.dest + redDest c.rop 256 * k
    let r : RedReq :=
      { step := c.i, cls := c.cls, op := c.rop, src := Mem.slice data (256 * k) 256
        srcPoison := BitVec.ofNat 32 ((List.range 32).foldl (fun a j => if RMap.get false psn (32 * k + j) then a + 2 ^ j else a) 0)
        dest := dest, first := first }
    s.updSlice (lineSlice (dest / 1024)) fun x => { x with reds := x.reds ++ [r] }) s

/-- Reductions of step i that no slice has performed yet. -/
def State.redsOf (s : State) (i : Nat) : Bool :=
  s.ccd.slices.any fun e => e.2.reds.any fun r => r.step == i

/-! ### Attention triples (R324) -/

/-- A triple's fields as FP32 bits. -/
structure Triple where
  m : W32
  s : W32
  o : List W32
  deriving DecidableEq, Repr

/-- Reads a triple of d values. -/
def readTriple (mem : Mem) (a d : Nat) : Triple where
  m := Mem.rd32 mem a
  s := Mem.rd32 mem (a + 4)
  o := (List.range d).map fun i => Mem.rd32 mem (a + 16 + 4 * i)

/-- Some field is NaN. -/
def Triple.hasNan (t : Triple) : Bool :=
  (dec32 t.m).isNan || (dec32 t.s).isNan || t.o.any fun w => (dec32 w).isNan

/-- α x + β y, formed exactly and rounded once. -/
def axby (al be x y : W32) : W32 := enc32 (((dec32 al).mul (dec32 x)).add ((dec32 be).mul (dec32 y)))

/-- Merges triple a with triple b. -/
def mergeTriple (a b : Triple) : Triple :=
  if a.hasNan || b.hasNan then { m := 0x7FC00000, s := 0x7FC00000, o := a.o.map fun _ => 0x7FC00000 } else
  let m := fmax32 a.m b.m
  if m = 0xFF800000 then { m := m, s := 0, o := a.o.map fun _ => 0 } else
  let w (x : W32) : W32 := trans 2 (enc32 ((dec32 x).add (dec32 m).neg))
  { m := m, s := axby (w a.m) (w b.m) a.s b.s, o := (a.o.zip b.o).map fun e => axby (w a.m) (w b.m) e.1 e.2 }

/-- Writes a triple, its eight ignored bytes as zero. -/
def writeTriple (mem : Mem) (a : Nat) (t : Triple) : Mem :=
  let mem := Mem.clear mem a 16
  let mem := Mem.wr32 (Mem.wr32 mem a t.m) (a + 4) t.s
  (((List.range t.o.length).zip t.o).foldl (fun mem e => Mem.wr32 mem (a + 16 + 4 * e.1) e.2) mem)

/-- Folds one operand of a COMBINE into dest: with first it is taken as it is. A word is poisoned when it, or the
word of m and s, is poisoned in either input. -/
def State.combine (s : State) (c : CeStep) (first : Bool) (data : Mem) (psn : RMap Bool) : State :=
  let s := s.serveCe c
  let sz := 16 + 4 * c.d
  let n := c.bytes / sz
  let r := if first then (s, [], []) else s.devRead c.dest c.bytes
  let old := poisonOf r.2.2
  let out := (List.range n).foldl (fun m j =>
    let t := readTriple data (sz * j) c.d
    writeTriple m (sz * j) (if first then t else mergeTriple (readTriple r.2.1 (sz * j) c.d) t)) []
  let bad (w : Nat) : Bool := RMap.get false psn w || RMap.get false old w
  let po : RMap Bool := RMap.norm false ((List.range (c.bytes / 8)).map fun w =>
    (w, if w % (sz / 8) = 1 then false else bad w || bad (w - w % (sz / 8))))
  r.1.devWrite c.dest c.bytes out po

/-! ### Folding (R323) -/

/-- Takes the operand numbered k of a running REDUCE, COMBINE or RECV once its contribution is there: malformed stops
the step (R329). -/
def State.ceTake (s : State) (c : CeStep) (k : Nat) : State :=
  let q := c.queues.getD k 0
  match if s.destWaits c then none else s.contribution c q with
  | none => s.ceSet c.i (.waiting k)
  | some x =>
    let s := s.takeContribution x q
    if x.malformed c then s.ceStop c 4 else
    let s := s.checkDigest c x
    if c.kind = 2 then
      ((s.serveCe c).devWrite c.dest c.bytes x.data x.psn).ceSet c.i .finished
    else
      let head := c.first && !c.useLocal && k == 0
      let s := s.slotAdd c head (Mem.rd64 x.digest 0x18) (Mem.rd64 x.digest 0x20)
      let s := if c.kind = 3 then s.redIssue c head x.data x.psn
        else s.combine c head x.data x.psn
      s.ceSet c.i (if k + 1 < c.nin then .waiting (k + 1) else .finished)

/-- The start of a fold: the local operand, if flagged, then the first input if it is there. With first = 0 a flagged
local operand is folded into the running operand (R322, R323). -/
def State.foldStart (s : State) (c : CeStep) : State :=
  if c.useLocal then
    let r := s.ceLocal c
    let res := residue (ceElems c.etype c.d c.bytes r.2.1)
    let s := r.1.slotAdd c c.first res.1 res.2
    let s := if c.kind = 3 then s.redIssue c c.first r.2.1 r.2.2
      else s.combine c c.first r.2.1 r.2.2
    s.ceSet c.i (if c.nin = 0 then .finished else .waiting 0)
  else if c.nin = 0 then s.ceSet c.i .finished
  else s.ceTake c 0

/-- RECV starts: it takes the next contribution of queue[0] if its digest frame is there. -/
def execCeRecv (i : Nat) (s : State) : Out :=
  .next (match s.ceStart i 2 with | some (s, c) => s.ceTake c 0 | none => s)

/-- A fold starts once its local operand, if flagged, can be read and folded. -/
def State.foldRow (s : State) (i kind : Nat) : State :=
  match s.ceStart i kind with
  | some (t, c) => if c.useLocal && (s.localWaits c || s.destWaits c) then s else t.foldStart c
  | none => s

/-- REDUCE starts. -/
def execCeReduce (i : Nat) (s : State) : Out := .next (s.foldRow i 3)

/-- COMBINE starts. -/
def execCeCombine (i : Nat) (s : State) : Out := .next (s.foldRow i 4)

/-- MIRROR records its range for the commit of the ply (R335). -/
def execCeMirror (i : Nat) (s : State) : Out :=
  .next (
    match s.ceStart i 5 with
    | some (s, c) =>
      ({ s with standby := { s.standby with
          ranges := s.standby.ranges ++ [(c.ply, c.localAddr, c.dest, c.bytes, c.cls)] } }).ceSet i .finished
    | none => s)

/-- The contribution that a running step waits for has arrived, and every earlier one has been accepted (R323, R325). -/
def execCeContributionReady (i : Nat) (s : State) : Out :=
  .next (
    if !s.inPly then s else
    match s.ceRunning i with
    | some (c, .waiting k) =>
      if s.redsOf i || (s.contribution c (c.queues.getD k 0)).isNone then s else s.ceTake c k
    | _ => s)

/-- A step's last write is accepted, or its last frame is queued: its semaphore is posted (R320, R322). -/
def execCeStepComplete (i : Nat) (s : State) : Out :=
  .next (
    if !s.inPly then s else
    match s.ceRunning i with
    | some (c, .finished) =>
      if s.redsOf i then s else
      ({ s with ce := { s.ce with running := s.ce.running.filter fun e => e.1.i != i } }).postSem c.sem 1
    | _ => s)

end Sys2Proof.Machine
end

