-- ==== Sys2Proof/Machine/Copy.lean ====
section
/-! DEFINITION. What data-mover descriptors do to memory (R60-R62, R366, R367), the journal's restore (R59, R228), and the
loading of sequencers (R80, R85): shared by the host rows and the ply rows. -/

namespace Sys2Proof.Machine

/-! ### Descriptor fields (Table 13.8) -/

/-- len of a copy, FILL or CACHE_RANGE. -/
def dwLen (dws : List W32) : Nat := dwQ dws 6

/-- Bandwidth class of a descriptor. -/
def dwClass (dws : List W32) : Nat := bitsN (dwN dws 0) 18 16

/-- Accesses made for a descriptor: the host interface is master 96 (Table 14.2). -/
def State.serveHost (s : State) (dws : List W32) : State := s.serveAs (dwClass dws) 96

/-- KiB handled, rounded up. -/
def kib (n : Nat) : Nat := ceilDiv n 1024

/-- The parts of n bytes at device address A whose words are poisoned, as offsets and lengths in the range. -/
def epParts (A n : Nat) (w : RMap CWord) : List (Nat × Nat) :=
  ((RMap.segs {} w 0 ((A + n + 7) / 8 - A / 8) fun c => c.poison).map fun g =>
    let lo := max A (8 * (A / 8 + g.1))
    let hi := min (A + n) (8 * (A / 8 + g.1 + g.2))
    (lo - A, hi - lo)).filter fun g => g.2 != 0

/-- A COPY_D2H reads its whole range and writes host memory; poisoned words go out with EP set (R366). -/
def State.copyOut (s : State) (a : Active) : State :=
  let A := dwQ a.dws 4
  let n := dwLen a.dws
  let r := (s.serveHost a.dws).devRead A n
  let ep := epParts A n r.2.2
  (r.1.hostWrite { addr := dwQ a.dws 2, len := n, bytes := r.2.1, ep := ep }).finish a.uid
    (if ep.isEmpty then 0 else 9) 0 0 (kib n)

/-- The COPY_D2H with this number reads its range, once its lines are free. -/
def State.copyOutLater (s : State) (uid : Nat) : State :=
  match s.desc uid with
  | none => s
  | some a => if (s.serveHost a.dws).waits false (dwQ a.dws 4) (dwLen a.dws) then s.defer (.copyOut uid) else s.copyOut a

/-- The COPY_D2H descriptors that waited for a verdict read their ranges (R61). -/
def State.waitingOut (s : State) : State :=
  s.hif.waitingD2h.foldl (fun s uid => s.copyOutLater uid) { s with hif := { s.hif with waitingD2h := [] } }

/-- Writes an exchange copy of class cls, once its lines are free. -/
def State.exchange (s : State) (cls A n : Nat) (data : Mem) : State :=
  let t := s.serveAs cls 96
  if t.waits true A n then s.defer (.exchange cls A n data) else t.devWrite A n data []

/-- Applies a held host exchange copy in the ply that starts now (R60). -/
def State.applyHeld (s : State) (c : HeldCopy) : State :=
  let cls := match s.desc c.uid with | some a => dwClass a.dws | none => 0
  s.exchange cls c.dev c.len c.bytes

/-- At a boundary, every copy whose data has arrived is applied, those applied in an earlier start of this ply again
(R60). -/
def State.applyAtBoundary (s : State) : State :=
  let here (c : HeldCopy) : Bool := c.applied.isNone || c.applied == some s.sch.ply
  let mark (c : HeldCopy) : HeldCopy :=
    if here c then { c with applied := some s.sch.ply, arrivedAt := s.sch.start } else c
  let due := s.hif.heldCopies.filter here
  due.foldl (fun s c => s.applyHeld c) { s with hif := { s.hif with heldCopies := s.hif.heldCopies.map mark } }

/-- At the restart of a replay, the copies applied in that ply are applied again (R60). -/
def State.applyAtRestart (s : State) : State :=
  (s.hif.heldCopies.filter fun c => c.applied == some s.sch.ply).foldl (fun s c => s.applyHeld c) s

/-- Completes the held copies that p names with a status and drops their data. -/
def State.endHeld (s : State) (p : HeldCopy → Bool) (status : Nat) : State :=
  (s.hif.heldCopies.filter p).foldl (fun s c => s.finish c.uid status 0 0 (if status = 0 then kib c.len else 0))
    { s with hif := { s.hif with heldCopies := s.hif.heldCopies.filter fun c => !p c } }

/-- A copy was applied in a ply up to n. -/
def HeldCopy.appliedBy (c : HeldCopy) (n : W64) : Bool :=
  match c.applied with
  | some m => decide (m ≤ n)
  | none => false

/-! ### Restore of a journal generation (R59, R228) -/

/-- A restore of line L must wait. -/
def State.restoreHeld (s : State) (L : Nat) : Bool :=
  s.claimed L || s.waitedFor L ||
    (s.line L).isNone && (!s.hasRoom L s.cacheWays || s.victimBusy L s.cacheWays)

/-- Restores line L raw: written to the cache die, counted as class 0, and marked dirty, its dead record cleared; an
uncorrectable word is written poisoned with a DE record, and counted (R228, R240, R375). A claimed line's restore waits
(R284), and so does one that finds no way, or whose way's dirty line cannot be written back yet (R216, R221). -/
def State.restoreLine (s : State) (L : Nat) (e : JEntry) : State :=
  if s.serveSched.restoreHeld L then s.defer (.restore e) else
  let bad := RMap.segs {} e.cwords 0 128 fun c => c.chk == .bad
  let words := e.cwords.map fun x => (x.1, if x.2.chk == .bad then ({ poison := true } : CWord) else x.2)
  let s := (((s.serveSched.qosAdd 1 1024).drainLine L).clearDead L).1.allocLine L
  let s := s.countUe L (bad.foldl (fun a g => a + g.2) 0)
  let s :=
    match s.line L with
    | none => s
    | some _ =>
      ({ s with ccd := { s.ccd with
          mem := Mem.splice s.ccd.mem (L * 1024) 1024 e.data
          words := RMap.splice {} s.ccd.words (L * 128) 128 {} words } }.updLine L fun l =>
        { l with valid := 0xF, dirty := 0xF }).stuckAgain L 0 128
  bad.foldl (fun s g => (List.range g.2).foldl (fun s i =>
    s.postSyndrome 8 { cls := 2, level := 3, unit := 0x20, code := 2, loc := lineSlice L, addr := L * 1024 + 8 * (g.1 + i) }) s) s

/-- Restores granule g of block b raw; its 1 KiB is read from the cache die, as class 0 (R199, R228, R375, R382). -/
def State.restoreGranule (s : State) (b g : Nat) (e : JEntry) : State :=
  (s.serveSched.qosAdd 0 1024).updBlk b fun B => { B with
    ba := Mem.splice B.ba (g * 1024) 1024 e.data
    baSt := RMap.splice {} B.baSt (g * 256) 256 {} e.words }

/-- Restores one entry. -/
def State.restoreEntry (s : State) (e : JEntry) : State :=
  match e.key with
  | .line L => s.restoreLine L e
  | .granule b g => s.restoreGranule b g e

/-- Restores a list of entries as the journal masters do, without a class (R375). -/
def State.restoreAll (s : State) (es : List JEntry) : State := es.foldl (fun s e => s.restoreEntry e) s.serveSched

/-- An entry is a granule of a block in a list. -/
def JEntry.ofBlocks (e : JEntry) (bs : List Nat) : Bool :=
  match e.key with
  | .granule b _ => bs.contains b
  | .line _ => false

/-- The generation of the ply in flight, or of the ply before. -/
def State.genOf (s : State) (now : Bool) : List JEntry := if s.sch.gen == now then s.sch.gen1 else s.sch.gen0

/-- Frees a generation. -/
def State.freeGen (s : State) (now : Bool) : State :=
  if s.sch.gen == now then { s with sch := { s.sch with gen1 := [] } } else { s with sch := { s.sch with gen0 := [] } }

/-! ### Sequencer loads (R80, R83, R85) -/

/-- Loads firmware and base segment of block b from their areas of the cache die (R229), and the overlay of number o, or
marks the overlay slot empty. -/
def State.loadSeq (s : State) (b o : Nat) : State :=
  let s := s.updSeq b fun q =>
    let m := Mem.splice q.imem 0 0x4000 s.ccd.fwArea
    let k := chkInto [] 0 0x4000 s.ccd.fwChk 0
    match s.codeOf b with
    | some c =>
      let a := s.blobBase + c.baseOff
      { q with
        imem := Mem.splice m 0x4000 c.baseLen (Mem.slice s.ccd.plyCode a c.baseLen)
        imemChk := chkInto k 0x4000 c.baseLen s.ccd.plyChk a
        overlay := 0xFFFF }
    | none => { q with imem := m, imemChk := k, overlay := 0xFFFF }
  if o = 0xFFFF then s else s.loadOverlay b o

/-- Reloads a sequencer from a boundary record: memory and s1-s15 (R85). -/
def State.reloadSeq (s : State) (b : Nat) (regs : SMap W32) (o : Nat) : State :=
  (s.loadSeq b o).updSeq b fun q => { q with regs := regs, st := .idle }

/-! ### FILL (R367) -/

/-- FILL in space 0: whole lines without a fetch. -/
def State.fillDev (s : State) (A n : Nat) (p : W32) : State :=
  s.devWrite A n (Mem.pattern p n) []

/-- FILL in space 1: every named block that a slot holds. -/
def State.fillArray (s : State) (b o n : Nat) (p : W32) : State :=
  (if b = 0xFF then List.range 96 else [b]).foldl (fun s c =>
    if (s.slotOf c).isSome then s.baWrite c o n (Mem.pattern p n) [] else s) s

end Sys2Proof.Machine
end

