-- ==== Sys2Proof/Machine/Recovery.lean ====
section
/-! DEFINITION. Ramps and issue gates (R421-R426), promotion (R460-R464), the replace record (R469), endgame (R465) and
rollback (R59): operations shared by the ply, power, thermal and host rows. -/

namespace Sys2Proof.Machine

/-! ### Slots, ramps and gates -/

/-- The neighbours of a slot in its region (R422). -/
def slotNeighbours (n : Nat) : List Nat := [(n + 12) % 13, (n + 1) % 13]

/-- The current cap of a slot in mA (R426). -/
def State.capOf (s : State) (r n : Nat) : Nat := if (s.slotPwr r n).capped then 24000 else 27000

/-- Some neighbour's estimate exceeds 90 % of its cap (R422). -/
def State.neighbourAtPeak (s : State) (r n : Nat) : Bool :=
  (slotNeighbours n).any fun m =>
    match s.blockAt r m with
    | some b => decide (9 * s.capOf r m < 10 * (s.blk b).est)
    | none => false

/-- A ramp starts: it holds one of its region arbiter's tokens until it ends (R421). -/
def State.rampNow (s : State) (r n : Nat) (limits : Bool) : State :=
  let s := s.updSlotPwr r n fun p => { p with
    ramping := true, rampAt := s.tick, deferredAt := none, limitsNeighbours := limits, poweredOff := false }
  { s with pwr := { s.pwr with tokens := SMap.upd 0 s.pwr.tokens r (· + 1) } }

/-- The next region uncore domain ramps in BOOT while the chip arbiter has a token (R421, R423). -/
def State.startUncore (s : State) : State :=
  let w := s.pwr
  if w.uncoreNext < 8 && decide (w.uncoreRamp.length < 2) then
    { s with pwr := { w with uncoreRamp := w.uncoreRamp ++ [(w.uncoreNext, s.tick)], uncoreNext := w.uncoreNext + 1 } }
  else s

/-- The region's next slot ramps in BOOT, in ascending order, while its arbiter has a token (R421, R423). -/
def State.startSlot (s : State) (r : Nat) : State :=
  let n := SMap.get 0 s.pwr.slotNext r
  if n < 13 && decide (SMap.get 0 s.pwr.tokens r < 2) then
    { s with pwr := { s.pwr with slotNext := SMap.set 0 s.pwr.slotNext r (n + 1) } }.rampNow r n false
  else s

/-- The uncore ramp of region r ends after 32 µs: the next one starts; when all eight have ended, every region starts
two slots (R423). -/
def State.uncoreRamped (s : State) (r : Nat) : State :=
  match s.pwr.uncoreRamp.find? fun x => x.1 == r with
  | some (_, at_) =>
    if s.tick < at_ + 3200 then s else
    let w := s.pwr
    let s := { s with pwr := { w with
      uncoreRamp := w.uncoreRamp.filter fun x => x.1 != r, uncoreUp := w.uncoreUp + 1 } }.startUncore
    if s.pwr.uncoreUp < 8 then s else (List.range 8).foldl (fun s r => (s.startSlot r).startSlot r) s
  | none => s

/-- A slot whose supply goes ramps no more, and gives its token back. -/
def State.stopRamp (s : State) (r n : Nat) : State :=
  let s := if (s.slotPwr r n).ramping then
    { s with pwr := { s.pwr with tokens := SMap.upd 0 s.pwr.tokens r (· - 1) } } else s
  s.updSlotPwr r n fun p => { p with ramping := false, deferredAt := none, limitsNeighbours := false }

/-- Raises a spare: at once, or deferred while a neighbour is at peak; in RUNNING every block is halted, so never
deferred (R422, R424); after a power-off nothing ramps (R446). -/
def State.startRamp (s : State) (r n : Nat) : State :=
  if s.pwr.regionsOff then s
  else if !s.running && s.neighbourAtPeak r n then
    s.updSlotPwr r n fun p => { p with deferredAt := some s.tick }
  else s.rampNow r n false

/-- A ramp beside the slot proceeded at the end of its deferral and has not ended (R422). -/
def State.besideLimit (s : State) (r n : Nat) : Bool :=
  (slotNeighbours n).any fun m => (s.slotPwr r m).ramping && (s.slotPwr r m).limitsNeighbours

/-- A block's issue gate g (R425, R422, R446). -/
def State.gate (s : State) (b : Nat) : Nat :=
  let g := min (s.region (b / 12)).gTh (min s.pwr.gP (s.blk b).gB)
  let g := match s.slotOf b with
    | some p => if s.besideLimit p.1 p.2 then min g 48 else g
    | none => g
  if s.thm.gateHeld then 16 else g

/-- The least gate of the mapped blocks. -/
def State.leastGate (s : State) : Nat :=
  (List.range 96).foldl (fun a b => if (s.slotOf b).isSome then min a (s.gate b) else a) 64

/-- The demand code of R63 for gate g: min(255, max(0, ceil(64 ((1 - s) / t - 1)))) with t = g / 64. -/
def demandCode (slack g : Nat) : Nat :=
  let a := (100 - slack) * 64
  if a ≤ 100 * g then 0 else min 255 (ceilDiv (64 * (a - 100 * g)) (100 * g))

/-! ### The replace record (R468, R469) -/

/-- Writes the replace record: each copy takes the next sequence number and the running firmware's version. -/
def State.writeReplace (s : State) (f : ReplaceRec → ReplaceRec) : State :=
  let r := f s.flash.replace
  let v := match s.sec.running with | some w => w.version | none => r.fwVersion
  { s with flash := { s.flash with rep := s.flash.rep.put { r with seq := s.flash.replace.seq + 1, fwVersion := v } } }

/-- The exclude bit of a slot. -/
def slotBit (r n : Nat) : BitVec 128 := BitVec.ofNat 128 (2 ^ (13 * r + n))

/-! ### Endgame (R339, R465) -/

/-- Phase 2 begins: engine steps end with 0x08, near-bank commands end under R291. -/
def State.endgamePhase2 (s : State) : State := ((s.ceAbort 8).1.nbDropDevice 0x11).nbEndHost

/-- Endgame starts with a cause of Table 18.10: in RUNNING at phase 1, in JOINED at phase 2 (R465). A second cause
during endgame has no effect (R466). What phase 4 will record is fixed now; where no record decided the endgame (DRAIN, a
blame bit), err_index is the newest record's (DESIGN CHOICE, log entry 88). -/
def State.startEndgame (s : State) (cause : Nat) (ply : W64) (exclude : BitVec 128) : State :=
  if s.err.phase ≠ 0 || !s.inDomain then s else
  let idx := (s.sch.decider.orElse fun _ => s.err.newest).getD 0
  let r : ReplaceRec :=
    { replace := 1, cause := BitVec.ofNat 8 cause, ldev := BitVec.ofNat 32 s.ldevSeen
      imageId := match s.image with | some im => im.imageId | none => 0
      ply := ply, tick := BitVec.ofNat 64 s.dom, causes := s.sch.causes.setWidth 32, errIndex := idx
      exclude := exclude }
  let s := { s with
    err := { s.err with phase := if s.running then 1 else 2, cause := cause, index := idx, pendRec := some r }
    sch := { s.sch with restartAt := none, firstStart := none, arming := none } }
  if s.running then s else s.endgamePhase2

/-- What remains to be said of the record when phase 4 ends: merged with writes made since (R469). -/
def ReplaceRec.merge (r p : ReplaceRec) : ReplaceRec :=
  { r with
    replace := 1, cause := p.cause, ldev := p.ldev, imageId := p.imageId, ply := p.ply, tick := p.tick
    causes := p.causes, errIndex := p.errIndex, exclude := r.exclude ||| p.exclude, endgames := satAdd r.endgames 1 }

/-! ### Promotion (R462-R464) -/

/-- The member is a persistent culprit at once, with an endgame cause (R59, R464); the first cause stands. The newest
record is the one that decided it. -/
def State.makePersistent (s : State) (cause : Nat) : State :=
  if s.sch.persistent.isSome then s
  else { s with sch := { s.sch with persistent := some cause, decider := s.err.newest } }

/-- The map changes: the spare takes the block's local number and ramps; CE record, exclusion, and a count in the
replace record (R27, R462, R469). Of what RGN_BLK_PWR shows only uv follows the block (R437). -/
def State.promoteMap (s : State) (b row old new : Nat) : State :=
  let r := b / 12
  let s := s.setMap r (setSlotEntry (setSlotEntry (s.region r).slotState old 0xD) new (b % 12))
  let s := s.post { cls := 1, level := 2, unit := 0x10, code := 1, lblock := some b, slot := some (r, old),
                    data0 := old + new <<< 4 + row <<< 8 }
  let s := s.writeReplace fun x => { x with
    exclude := x.exclude ||| slotBit r old, promotions := satAdd x.promotions 1 }
  ((s.stopRamp r old).startRamp r new).updBlk b fun B => { B with
    failed := none, strikes := [], halted := false, baLap := 0, lapStart := 0, scrubRow := [], gB := 64
    est := 0, estSum := 0, estN := 0 }

/-- A slot goes dark: its supply is removed (R26, R368). -/
def State.darken (s : State) (r n : Nat) : State :=
  (s.stopRamp r n).updSlotPwr r n fun p => { p with poweredOff := true, vset := 0 }

/-- The promoted array is unwritten (R462, R368). -/
def State.clearArray (s : State) (b : Nat) : State := s.updBlk b fun B => { B with ba := [], baSt := [] }

/-- A region has no spare for a failed block (R464): its logical number loses its slot; UC record at region level, whose
new-slot nibble is a free value; then the outcome by state. -/
def State.noSpare (s : State) (b row : Nat) : State :=
  let r := b / 12
  let old := (s.slotOfLocal r (b % 12)).getD 0
  let s := s.setMap r (setSlotEntry (s.region r).slotState old 0xD)
  let s := (s.darken r old).updBlk b fun B => { B with lost := true, halted := true, failed := none }
  let s := (s.post { cls := 3, level := 2, unit := 0x10, code := 2, lblock := some b, slot := some (r, old),
                     data0 := old + (s.freeNat % 16) <<< 4 + row <<< 8 }).tookFree
  match s.dev with
  | .running =>
    if s.sch.persistent.isSome then s
    else { s.makePersistent 2 with sch := { (s.makePersistent 2).sch with exclDue := slotBit r old } }
  | .joined => s.startEndgame 2 s.sch.committed (slotBit r old)
  | .ready => s.raiseFA { cls := 4, level := 3, unit := 0x10, code := 2, lblock := some b, slot := some (r, old) }
  | _ => s

/-- Promotion that takes effect at once: outside RUNNING, or at an unrecoverable verdict (R462, R368). -/
def State.promoteNow (s : State) (b row : Nat) : State :=
  let r := b / 12
  match s.slotOfLocal r (b % 12), s.spareOf r with
  | some old, some new =>
    let s := ((s.promoteMap b row old new).clearArray b).darken r old
    s.reloadSeq b (s.blk b).seq.recRegs (s.blk b).seq.recOverlay
  | some _, none => s.noSpare b row
  | none, _ => s

/-- Promotion decided at a verdict that rolls back (R463): the array is copied from a slot that is powered with its link
alive, and the block's journal entries wait. -/
def State.promoteAtVerdict (s : State) (b row : Nat) (entries : List JEntry) : State :=
  let r := b / 12
  match s.slotOfLocal r (b % 12), s.spareOf r with
  | some old, some new =>
    let copied := row != 7 && row != 8 && !(s.slotPwr r old).poweredOff
    let s := s.promoteMap b row old new
    let s := if copied then s else (s.clearArray b).updBlk b fun B => { B with promotedDark := true }
    s.updRegion r fun g => { g with promo := some (b % 12, old, copied), heldEntries := entries }
  | some _, none => s.noSpare b row
  | none, _ => s

/-- The cause row for which a block is failed at a verdict of ply n, attempt a: an immediate cause, or one strike cause
in attempts a - 1 and a (R460, R461). -/
def Block.failedAt (B : Block) (n : W64) (a : Nat) : Option Nat :=
  match B.failed with
  | some row => some row
  | none =>
    if a = 0 then none else
    (B.strikes.find? fun k => k.2.2.1 == n && k.2.2.2 == a &&
      B.strikes.contains (k.1, k.2.1, n, a - 1)).map fun k => k.1

/-- The blocks failed at a verdict with their cause rows, in ascending order. -/
def State.failedBlocks (s : State) (n : W64) (a : Nat) : List (Nat × Nat) :=
  (List.range 96).filterMap fun b => ((s.blk b).failedAt n a).map fun row => (b, row)

/-- A block is reported failed at once for cause row 7 or 8 (R461). -/
def State.failBlock (s : State) (b row : Nat) : State :=
  match s.dev with
  | .running =>
    if s.err.phase ≠ 0 then s else
    s.updBlk b fun B => { B with failed := some row, halted := true }
  | .joined => if s.err.phase ≠ 0 then s else s.promoteNow b row
  | .ready | .drained => if s.pwr.regionsOff then s else s.promoteNow b row
  | _ => s

/-! ### Stopping work and rolling back (R59) -/

/-- A block's units drop their work at V: queues, streams, loads, commands, the kernel and the L1 (R59, R119). -/
def Block.dropWork (B : Block) : Block := { B with
  seq := { B.seq with queues := [], tgtHalted := [], issued := [], completed := [], st := .idle }
  mc := SMap.mapVals {} B.mc fun m => { m with streams := [], loading := none }
  dma := SMap.mapVals {} B.dma fun d => { d with busy := none }
  tg := { B.tg with kernel := none, l1 := [], icChk := [] } }

/-- What a block's units hold at cycle 0 of a ply (Table 2.1, R114, R178, R204): matrix cells keep only the counters of
RGN_MC_CKSTAT. -/
def Block.cycle0 (B : Block) : Block := { B with
  mc := SMap.mapVals {} B.mc fun m =>
    { fails := m.fails, skipped := m.skipped, lastCol := m.lastCol, lastReadout := m.lastReadout }
  dma := []
  tg := { l1 := B.tg.l1, icChk := B.tg.icChk } }

/-- A request at the cache die comes from a block. -/
def CReq.fromBlock (r : CReq) : Bool := match r.who with | .bar2 _ => false | _ => true

/-- Work of the plies being undone is dropped everywhere (R59, R90, R289, R307, R313, R325). -/
def State.dropWork (s : State) (n : W64) : State :=
  let s := (s.ceAbort 7).1.nbDropDevice 0x10
  let s := { s with
    blocks := SMap.mapVals {} s.blocks Block.dropWork
    ccd := { s.ccd with
      responses := s.ccd.responses.filter fun r => match r.who with | .bar2 _ => true | _ => false
      waiting := s.ccd.waiting.filter fun h => match h with
        | .frame _ _ _ _ _ _ | .exchange _ _ _ _ | .mirror _ => false
        | _ => true
      slices := SMap.mapVals {} s.ccd.slices fun k => { k with
        reads := k.reads.filter fun r => !r.fromBlock
        writes := k.writes.filter fun r => !r.fromBlock
        merged := k.merged.filter fun r => !r.fromBlock
        reds := [] } }
    fab := { s.fab with
      ports := SMap.mapVals {} s.fab.ports fun k => { k with sched := [] }
      accepted := [], received := [], deadlines := [], led := [], released := [] }
    sch := { s.sch with sems := [] } }
  s.svcRollback n

/-- Every sequencer is reloaded from a boundary record: that of the ply in flight, or of the ply before (R85). -/
def State.reloadAll (s : State) (before : Bool) : State :=
  (List.range 96).foldl (fun s b =>
    if (s.slotOf b).isNone then s else
    let q := (s.blk b).seq
    let s := if before then s.updSeq b fun q => { q with recRegs := q.recPrevRegs, recOverlay := q.recPrevOverlay } else s
    if before then s.reloadSeq b q.recPrevRegs q.recPrevOverlay else s.reloadSeq b q.recRegs q.recOverlay) s

/-- Undoes the ply in flight, n + 1, and ply n: G(n + 1) is restored, then G(n), but for the entries of the blocks in
hold; ply n is then the ply in flight again, under its own number and from the state it began with (R59, R66). -/
def State.undoTwo (s : State) (n : W64) (hold : List Nat) : State :=
  let s := s.dropWork n
  let es := (s.genOf true ++ s.genOf false).filter fun e => !e.ofBlocks hold
  let s := ((s.restoreAll es).freeGen true).freeGen false
  let s := { s with
    sch := { s.sch with gen := !s.sch.gen, ply := n, cur := {}, prev := {} }
    standby := { s.standby with ranges := s.standby.ranges.filter fun r => decide (r.1 < n) } }
  s.reloadAll true

/-- Undoes the ply in flight alone (R46). -/
def State.undoOne (s : State) : State :=
  let n := s.sch.ply
  let s := s.dropWork n
  let s := (s.restoreAll (s.genOf true)).freeGen true
  let s := { s with
    sch := { s.sch with cur := {}, prev := {} }
    standby := { s.standby with ranges := s.standby.ranges.filter fun r => decide (r.1 < n) } }
  s.reloadAll false

/-- Blocks whose halt of the attempt ends; a lowered cap that was due holds from now on (R418). -/
def State.unhalt (s : State) : State :=
  { s with
    blocks := SMap.mapVals {} s.blocks fun B => { B with halted := B.lost }
    pwr := { s.pwr with slots := SMap.mapVals {} s.pwr.slots fun p =>
      { p with capped := p.capped || p.capDue, capDue := false } } }

/-- Strikes are cleared (R460, R462). -/
def State.clearStrikes (s : State) : State :=
  { s with blocks := SMap.mapVals {} s.blocks fun B => { B with strikes := [] } }

/-- The attempts of the ply are over: reads of a promoted array no longer stop its block (R463). -/
def State.clearDark (s : State) : State :=
  { s with blocks := SMap.mapVals {} s.blocks fun B => { B with promotedDark := false } }

/-- The attempt of ply n that the verdict ends, as records name it (Tables 18.3, 18.13). -/
def State.atAttempt (s : State) (n : W64) : State :=
  { s with sch := { s.sch with ply := n, attempt := s.sch.prevAttempt } }

end Sys2Proof.Machine
end

