-- ==== Sys2Proof/Machine/Bundles.lean ====
section
/-! DEFINITION. The vertical bundles' connections: the spare, half width, dead links (R233-R236, R241). -/

namespace Sys2Proof.Machine

/-- Failed connections of the 32 signals; the spare is connection 32. -/
def Bundle.lostOf (b : Bundle) (lo n : Nat) : Nat := (b.failed.filter fun c => decide (lo ≤ c) && decide (c < lo + n)).length

/-- The signals of connections lo to lo + n - 1 can be carried, with the spare where needed. -/
def Bundle.carries (b : Bundle) (lo n : Nat) : Bool :=
  b.lostOf lo n == 0 || (b.lostOf lo n == 1 && !b.failed.contains 32)

/-- The bundle's spare carries a signal (R234, R235, R241). -/
def Bundle.spareUsed (b : Bundle) : Bool :=
  !b.dead && !b.moveDue && !b.failed.contains 32 &&
  (if b.half then b.lostOf 0 16 != 0 && b.lostOf 16 16 != 0 else b.lostOf 0 32 != 0)

/-- The block slot of a dead link goes dark (R236): its block is reported failed, a spare leaves the map. -/
def State.linkDead (s : State) (r n : Nat) : State :=
  let s := { s with ccd := { s.ccd with deadLinks := (13 * r + n) :: s.ccd.deadLinks } }
  let s := s.darken r n
  match s.blockAt r n with
  | some b => s.failBlock b 8
  | none =>
    if slotEntry (s.region r).slotState n = 0xC then s.setMap r (setSlotEntry (s.region r).slotState n 0xD) else s

/-- A bundle loses connection c: to the spare, to half width, or dead (R234-R236). -/
def State.loseConnection (s : State) (k : Nat) (link : BundleLink) (c : Nat) : State :=
  let old := SMap.get {} s.ccd.bundles k
  if old.dead || old.failed.contains c then s else
  let b : Bundle := { old with failed := old.failed ++ [c] }
  let set (b : Bundle) : State := { s with ccd := { s.ccd with bundles := SMap.set {} s.ccd.bundles k b } }
  let a (cls code : Nat) : RecArg := { cls := cls, level := 3, unit := 0x21, code := code, loc := k, data0 := c }
  if !b.half && b.carries 0 32 then
    let s := set { b with moveDue := s.running && decide (c < 32) }
    if c < 32 then s.post (a 1 1) else s
  else if b.carries 0 16 || b.carries 16 16 then
    if old.half then set b else
    let s := (set { b with half := true }).post (a 1 2)
    (match link with
     | .block r n => { s with ccd := { s.ccd with halfLinks := (13 * r + n) :: s.ccd.halfLinks } }
     | .shared => s)
  else
    let s := set { b with dead := true }
    match link with
    | .block r n => (s.post (a 3 3)).linkDead r n
    | .shared => s.raiseFA (a 4 3)

/-- A passing window that a sweep or re-check shows (R233): the connection is set to its centre; with failing, one narrower
than 24 taps counts as failed. -/
def State.tapWindow (s : State) (failing : Bool) (w : TapWindow) : State :=
  if !(decide (w.bundle < 131200) && decide (w.conn < 33) && decide (w.lo ≤ w.hi) && decide (w.hi < 128)) then s
  else if w.hi + 1 - w.lo < 24 then (if failing then s.loseConnection w.bundle w.link w.conn else s)
  else { s with ccd := { s.ccd with taps := SMap.set 0 s.ccd.taps (33 * w.bundle + w.conn) ((w.lo + w.hi) / 2) } }

end Sys2Proof.Machine
end

