-- ==== Sys2Proof/Machine/Identity.lean ====
section
/-! DEFINITION. The security block: its identity array (R237), the derivation of the identity key (R396) and signatures
by that key (R406). What the manual leaves open of the two stands in Config (log entry 6). -/

namespace Sys2Proof.Machine

/-! ### The generator (R396 step 4): HMAC-DRBG with SHA-256 -/

/-- HMAC with SHA-256, of a key of at most 64 bytes. -/
def hmac (key msg : List Byte) : List Byte :=
  let k := key ++ List.replicate (64 - key.length) 0
  digestBytes (sha256 (k.map (· ^^^ 0x5C) ++ digestBytes (sha256 (k.map (· ^^^ 0x36) ++ msg))))

/-- The generator's key and value. -/
structure Drbg where
  key : List Byte
  value : List Byte
  deriving DecidableEq, Repr

/-- One pass of the update: the key takes the value, a mark and the data. -/
def Drbg.mix (d : Drbg) (mark : Byte) (data : List Byte) : Drbg :=
  let k := hmac d.key (d.value ++ mark :: data)
  { key := k, value := hmac k d.value }

/-- The generator seeded with a seed. -/
def Drbg.seeded (seed : List Byte) : Drbg :=
  (Drbg.mix { key := List.replicate 32 0, value := List.replicate 32 1 } 0 seed).mix 1 seed

/-- k values of 32 bytes. -/
def Drbg.draw : Nat → Drbg → List Byte × Drbg
  | 0, d => ([], d)
  | k + 1, d =>
    let v := hmac d.key d.value
    let x := Drbg.draw k { d with value := v }
    (v ++ x.1, x.2)

/-- 1,536 bits as a number, and the generator after the request. -/
def Drbg.bits (d : Drbg) : Nat × Drbg := let x := d.draw 6; (beNat x.1, x.2.mix 0 [])

/-! ### Primes -/

/-- Squares x up to k times; true when it meets n - 1. -/
def meetsMinusOne (n : Nat) : Nat → Nat → Bool
  | 0, _ => false
  | k + 1, x => x == n - 1 || meetsMinusOne n k (x * x % n)

/-- The factors of two in m, at most k. -/
def twosIn : Nat → Nat → Nat
  | 0, _ => 0
  | k + 1, m => if m % 2 = 0 then twosIn k (m / 2) + 1 else 0

/-- One Miller-Rabin round of an odd n with base a. -/
def millerRabin (n a : Nat) : Bool :=
  let t := twosIn 1536 (n - 1)
  let x := powMod n 1536 (a % n) ((n - 1) / 2 ^ t) 1
  x == 1 || meetsMinusOne n t x

/-- The first candidates that pass 64 rounds, until there are two, among at most k. -/
def drawPrimes : Nat → Drbg → List Nat → List Nat
  | 0, _, ps => ps
  | k + 1, d, ps =>
    if 2 ≤ ps.length then ps else
    let x := d.bits
    let c := Config.candidate x.1
    drawPrimes k x.2 (if c % 2 = 1 && (List.range 64).all (fun i => millerRabin c (Config.witness c i)) then ps ++ [c] else ps)

/-- The two primes of a seed. -/
def identityKey (seed : BitVec 256) : Option (Nat × Nat) :=
  match drawPrimes 65536 (Drbg.seeded (digestBytes seed)) [] with
  | [p, q] => some (p, q)
  | _ => none

/-! ### The identity array (R237) -/

/-- The bytes of the 64 KiB array. -/
def arrayBytes : Nat := 65536

/-- The array is powered and shows its power-up state: as observed, or an open one. -/
def State.arrayPower (s : State) (seen : Option Mem) : State :=
  let cells := match seen with
    | some m => Mem.take m arrayBytes
    | none => Mem.ofBytes 0 ((List.range arrayBytes).map (Config.powerUp s.sch.fresh))
  { s with sec := { s.sec with arrayOn := true, array := cells } }.tookFree

/-- Every word is written to zero and the array is unpowered. -/
def State.arrayZero (s : State) : State :=
  { s with sec := { s.sec with arrayOn := false, array := [], arrayOffAt := s.tick } }

/-- The cells of block j that the helper data selects, as a number. -/
def cellsOf (array : Mem) (j : Nat) : Nat :=
  (List.range 1024).foldl (fun n k =>
    let c := Config.helperCell j k
    n + (if (Mem.get array (c / 8 % arrayBytes)).getLsbD (c % 8) then 2 ^ k else 0)) 0

/-- Cells of a block of 1,024 in which two states differ. -/
def flipped (x y : Nat) : Nat := ((List.range 1024).filter fun k => x.testBit k != y.testBit k).length

/-- Block j corrected: it has the helper data's syndrome and at most 122 flipped cells; none beyond that limit. -/
def correctedBlock (array : Mem) (j : Nat) : Option Nat :=
  (Config.correctBlock j (cellsOf array j)).filter fun x =>
    decide (flipped x (cellsOf array j) ≤ 122) && Config.syndrome x == Config.helperSyndrome j

/-- The seed: SHA-256 of the 32 corrected blocks; none when a block is beyond its correction limit. -/
def seedOf (array : Mem) : Option (BitVec 256) :=
  ((List.range 32).mapM (correctedBlock array)).map fun bs => sha256 (bs.flatMap (leBytes 128))

/-- The key that the array's state derives. -/
def keyOf (array : Mem) : Option (Nat × Nat) := (seedOf array).bind identityKey

/-! ### Signatures -/

/-- An RSASSA-PSS signature with the key of primes p and q and exponent 65,537 (RFC 8017, 8.1.1 and 9.1.1). -/
def pssSign (p q : Nat) (mHash : BitVec 256) (salt : Nat) : Nat :=
  let n := p * q
  let phi := (p - 1) * (q - 1)
  let k := ((List.range 65537).find? fun k => (k * phi + 1) % 65537 == 0).getD 0
  let d := (k * phi + 1) / 65537
  let emBits := Nat.log2 n
  let emLen := (emBits + 7) / 8
  let dbLen := emLen - 33
  let h := digestBytes (sha256 (List.replicate 8 0 ++ digestBytes mHash ++ beBytes 32 salt))
  let db := (2 ^ 256 + salt % 2 ^ 256) ^^^ beNat (mgf1 h dbLen)
  let em := (db % 2 ^ (8 * dbLen - (8 * emLen - emBits)) * 2 ^ 256 + beNat h) * 256 + 0xBC
  powMod n (Nat.log2 d + 1) em d 1

end Sys2Proof.Machine
end

