-- ==== Sys2Proof/Machine/Firmware.lean ====
section
/-! DEFINITION. Signed data and the checks of firmware images (R389, R390, R475; Tables 15.4, 15.5). -/

namespace Sys2Proof.Machine

/-! ### Signed data -/

/-- n bytes from address a as a little-endian number. -/
def leNat (m : Mem) (a n : Nat) : Nat := Mem.rd m a n

/-- The bytes from a for n are all zero. -/
def zeroSpan (m : Mem) (a n : Nat) : Bool := (Mem.slice m a n).isEmpty

/-- SHA-256 of n bytes from address a. -/
def shaSpan (m : Mem) (a n : Nat) : BitVec 256 := sha256 (Mem.span m a n)

/-- The digest stored at address a, as sha256 gives it. -/
def digestAt (m : Mem) (a : Nat) : BitVec 256 := BitVec.ofNat 256 (beNat (Mem.span m a 32))

/-! ### Firmware images (Tables 15.4, 15.5) -/

/-- A section table entry: type, reserved, offset, length, CRC-32. -/
structure FwSect where
  ty : Nat
  res : Nat
  off : Nat
  len : Nat
  crc : W32
  deriving DecidableEq, Repr

/-- Section table entry i. -/
def fwSect (m : Mem) (i : Nat) : FwSect :=
  let a := 0x20 + 16 * i
  { ty := Mem.rd m a 1, res := Mem.rd m (a + 1) 3, off := Mem.rd m (a + 4) 4, len := Mem.rd m (a + 8) 4
    crc := Mem.rd32 m (a + 12) }

/-- The sections that n_sections counts. -/
def fwSects (m : Mem) : List FwSect := (List.range (Mem.rd m 0x10 4)).map (fwSect m)

/-- Sections of one type. -/
def fwOf (m : Mem) (ty : Nat) : List FwSect := (fwSects m).filter fun x => x.ty == ty

/-- Header format, section table and reserved fields (reason 0x01). -/
def fwFormatOk (m : Mem) (len : Nat) : Bool :=
  let n := Mem.rd m 0x10 4
  Mem.rd m 0 4 == 0x57464149 && Mem.rd m 4 2 == 1 && Mem.rd m 6 2 == 0x500 && Mem.rd m 8 4 == len &&
  decide (0x500 ≤ len) && decide (len ≤ 0x10000000) && decide (3 ≤ n) && decide (n ≤ 16) &&
  zeroSpan m 0x14 12 && zeroSpan m (0x20 + 16 * n) (16 * (16 - n)) && zeroSpan m 0x140 0x40 && zeroSpan m 0x304 0x7C &&
  (fwSects m).all (fun x => decide (1 ≤ x.ty) && decide (x.ty ≤ 6) && x.res == 0 && decide (0x500 ≤ x.off) &&
    decide (x.off + x.len ≤ len)) &&
  [1, 2, 6].all (fun t => (fwOf m t).length == 1) && [3, 4, 5].all (fun t => decide ((fwOf m t).length ≤ 1)) &&
  (fwOf m 2).all (fun x => x.len == 16384) && (fwOf m 6).all (fun x => x.len == 388)

/-- The first failing check of Table 15.5, checks 0x01 to 0x05, of an image of len bytes against a floor; or what the
device keeps of it. -/
def fwCheck (m : Mem) (len : Nat) (floor : W32) : Nat ⊕ FwInfo :=
  if !fwFormatOk m len then .inl 1
  else
    let kh := shaSpan m 0x180 0x184
    if kh ≠ Config.romKeyHash 0 && kh ≠ Config.romKeyHash 1 then .inl 2
    else if !pssVerify (leNat m 0x180 384) (leNat m 0x300 4) (shaSpan m 0 0x380) (leNat m 0x380 384) then .inl 3
    else if shaSpan m 0x500 (len - 0x500) ≠ digestAt m 0x120 ||
        (fwSects m).any (fun x => crc32 (Mem.span m x.off x.len) != x.crc) then .inl 4
    else if (Mem.rd32 m 0xC).toNat < floor.toNat then .inl 5
    else
      let s2 := (fwOf m 2).head?.map FwSect.off |>.getD 0
      let s6 := (fwOf m 6).head?.map FwSect.off |>.getD 0
      .inr { version := Mem.rd32 m 0xC, digest := shaSpan m 0 len, trustModulus := leNat m s6 384
             trustExponent := leNat m (s6 + 384) 4, blockFw := Mem.slice m s2 16384
             blockFwCrc := crc32 (Mem.span m s2 16384), hasMgmt := !(fwOf m 5).isEmpty, bytes := m, len := len }

/-- The image that the management domain verifies at auxiliary power-up (R475): one that can be read and passes the checks
of its signing key, signature and body, whatever the floor. -/
def mgmtImage (store : Option FwInfo) (readable : Bool) : Option FwInfo :=
  store.filter fun f => readable && (fwCheck f.bytes f.len 0).isRight

end Sys2Proof.Machine
end

