-- ==== Sys2Proof/Machine/Power.lean ====
section
/-! DEFINITION. Supplies, converters, under-voltage events, module power and clocks (chapter 16; R508). -/

namespace Sys2Proof.Machine

/-- Main side on and not stopped by an FA error. -/
def State.alive (s : State) : Bool := s.mainOn && s.dev != .fault

/-- Ones in a converter mask. -/
def goodCount (v : BitVec 4) : Nat := ((List.range 4).filter fun k => v.getLsbD k).length

/-! ### Start and loss of the sides (R411, R412, R508) -/

/-- OFF to STANDBY: the management domain starts with an empty record store and verifies the stored image; STRAP_HOLD is
sampled (R475, R499). -/
def execAuxSupplyValid (strapHold : Bool) (s : State) (readable : Bool := true) : Out :=
  .next (
    if s.dev != .off then s else
    { s with
      dev := .standby
      supply := { aux := true, v48 := false, hold := strapHold, convEnabled := false, bcGood := 0, perst := s.supply.perst }
      mgmt := Mgmt.boot (mgmtImage s.flash.store readable) })

/-- Any state to OFF: the converters lose their enables and nothing outside flash is kept. -/
def execAuxSupplyLost (s : State) : Out :=
  .next (
    if s.dev == .off then s else
    let m := s.mainOff
    { m with
      dev := .off
      supply := { aux := false, v48 := false, convEnabled := false, bcGood := 0, perst := s.supply.perst }
      sec := { m.sec with staging := none }
      flash := if s.sec.staging.isSome then { s.flash with store := none } else s.flash
      mgmt := {} })

/-- The input has held at 39.0 V for 10 ms: the converters are enabled, unless the management port holds the main side
off (R411). -/
def execInputValidHold (s : State) : Out :=
  .next (
    let u := s.supply
    if s.dev != .standby || u.hold || u.lockedOff || u.retryFrom.isSome || u.convEnabled then s else
    { s with supply := { u with convEnabled := true, enabledAt := s.tick, bcGood := 0xF } })

/-- Every detector has held in range for 1 ms, at most 20 ms after the converters were enabled: BOOT. -/
def execSuppliesValid (s : State) : Out :=
  .next (
    if s.dev != .standby || !s.supply.convEnabled || s.supply.enabledAt + 2000000 < s.tick then s else
    let m := s.mainReset
    { m with supply := { s.supply with v48 := true, startFails := 0 }, sec := { m.sec with staging := s.sec.staging } })

/-- Supplies not valid after 20 ms: converters off, an FA record through the management port, one retry; a second failure
leaves the main side off. Which of the domains that are part of supplies valid (Table 16.3: 0-21) the record names is a
free value. -/
def execSupplyStartTimeout (s : State) : Out :=
  .next (
    if s.dev != .standby || !s.supply.convEnabled || s.tick < s.supply.enabledAt + 2000000 then s else
    let u := s.supply
    let s := (s.postMgmtOnly { cls := 4, level := 3, unit := 0x27, code := 2, loc := s.freeNat % 22,
                                 data0 := s.pwr.pIn }).tookFree
    { s with supply := { u with
        convEnabled := false, bcGood := 0, startFails := u.startFails + 1
        retryFrom := if u.startFails = 0 then some s.tick else none
        lockedOff := decide (0 < u.startFails) } })

/-- 1 s after a failed start it begins again from step 1. -/
def execStartRetry (s : State) : Out :=
  .next (
    match s.supply.retryFrom with
    | some t => if t + 100000000 ≤ s.tick then { s with supply := { s.supply with retryFrom := none } } else s
    | none => s)

/-- The 48 V side is lost (R412): the main side is held in reset without saving anything, STANDBY. -/
def execInput48vLoss (cause : LossCause) (s : State) : Out :=
  .next (
    if !s.supply.convEnabled || (cause == .fewConverters && decide (1 < goodCount s.supply.bcGood)) then s
    else s.mainOff)

/-- A converter drops power-good (R413, Table 16.2). -/
def execBusConverterFault (k : Nat) (s : State) : Out :=
  onUnit (decide (k < 4)) (
    if !s.supply.convEnabled || !s.supply.bcGood.getLsbD k then s else
    let s := { s with supply := { s.supply with bcGood := s.supply.bcGood &&& ~~~ BitVec.ofNat 4 (2 ^ k) } }
    let a (cls : Nat) : RecArg := { cls := cls, level := 3, unit := 0x27, code := 1, loc := k, data0 := s.pwr.pIn }
    match goodCount s.supply.bcGood with
    | 3 => s.post (a 1)
    | 2 => s.post (a 3)
    | _ => s.postMgmtOnly (a 3))

/-! ### Under-voltage (R418, R419) -/

/-- Under-voltage on a block slot in service (R418): in RUNNING the lowered cap holds from the next attempt onward. A
second event in the attempt of the first fails the block too (Table 18.7). -/
def execBlockUnderVoltage (r n : Nat) (s : State) : Out :=
  onUnit (decide (r < 8) && decide (n < 13)) (
    if !s.alive || s.dev == .boot || s.dev == .recovery || (s.slotPwr r n).poweredOff then s else
    match s.blockAt r n with
    | some b =>
      let s := s.updBlk b fun B => { B with uv := satAdd B.uv 1 }
      if (s.slotPwr r n).capped || (s.slotPwr r n).capDue then
        let s := s.post { cls := 3, level := 1, unit := 0x06, code := 2, lblock := some b }
        (s.darken r n).failBlock b 7
      else
        let s := s.post { cls := 1, level := 1, unit := 0x06, code := 1, lblock := some b }
        if s.running then
          (s.updSlotPwr r n fun p => { p with capDue := true }).updBlk b fun B => { B with halted := true }
        else s.updSlotPwr r n fun p => { p with capped := true }
    | none =>
      if slotEntry (s.region r).slotState n = 0xC then
        let s := (s.setMap r (setSlotEntry (s.region r).slotState n 0xD)).darken r n
        s.post { cls := 1, level := 2, unit := 0x06, code := 3, slot := some (r, n) }
      else s)

/-- Uncore domain d is powered: domains 0-21 from supplies valid on, a region's once it has ramped in BOOT, until regions
are powered off (Table 16.3, R423, R446). -/
def State.uncorePowered (s : State) (d : Nat) : Bool :=
  decide (d < 22) || !s.pwr.regionsOff &&
    (s.dev != .boot || decide (d - 22 < s.pwr.uncoreNext) && s.pwr.uncoreRamp.all fun x => x.1 != d - 22)

/-- Under-voltage on an uncore domain, in every main-side state (R419). -/
def execUncoreUnderVoltage (d : Nat) (s : State) : Out :=
  onUnit (decide (d < 30)) (
    if !s.alive || !s.uncorePowered d then s else
    if SMap.get false s.pwr.uncoreSpent d then
      s.raiseFA { cls := 4, level := 3, unit := 0x27, code := 6, loc := d, data0 := s.pwr.pIn }
    else
      let s := { s with pwr := { s.pwr with uncoreSpent := SMap.set false s.pwr.uncoreSpent d true } }
      s.post { cls := 1, level := 3, unit := 0x27, code := 6, loc := d, data0 := s.pwr.pIn })

/-! ### Power capping (R428, R429) -/

/-- Effective cap, and whether the peak allowance is permitted (Table 16.2). -/
def State.effCap (s : State) : Nat × Bool :=
  if goodCount s.supply.bcGood = 2 then (min s.pwr.capW 1750, false) else (s.pwr.capW, s.pwr.peakEn)

/-- The target T of a sample. -/
def State.powerTarget (s : State) : Nat :=
  if 0 < s.pwr.allowance && s.effCap.2 then 3400 else s.effCap.1

/-- tp after a sample. -/
def tpNext (tp : Rat) (p t cap : Nat) : Rat := min 1 (max (1 / 4) (tp - (1 / 2) * (((p : Rat) - t) / cap)))

/-- The arbiter's state after a sample of p W and v tenths of a volt. -/
def Pwr.sample (w : Pwr) (p v t cap : Nat) : Pwr :=
  let tp := tpNext w.tp p t cap
  let above := decide (cap < p)
  let refill := if above then w.refill else w.refill + 1
  { w with
    tp := tp
    gP := (64 * tp).floor.toNat
    allowance := if above then w.allowance - 1 else if refill = 20 then min 2500 (w.allowance + 1) else w.allowance
    refill := if refill = 20 then 0 else refill
    overrun := if t < p && tp == 1 / 4 then w.overrun + 1 else 0
    pIn := min 4095 p
    vIn := min 1023 v }

/-- A member in RUNNING records itself as culprit in every attempt for a cap overrun (R429); the record just posted is the
one that decides its endgame (Table 18.11). -/
def State.overCap (s : State) : State :=
  if s.err.phase ≠ 0 || s.sch.drainCause.isSome then s
  else { s with sch := { s.sch with drainCause := some 5, decider := s.sch.decider.orElse fun _ => s.err.newest } }

/-- A crossbar or power arbiter fault of a region goes to the chip as an FA error (Table 18.5). -/
def State.regionFault (s : State) (r : Nat) : State :=
  if r < 8 && s.alive && !s.pwr.regionsOff then s.raiseFA { cls := 4, level := 3, unit := 0x10, code := 3 } else s

/-- A 10 µs sample of the input monitor, which samples in every state with auxiliary power (R427); the arbiter acts on it
while the main side runs. faults names the regions whose crossbar or power arbiter has failed by then. -/
def execPowerSample (p v : Nat) (s : State) (faults : List Nat := []) : Out :=
  .next (
    if s.dev == .off then s
    else if !s.alive then { s with pwr := { s.pwr with pIn := min 4095 p, vIn := min 1023 v } }
    else
    let s := { s with pwr := s.pwr.sample p v s.powerTarget s.effCap.1 }
    let s := if s.pwr.overrun ≠ 500 then s else
      let s := s.post { cls := 3, level := 3, unit := 0x27, code := 5, data0 := p }
      if s.running then s.overCap else s.raiseFA { cls := 4, level := 3, unit := 0x27, code := 5, data0 := p }
    faults.foldl State.regionFault s)

/-- g_b after a frame with an estimate under a cap, both in mA (R426). -/
def gateNext (g est cap : Nat) : Nat :=
  if cap < est then max 16 (g - 4) else if 10 * est < 9 * cap then min 64 (g + 1) else g

/-- A 64-cycle current-estimate frame of block b. -/
def execCurrentEstimateFrame (b est : Nat) (s : State) : Out :=
  onUnit (decide (b < 96)) (
    match s.slotOf b with
    | some p => if !s.alive then s else
        s.updBlk b fun B => { B with est := est, estSum := B.estSum + est, estN := B.estN + 1, gB := gateNext B.gB est (s.capOf p.1 p.2) }
    | none => s)

/-! ### Ramps (R421, R422) -/

/-- A ramp has ended after 32 µs: its token is released, and in BOOT the next ramp starts. Number 13 names the region's
uncore domain, which ramps in BOOT alone. -/
def execRampComplete (r n : Nat) (s : State) : Out :=
  onUnit (decide (r < 8) && decide (n < 14)) (
    let p := s.slotPwr r n
    if n = 13 then (if s.dev == .boot then s.uncoreRamped r else s)
    else if !s.alive || !p.ramping || s.tick < p.rampAt + 3200 then s else
    let s := s.updSlotPwr r n fun p => { p with
      ramping := false, limitsNeighbours := false, vset := BitVec.ofNat 8 (Config.setpoint (13 * r + n) % 241) }
    let s := { s with pwr := { s.pwr with tokens := SMap.upd 0 s.pwr.tokens r (· - 1) } }
    if s.dev == .boot then s.startSlot r else s)

/-- A deferred ramp proceeds: no neighbour is at peak, or, where no ply runs, 1 ms has passed. -/
def execRampDeferralEnd (r n : Nat) (s : State) : Out :=
  onUnit (decide (r < 8) && decide (n < 13)) (
    match (s.slotPwr r n).deferredAt with
    | none => s
    | some t =>
      if !s.alive then s
      else if !s.neighbourAtPeak r n then s.rampNow r n false
      else if !s.sch.live && decide (t + 100000 ≤ s.tick) then s.rampNow r n true
      else s)

/-! ### Clocks (R432) -/

/-- REFCLK is lost: the PLLs run free; UC record. -/
def execRefclkLoss (s : State) : Out :=
  .next (
    if !s.alive || !s.pwr.refOk then s else
    { s with pwr := { s.pwr with refOk := false, freeRun := true, refLoss := satAdd s.pwr.refLoss 1 } }.post
      { cls := 3, level := 3, unit := 0x27, code := 3, data0 := s.pwr.pIn })

/-- REFCLK has been valid for 10 ms and the PLLs return to it. -/
def execRefclkRestore (s : State) : Out :=
  .next (if !s.alive then s else { s with pwr := { s.pwr with refOk := true, freeRun := false } })

/-- A root PLL loses lock: an FA error while REFCLK is valid. -/
def execPllLockLoss (upper : Bool) (s : State) : Out :=
  .next (
    if !s.alive then s else
    let was := if upper then s.pwr.lockUpper else s.pwr.lockLower
    let s := { s with pwr := if upper then { s.pwr with lockUpper := false } else { s.pwr with lockLower := false } }
    if was && s.pwr.refOk then s.raiseFA { cls := 4, level := 3, unit := 0x27, code := 4, data0 := s.pwr.pIn } else s)

/-! ### Clock domains (R430, R431, R433, R434) -/

/-- The clock domains of Table 16.6. -/
inductive ClockDomain where
  | slot (r n : Nat) | region (r : Nat) | slice (n : Nat) | spine | collective | hostInterface
  | hbm (k : Nat) | port (p : Nat) | housekeeping | management
  deriving DecidableEq, Repr

/-- What clocks a domain: a root PLL, REFCLK, or the management oscillator. -/
inductive ClockSource where
  | upperPll | lowerPll | refclk | managementOscillator
  deriving DecidableEq, Repr

/-- The 153 domains. -/
def clockDomains : List ClockDomain :=
  ((List.range 8).flatMap fun r => (List.range 13).map fun n => .slot r n) ++ (List.range 8).map .region ++
  (List.range 8).map .slice ++ [.spine, .collective, .hostInterface] ++ (List.range 8).map .hbm ++
  (List.range 20).map .port ++ [.housekeeping, .management]

/-- Divider of the 10.4 GHz root (Table 16.5); the management domain has none. -/
def ClockDomain.divider (d : ClockDomain) : Option Nat :=
  match d with
  | .slot _ _ | .region _ | .slice _ | .spine | .collective | .hostInterface => some 8
  | .hbm _ => some 13
  | .port _ => some 16
  | .housekeeping => some 104
  | .management => none

/-- Frequency in kHz (Tables 16.5 and 16.6). -/
def ClockDomain.kHz (d : ClockDomain) : Nat := match d.divider with | some n => 10400000 / n | none => 50000

/-- The source of a domain; the housekeeping domain runs from REFCLK until the lower PLL locks (R431). -/
def State.clockSource (s : State) (d : ClockDomain) : ClockSource :=
  let by_ (upper : Bool) : ClockSource := if upper then .upperPll else .lowerPll
  match d with
  | .slot r _ | .region r => by_ (decide (r < 4))
  | .hbm k => by_ (decide (k < 4))
  | .port p => by_ (decide (p < 10))
  | .housekeeping => if s.pwr.lockLower then .lowerPll else .refclk
  | .management => .managementOscillator
  | .slice _ | .spine | .collective | .hostInterface => .lowerPll

/-- A domain has clock edges: a spare slot's is gated, a dark or powered-off slot's is stopped (R26, R434); the main
side's domains stop with it. -/
def State.clocked (s : State) (d : ClockDomain) : Bool :=
  match d with
  | .slot r n => s.mainOn && decide (slotEntry (s.region r).slotState n < 12) && !(s.slotPwr r n).poweredOff
  | .region _ => s.mainOn && !s.pwr.regionsOff
  | .management => s.dev != .off
  | _ => s.mainOn

end Sys2Proof.Machine
end

