-- ==== Sys2Proof/Machine/Boot.lean ====
section
/-! DEFINITION. Start-up (R385-R397), firmware store writes (R393) and licences (R399-R405): BOOT steps, and the events of
the store write and of a held reset. -/

namespace Sys2Proof.Machine

/-! ### Licences (Tables 15.6-15.8) -/

/-- Feature word of a licence. -/
def licFeatures (m : Mem) : W32 := Mem.rd32 m 0x30

/-- licence_id. -/
def licId (m : Mem) : W32 := Mem.rd32 m 8

/-- owner_hash. -/
def licOwner (m : Mem) : BitVec 256 := digestAt m 0x40

/-- owner_sign is set. -/
def licSigns (m : Mem) : Bool := bitN (licFeatures m).toNat 7

/-- Checks 0x01 to 0x05 of Table 15.8 against an identity hash (none: no valid identity), a trust key and a firmware
version: the first that fails. -/
def licCheck (m : Mem) (len : Nat) (idHash : Option (BitVec 256)) (n e : Nat) (fw : W32) : Option Nat :=
  if len ≠ 512 || Mem.rd m 0 4 ≠ 0x4C434941 || Mem.rd m 4 2 ≠ 1 || Mem.rd m 6 2 ≠ 0x200 then some 1
  else if !zeroSpan m 0x38 8 || !zeroSpan m 0x60 0x20 || (licFeatures m).toNat / 256 ≠ 0 ||
      licSigns m == zeroSpan m 0x40 32 then some 2
  else if idHash ≠ some (digestAt m 0x10) then some 3
  else if !pssVerify n e (shaSpan m 0 0x80) (leNat m 0x80 384) then some 4
  else if fw.toNat < (Mem.rd32 m 0x34).toNat then some 5
  else none

/-- The licence in a slot. -/
def Flash.licence (f : Flash) (k : Nat) : Option Mem := SMap.get none f.licences k

/-- The installed licences by slot. -/
def Flash.installed (f : Flash) : List (Nat × Mem) :=
  (List.range 16).filterMap fun k => (f.licence k).map fun m => (k, m)

/-- Checks 0x06 to 0x08 of Table 15.8: the reason, or the slot the licence takes. -/
def Flash.licSlot (f : Flash) (m : Mem) : Nat ⊕ Nat :=
  let same := f.installed.find? fun x => licId x.2 == licId m
  match same with
  | some x =>
    if (Mem.rd32 m 0xC).toNat ≤ (Mem.rd32 x.2 0xC).toNat then .inl 6
    else if licSigns m && f.installed.any (fun y => y.1 != x.1 && licSigns y.2 && licOwner y.2 != licOwner m) then .inl 7
    else .inr x.1
  | none =>
    if licSigns m && f.installed.any (fun y => licSigns y.2 && licOwner y.2 != licOwner m) then .inl 7
    else match (List.range 16).find? fun k => (f.licence k).isNone with
      | some k => .inr k
      | none => .inl 8

/-- Combines two feature words (R401). -/
def featMerge (a b : Nat) : Nat :=
  max (bitsN a 1 0) (bitsN b 1 0) + 4 * max (bitsN a 3 2) (bitsN b 3 2) + 16 * (bitsN a 7 4 ||| bitsN b 7 4)

/-- The effective feature word over the installed licences that are not ignored (R401). -/
def Flash.features (f : Flash) (ignored : BitVec 16) : W32 :=
  BitVec.ofNat 32 ((f.installed.filter fun x => !ignored.getLsbD x.1).foldl
    (fun a x => featMerge a (licFeatures x.2).toNat) 0)

/-- Stores a licence in a slot and raises the floor to its min_fw (R402, R403). -/
def Flash.putLicence (f : Flash) (k : Nat) (m : Mem) : Flash :=
  { f with lic := f.lic.put {
      licences := SMap.set none f.licences k (some m)
      floor := if f.floor.toNat < (Mem.rd32 m 0x34).toNat then Mem.rd32 m 0x34 else f.floor } }

/-- A licence's flash write fails: the record in force stays (R388, R402). -/
def State.licenceTorn (s : State) : State := { s with flash := { s.flash with lic := s.flash.lic.torn } }

/-- A store write begins: until it has ended the store holds no verified image (R393, R409). -/
def State.beginStore (s : State) (f : FwInfo) (who : Option Nat) : State :=
  { s with flash := { s.flash with store := none }, sec := { s.sec with staging := some (f, who) } }

/-- The Melob ports start training at the end of step 0x03 (R385). -/
def State.portsTrain (s : State) : State :=
  (List.range 20).foldl (fun s p => s.updPort p fun k =>
    if k.state = 0 && !k.failedBoot then { k with state := 1 } else k) s

/-- Ports follow the feature word: newly licensed ones train, unlicensed ones are powered down (R404). -/
def State.portsByLicence (s : State) : State :=
  (List.range 20).foldl (fun s p => s.updPort p fun k =>
    if s.portLicensed p then (if k.failedBoot then { k with state := 4 } else if k.state = 0 then { k with state := 1 } else k)
    else { k with state := 0, due := [], linkQ := [], sched := [], vQ := [], wait := [] }) s

/-- A licence takes slot k, from the management port or a host: in READY it takes effect now, and a loaded image is
discarded (R404); the slot is no longer ignored. -/
def State.takeLicence (s : State) (k : Nat) (m : Mem) (port : Bool := false) : State :=
  let s := { s with flash := s.flash.putLicence k m, sec := { s.sec with licAt := some (licId m, s.tick, port) } }
  if s.dev != .ready then s else
  let ign := s.sec.ignored &&& ~~~ BitVec.ofNat 16 (2 ^ k)
  let s := { s with sec := { s.sec with ignored := ign, features := s.flash.features ign } }
  s.portsByLicence.discardImage

/-- The identity hash that checks compare with: none while the identity is not valid. -/
def State.validId (s : State) : Option (BitVec 256) := if s.sec.idValid then s.flash.idHash else none

/-! ### BOOT (R385-R387) -/

/-- The steps that a step starts after (Table 15.1). -/
def bootAfter (step : Nat) : List Nat :=
  match step with
  | 1 => [] | 2 => [1] | 3 => [2] | 4 => [3] | 5 => [4] | 6 => [4] | 7 => [3] | 8 => [3] | 9 => [5, 6, 7] | _ => [8, 9]

/-- The step runs: every step that it starts after has ended, and it has not. -/
def State.bootStarted (s : State) (step : Nat) : Bool :=
  !s.sec.stepsDone.contains step && (bootAfter step).all fun k => s.sec.stepsDone.contains k

/-- Every BOOT ramp has started and ended (R423). -/
def State.rampsEnded (s : State) : Bool :=
  decide (8 ≤ s.pwr.uncoreUp) && (List.range 8).all fun r =>
    decide (13 ≤ SMap.get 0 s.pwr.slotNext r) && (List.range 13).all fun n => !(s.slotPwr r n).ramping

/-- The step can end: step 0x03 after its ramps, step 0x08 once the identity array has been unpowered for 10 ms (R423,
R237). -/
def State.bootReady (s : State) (step : Nat) : Bool :=
  s.bootStarted step &&
  (match step with
   | 3 => s.rampsEnded
   | 8 => decide (s.sec.arrayOffAt + 1000000 ≤ s.tick)
   | _ => true)

/-- The step that failed. -/
def State.bootFailAt (s : State) (step : Nat) : State :=
  { s with sec := { s.sec with failStep := BitVec.ofNat 8 step } }

/-- The record of a BOOT failure (unit 0x2A): class, code, step. -/
def bootRec (cls code step : Nat) : RecArg := { cls := cls, level := 3, unit := 0x2A, code := code, loc := step }

/-- A failure that leads to FAULT. -/
def State.bootFault (s : State) (step : Nat) (a : RecArg) : State := (s.bootFailAt step).raiseFA a

/-- A slot fails: it goes dark, and R25 applies. -/
def State.slotBad (s : State) (r n : Nat) : State :=
  { s with sec := { s.sec with slotFailed := SMap.set false s.sec.slotFailed (13 * r + n) true } }

/-- A slot fails its test, with its record (log entry 21). -/
def State.slotFails (s : State) (r n step : Nat) : State :=
  (s.slotBad r n).post { bootRec 1 1 step with slot := some (r, n) }

/-- Posts the record of an event that the BOOT test itself provokes: no counter advances (R394, R420). -/
def State.postQuiet (s : State) (a : RecArg) : State :=
  let t := s.post a
  { t with err := { t.err with ce := s.err.ce, de := s.err.de, uc := s.err.uc, fa := s.err.fa } }

/-- The image in the store fails verification twice: RECOVERY (R390, R391). -/
def State.storeFails (s : State) : State :=
  (({ s with sec := { s.sec with storeBad := true } }.bootFailAt 2).post (bootRec 3 1 2)).enter .recovery

/-- What an observation does in its step; an observation of another step has no effect. -/
def State.bootObs (s : State) (step : Nat) (o : BootObs) : State :=
  if s.dev != .boot then s else
  match step, o with
  | 1, .strapRcv => { s with sec := { s.sec with strapRcv := true } }
  | 1, .clockFault =>
    let s := ((s.bootFailAt 1).postMgmtOnly (bootRec 4 1 1))
    { s with pwr := { s.pwr with lockUpper := false, lockLower := false } }.enterFault
  | 2, .romTest => s.bootFault 2 (bootRec 4 1 2)
  | 2, .imageUnreadable => s.storeFails
  | 3, .blockFwCrc r n => s.slotFails r n 3
  | 3, .deadBlockBundle k r n =>
    let s := (s.post { cls := 3, level := 3, unit := 0x21, code := 3, loc := k, data0 := s.freeNat % 33 }).tookFree
    let s := { s with ccd := { s.ccd with
      deadLinks := (13 * r + n) :: s.ccd.deadLinks
      bundles := SMap.upd {} s.ccd.bundles k fun b => { b with dead := true } } }
    s.slotBad r n
  | 3, .deadSharedBundle k =>
    (s.bootFault 3 { cls := 4, level := 3, unit := 0x21, code := 3, loc := k, data0 := s.freeNat % 33 }).tookFree
  | 3, .sparedBundle k link =>
    let good := (List.range 32).filter fun c => !(SMap.get {} s.ccd.bundles k).failed.contains c
    let t := s.tookFree.loseConnection k link (good.getD (s.freeNat % good.length) 0)
    if !(SMap.get {} t.ccd.bundles k).dead then t else
    (match link with
     | .block r n => t.slotBad r n
     | .shared => t.bootFailAt 3)
  | 3, .tapWindow w =>
    let t := s.tapWindow true w
    (match w.link with
     | .block r n => if (SMap.get {} t.ccd.bundles w.bundle).dead then t.slotBad r n else t
     | .shared => if t.dev == .fault then t.bootFailAt 3 else t)
  | 3, .slotUvAllPhases r n => s.slotBad r n
  | 3, .slotUvOnePhase r n =>
    (s.updSlotPwr r n fun p => { p with capped := true }).postQuiet
      { cls := 1, level := 1, unit := 0x06, code := 4, slot := some (r, n) }
  | 3, .uncoreUvAllPhases r => s.bootFault 3 { cls := 4, level := 3, unit := 0x27, code := 6, loc := 22 + r, data0 := s.pwr.pIn }
  | 3, .uncoreUvOnePhase r =>
    { s with pwr := { s.pwr with uncoreSpent := SMap.set false s.pwr.uncoreSpent (22 + r) true } }.postQuiet
      { cls := 1, level := 3, unit := 0x27, code := 6, loc := 22 + r, data0 := s.pwr.pIn }
  | 4, .slotChecker r n => s.slotFails r n 4
  | 4, .chipChecker => s.bootFault 4 (bootRec 4 1 4)
  | 5, .slotEngine r n => s.slotFails r n 5
  | 5, .chipEngine => s.bootFault 5 (bootRec 4 1 5)
  | 5, .portController p =>
    (s.updPort p fun k => { k with failedBoot := true, state := 4 }).post (bootRec 1 1 5)
  | 6, .cacheCell => s.bootFault 6 (bootRec 4 1 6)
  | 7, .hbmTraining k c =>
    s.bootFault 7 { cls := 4, level := 3, unit := 0x22, code := 8, loc := k + c <<< 3 }
  | 9, .hbmPath => s.bootFault 9 (bootRec 4 1 9)
  | 9, .spareRow k c bank spare =>
    if 16 ≤ spare then s else
    let used := s.sparesUsed k c bank ||| 2 ^ spare
    { (s.updChan k c fun x => { x with spares := SMap.set 0 x.spares bank used }) with
      flash := { s.flash with remap := s.flash.remap.put {
        remaps := s.flash.remaps
        sparesUsed := SMap.set 0 s.flash.sparesUsed ((k * 32 + c) * 32 + bank) used } } }
  | 9, .nearBankUnit k die pair =>
    { s with sec := { s.sec with nbFailed := true } }.post
      { cls := 3, level := 3, unit := 0x23, code := 0x20, loc := k + die <<< 3 + pair <<< 7 }
  | _, _ => s

/-- Slot n of region r passed its tests and is not excluded (R25). -/
def State.slotGood (s : State) (r n : Nat) : Bool :=
  !SMap.get false s.sec.slotFailed (13 * r + n) && !s.flash.replace.exclude.getLsbD (13 * r + n)

/-- The local numbers of region r whose own slot failed or is excluded. -/
def State.badSlots (s : State) (r : Nat) : List Nat := (List.range 12).filter fun n => !s.slotGood r n

/-- The map of region r under R25 and R26: slot 12 holds the first local number whose slot is bad, or is the spare. -/
def State.bootMap (s : State) (r : Nat) : BitVec 52 :=
  let base := (List.range 12).foldl (fun m n => setSlotEntry m n (if s.slotGood r n then n else 0xD)) (0 : BitVec 52)
  setSlotEntry base 12 (if s.slotGood r 12 then (s.badSlots r).headD 0xC else 0xD)

/-- Every local number of region r has a slot (R25). -/
def State.covered (s : State) (r : Nat) : Bool :=
  match s.badSlots r with
  | [] => true
  | [_] => s.slotGood r 12
  | _ => false

/-- Slot supplies as the map has them: mapped slots at their setpoint, the spare at 0.55 V, dark slots off (R26, R417). -/
def State.slotSupplies (s : State) (r : Nat) : State :=
  (List.range 13).foldl (fun s n =>
    let e := slotEntry (s.region r).slotState n
    s.updSlotPwr r n fun p => { p with
      ramping := false
      vset := if e < 12 then BitVec.ofNat 8 (Config.setpoint (13 * r + n) % 241) else 0
      poweredOff := e == 0xD }) s

/-- Maps every region; each map is a change (R27). -/
def State.mapRegions (s : State) : State :=
  (List.range 8).foldl (fun s r =>
    (s.updRegion r fun g => { g with slotState := s.bootMap r, mapGen := g.mapGen + 1 }).slotSupplies r) s

/-- Every counter takes its reset value (R394). -/
def State.clearCounters (s : State) : State :=
  { s with
    err := { s.err with ce := 0, de := 0, uc := 0, fa := 0 }
    qos := { s.qos with counting := [], snapshot := [], winSeq := 0, discard := true }
    blocks := SMap.mapVals {} s.blocks fun b => { b with baCe := 0, baUe := 0, uv := 0 }
    ccd := { s.ccd with slices := SMap.mapVals {} s.ccd.slices fun x => { x with ce := 0, ue := 0, refetch := 0, resurrect := 0 } }
    hbmStacks := SMap.mapVals {} s.hbmStacks fun k => { k with
      ce := 0, ue := 0, refused := 0
      chans := SMap.mapVals {} k.chans fun c => { c with retrains := 0, crc := 0 } }
    fab := { s.fab with
      late := 0, abandoned := 0
      ports := SMap.mapVals {} s.fab.ports fun k => { k with
        fecCorr := 0, fecUncorr := 0, crcErr := 0, viol := 0
        lanes := SMap.mapVals {} k.lanes fun l => { l with retrains := 0, sym := 0 } } }
    hif := { s.hif with accCount := 0, eq := { s.hif.eq with lost := 0 } }
    pwr := { s.pwr with refLoss := 0 } }

/-- Every stored licence is verified again (R405): a failing one is ignored, with a CE record. -/
def State.verifyLicences (s : State) : State :=
  let key := match s.sec.running with | some f => (f.trustModulus, f.trustExponent, f.version) | none => (0, 0, 0)
  let s := s.flash.installed.foldl (fun s x =>
    match licCheck x.2 512 s.validId key.1 key.2.1 key.2.2 with
    | none => s
    | some _ =>
      { s with sec := { s.sec with ignored := s.sec.ignored ||| BitVec.ofNat 16 (2 ^ x.1) } }.post (bootRec 1 4 x.1)) s
  { s with sec := { s.sec with features := s.flash.features s.sec.ignored } }

/-- PCIe training begins: until LINK_CHANGE tells how it settled, a link that was not up shows an open outcome among
those of Table 13.11 (R348, R385; log entry 75); a PERST# that is asserted delays it (R498). -/
def State.linkTrains (s : State) : State :=
  if s.hif.linkWidth ≠ 0 || s.supply.perst then s else
  let n := s.freeNat
  { s with hif := { s.hif with linkRate := n % 4, linkWidth := 2 ^ (n / 4 % 3), linkFlit := n / 12 % 2 == 1 } }.tookFree

/-- What a step that has not failed leaves behind. -/
def State.bootEffect (s : State) (step : Nat) : State :=
  match step with
  | 1 => { s with pwr := { s.pwr with lockUpper := true, lockLower := true } }.linkTrains
  | 2 =>
    (match s.flash.store with
     | some f =>
       (match fwCheck f.bytes f.len s.flash.floor with
        | .inl _ => s.storeFails
        | .inr g =>
          if s.sec.strapRcv then (s.bootFailAt 2).enter .recovery
          else { s with sec := { s.sec with running := some g } }.startUncore.startUncore)
     | none => s.storeFails)
  | 3 =>
    let s := { s with ccd := { s.ccd with
      fwArea := (match s.sec.running with | some f => f.blockFw | none => []), fwChk := []
      bundleBand := s.thm.stackBand, retuning := false, sweeping := [] } }
    ((List.range 96).foldl (fun s b => s.updSeq b fun q => { q with imem := Mem.splice q.imem 0 0x4000 s.ccd.fwArea })
      s).portsTrain
  | 7 =>
    let s := s.flash.remaps.foldl (fun s e => s.updChan e.stack e.channel fun c =>
      { c with remapped := c.remapped ++ [{ bank := e.bank, row := e.row }] }) s
    s.flash.sparesUsed.foldl (fun s e => s.updChan (e.1 / 1024) (e.1 / 32 % 32) fun c =>
      { c with spares := SMap.set 0 c.spares (e.1 % 32) e.2 }) s
  | 8 => s
  | 10 =>
    let t := s.mapRegions
    if (List.range 8).any fun r => !s.covered r then t.bootFault 10 (bootRec 4 1 10) else
    let s := t.verifyLicences
    let s := { s with
      sec := { s.sec with
        safeMode := false, failStep := 0
        readyMs := BitVec.ofNat 16 (min 65535 ((s.tick - s.sec.bootAt) / 100000)) }
      sch := { s.sch with timeOff := -(s.tick : Int), localOff := -(s.tick : Int) } }
    (s.portsByLicence.clearCounters).enter .ready
  | _ => s

/-- The power-up state that the identity array was observed to show. -/
def arraySeen (obs : List BootObs) : Option Mem :=
  obs.findSome? fun o => match o with | .sramState m => some m | _ => none

/-- Step 0x08 ends (R237, R396, R397): the array is powered, read, zeroed and unpowered; the identity is valid when the
hash of the key derived from it is the one in flash, and otherwise a UC record is posted. -/
def State.identityStep (s : State) (obs : List BootObs) : State :=
  let s := s.arrayPower (arraySeen obs)
  let present := !obs.contains .helperAbsent && s.flash.idHash.isSome
  let key := if present then keyOf s.sec.array else none
  let ok := (key.map fun k => keyHash (k.1 * k.2) 65537) == s.flash.idHash && key.isSome
  let s := s.arrayZero
  let s := { s with sec := { s.sec with helper := present, idValid := ok, idKey := if ok then key else none } }
  if ok then s else s.post (bootRec 3 3 8)

/-- A BOOT step ends with what it found. -/
def execBootStepComplete (step : Nat) (obs : List BootObs) (s : State) : Out :=
  onUnit (decide (1 ≤ step) && decide (step ≤ 10)) (
    if s.dev != .boot || !s.bootReady step then s else
    let s := { s with sec := { s.sec with stepsDone := s.sec.stepsDone ++ [step] } }
    let s := if step = 8 then s.identityStep obs else obs.foldl (fun s o => s.bootObs step o) s
    if s.dev != .boot then s else s.bootEffect step)

/-- The first step that runs. -/
def State.bootRunning (s : State) : Nat := ((List.range 10).map (· + 1)).find? (fun k => s.bootStarted k) |>.getD 0

/-- 5.0 s without READY, RECOVERY or FAULT: the management domain stops the main side in FAULT (R386). -/
def execBootWatchdog (s : State) : Out :=
  .next (
    if s.dev != .boot || s.tick < s.sec.bootAt + 500000000 then s else
    ((s.bootFailAt s.bootRunning).postMgmtOnly (bootRec 4 2 s.bootRunning)).enterFault)

/-- A held main-side reset is made once no store write and no endgame holds it (R393, R466). -/
def execHeldMainReset (s : State) : Out :=
  .next (if s.sec.heldReset && s.mainOn && s.sec.staging.isNone && !s.inEndgame then s.mainReset else s)

/-- A store write ends (R393): a host descriptor completes, or the management port's update is answered. -/
def execFwStoreWriteComplete (ok : Bool) (s : State) : Out :=
  .next (
    match s.sec.staging with
    | none => s
    | some (f, who) =>
      let s := { s with
        flash := { s.flash with store := if ok then some f else none }
        sec := { s.sec with staging := none, storeBad := s.sec.storeBad && !ok } }
      match who with
      | some uid => if ok then s.finish uid 0 0 0 0 else s.finish uid 0xC 7 0 0
      | none => s.answer (.pldmApply (if ok then 0 else 0x87)))

end Sys2Proof.Machine
end

