-- ==== Sys2Proof/Machine/Range.lean ====
section
/-! DEFINITION. Pins and range operations at the cache die (R209, R216, R219, R220, R222): shared by RANGE, CACHE_RANGE, the
load list and SCH_JOURNAL_CFG. -/

namespace Sys2Proof.Machine

/-- Lines of the range A to A + n - 1. -/
def linesOf (A n : Nat) : List Nat := (List.range (ceilDiv n 1024)).map fun i => A / 1024 + i

/-- Writes a line back and drops it; its pin goes (Table 8.6). -/
def State.cleanDrop (s : State) (L : Nat) : State :=
  if (s.line L).isSome then (s.writeBack L).dropLine L else s

/-- Drops a line, discarding its dirty sectors: on a dirty line this counts as a write of it (R222). -/
def State.discardLine (s : State) (L : Nat) : State :=
  match s.line L with
  | none => s
  | some l => (if l.dirty = 0 then s else s.journalLine L).dropLine L

/-- Records line L as dead in its set: the oldest of four gives way (R222). A line that has a record moves to the newest
place (DESIGN CHOICE, log entry 95). -/
def State.addDead (s : State) (L : Nat) : State :=
  s.updSlice (lineSlice L) fun k =>
    let d := SMap.get [] k.dead (lineSet L)
    let d := (d.filter (· != L)) ++ [L]
    { k with dead := SMap.set [] k.dead (lineSet L) (if 4 < d.length then d.drop 1 else d) }

/-- The way below pin_max that a pin of line L takes, with the line it evicts: an empty way, else that of the least recently
used line without a pin of its own (DESIGN CHOICE, log entry 95); none when every such way holds a pinned line (R220). -/
def State.pinWay (s : State) (L : Nat) : Option (Nat × Option Nat) :=
  let ls := (s.setLines L).filter fun e => e.1 != L && decide (e.2.way < s.ccd.pinMax)
  match (List.range s.ccd.pinMax).find? fun w => !ls.any fun e => e.2.way == w with
  | some w => some (w, none)
  | none =>
    match ls.filter fun e => !e.2.pinned with
    | [] => none
    | e :: rest =>
      let best := rest.foldl (fun b x => if x.2.use < b.2.use then x else b) e
      some (best.2.way, some best.1)

/-- Pins line L (R219): it moves to or is allocated in a way below pin_max, whose cells that persist in a fault then show
(R510); an absent line is fetched when fetch is set.
None when the pin is refused (R220). -/
def State.pinLine (s : State) (L : Nat) (fetch : Bool) : Option State :=
  let s := (s.clearDead L).1
  match s.line L with
  | some l =>
    if l.way < s.ccd.pinMax then some (s.updLine L fun l => { l with pinned := true })
    else
      (s.pinWay L).map fun w =>
        let s := match w.2 with | some v => s.cleanDrop v | none => s
        (s.updLine L fun l => { l with way := w.1, pinned := true }).stuckAgain L 0 128
  | none =>
    (s.pinWay L).map fun w =>
      let s := match w.2 with | some v => s.cleanDrop v | none => s
      let s := { s with ccd := { s.ccd with
        lines := SMap.ins L { way := w.1, valid := 0, dirty := 0, use := s.ccd.stamp, pinned := true } s.ccd.lines
        stamp := s.ccd.stamp + 1 } }
      if fetch then s.fetchMissing L 0xF else s

/-- Operation op (0-4 or 6 of Table 8.6) on line L. -/
def State.rangeLine (s : State) (op L : Nat) : State :=
  match op with
  | 0 => if (s.line L).isSome then s else (((s.clearDead L).1.allocLine L).fetchMissing L 0xF)
  | 1 => s.writeBack L
  | 2 => s.discardLine L
  | 3 => s.cleanDrop L
  | 4 => (s.discardLine L).addDead L
  | _ => s.updLine L fun l => { l with pinned := false }

/-- A range operation other than pin, line by line in ascending address. -/
def State.rangeOp (s : State) (op A n : Nat) : State := (linesOf A n).foldl (fun s L => s.rangeLine op L) s

/-- CACHE_RANGE operation 5: the lines pinned, and whether it ended without a refusal (R220). -/
def State.pinRange (s : State) (A n : Nat) : State × Nat × Bool :=
  (linesOf A n).foldl (fun acc L =>
    if !acc.2.2 then acc else
    match acc.1.pinLine L true with
    | some t => (t, acc.2.1 + 1, true)
    | none => (acc.1, acc.2.1, false)) (s, 0, true)

/-- The sectors that operation op wants from HBM for line L: a prefetch or pin the whole absent line, a discard of a
dirty line what its journal copy lacks (R214, R222). -/
def State.rangeNeed (s : State) (op L : Nat) : BitVec 4 :=
  match s.line L with
  | none => if op = 0 || op = 5 then 0xF else 0
  | some l => if (op = 2 || op = 4) && l.dirty != 0 && s.firstWrite (.line L) then ~~~ l.valid else 0

/-- Operation op on line L must wait: for a claim, a fetch, a temporary pin, an earlier access, a way, or HBM (R222,
R284). -/
def State.rangeLineWaits (s : State) (op L : Nat) : Bool :=
  if (s.line L).isNone && op != 0 && op != 5 then s.claimed L || s.waitedFor L else s.lineBusy L (s.rangeNeed op L)

/-- Operation op on the range A to A + n - 1 must wait. -/
def State.rangeWaits (s : State) (op A n : Nat) : Bool := (linesOf A n).any (s.rangeLineWaits op)

/-- The journal's size changes (R209): lines in ways that pass to the journal are written back and dropped. -/
def State.setJournal (s : State) (size : BitVec 2) : State :=
  let s := { s with sch := { s.sch with journalSize := size } }
  let out := (s.ccd.lines.filter fun e => decide (s.cacheWays ≤ e.2.way)).map Prod.fst
  out.foldl (fun s L => s.cleanDrop L) s.serveScrub

end Sys2Proof.Machine
end

