-- ==== Sys2Proof/Machine/Units.lean ====
section
/-! DEFINITION. What the matrix cells and the DMA channels share: taking a command from a queue, the ranges they may
touch (R181, R192), the L1 lines that their device writes drop (R189), and the block-array operands they read. -/

namespace Sys2Proof.Machine

/-- The command at the head of target queue t of block b, and its class. -/
def State.headCmd (s : State) (b t : Nat) : Option (W64 × Nat) :=
  match SMap.get [] (s.blk b).seq.queues t with
  | [] => none
  | c :: _ => some c

/-- Takes the head command of target t: it has started, and has not completed. -/
def State.takeCmd (s : State) (b t : Nat) : State :=
  s.updSeq b fun q => { q with queues := SMap.set [] q.queues t ((SMap.get [] q.queues t).drop 1) }

/-- A command of target t completes (R111, R191). -/
def State.cmdDone (s : State) (b t : Nat) : State :=
  s.updSeq b fun q => { q with completed := SMap.upd 0 q.completed t (· + 1) }

/-- Discards the queue of target t. -/
def State.dropQueue (s : State) (b t : Nat) : State := s.updSeq b fun q => { q with queues := SMap.del q.queues t }

/-- n bytes from address a of a space (device, or the scratchpad of block b) may be named by a command. -/
def State.unitRange (s : State) (b : Nat) (dev : Bool) (a n : Nat) : Bool :=
  if dev then installed a n else decide (a + n ≤ s.unitTop b)

/-- An access of a unit of block b, of class cls, to n bytes at address a of a space must wait: for its lines and their
banks' grants, for the block's link, or for a store of the block's threads that has not been accepted, which a release at
block scope has made visible to the unit (R170, R171, R213, R233, R284, R378; DESIGN CHOICE, log entry 92). -/
def State.unitWaits (s : State) (b cls : Nat) (dev write : Bool) (a n : Nat) : Bool :=
  dev && (s.linkHolds b || s.storeOpen b a n || (s.serveAs cls b).waits write a n)

/-- An access of unit u of block b (matrix cells 0 and 1, DMA channels 3 to 6) to device space passes the block's vertical
link. -/
def State.linkPass (s : State) (b u : Nat) (dev : Bool) : State := if dev then s.linkGrant b u else s

/-- Class of the head command of target t. -/
def State.headCls (s : State) (b t : Nat) : Nat := match s.headCmd b t with | some c => c.2 | none => 0

/-- n bytes at device address a touch a sector. -/
def touches (a n sector : Nat) : Bool :=
  decide (0 < n) && decide (a / 256 ≤ sector) && decide (256 * sector < a + n)

/-- Drops from the L1 of block b the sectors that n bytes at device address a touch; data of them on its way to the
block no longer fills it (R189). -/
def State.l1Drop (s : State) (b a n : Nat) : State :=
  { s.updTg b fun g => { g with l1 := g.l1.filter fun l => !touches a n l.sector } with
    ccd := { s.ccd with responses := s.ccd.responses.map fun r =>
      match r.who with
      | .thread c _ _ => if c = b && touches a n (r.addr / 256) then { r with fill := false } else r
      | _ => r } }

/-- Reads n bytes at offset o of the array of block b as a matrix operand: corrected in place, and whether some word is
poisoned, uncorrectable or unwritten (Table 7.10). -/
def State.opBa (s : State) (b o n : Nat) : State × Mem × Bool :=
  let w := o / 4
  let k := (o + n + 3) / 4 - w
  let s := s.baCorrect b w k
  let B := s.blk b
  (s.baDarkMet b w k, Mem.slice B.ba o n, RMap.anyIn {} B.baSt w k WordSt.dark)

/-- Reads n operand bytes of a space: the data, and whether some word arrives poisoned (R118). -/
def State.opRead (s : State) (b : Nat) (dev : Bool) (a n : Nat) : State × Mem × Bool :=
  if dev then
    let r := s.devRead a n
    (r.1, r.2.1, r.2.2.any fun e => e.2.poison)
  else s.opBa b a n

/-- Writes n result bytes, poisoned or not, to a space; a device write drops the block's own L1 sectors (R118, R189). -/
def State.opWrite (s : State) (b : Nat) (dev : Bool) (a n : Nat) (m : Mem) (psn : Bool) : State :=
  let p : RMap Bool := if psn then [(0, true)] else []
  if dev then (s.devWrite a n m p).l1Drop b a n else s.baWrite b a n m p

end Sys2Proof.Machine
end

