-- ==== Sys2Proof/Machine/Dma.lean ====
section
/-! DEFINITION. DMA channels (R191-R195). A command row takes effect when the command at the head of the channel's queue is
of that row and the channel is free; an unlisted opcode is met by DMA_NOP's row, a RANGE with rop 5 to 7 by
DMA_RANGE_DEAD's. Every started command completes by DMA_COMMAND_COMPLETE. -/

namespace Sys2Proof.Machine

/-- No failing offset (Table 7.13). -/
def noOff : W32 := 0xFFFFFFFF

/-- A channel halts (R194). -/
def State.dmaHalt (s : State) (b c status : Nat) (off : W32) (w : W64) : State :=
  (((s.updDma b c fun d => { d with status := status, halted := true, busy := none, faultOff := off }).dropQueue b
    (c + 2)).post { cls := 3, level := 0, unit := 0x04, code := status, lblock := some b, loc := c, data0 := off.toNat,
                    data1 := w.toNat })

/-- Opcode of a DMA command word. -/
def dmaOp (w : W64) : Nat := bitsN w.toNat 5 0

/-- rop of a RANGE. -/
def dmaRop (w : W64) : Nat := bitsN w.toNat 8 6

/-- The ranges a command touches: device or scratchpad, address, bytes, and whether it writes them. -/
def dmaRanges (d : Dma) (w : W64) : List (Bool × Nat × Nat × Bool) :=
  let n := w.toNat
  match dmaOp w with
  | 0x08 =>
    let len := (bitsN n 63 46 + 1) * 64
    let so := bitsN n 22 8 * 64
    let dn := bitsN n 45 23 * 64
    (match bitsN n 7 6 with
     | 0 => [(true, d.baseSrc + dn, len, false), (false, so, len, true)]
     | 1 => [(false, so, len, false), (true, d.baseDst + dn, len, true)]
     | _ => [(false, so, len, false), (false, dn, len, true)])
  | 0x09 => [(false, bitsN n 50 40 * 1024, (bitsN n 61 51 + 1) * 1024, true)]
  | 0x0A => [(true, d.baseDst + bitsN n 31 10 * 1024, (bitsN n 53 32 + 1) * 1024, true)]
  | _ => []

/-- Units of 64 bytes of a range that lie inside its space, when not all of it does. -/
def State.dmaCut (s : State) (b : Nat) (r : Bool × Nat × Nat × Bool) : Option Nat :=
  let top := if r.1 then memBytes else s.unitTop b
  if r.2.1 + r.2.2.1 ≤ top then none else some ((top - r.2.1) / 64)

/-- The status a command halts with when it starts, with its failing offset: none when it may run (R192, Table 7.6). -/
def State.dmaError (s : State) (b c : Nat) (w : W64) : Option (Nat × W32) :=
  let n := w.toNat
  let early : Nat :=
    match dmaOp w with
    | 0x00 => if n = 0 then 0 else 1
    | 0x02 => if bitsN n 15 8 ≠ 0 then 1 else if 2 ≤ bitsN n 7 6 then 2 else 0
    | 0x08 => if bitsN n 7 6 = 3 then 2 else 0
    | 0x09 => if bitsN n 7 6 ≠ 0 || bitsN n 63 62 ≠ 0 then 1 else 0
    | 0x0A =>
      if bitsN n 63 54 ≠ 0 then 1
      else if 5 ≤ dmaRop w || (dmaRop w = 4 && !bitN n 9) then 2 else 0
    | _ => 1
  if early ≠ 0 then some (early, noOff) else
  match (dmaRanges (s.dmaAt b c) w).filterMap (s.dmaCut b) with
  | [] => none
  | x :: xs => some (3, BitVec.ofNat 32 (xs.foldl min x))

/-- Units of 256 KiB of the resident kernel's L1. -/
def State.l1Units (s : State) (b : Nat) : Nat := match (s.blk b).tg.kernel with | some k => k.l1 | none => 0

/-- A command waits: for its device lines (R213, R284, R378), and a flush, a clean or a prefetch for an earlier store of
the block to its range not yet accepted (R195, R222). -/
def State.dmaWaits (s : State) (b c : Nat) (w : W64) : Bool :=
  let cls := s.headCls b (c + 2)
  (dmaRanges (s.dmaAt b c) w).any fun r =>
    (dmaOp w == 0x08 && s.unitWaits b cls r.1 r.2.2.2 r.2.1 r.2.2.1) ||
    (dmaOp w == 0x0A && (
      s.linkHolds b ||
      (dmaRop w == 0 && s.l1Units b != 0 && s.unitWaits b cls true false r.2.1 r.2.2.1) ||
      (bitN w.toNat 9 && (s.serveAs cls b).rangeWaits (dmaRop w) r.2.1 r.2.2.1) ||
      ((dmaRop w == 0 || dmaRop w == 1 || dmaRop w == 3) && s.ccd.slices.any fun e =>
        (e.2.writes ++ e.2.merged).any fun q => q.write && q.who == .blockStore b &&
          decide (r.2.1 < q.addr + q.len) && decide (q.addr < r.2.1 + r.2.2.1))))

/-- Starts the head command of channel c when it is of the wanted row; f has its effect. -/
def State.dmaStart (s : State) (b c : Nat) (want : W64 → Bool) (f : W64 → State → State) : State :=
  if !s.blockLive b || (s.dmaAt b c).halted || (s.dmaAt b c).busy.isSome then s else
  match s.headCmd b (c + 2) with
  | none => s
  | some (w, cls) =>
    if !want w then s else
    match s.dmaError b c w with
    | some (st, off) => ((s.takeCmd b (c + 2)).serveAs cls b).dmaHalt b c st off w
    | none =>
      if s.dmaWaits b c w then s
      else f w (((s.takeCmd b (c + 2)).serveAs cls b).updDma b c fun d => { d with busy := some w })

/-- DMA_NOP. -/
def execDmaNop (b c : Nat) (s : State) : Out :=
  onUnit (decide (b < 96) && decide (c < 4)) (s.dmaStart b c
    (fun w => !(([0x02, 0x08, 0x09, 0x0A] : List Nat).contains (dmaOp w))) fun _ s => s)

/-- DMA_BASE. -/
def execDmaBase (b c : Nat) (s : State) : Out :=
  onUnit (decide (b < 96) && decide (c < 4)) (s.dmaStart b c (fun w => dmaOp w == 0x02) fun w s =>
    let a := w.toNat / 2 ^ 16 * 1024
    s.updDma b c fun d => if bitsN w.toNat 7 6 = 0 then { d with baseSrc := a } else { d with baseDst := a })

/-- Poison of the 32-bit words of a device range from the state of its 64-bit words (R230): the range starts on a
64-byte boundary. -/
def halves (m : RMap CWord) : RMap Bool := RMap.norm false (m.map fun e => (2 * e.1, e.2.poison))

/-- Poison of 64-bit words from that of 32-bit words: either half poisons the word (R230). -/
def joinHalves (m : RMap Bool) (n : Nat) : RMap Bool :=
  RMap.norm false ((List.range (n / 8)).map fun i => (i, RMap.get false m (2 * i) || RMap.get false m (2 * i + 1)))

/-- Reads n bytes at offset o of the array of block b for a DMA channel (Table 7.10): the bytes and poison of the words
before the first uncorrectable or unwritten one, how many bytes that is, and the status that it halts with. -/
def State.dmaRead (s : State) (b o n : Nat) : State × Mem × RMap Bool × Nat × Option Nat :=
  let w := o / 4
  let fail := RMap.firstIn {} (s.blk b).baSt w (n / 4) fun c => c.chk == .bad || !c.written
  let good := match fail with | some f => f - w | none => n / 4
  let s := s.baCorrect b w good
  let B := s.blk b
  let out := (Mem.slice B.ba o (4 * good),
    RMap.norm false ((RMap.slice {} B.baSt w good).map fun e => (e.1, e.2.poison)), 4 * good)
  match fail with
  | none => (s, out.1, out.2.1, out.2.2, none)
  | some f =>
    let st := B.wordSt f
    (s.baMet b f st, out.1, out.2.1, out.2.2, some (if st.chk == .bad then 4 else 5))

/-- COPY proper (Table 7.4, R193). -/
def State.dmaCopy (s : State) (b c : Nat) (w : W64) : State :=
  match dmaRanges (s.dmaAt b c) w with
  | [(sdev, sa, len, _), (ddev, da, _, _)] =>
    let s := s.linkPass b (c + 3) (sdev || ddev)
    if sdev then
      let r := s.devRead sa len
      r.1.baWrite b da len r.2.1 (halves r.2.2)
    else
      let r := s.dmaRead b sa len
      let good := r.2.2.2.1
      let s := if ddev then (r.1.devWrite da good r.2.1 (joinHalves r.2.2.1 (good + 4))).l1Drop b da good
               else r.1.baWrite b da good r.2.1 r.2.2.1
      (match r.2.2.2.2 with
       | none => s
       | some st => s.dmaHalt b c st (BitVec.ofNat 32 (good / 64)) w)
  | _ => s

/-- DMA_COPY. -/
def execDmaCopy (b c : Nat) (s : State) : Out :=
  onUnit (decide (b < 96) && decide (c < 4)) (s.dmaStart b c (fun w => dmaOp w == 0x08) fun w s => s.dmaCopy b c w)

/-- DMA_FILL. -/
def execDmaFill (b c : Nat) (s : State) : Out :=
  onUnit (decide (b < 96) && decide (c < 4)) (s.dmaStart b c (fun w => dmaOp w == 0x09) fun w s =>
    let len := (bitsN w.toNat 61 51 + 1) * 1024
    s.baWrite b (bitsN w.toNat 50 40 * 1024) len (Mem.pattern (BitVec.ofNat 32 (bitsN w.toNat 39 8)) len) [])

/-! ### The L1 of a resident kernel (R188-R190) -/

/-- The line of sector n in the L1 of block b. -/
def State.l1Line (s : State) (b n : Nat) : Option L1Line := (s.blk b).tg.l1.find? fun l => l.sector == n

/-- Places a line in the L1 as most recently used, in the lowest free way of its set (log entry 79); with none free the
least recently used line of the set gives way (R188). -/
def l1Insert (units : Nat) (l : L1Line) (ls : List L1Line) : List L1Line :=
  let ls := ls.filter fun x => x.sector != l.sector
  let same := ls.filter fun x => x.sector % (128 * units) == l.sector % (128 * units)
  match (List.range 8).find? fun w => same.all fun x => x.way != w, same.getLast? with
  | some w, _ => { l with way := w } :: ls
  | none, some v => { l with way := v.way } :: ls.filter fun x => x.sector != v.sector
  | none, none => l :: ls

/-- State of the 32-bit words of a line filled with 64-bit words of the cache die: poisoned words stay poisoned
(R190). -/
def l1Words (words : RMap CWord) : RMap CWord :=
  RMap.norm {} (words.map fun e => (2 * e.1, { poison := e.2.poison || e.2.chk == .bad }))

/-- Data of sector n on its way to block b that is older than what fills its L1 now no longer does (R168). -/
def State.l1Overtake (s : State) (b n : Nat) (older : List CResp) : State :=
  let stale (r : CResp) : Bool := older.contains r && r.who.ofBlock b && r.addr / 256 == n
  { s with ccd := { s.ccd with
      responses := s.ccd.responses.map fun r => if stale r then { r with fill := false } else r } }

/-- Fills sector n into the L1 of block b with data from the cache die (R189). -/
def State.l1Fill (s : State) (b n : Nat) (data : Mem) (words : RMap CWord) : State :=
  if s.l1Units b = 0 then s else
  s.updTg b fun g => { g with
    l1 := l1Insert (s.l1Units b) { sector := n, way := 0, data := data, words := l1Words words } g.l1 }

/-- Word of the array of block b at which word j of an L1 line stands: the rows of the L1 range hold the ways of its sets one
after the other (log entry 79). -/
def State.l1Place (s : State) (b : Nat) (l : L1Line) (j : Nat) : Nat :=
  let u := s.l1Units b
  (8 - u) * 0x10000 + (l.sector % (128 * u) * 8 + l.way) * 64 + j

/-- Drops a line from the L1 of block b for uncorrectable words, the first its word w, which counts as corrected (R190). -/
def State.l1Bad (s : State) (b : Nat) (l : L1Line) (w : Nat) : State :=
  (s.updBlk b fun B => { B with
    baCe := satAdd B.baCe 1
    tg := { B.tg with l1 := B.tg.l1.filter fun x => x.sector != l.sector } }).baCeRec b (s.l1Place b l w)

/-- A sector that the L1 has dropped is requested again, unless an access requests it: it waits for the block's earlier stores
to it (R190). -/
def State.l1Refetch (s : State) (b n : Nat) : State :=
  match (s.blk b).tg.kernel with
  | none => s
  | some k => s.cacheSend {
      addr := 256 * n, len := 256, write := false, bytes := [], poison := false, who := .l1Fill b, cls := k.cls }

/-- Words w to w + n - 1 of a line as they are met at an access or by the scrubber, which skips poisoned words: an
uncorrectable one drops the sector, single errors are corrected and counted (R190, R200). The line as it is then, none when
it was dropped. -/
def State.l1Meet (s : State) (b : Nat) (l : L1Line) (w n : Nat) (scrub : Bool := false) : State × Option L1Line :=
  let is (k : Chk) (c : CWord) : Bool := c.chk == k && !(scrub && c.poison)
  match RMap.firstIn {} l.words w n (is .bad) with
  | some j => (s.l1Bad b l j, none)
  | none =>
    let segs := RMap.segs {} l.words w n (is .single)
    let l' : L1Line := { l with
      words := RMap.mapRange {} l.words w n fun c => if is .single c then { c with chk := .good } else c }
    let s := s.updBlk b fun B => { B with
      baCe := satAdd B.baCe (segs.foldl (fun x e => x + e.2) 0)
      tg := { B.tg with l1 := B.tg.l1.map fun x => if x.sector = l.sector then l' else x } }
    (segs.foldl (fun s e => (List.range e.2).foldl (fun s i => s.baCeRec b (s.l1Place b l (e.1 + i))) s) s, some l')

/-- Prefetches the sectors of a range into the L1 as misses fill them (Table 7.9); a sector that is there is no miss. -/
def State.l1Prefetch (s : State) (b a n : Nat) : State :=
  if s.l1Units b = 0 then s else
  (List.range (n / 256)).foldl (fun s i =>
    if (s.l1Line b (a / 256 + i)).isSome then s else
    let r := s.devRead (a + 256 * i) 256
    r.1.l1Fill b (a / 256 + i) r.2.1 r.2.2) s

/-- The device range of a RANGE command. -/
def dmaRange (d : Dma) (w : W64) : Nat × Nat :=
  (d.baseDst + bitsN w.toNat 31 10 * 1024, (bitsN w.toNat 53 32 + 1) * 1024)

/-- A RANGE row: its effect at the block's L1, then with level 1 at the cache die (Tables 7.9, 8.6). -/
def State.dmaRangeRow (s : State) (b c : Nat) (want : W64 → Bool) (rop : Nat) : State :=
  s.dmaStart b c (fun w => dmaOp w == 0x0A && want w) fun w s =>
    let r := dmaRange (s.dmaAt b c) w
    let s := if rop = 0 then s.l1Prefetch b r.1 r.2 else if rop = 1 then s else s.l1Drop b r.1 r.2
    if bitN w.toNat 9 then (s.linkPass b (c + 3) true).rangeOp rop r.1 r.2 else s

/-- DMA_RANGE_PREFETCH. -/
def execDmaRangePrefetch (b c : Nat) (s : State) : Out :=
  onUnit (decide (b < 96) && decide (c < 4)) (s.dmaRangeRow b c (fun w => dmaRop w == 0) 0)

/-- DMA_RANGE_FLUSH. -/
def execDmaRangeFlush (b c : Nat) (s : State) : Out :=
  onUnit (decide (b < 96) && decide (c < 4)) (s.dmaRangeRow b c (fun w => dmaRop w == 1) 1)

/-- DMA_RANGE_INVALIDATE. -/
def execDmaRangeInvalidate (b c : Nat) (s : State) : Out :=
  onUnit (decide (b < 96) && decide (c < 4)) (s.dmaRangeRow b c (fun w => dmaRop w == 2) 2)

/-- DMA_RANGE_CLEAN_INVALIDATE. -/
def execDmaRangeCleanInvalidate (b c : Nat) (s : State) : Out :=
  onUnit (decide (b < 96) && decide (c < 4)) (s.dmaRangeRow b c (fun w => dmaRop w == 3) 3)

/-- DMA_RANGE_DEAD. -/
def execDmaRangeDead (b c : Nat) (s : State) : Out :=
  onUnit (decide (b < 96) && decide (c < 4)) (s.dmaRangeRow b c (fun w => 4 ≤ dmaRop w) 4)

/-- DMA_COMMAND_COMPLETE: the command that runs completes (R191, R204). -/
def execDmaCommandComplete (b c : Nat) (s : State) : Out :=
  onUnit (decide (b < 96) && decide (c < 4)) (
    if !s.blockLive b || (s.dmaAt b c).busy.isNone then s else
    (s.updDma b c fun d => { d with busy := none, done := d.done + 1 }).cmdDone b (c + 2))

end Sys2Proof.Machine
end

