-- ==== Sys2Proof/Machine/Wire.lean ====
section
/-! DEFINITION. Frames as bytes, and where their bits travel (R295, R299, R300): the 544 bytes of a frame, the reading of
544 received bytes, and the blocks, codewords and symbols of an alignment group. The manual
gives neither the transcoding's map from 256 to 257 bits nor the polynomials of RS(544,514), so a codeword enters as its
number of symbols in error. -/

namespace Sys2Proof.Machine

/-! ### Alignment groups (R295) -/

/-- Bytes of a frame (R299). -/
def frameBytesN : Nat := 544

/-- Data bytes of a codeword: twenty 256-bit blocks, each transcoded to 257 bits, fill its 514 message symbols. -/
def codewordBytes : Nat := 20 * 256 / 8

/-- Bytes of an alignment group: seventeen codewords. -/
def groupBytes : Nat := 17 * codewordBytes

/-- The codeword of its group, the block of that codeword, and the bit of that block that carry bit b of frame i. -/
def bitPlace (i b : Nat) : Nat × Nat × Nat :=
  let k := 8 * frameBytesN * i + b
  (k / (8 * codewordBytes), k % (8 * codewordBytes) / 256, k % 256)

/-- The codewords of its group that carry frame i. -/
def frameCodewords (i : Nat) : List Nat :=
  (List.range 17).filter fun c =>
    decide (frameBytesN * i < codewordBytes * (c + 1)) && decide (codewordBytes * c < frameBytesN * (i + 1))

/-- The active lane position on which symbol k of every codeword travels (R295, R298). -/
def symbolPosition (eight : Bool) (k : Nat) : Nat := k % (if eight then 8 else 16)

/-- The symbols of a codeword that a lane position carries. -/
def laneSymbols (eight : Bool) (position : Nat) : List Nat :=
  (List.range 544).filter fun k => symbolPosition eight k == position

/-- A codeword with n symbols in error is corrected. -/
def correctable (n : Nat) : Bool := decide (n ≤ 15)

/-- Frame i of a group lies in an uncorrectable codeword; errs gives the symbols in error by codeword 0-16. -/
def frameLost (errs : List Nat) (i : Nat) : Bool := (frameCodewords i).any fun c => !correctable (errs.getD c 0)

/-- The uncorrectable codewords of a group whose first byte frame i carries: each is counted with one frame (R306). -/
def newlyLost (errs : List Nat) (i : Nat) : Nat :=
  ((List.range 17).filter fun c => !correctable (errs.getD c 0) && codewordBytes * c / frameBytesN == i).length

/-! ### The bytes of a frame (R299, R300) -/

/-- k bytes of a number, the lowest first. -/
def leSplit : Nat → Nat → List Byte
  | 0, _ => []
  | k + 1, v => BitVec.ofNat 8 v :: leSplit k (v / 256)

/-- Bytes as a number, the first lowest. -/
def leValue : List Byte → Nat
  | [] => 0
  | b :: bs => b.toNat + 256 * leValue bs

/-- Type byte (Table 11.4). -/
def frameType : Frame → Nat
  | .idle => 0x00
  | .sData _ => 0x10
  | .sCheck _ => 0x11
  | .sArm _ _ => 0x12
  | .v _ => 0x20
  | .tBeacon _ _ _ => 0x30
  | .join _ _ => 0x40
  | .link _ _ _ _ => 0x50

/-- A frame's poison mask: S_DATA and RESPONSE carry one (Table 11.5). -/
def frameMask : Frame → BitVec 16
  | .sData f => f.pmask
  | .v f => if f.op = .response then f.pmask else 0
  | _ => 0

/-- Byte 1 of the header (Table 11.3): bwclass, poison, holdover, vc. -/
def frameFlags (f : Frame) : Nat :=
  let own : Nat := match f with
    | .v x => x.bwclass.toNat + 0x20 * b2n x.vc
    | .tBeacon _ _ h => 0x10 * b2n h
    | _ => 0
  own + 8 * b2n (frameMask f != 0)

/-- Codes of V operations (Table 11.5). -/
def vOpCode : VOp → Nat
  | .read => 0 | .write => 1 | .response => 2 | .nak => 3

/-- Codes of LINK commands (Table 11.5). -/
def linkCode : LinkCmd → Nat
  | .laneMove => 1 | .laneAck => 2 | .echoReq => 3 | .echoResp => 4 | .width => 5

/-- What bits [78:47] of a V body hold: a request's address; a RESPONSE's mask; a NAK's reason (Table 11.5). -/
def vUpper (f : VFrame) : Nat :=
  match f.op with
  | .read | .write => f.addr.toNat
  | .response => f.pmask.toNat
  | .nak => 0x10000 * f.reason.toNat

/-- The 80 bits of a body (Table 11.5). -/
def frameBody : Frame → Nat
  | .idle => 0
  | .sData f => f.flow.toNat + 2 ^ 16 * f.seq.toNat + 2 ^ 32 * f.plyLo.toNat + 2 ^ 64 * f.pmask.toNat
  | .sCheck f =>
    b2n f.clean + 2 * b2n f.replayable + 4 * b2n f.stop + 8 * f.stretch.toNat + 2 ^ 11 * b2n f.blame +
      2 ^ 16 * f.round.toNat + 2 ^ 32 * f.plyLo.toNat
  | .sArm armed start => b2n armed + 2 ^ 16 * start.toNat
  | .v f =>
    f.tag.toNat + 2 ^ 12 * f.gen.toNat + 2 ^ 14 * vOpCode f.op + 2 ^ 16 * f.dst.toNat + 2 ^ 31 * f.src.toNat +
      2 ^ 46 * b2n f.len512 + 2 ^ 47 * vUpper f
  | .tBeacon tick master _ => tick.toNat + 2 ^ 64 * master.toNat
  | .join imageId ldev => imageId.toNat + 2 ^ 64 * ldev.toNat
  | .link cmd lane width value =>
    linkCode cmd + 2 ^ 4 * lane.toNat + 2 ^ 9 * b2n width + 2 ^ 16 * value.toNat

/-- The payload: zero in types without one. -/
def framePayload : Frame → Mem
  | .sData f => f.payload
  | .v f => if f.op = .read then [] else f.payload
  | _ => []

/-- The header and payload of a frame, with the credit fields of its header: what the CRC covers. -/
def frameFront (f : Frame) (h : FrameHdr) : List Byte :=
  [BitVec.ofNat 8 (frameType f), BitVec.ofNat 8 (frameFlags f), h.sent0, h.sent1, h.freed0, h.freed1] ++
    leSplit 10 (frameBody f) ++ Mem.span (framePayload f) 0 512

/-- The 544 bytes of a frame (Table 11.2), with its relay byte (R343). -/
def frameBytes (f : Frame) (h : FrameHdr) : List Byte :=
  frameFront f h ++ leSplit 8 (crc64 (frameFront f h)).toNat ++ leSplit 2 0x6A95 ++ h.relay :: List.replicate 5 0

/-- The last frame that a port has transmitted, as bytes. -/
def Port.lastBytes (k : Port) : Option (List Byte) :=
  k.lastSent.map fun x => frameBytes x.1 { k.lastHdr with relay := BitVec.ofNat 8 x.2 }

/-! ### Reading received bytes -/

/-- Field hi:lo of a body, as w bits. -/
def bodyField (w v lo : Nat) : BitVec w := BitVec.ofNat w (v / 2 ^ lo)

/-- One bit of a body. -/
def bodyBit (v i : Nat) : Bool := v / 2 ^ i % 2 == 1

/-- The V frame of byte 1, a body and a payload. -/
def readV (flags v : Nat) (payload : Mem) : VFrame :=
  let op : VOp := match v / 2 ^ 14 % 4 with | 0 => .read | 1 => .write | 2 => .response | _ => .nak
  { op := op, tag := bodyField 12 v 0, gen := bodyField 2 v 12, dst := bodyField 15 v 16, src := bodyField 15 v 31
    len512 := bodyBit v 46
    addr := match op with | .read | .write => bodyField 32 v 47 | _ => 0
    pmask := match op with | .response => bodyField 16 v 47 | _ => 0
    reason := match op with | .nak => bodyField 8 v 63 | _ => 0
    bwclass := BitVec.ofNat 3 flags, vc := flags / 32 % 2 == 1
    payload := match op with | .read => [] | _ => payload }

/-- The LINK command of a code. -/
def readLink (v : Nat) : Option LinkCmd :=
  match v % 16 with
  | 1 => some .laneMove | 2 => some .laneAck | 3 => some .echoReq | 4 => some .echoResp | 5 => some .width
  | _ => none

/-- The frame of a type byte, byte 1, body and payload; none for a type, or a LINK command (DEDUCED, log entry 70), that
the tables do not name. -/
def readBody (type flags v : Nat) (payload : Mem) : Option Frame :=
  if type = 0x00 then some .idle
  else if type = 0x10 then some (.sData
    { flow := bodyField 16 v 0, seq := bodyField 16 v 16, plyLo := bodyField 32 v 32, pmask := bodyField 16 v 64
      payload := payload })
  else if type = 0x11 then some (.sCheck
    { clean := bodyBit v 0, replayable := bodyBit v 1, stop := bodyBit v 2, stretch := bodyField 8 v 3
      blame := bodyBit v 11, round := bodyField 8 v 16, plyLo := bodyField 32 v 32 })
  else if type = 0x12 then some (.sArm (bodyBit v 0) (bodyField 64 v 16))
  else if type = 0x20 then some (.v (readV flags v payload))
  else if type = 0x30 then some (.tBeacon (bodyField 64 v 0) (bodyField 15 v 64) (flags / 16 % 2 == 1))
  else if type = 0x40 then some (.join (bodyField 64 v 0) (bodyField 15 v 64))
  else if type = 0x50 then (readLink v).map fun c => .link c (bodyField 5 v 4) (bodyBit v 9) (bodyField 32 v 16)
  else none

/-- The reserved fields (lowest bit, width) of a frame's body: those that Table 11.5 names so, and bits that it gives no
meaning in the type (DEDUCED, log entry 70). -/
def reservedFields : Frame → List (Nat × Nat)
  | .idle => [(0, 80)]
  | .sData _ => []
  | .sCheck _ => [(12, 4), (24, 8), (64, 16)]
  | .sArm _ _ => [(1, 15)]
  | .v f =>
    match f.op with
    | .read | .write => [(79, 1)]
    | .response => if f.len512 then [(63, 17)] else [(55, 25)]
    | .nak => [(47, 16), (71, 9)]
  | .tBeacon _ _ _ => [(79, 1)]
  | .join _ _ => [(79, 1)]
  | .link _ _ _ _ => [(10, 6), (48, 32)]

/-- Some reserved bit of header byte 1, of the body or of the tail is set; tail byte 0x21A is the relay byte, which a
receiver judges by port (R343). -/
def reservedBits (flags v tail : Nat) (f : Frame) : Bool :=
  flags / 64 != 0 || tail / 256 != 0 || (reservedFields f).any fun r => v / 2 ^ r.1 % 2 ^ r.2 != 0

/-- How 544 received bytes read (Table 11.8, kinds 1 to 3): a bad sync field, a CRC failure, an unknown type, or a frame
with what its header and tail hold. -/
def readFrame (bs : List Byte) : Corruption ⊕ (FrameHdr × Frame) :=
  if leValue ((bs.drop 0x218).take 2) ≠ 0x6A95 then .inl .sync
  else if (crc64 (bs.take 0x210)).toNat ≠ leValue ((bs.drop 0x210).take 8) then .inl .crc
  else
    let flags := (bs.getD 1 0).toNat
    let body := leValue ((bs.drop 6).take 10)
    let tail := leValue ((bs.drop 0x21A).take 6)
    let hdr (reservedSet : Bool) : FrameHdr :=
      { sent0 := bs.getD 2 0, sent1 := bs.getD 3 0, freed0 := bs.getD 4 0, freed1 := bs.getD 5 0
        reservedSet := reservedSet, relay := bs.getD 0x21A 0 }
    match readBody (bs.getD 0 0).toNat flags body (Mem.ofBytes 0 ((bs.drop 0x10).take 512)) with
    | none => .inl (.unknownType (hdr false))
    | some f => .inr (hdr (reservedBits flags body tail f), f)

end Sys2Proof.Machine
end

