-- ==== Sys2Proof/Machine/Frames.lean ====
section
/-! DEFINITION. The commands of the Melob fabric: transmission slots, transfer entries, received frames by type, and the
events of ports, lanes and tags (R296-R315). A received frame first reconciles its port's credits, then is relayed,
refused under Table 11.8, or acted on. -/

namespace Sys2Proof.Machine

/-! ### Reception common to every frame -/

/-- A channel's freed count as the partner last gave it, and whether it claims more than was sent (R301, kind 10). -/
def credit (sent theirFreed : BitVec 8) (hFreed : BitVec 8) : BitVec 8 × Bool :=
  if 64 < (sent - hFreed).toNat then (sent, true) else (if theirFreed = hFreed then theirFreed else hFreed, false)

/-- The freed count after a header's sent count: frames that the header counts and that did not come are lost, and count
as freed; own is 1 for the frame itself, whose buffer is freed later (R301). -/
def freedNow (freed got sent : BitVec 8) (own : BitVec 8) : BitVec 8 := freed + (sent - got) - own

/-- The buffer of a V frame is free again, unless its port has come up anew since (R301). -/
def State.freeBuf (s : State) (b : VBuf) : State :=
  s.updPort b.port fun k =>
    if k.upAt ≠ b.upAt then k
    else if b.vc then { k with freed1 := k.freed1 + 1 } else { k with freed0 := k.freed0 + 1 }

/-- A frame passes its CRC on port p: the port is alive, credits are reconciled (R301), and a claim of more frames freed
than sent is clamped (Table 11.8, kind 10). vc names the channel of a V frame. Answers none while the port delivers
nothing; the flag says that the V frame is beyond credit: more than 64 buffers of its channel would be held (kind 7). -/
def State.rxCommon (s : State) (p : Nat) (h : FrameHdr) (vc : Option Bool) : Option (State × Bool) :=
  let k := s.port p
  if !s.fabricOn || !k.isUp || k.realigning then none else
  let f0 := freedNow k.freed0 k.got0 h.sent0 (if vc = some false then 1 else 0)
  let f1 := freedNow k.freed1 k.got1 h.sent1 (if vc = some true then 1 else 0)
  let beyond := match vc with
    | some false => decide (64 < (h.sent0 - f0).toNat)
    | some true => decide (64 < (h.sent1 - f1).toNat)
    | none => false
  let c0 := credit k.sent0 k.theirFreed0 h.freed0
  let c1 := credit k.sent1 k.theirFreed1 h.freed1
  let s := s.updPort p fun k => { k with
    lastValid := s.tick, badSync := 0, got0 := h.sent0, got1 := h.sent1, freed0 := f0, freed1 := f1
    theirFreed0 := c0.1, theirFreed1 := c1.1 }
  some (if c0.2 || c1.2 then s.misbehaved p 10 else s, beyond)

/-- A reserved bit of the frame is set, byte 0x21A of a port that is no relay port included (Table 11.8, kind 3). -/
def State.rxReserved (s : State) (p : Nat) (h : FrameHdr) : Bool :=
  h.reservedSet || (h.relay != 0 && (!s.relayPort p || decide (16 < h.relay.toNat)))

/-- Queues a frame that a relaying device passes on, by its kind; a V frame keeps its buffer until it leaves. -/
def State.relayQueue (s : State) (p : Nat) (f : Frame) (relay : Nat) (buf : Option VBuf) : State :=
  match f with
  | .sData _ => s.updPort p fun k => { k with sched := k.sched ++ [(.frame f, relay)] }
  | .v _ => s.updPort p fun k => { k with vQ := k.vQ ++ [(f, relay, buf)] }
  | .join _ _ => s.sendLink p f relay
  | .link _ _ _ _ => s
  | .idle => s
  | _ => s.sendDue p f relay

/-- The relay of R343: a torus port's frame goes to the standby, a frame of the standby for a torus port goes out on
it. Answers none when the frame is not relayed. -/
def State.relay (s : State) (p : Nat) (h : FrameHdr) (f : Frame) (buf : Option VBuf := none) : Option State :=
  match s.relayTo with
  | none => none
  | some d =>
    let e := s.expressTo d
    let fn := (s.port p).fn
    if fn < 16 then (e[fn % e.length]?).map fun q => s.relayQueue q f (fn + 1) buf
    else if e.contains p && h.relay != 0 then
      some ((s.portOfFn (h.relay.toNat - 1)).elim s fun q => s.relayQueue q f 0 buf)
    else none

/-- A frame of a type other than IDLE, LINK and V: common work, kind 3, the join that must come first (R296), then the
relay, else its own effect. -/
def State.rx (s : State) (p : Nat) (h : FrameHdr) (f : Frame) (early : Bool) (act : State → State) : State :=
  match s.rxCommon p h none with
  | none => s
  | some (s, _) =>
    if s.rxReserved p h then s.misbehaved p 3
    else if (s.port p).joinDue && !early then s
    else match s.relay p h f with
      | some t => t
      | none => act s

/-- A check, arm or time frame: a relaying device passes it on, and its own check or time unit reads those of its torus
ports too (R343). -/
def State.rxBoth (s : State) (p : Nat) (h : FrameHdr) (f : Frame) (act : State → State) : State :=
  let t := s.rx p h f false act
  match s.rxCommon p h none with
  | some (u, _) =>
    if !u.rxReserved p h && !(u.port p).joinDue && (u.relay p h f).isSome && decide ((u.port p).fn < 16) then act t else t
  | none => t

/-- IDLE: its credit fields are reconciled. -/
def execIdleFrame (p : Nat) (h : FrameHdr) (s : State) : Out :=
  onUnit (decide (p < 20)) (
    match s.rxCommon p h none with
    | none => s
    | some (s, _) => if s.rxReserved p h then s.misbehaved p 3 else s)

/-! ### Scheduled traffic -/

/-- A transfer's scratchpad range meets the L1 range of a resident kernel (R74, R181). -/
def State.xferInL1 (s : State) (b o n : Nat) : Bool := decide (s.unitTop b < o + n)

/-- The parts of a kind 0x02 offset: block and scratchpad offset (Table 3.5). -/
def xferBlock (off : Nat) : Nat × Nat := (bitsN off 55 48, bitsN off 20 0)

/-- Poison of the 128 words of a scratchpad frame, as a chunk mask. -/
def State.baChunks (s : State) (b o : Nat) : BitVec 16 :=
  BitVec.ofNat 16 ((List.range 16).foldl (fun a c =>
    if RMap.anyIn {} (s.blk b).baSt (o / 4 + 8 * c) 8 (fun w => w.dark) then a + 2 ^ c else a) 0)

/-- Reads the frames of a send entry (R304): source bytes as they stand, with the chunk masks, uncorrectable and unwritten
words counted (R200); a frame that meets the L1
range has every chunk poisoned (DEDUCED, log entry 76). -/
def State.readFrames (s : State) (x : Xfer) : State × List CeFrame :=
  let s := s.serveSched
  (List.range x.frames).foldl (fun (acc : State × List CeFrame) i =>
    let s := acc.1
    if x.kind = 2 then
      let (b, o) := xferBlock x.offset
      let a := o + 512 * i
      let s := if s.xferInL1 b a 512 then s else (s.baCorrect b (a / 4) 128).baDarkMet b (a / 4) 128
      let m := if s.xferInL1 b a 512 then 0xFFFF else s.baChunks b a
      (s, acc.2 ++ [{ payload := Mem.slice (s.blk b).ba a 512, pmask := m, port := x.port }])
    else
      let r := s.devRead (x.offset + 512 * i) 512
      (r.1, acc.2 ++ [{ payload := r.2.1, pmask := chunkMask 512 r.2.2, port := x.port }])) (s, [])

/-- Transfer entry e of the plan in force, when it applies in the ply in flight. -/
def State.xferNow (s : State) (e : Nat) : Option Xfer :=
  if !s.inPly then none else
  match s.plan.bind fun p => p.xfers[e]? with
  | some x => if s.xferApplies x then some x else none
  | none => none

/-- The tick at which a send entry is released (R344). -/
def State.sendTick (s : State) (x : Xfer) : Nat := x.tick - s.relayShift

/-- The read of a send entry's source (R304): 20 ticks early, not before the ply's start; it waits for its lines (R284). -/
def State.readLead (s : State) (e : Nat) (x : Xfer) : State :=
  if x.kind = 4 || (s.fab.led.lookup e).isSome || (x.kind != 2 && s.serveSched.waits false x.offset (512 * x.frames)) then s
  else
  let r := s.readFrames x
  { r.1 with fab := { r.1.fab with led := SMap.ins e r.2 r.1.fab.led } }

/-- A port starts reading the source of a send entry. -/
def execSendReadLead (e : Nat) (s : State) : Out :=
  .next (
    match s.xferNow e with
    | some x => if x.expect || s.plyTick + 20 < s.sendTick x then s else s.readLead e x
    | none => s)

/-- Send entry e's frames join its port's scheduled queue; a port that is down discards them (R296). -/
def State.releaseEntry (s : State) (e : Nat) (x : Xfer) : State :=
  let s := { s with fab := { s.fab with released := e :: s.fab.released } }
  match s.entryEgress x.port with
  | none => s
  | some (p, relay) =>
    if !(s.port p).isUp then s else
    s.updPort p fun k => { k with sched := k.sched ++ (List.range x.frames).map fun i => (.entry e i, relay) }

/-- Send entries of x's port that join its queue before entry e and have not: those of an earlier tick, and those of the
same tick that stand before it in the transfer table (R304), in that order. -/
def State.sendsBefore (s : State) (e : Nat) (x : Xfer) : List (Nat × Xfer) :=
  let n := match s.plan with | some p => p.xfers.length | none => 0
  let l := (List.range n).filterMap fun i =>
    match s.xferNow i with
    | some y =>
      if !y.expect && y.port == x.port && !s.fab.released.contains i &&
          (decide (y.tick < x.tick) || y.tick == x.tick && decide (i < e)) then some (i, y) else none
    | none => none
  l.mergeSort fun a b => decide (a.2.tick < b.2.tick) || a.2.tick == b.2.tick && decide (a.1 ≤ b.1)

/-- A send entry's tick has come: entries that go before it on its port join the queue first. -/
def execSendEntryRelease (e : Nat) (s : State) : Out :=
  .next (
    match s.xferNow e with
    | some x =>
      if x.expect || s.plyTick < s.sendTick x || s.fab.released.contains e then s
      else ((s.sendsBefore e x).foldl (fun s y => s.releaseEntry y.1 y.2) s).releaseEntry e x
    | none => s)

/-- At an expect entry's tick its missing frames count under R48 (R306). -/
def execExpectEntryDeadline (e : Nat) (s : State) : Out :=
  .next (
    match s.xferNow e with
    | some x =>
      if !x.expect || s.plyTick < x.tick + s.relayShift || s.fab.deadlines.contains e then s else
      let s := { s with fab := { s.fab with deadlines := e :: s.fab.deadlines } }
      if s.xferDone e then s
      else s.checkPort 3 (match s.standby.place with | some _ => 32 + x.port | none => x.port)
    | none => s)

/-- Puts a frame into an input queue: the frames of one expect entry stand in seq order, entries in order of arrival
(R319, R325). -/
def queueIn (f : CeFrame) : List CeFrame → List CeFrame
  | [] => [f]
  | g :: rest =>
    if g.entry ≠ f.entry then g :: queueIn f rest
    else if f.seq < g.seq then f :: g :: rest
    else if rest.all fun x => x.entry != f.entry then g :: f :: rest
    else g :: queueIn f rest

/-- The write of frame seq of expect entry e has been accepted: the frame counts as received, in the ply that began at
tick start (R305). -/
def State.frameIn (s : State) (e seq start : Nat) : State :=
  if s.inPly && s.sch.start == start then
    { s with fab := { s.fab with received := SMap.set [] s.fab.received e (seq :: SMap.get [] s.fab.received e) } }
  else s

/-- Writes the bytes of frame seq of expect entry e at device address A, once its lines are free (R284, R305). -/
def State.putFrame (s : State) (A : Nat) (data : Mem) (pmask : BitVec 16) (e seq start : Nat) : State :=
  if s.serveSched.waits true A 512 then s.defer (.frame A data pmask e seq start)
  else (s.serveSched.devWrite A 512 data (maskUnits 4 pmask)).frameIn e seq start

/-- Writes an accepted frame of expect entry e to its entry's destination, poisoned chunks poisoned; none when it is refused or meets a
full queue and so counts as not received (R74, R305, R319). -/
def State.writeFrame (s : State) (e : Nat) (x : Xfer) (p : Nat) (f : SData) : Option State :=
  let s := s.serveSched
  let p := if s.standby.place.isSome then 32 + x.port else p
  if x.kind = 4 then
    let q := x.offset % 64
    let l := SMap.get [] s.ce.inQ q
    if 512 ≤ l.length then none
    else some ({ s with ce := { s.ce with
      inQ := SMap.set [] s.ce.inQ q (queueIn
        { payload := Mem.take f.payload 512, pmask := f.pmask, port := p, entry := e, seq := f.seq.toNat
          last := f.seq.toNat + 1 == x.frames } l) } }.frameIn e f.seq.toNat s.sch.start)
  else if x.kind = 2 then
    let (b, o) := xferBlock x.offset
    let a := o + 512 * f.seq.toNat
    if s.xferInL1 b a 512 then none
    else some ((s.baWrite b a 512 (Mem.take f.payload 512) (maskUnits 8 f.pmask)).frameIn e f.seq.toNat s.sch.start)
  else some (s.putFrame (x.offset + 512 * f.seq.toNat) (Mem.take f.payload 512) f.pmask e f.seq.toNat s.sch.start)

/-- S_DATA (R305, R307). -/
def execSDataFrame (p : Nat) (h : FrameHdr) (f : SData) (s : State) : Out :=
  onUnit (decide (p < 20)) (s.rx p h (.sData f) false fun s =>
    if !s.running then s.misbehaved p 4
    else if !s.inPly then s
    else
      let q := s.entryPort p h.relay.toNat
      let xs := match s.plan with | some pl => pl.xfers | none => []
      let hit := (List.range xs.length).find? fun e =>
        match xs[e]? with
        | some x => x.expect && x.port == q && s.xferApplies x && x.flow == f.flow.toNat
        | none => false
      match hit, hit.bind fun e => xs[e]? with
      | some e, some x =>
        let got := SMap.get [] s.fab.accepted e
        if f.plyLo.toNat ≠ s.sch.ply.toNat % 2 ^ 32 || x.frames ≤ f.seq.toNat || got.contains f.seq.toNat ||
            x.tick + s.relayShift < s.plyTick then s.misbehaved p 5
        else
          (match s.writeFrame e x p f with
           | some s => { s with fab := { s.fab with
               accepted := SMap.set [] s.fab.accepted e (f.seq.toNat :: got) } }
           | none => s)
      | _, _ => s.misbehaved p 5)

/-! ### Check, arm and time -/

/-- S_CHECK (R49-R51). A relayed one gives a standby in a place its blame bit alone (R343). A drained member whose place
is being taken still takes part in the takeover flood (R341, R343). -/
def execSCheckFrame (p : Nat) (h : FrameHdr) (f : SCheck) (s : State) : Out :=
  onUnit (decide (p < 20)) (
    let fields : CheckFields :=
      { clean := f.clean, replayable := f.replayable, stop := f.stop, stretch := f.stretch.toNat }
    let act (s : State) : State :=
      if !(s.running || s.standby.tracking || s.dev == .drained && s.standby.verdictAt.isSome) then s.misbehaved p 4
      else if h.relay ≠ 0 then (if f.blame then s.floodTake p 255 {} true else s)
      else match s.sch.flood with
        | some fl =>
          if fl.kind != .arm && (s.floodPorts.contains p) && s.roundDue fl == some f.round.toNat &&
              f.plyLo.toNat == fl.ply.toNat % 2 ^ 32 then
            s.floodTake p f.round.toNat fields f.blame
          else s.misbehaved p 6
        | none => s.misbehaved p 6
    s.rxBoth p h (.sCheck f) act)

/-- S_ARM (R44, R307); a relaying device's check unit floods for the place (R343). -/
def execSArmFrame (p : Nat) (h : FrameHdr) (armed : Bool) (start : W64) (s : State) : Out :=
  onUnit (decide (p < 20)) (s.rxBoth p h (.sArm armed start) fun s =>
    if !(s.dev == .joined || s.standby.tracking) then s.misbehaved p 4
    else if h.relay ≠ 0 then s
    else match s.sch.flood with
      | some fl =>
        if fl.kind == .arm && s.floodPorts.contains p then
          s.armTake p fl { armed := armed, start := start.toNat }
        else s
      | none => s)

/-- This member is the time master, or serves the master's place. -/
def State.isMaster (s : State) : Bool :=
  match s.image with
  | some im => im.timeMaster == s.ldevSeen
  | none => false

/-- Downstream ports of the time tree (R40; log entry 11), with the relay byte of each: the device's own; a standby that
serves the master's place sends over the relay for that place too (R343). -/
def State.downstream (s : State) : List (Nat × Nat) :=
  match s.image with
  | none => []
  | some im =>
    let own := ((List.range 20).filter fun p =>
      Config.downstream im.imageId im.ldev p && im.own.timeUp != p && (s.port p).fn != 0xFF).map fun p => (p, 0)
    match s.standby.place with
    | none => own
    | some f =>
      if !s.isMaster then own else
      own ++ ((List.range 20).filter fun p => Config.downstream im.imageId f p).filterMap fun p => s.entryEgress p

/-- Sends a beacon on every downstream port. -/
def State.beaconDown (s : State) (tick : Nat) (holdover : Bool) : State :=
  let m := match s.image with | some im => im.timeMaster | none => 0
  s.downstream.foldl (fun s e =>
    s.sendDue e.1 (.tBeacon (BitVec.ofNat 64 tick) (BitVec.ofNat 15 m) holdover) e.2) s

/-- A valid beacon steers the domain count to the carried count plus h and is forwarded with h + 1 (R40, R41); one
from the master ends holdover (R42). The steering value is a free value in its range, and zero outside a domain (R431). The first after DOMAIN_JOIN switches to domain time (R39, R383). -/
def State.takeBeacon (s : State) (tick : Nat) (holdover : Bool) : State :=
  let first := match s.sch.join with | some j => j.firstBeacon.isNone | none => false
  let s := { s with sch := { s.sch with
    timeOff := (tick + s.hop : Int) - s.tick
    lastBeacon := s.tick
    holdover := if holdover then s.sch.holdover else false
    timeLost := if holdover then s.sch.timeLost else false
    join := s.sch.join.map fun (j : JoinSt) => if j.firstBeacon.isNone then { j with firstBeacon := some s.tick } else j } }
  let s := if first then { s with qos := { s.qos with discard := true } } else s
  let st := if s.dev == .ready then 0 else BitVec.ofInt 16 ((s.freeNat % 40001 : Nat) - 20000 : Int)
  let s := { s with pwr := { s.pwr with steer := st } }.tookFree
  s.beaconDown (tick + s.hop + 1) holdover

/-- T_BEACON: on a port other than time_up, or naming another master, ignored and counted (Table 11.8, kind 11). A device
without an image has no time_up port. -/
def execTBeacon (p : Nat) (h : FrameHdr) (tick : W64) (master : BitVec 15) (holdover : Bool) (s : State) : Out :=
  onUnit (decide (p < 20)) (
    let act (s : State) : State :=
      match s.image with
      | none => s.misbehaved p 11
      | some im =>
        if h.relay ≠ 0 then s
        else if im.own.timeUp = p && im.timeMaster = master.toNat then
          if s.inDomain || s.sch.join.isSome || s.standby.relaying || s.standby.tracking then s.takeBeacon tick.toNat holdover else s
        else s.misbehaved p 11
    s.rxBoth p h (.tBeacon tick master holdover) act)

/-! ### JOIN and LINK -/

/-- A JOIN from this device. -/
def State.joinOf (s : State) : Frame :=
  match s.image with
  | some im => .join im.imageId (BitVec.ofNat 15 im.ldev)
  | none => .join 0 0

/-- A JOIN frame. -/
def isJoinFrame : Frame → Bool
  | .join _ _ => true
  | _ => false

/-- Takes the functions of every port out of force (R82; also after a failed join: DEDUCED, log entry 16): nothing that
waits to be sent on a mapped port is sent, LINK excepted. -/
def State.unmapPorts (s : State) : State :=
  let bufs := (List.range 20).flatMap fun p => (s.port p).vQ.filterMap fun x => x.2.2
  let s := (List.range 20).foldl (fun s p => s.updPort p fun k => { k with
    fn := 0xFF, budget := 0, equaliser := 0, due := [], sched := [], vQ := []
    linkQ := k.linkQ.filter fun x => !isJoinFrame x.1
    joinDue := false, joinOwn := false, remeasure := false, joinOwed := 0, barred := false }) s
  bufs.foldl State.freeBuf s

/-- DOMAIN_JOIN fails: status 0x04 with a reason and port (R81, R303), or 0x05 (R41); the device stays in READY. -/
def State.joinFail (s : State) (status reason port : Nat) : State :=
  match s.sch.join with
  | none => s
  | some j => ({ s with sch := { s.sch with join := none, locked := false, timeOff := s.sch.localOff }, pwr := { s.pwr with steer := 0 } }.unmapPorts).finish j.uid status reason port 0

/-- A JOIN that a relaying device passed on, at the standby in its place (R343): judged by the place's section, and
answered through the relay with the place's number. -/
def State.relayedJoin (s : State) (p : Nat) (im : Image) (relay : Nat) (imageId : W64) (ldev : BitVec 15) : State :=
  let want := match s.plan with | some x => x.portPartner.getD (s.entryPort p relay) 0xFFFFFFFF | none => 0xFFFFFFFF
  if !s.inDomain then s
  else if imageId == im.imageId && ldev.toNat == want then
    match s.torusEgress (relay - 1) with
    | some (q, r) => s.sendLink q (.join im.imageId (BitVec.ofNat 15 s.ldevSeen)) r
    | none => s
  else s.misbehaved p 12

/-- A member's answer to a JOIN received on a mapped port: one JOIN of its own (R81), after its latency is re-measured
where that is due (R296; log entry 17). -/
def State.answerJoin (s : State) (p : Nat) : State :=
  if (s.port p).remeasure then s.updPort p fun k => { k with joinOwed := k.joinOwed + 1 } else s.sendLink p s.joinOf 0

/-- JOIN (R81, R296, Table 11.8 kind 12). -/
def execJoinFrame (p : Nat) (h : FrameHdr) (imageId : W64) (ldev : BitVec 15) (s : State) : Out :=
  onUnit (decide (p < 20)) (s.rx p h (.join imageId ldev) true fun s =>
    match s.image with
    | none => s
    | some im =>
      if h.relay ≠ 0 then s.relayedJoin p im h.relay.toNat imageId ldev else
      let ok := imageId == im.imageId && ldev.toNat == s.partnerOf p
      if s.sch.join.isSome then
        if s.partnerOf p = 0xFFFFFFFF && (s.port p).fn = 0xFF then s else
        let s := s.updPort p fun k => { k with partner := ldev.toNat }
        if !ok then s.joinFail 4 0x22 p
        else { s with sch := { s.sch with join := s.sch.join.map fun j =>
          { j with heard := if j.heard.contains p then j.heard else j.heard ++ [p] } } }
      else if !s.inDomain || (s.port p).fn = 0xFF then s
      else if (s.port p).joinDue then
        let s := s.updPort p fun k => { k with partner := ldev.toNat, joinDue := false }
        if ok then s.answerJoin p
        else ((s.updPort p fun k => { k with barred := true }).portEvent p 6 0x1F 0).portDown p
      else if !ok then s.misbehaved p 12
      else (s.updPort p fun k => { k with partner := ldev.toNat }).answerJoin p)

/-- A LINK frame: common work and kind 3, then its effect. -/
def State.rxLink (s : State) (p : Nat) (h : FrameHdr) (act : State → State) : State :=
  match s.rxCommon p h none with
  | none => s
  | some (s, _) => if s.rxReserved p h then s.misbehaved p 3 else act s

/-- LANE_MOVE: the transmitter mirrors the lane onto the spare and answers at group G (R297). A lane that carries no
position is invalid; the spare is in use while it is mirrored onto and, after a completed move, until the lane that the
move freed has retrained, which no rule lets the transmitter know: a free choice (kind 13; log entry 69). -/
def execLaneMove (p : Nat) (h : FrameHdr) (lane : Nat) (group : W32) (s : State) : Out :=
  onUnit (decide (p < 20)) (s.rxLink p h fun s =>
    let k := s.port p
    let take (s : State) : State := s.updPort p fun k => { k with
      mirror := some (lane, groupNamed (s.txGroup p) group.toNat), txUsed := false }
    if 16 < lane || lane = k.txSpare || k.mirror.isSome then s.misbehaved p 13
    else if !k.txUsed then take s
    else if s.freeBool then take s.tookFree
    else s.tookFree.misbehaved p 13)

/-- LANE_ACK in group G or G + 1, once the receiver has taken the position from the spare: event 0x01. A move whose spare
was no longer good at group G has no valid answer (R297). -/
def execLaneAck (p : Nat) (h : FrameHdr) (lane : Nat) (s : State) : Out :=
  onUnit (decide (p < 20)) (s.rxLink p h fun s =>
    let k := s.portNow p
    match k.wait.find? fun w => match w with | .laneAck l _ _ _ => l == lane | _ => false with
    | some (.laneAck l sp pos g) =>
      if !s.inTime p (.laneAck l sp pos g) || (k.lane l).position == pos then s else
      (s.updPort p fun _ => { k with wait := k.wait.filter (· != .laneAck l sp pos g) }).portEvent p 1 lane 0
    | _ => s)

/-- ECHO_REQ is answered with the same stamp (R303). -/
def execEchoReq (p : Nat) (h : FrameHdr) (stamp : W32) (s : State) : Out :=
  onUnit (decide (p < 20)) (s.rxLink p h fun s => s.sendLink p (.link .echoResp 0 false stamp) 0)

/-- ECHO_REQ leaves with a stamp, a free value; its answer alone counts as a measurement (R303). -/
def State.sendEcho (s : State) (p : Nat) : State :=
  if !(s.port p).isUp then s else
  let w := s.freeWord
  ((s.sendLink p (.link .echoReq 0 false w) 0).tookFree).updPort p fun k => { k with echo := some w, echoAt := s.tick }

/-- A latency is measured (R303): the equaliser makes up the rest of the hop budget; above it the join fails with 0x23,
or the port of a member goes down. -/
def State.measured (s : State) (p ns : Nat) : State :=
  let s := s.updPort p fun k => { k with latency := min 0xFFE ns, equaliser := 10 * k.budget - ns }
  let h := (s.port p).budget
  if h = 0 || ns ≤ 10 * h then s
  else if s.sch.join.isSome then s.joinFail 4 0x23 p
  else if s.inDomain then (s.portEvent p 7 0x1F 0).portDown p
  else s

/-- Once the latency is known this port's own JOIN leaves, then the answers it owes (R81, R296, R303). -/
def State.joinAfterEcho (s : State) (p : Nat) : State :=
  let k := s.port p
  if !k.remeasure then s else
  let s := s.updPort p fun k => { k with remeasure := false, joinOwed := 0 }
  (List.range (b2n k.joinOwn + k.joinOwed)).foldl (fun s _ => s.sendLink p s.joinOf 0) s

/-- ECHO_RESP with the stamp that was asked with: half the round trip is the one-way latency. -/
def execEchoResp (p : Nat) (h : FrameHdr) (stamp : W32) (roundTrip : Nat) (s : State) : Out :=
  onUnit (decide (p < 20)) (s.rxLink p h fun s =>
    if (s.port p).echo ≠ some stamp then s
    else ((s.updPort p fun k => { k with echo := none }).measured p (roundTrip / 2)).joinAfterEcho p)

/-- From group g on the receiver's direction runs on 8 or 16 lanes: the lowest-numbered good ones, and the numbering goes
on from g (R295, R298). -/
def Port.rxWidth (k : Port) (eight : Bool) (g : Nat) : Port :=
  let at_ := groupStart k.rxBase k.rxAt (k.state == 3) g
  { k.assign (k.goodLanes.take (if eight then 8 else 16)) with
    state := if eight then 3 else 2, rxBase := g, rxAt := at_ }

/-- WIDTH (R298): the answer that a receiver waits for, in group G or G + 1, moves its port between 16 and 8 lanes, or
selects its eight lanes again; otherwise the partner asks this transmitter to change width at group G. It names no lane,
so none of kind 13. -/
def execWidthFrame (p : Nat) (h : FrameHdr) (width : Bool) (group : W32) (s : State) : Out :=
  onUnit (decide (p < 20)) (s.rxLink p h fun s =>
    let k := s.port p
    match k.wait.find? fun w => match w with
      | .width e g => e == width && g % 2 ^ 32 == group.toNat
      | _ => false with
    | some w =>
      if !s.inTime p w then s else
      let k := s.portNow p
      let s := s.updPort p fun _ => { k.rxWidth width w.group with wait := k.wait.filter (· != w) }
      if k.state = 2 && width then s.portEvent p 2 0x1F 0
      else if k.state = 3 && !width then s.portEvent p 3 0x1F 0
      else s
    | none =>
      s.updPort p fun k => { k with txWidths := k.txWidths ++ [(width, groupNamed (s.txGroup p) group.toNat)] })

/-! ### Service frames -/

/-- A V frame (R309, R311, R313, Table 11.8 kinds 3, 7, 8). Its buffer is freed once it has been dealt with, or has left
on its next port (R301). The discard between V and the restart spares takeover requests, which R340 has sent at V (DEDUCED,
log entry 68). -/
def State.rxV (s : State) (p : Nat) (h : FrameHdr) (f : VFrame) : State :=
  match s.rxCommon p h (some f.vc) with
  | none => s
  | some (s, beyond) =>
    let buf : VBuf := { port := p, vc := f.vc, upAt := (s.port p).upAt }
    let req := f.op == .read || f.op == .write
    let no (s : State) (r : Nat) : State := if req then s.vAnswer (vNakFor f r) else s
    if s.rxReserved p h then (no (s.misbehaved p 3) 1).freeBuf buf
    else if beyond then ((s.misbehaved p 7).vAnswer (vNakFor f 6)).freeBuf buf
    else if (s.port p).joinDue then s.freeBuf buf
    else match s.relay p h (.v f) (some buf) with
      | some t => t
      | none =>
        if req && s.running && s.sch.restartAt.isSome && !asksTakeover f then s.freeBuf buf
        else if s.isMe f.dst.toNat then
          (if !req then s.svcAnswer p f
           else if s.running && !s.inPly && !asksTakeover f then s
           else
             match s.vExec f p with
             | (s, some r) => if r.op = .nak then (s.misbehaved p 8).vAnswer r else s.vAnswer r
             | (s, none) => s).freeBuf buf
        else if !s.inDomain then s.freeBuf buf
        else
          let fn := if h.relay ≠ 0 then h.relay.toNat - 1 else (s.port p).fn
          let came := if fn < 16 then some (fn, f.vc) else none
          (match s.vForward f came (some buf) with
           | some t => t
           | none =>
             (if req then no (s.misbehaved p 8) 3 else s).freeBuf buf)

/-- READ request. -/
def execVRead (p : Nat) (h : FrameHdr) (f : VFrame) (s : State) : Out :=
  onUnit (decide (p < 20)) (s.rxV p h { f with op := .read })

/-- WRITE request, mirror marks and takeover requests included. -/
def execVWrite (p : Nat) (h : FrameHdr) (f : VFrame) (s : State) : Out :=
  onUnit (decide (p < 20)) (s.rxV p h { f with op := .write, payload := Mem.take f.payload 512 })

/-- RESPONSE. -/
def execVResponse (p : Nat) (h : FrameHdr) (f : VFrame) (s : State) : Out :=
  onUnit (decide (p < 20)) (s.rxV p h { f with op := .response, payload := Mem.take f.payload 512 })

/-- NAK. -/
def execVNak (p : Nat) (h : FrameHdr) (f : VFrame) (s : State) : Out :=
  onUnit (decide (p < 20)) (s.rxV p h { f with op := .nak })

/-! ### Transmission (R302) -/

/-- The header fields of a frame sent now (Table 11.3). -/
def Port.hdr (k : Port) (relay : Nat) : FrameHdr where
  sent0 := k.sent0
  sent1 := k.sent1
  freed0 := k.freed0
  freed1 := k.freed1
  reservedSet := false
  relay := BitVec.ofNat 8 relay

/-- Sends a frame now. -/
def State.transmit (s : State) (p : Nat) (f : Frame) (relay : Nat) : State :=
  s.updPort p fun k => { k with lastSent := some (f, relay), lastHdr := k.hdr relay, framesSent := k.framesSent + 1 }

/-- The port's own JOIN has left (R296). -/
def State.joinLeft (s : State) (p : Nat) (f : Frame) : State :=
  if isJoinFrame f then s.updPort p fun k => { k with joinOwn := false } else s

/-- Frame seq of send entry e, when its read has finished; a queue source gives its oldest frame (R304, R319). -/
def State.schedFrame (s : State) (e seq : Nat) : Option (Frame × State) :=
  match s.plan.bind fun pl => pl.xfers[e]? with
  | none => none
  | some x =>
    let mk (c : CeFrame) : Frame := .sData
      { flow := BitVec.ofNat 16 x.flow, seq := BitVec.ofNat 16 seq, plyLo := BitVec.ofNat 32 s.sch.ply.toNat
        pmask := c.pmask, payload := c.payload }
    if x.kind = 4 then
      match SMap.get [] s.ce.outQ (x.offset % 64) with
      | [] => none
      | c :: rest => some (mk c, { s with ce := { s.ce with outQ := SMap.set [] s.ce.outQ (x.offset % 64) rest } })
    else ((s.fab.led.lookup e).bind fun l => l[seq]?).map fun c => (mk c, s)

/-- The V frames that may leave port p now: the first of each class and channel within credit, by place in the queue,
channel and class (R301, R379). -/
def Port.vReady (k : Port) : List (Nat × Nat × Nat) :=
  let item (i : Nat) : Option (Nat × Nat × Nat) :=
    match k.vQ[i]? with
    | some (.v f, _, _) =>
      let ok := if f.vc then decide ((k.sent1 - k.theirFreed1).toNat < 64) else decide ((k.sent0 - k.theirFreed0).toNat < 64)
      if ok then some (i, b2n f.vc, f.bwclass.toNat) else none
    | _ => none
  (List.range k.vQ.length).filterMap item

/-- Transmits the V frame at place i of the queue; the buffer it came in is free. -/
def State.sendV (s : State) (p i : Nat) : State :=
  match (s.port p).vQ[i]? with
  | some (.v f, relay, buf) =>
    let s := (s.serveAs f.bwclass.toNat 101).qosAdd 10 544
    let s := s.updPort p fun k => { k with
      vQ := k.vQ.eraseIdx i
      sent0 := if f.vc then k.sent0 else k.sent0 + 1
      sent1 := if f.vc then k.sent1 + 1 else k.sent1 }
    let s := s.transmit p (.v f) relay
    (match buf with | some b => s.freeBuf b | none => s)
  | _ => s

/-- A slot: a due beacon, check or arm; JOIN or LINK, the answers that a group G is due included; S_DATA; V by class;
IDLE. After a retrain only JOIN, LINK and IDLE leave until the exchange is made (R296). -/
def execFrameSlot (p : Nat) (s : State) : Out :=
  onUnit (decide (p < 20)) (
    let k := s.port p
    if !s.fabricOn || !k.isUp then s else
    let idle := s.transmit p .idle 0
    let shut := k.joinDue || k.joinOwn
    let vOr (_ : Unit) : State :=
      if shut then idle else
      match s.qosPick 10 (10 + p) (fun _ => 544) k.vReady with
      | some (i, s) => s.sendV p i
      | none => idle
    let link (_ : Unit) : Option State :=
      match k.mirror, k.txWidths.find? fun x => decide (x.2 ≤ s.txGroup p) with
      | some (l, g), _ =>
        if g ≤ s.txGroup p then
          some ((s.updPort p fun k => { k with mirror := none, txSpare := l, txUsed := true }).transmit p
            (.link .laneAck (BitVec.ofNat 5 l) false 0) 0)
        else none
      | none, some (w, g) =>
        some ((s.updPort p fun k => { k with
            txWidths := k.txWidths.erase (w, g), txEight := w, txBase := g
            txAt := groupStart k.txBase k.txAt k.txEight g }).transmit p
          (.link .width 0 w (BitVec.ofNat 32 g)) 0)
      | none, none => none
    match (if shut then [] else k.due), link (), k.linkQ, (if shut then [] else k.sched) with
    | (f, r) :: rest, _, _, _ => (s.updPort p fun k => { k with due := rest }).transmit p f r
    | [], some t, _, _ => t
    | [], none, (f, r) :: rest, _ => ((s.updPort p fun k => { k with linkQ := rest }).joinLeft p f).transmit p f r
    | [], none, [], (.frame f, r) :: rest => (s.updPort p fun k => { k with sched := rest }).transmit p f r
    | [], none, [], (.entry e i, r) :: rest =>
      (match s.schedFrame e i with
       | some (f, t) => (t.updPort p fun k => { k with sched := rest }).transmit p f r
       | none => vOr ())
    | [], none, [], [] => vOr ())

/-! ### Port events -/

/-- Some expect entry of the ply in flight is incomplete on physical port p (R306). -/
def State.expecting (s : State) (p : Nat) : Bool :=
  match s.plan with
  | none => false
  | some pl => (List.range pl.xfers.length).any fun e =>
      match pl.xfers[e]? with
      | some x => x.expect && (s.entryEgress x.port).map Prod.fst == some p && !s.xferDone e
      | none => false

/-- Latches the fec cause of port p once in a ply (R306). -/
def State.fecCause (s : State) (p : Nat) : State :=
  if !s.inPly || !s.expecting p || s.sch.cur.fecPorts.contains p then s else
  let s := s.checkPort 2 p
  { s with sch := { s.sch with cur := { s.sch.cur with fecPorts := p :: s.sch.cur.fecPorts } } }

/-- A frame that fails (R306, Table 11.8 kinds 1 to 3). -/
def execCorruptFrame (p : Nat) (kind : Corruption) (s : State) : Out :=
  onUnit (decide (p < 20)) (
    let k := s.port p
    if !s.fabricOn || !k.isUp || k.realigning then s else
    match kind with
    | .crc => (s.updPort p fun k => { k with crcErr := satAdd k.crcErr 1, badSync := 0 }).fecCause p
    | .fec n => (s.updPort p fun k => { k with fecUncorr := satAdd k.fecUncorr n, badSync := 0 }).fecCause p
    | .sync => (s.updPort p fun k => { k with
        crcErr := satAdd k.crcErr 1, badSync := k.badSync + 1, realigning := decide (2 ≤ k.badSync) }).fecCause p
    | .unknownType h => match s.rxCommon p h none with
      | some (s, _) => s.misbehaved p 3
      | none => s)

/-- The receiver has realigned (Table 11.8, kind 2). -/
def execReceiverRealign (p : Nat) (s : State) : Out :=
  onUnit (decide (p < 20)) (
    if (s.port p).realigning then s.updPort p fun k => { k with realigning := false, badSync := 0 } else s)

/-- No valid frame for 10 µs (R296). -/
def execNoFrameTimeout (p : Nat) (s : State) : Out :=
  onUnit (decide (p < 20)) (
    if s.fabricOn && (s.port p).isUp && decide ((s.port p).lastValid + 1000 ≤ s.tick) then s.portDown p else s)

/-- A port that trains finishes training, the lanes in bad excepted (R296, R303, R385): counts restart, the latency
measurement begins, and a member exchanges JOIN, once the latency is known, before other frames. This direction's groups
are numbered from the first that leaves; the receiver learns its partner's numbering from the group boundaries it locks
to, which stand for free values here (R295; log entry 12). With fewer than 8 good lanes it goes down (R298, R503). -/
def execPortUp (p : Nat) (bad : List Nat) (s : State) : Out :=
  onUnit (decide (p < 20)) (
    let k := s.port p
    let was := k.state
    if !s.fabricOn || !s.portPowered p || !(was = 1 || was = 4) || k.barred || k.failedBoot then s else
    let k := k.train bad
    if k.goodLanes.length < 8 then
      let s := s.updPort p fun _ => { k with state := 4 }
      if was = 1 then s.portEvent p 4 0x1F 0 else s
    else
    let member := s.inDomain && k.fn != 0xFF
    let base := s.freeNat
    let s := s.tookFree
    let at_ := s.freeNat
    let s := s.tookFree
    let s := s.updPort p fun _ => { k with
      sent0 := 0, sent1 := 0, theirFreed0 := 0, theirFreed1 := 0, got0 := 0, got1 := 0, freed0 := 0, freed1 := 0
      upAt := s.tick, lastValid := s.tick, txEight := false, mirror := none, txWidths := [], wait := []
      txBase := 0, txAt := 0, rxBase := base, rxAt := at_, txSpare := 16, txUsed := false
      joinDue := member, joinOwn := member || (s.sch.join.isSome && k.fn != 0xFF)
      remeasure := member || (s.sch.join.isSome && k.fn != 0xFF), joinOwed := 0 }
    let s := s.sendEcho p
    if s.inDomain && was = 4 then s.portEvent p 5 0x1F 0 else s)

/-- A receive lane loses clock lock. -/
def execLaneLossOfLock (p lane : Nat) (s : State) : Out :=
  onUnit (decide (p < 20) && decide (lane < 17)) (if s.fabricOn then s.retireLane p lane true else s)

/-- A 1 ms window of a lane ends with its corrected symbols, and the codewords they fell in (at most one a symbol): above
lane_thresh the lane retires (R297, R318). -/
def execLaneSymbolWindow (p lane symbols : Nat) (s : State) (codewords : Nat := symbols) : Out :=
  onUnit (decide (p < 20) && decide (lane < 17)) (
    if !s.fabricOn || !(s.port p).isUp then s else
    let s := s.updPort p fun k => { k with fecCorr := satAdd k.fecCorr (min codewords symbols) }
    let s := s.updPort p fun k => k.updLane lane fun x => { x with sym := satAdd 0 symbols }
    if s.fab.laneThresh < symbols then s.retireLane p lane false else s)

/-- A LANE_ACK or WIDTH answer has not come, and groups G and G + 1 have passed (R297, R298). -/
def execLinkAnswerTimeout (p : Nat) (s : State) : Out :=
  onUnit (decide (p < 20)) (if s.fabricOn && (s.port p).wait.any (s.overdue p) then s.portDown p else s)

/-- A retired lane's retrain ends: it becomes the spare, or after three failures stays retired; with 16 good lanes a
port on 8 asks for 16 (R297, R298). -/
def execLaneRetrainComplete (p lane : Nat) (ok : Bool) (s : State) : Out :=
  onUnit (decide (p < 20) && decide (lane < 17)) (
    let k := s.portNow p
    if !s.fabricOn || (k.lane lane).state != 2 then s
    else if ok then
      let k := k.updLane lane fun x => { x with state := 1, lock := true, failedRetrains := 0 }
      let s := s.updPort p fun _ => k
      if k.state == 3 && decide (16 ≤ k.goodLanes.length) then s.askWidth p false else s
    else
      s.updPort p fun k => k.updLane lane fun x =>
        if 2 ≤ x.failedRetrains then { x with failedRetrains := x.failedRetrains + 1, state := 3 }
        else { x with
          failedRetrains := x.failedRetrains + 1, retrains := if x.retrains = 0xFF then 0xFF else x.retrains + 1 })

/-- 1 ms after its last measurement began the port measures its latency again (R303). -/
def execLatencyRemeasure (p : Nat) (s : State) : Out :=
  onUnit (decide (p < 20)) (
    if s.fabricOn && (s.port p).isUp && decide ((s.port p).echoAt + 100000 ≤ s.tick) then s.sendEcho p else s)

/-! ### Tags -/

/-- A request unanswered for FAB_CFG.retry µs is sent again, or abandoned after the last retry (R312). -/
def execServiceRetryTimeout (tag : Nat) (s : State) : Out :=
  onUnit (decide (tag < 4096)) (
    if !s.fabricOn then s else
    match (s.tag tag).st with
    | .out req sends lastAt use ply =>
      if s.tick < lastAt + 100 * s.fab.retry then s else s.svcExpired tag req sends use ply
    | _ => s)

/-- Quarantine ends after FAB_CFG.quarantine µs, and a waiting request may take the tag. -/
def execQuarantineEnd (tag : Nat) (s : State) : Out :=
  onUnit (decide (tag < 4096)) (
    match (s.tag tag).st with
    | .quarantine since =>
      if s.tick < since + 100 * s.fab.quarantine then s
      else
        let s := s.updTag tag fun g => { g with st := .free }
        State.svcPump s.fab.waiting.length s
    | _ => s)

/-! ### Arrival (R295, R299) -/

/-- What a frame read on port p does: its type's row. trip is what the receiver's clock says of an ECHO_RESP. -/
def State.receive (s : State) (p trip : Nat) (h : FrameHdr) : Frame → Out
  | .idle => execIdleFrame p h s
  | .sData f => execSDataFrame p h f s
  | .sCheck f => execSCheckFrame p h f s
  | .sArm armed start => execSArmFrame p h armed start s
  | .v f =>
    match f.op with
    | .read => execVRead p h f s
    | .write => execVWrite p h f s
    | .response => execVResponse p h f s
    | .nak => execVNak p h f s
  | .tBeacon tick master holdover => execTBeacon p h tick master holdover s
  | .join imageId ldev => execJoinFrame p h imageId ldev s
  | .link .laneMove lane _ value => execLaneMove p h lane.toNat value s
  | .link .laneAck lane _ _ => execLaneAck p h lane.toNat s
  | .link .echoReq _ _ value => execEchoReq p h value s
  | .link .echoResp _ _ value => execEchoResp p h value trip s
  | .link .width _ width value => execWidthFrame p h width value s

/-- What frame i of a group does when it arrives on port p: it is lost with an uncorrectable codeword, fails as its bytes
read, or does its type's row. errs gives the symbols in error of the group's codewords. -/
def State.arrive (s : State) (p trip i : Nat) (errs : List Nat) (bs : List Byte) : Out :=
  if frameLost errs i then execCorruptFrame p (.fec (newlyLost errs i)) s
  else match readFrame bs with
    | .inl k => execCorruptFrame p k s
    | .inr x => s.receive p trip x.1 x.2

end Sys2Proof.Machine
end

