-- ==== Sys2Proof/Machine/Ply.lean ====
section
/-! DEFINITION. The ply cycle (chapter 2): domain time, arming, the start of a ply, the boundary, check floods, the verdict,
the restart, and the takeover of a place (R340-R342). -/

namespace Sys2Proof.Machine

/-! ### Header fields of the loaded image -/

/-- L. -/
def State.plyLen (s : State) : Nat := match s.image with | some im => im.plyLen | none => 0
/-- R_a. -/
def State.rollbackAllow (s : State) : Nat := match s.image with | some im => im.rollbackAllow | none => 0
/-- T_a. -/
def State.takeoverAllow (s : State) : Nat := match s.image with | some im => im.takeoverAllow | none => 0
/-- n_standby. -/
def State.nStandby (s : State) : Nat := match s.image with | some im => im.nStandby | none => 0
/-- Whole-percent slack. -/
def State.slack (s : State) : Nat := match s.image with | some im => im.slack | none => 0

/-- Extra ticks of a demand code (R63). -/
def State.stretchTicks (s : State) (code : Nat) : Nat := ceilDiv (code * s.plyLen) 64

/-- This member runs plies. -/
def State.executing (s : State) : Bool := s.running && s.err.phase == 0

/-- This device, in endgame, keeps the time of the plies without running them: those that the standby in its place runs
(R343), or, on an idle standby, the domain's (R340: its failure alone does not stop the domain). -/
def State.tracking (s : State) : Bool := s.standby.tracking

/-- In holdover for 100 ms or more (R43). -/
def State.longHoldover (s : State) : Bool := s.sch.holdover && decide (s.sch.holdoverAt + 10000000 ≤ s.tick)

/-! ### Domain time (R39-R43) -/

/-- The time master's beacons, at multiples of 256 ticks of its count. -/
def execTimeBeaconEmit (s : State) : Out :=
  .next (if s.inDomain && s.err.phase == 0 && s.isMaster && s.dom % 256 == 0 then s.beaconDown s.dom false else s)

/-- Holdover beacons from a member in holdover, generated from its own count. -/
def execHoldoverBeacon (s : State) : Out :=
  .next (if (s.inDomain || s.tracking) && s.sch.holdover && s.dom % 256 == 0 then s.beaconDown s.dom true else s)

/-- No valid beacon for 1,024 ticks: a flag fall whose culprit is the upstream partner, and holdover (R42, R48).
SCH_PLY_STATUS.locked keeps its value in holdover (DESIGN CHOICE, log entry 64). -/
def execTimeWatchdogExpiry (s : State) : Out :=
  .next (
    if !(s.inDomain || s.tracking) || s.isMaster || s.sch.holdover || s.tick < s.sch.lastBeacon + 1024 then s else
    let up := match s.ownSec with | some x => x.timeUp | none => 0
    let s := if s.inDomain then (s.fallRec 3 none).checkPort 4 up else s
    { s with sch := { s.sch with holdover := true, holdoverAt := s.tick } })

/-- 100 ms in holdover: the time-lost event, once in a holdover (R43). In RUNNING too it is posted at the limit itself,
before the stop, as the HOLDOVER_LIMIT row of opcode_table.json has it (DEDUCED, log entry 30). -/
def execHoldoverLimit (s : State) : Out :=
  .next (
    if !s.inDomain || !s.longHoldover || s.sch.timeLost then s else
    { s with sch := { s.sch with timeLost := true } }.postEvent 1 0)

/-- Every mapped port has heard its partner's JOIN. -/
def State.joinHeard (s : State) (j : JoinSt) : Bool := s.mappedPorts.all fun p => j.heard.contains p

/-- The device is locked to domain time; the master counts as locked once its join exchange has succeeded (R41). Windows
follow domain time from here on: the one in progress is discarded (R383). -/
def execTimeLockAchieved (s : State) : Out :=
  .next (
    match s.sch.join with
    | none => s
    | some j =>
      if s.dev != .ready || !s.joinHeard j || (!s.isMaster && j.firstBeacon.isNone) then s else
      let s := { s with
        sch := { s.sch with join := none, locked := true, lastBeacon := s.tick }, qos := { s.qos with discard := true } }
      (s.enter .joined).finish j.uid 0 0 0 0)

/-- No lock within 100 ms of the first beacon, or no beacon within 1 s (R41). -/
def execTimeLockTimeout (s : State) : Out :=
  .next (
    match s.sch.join with
    | none => s
    | some j =>
      match j.firstBeacon with
      | some t => if t + 10000000 ≤ s.tick then s.joinFail 5 0 0 else s
      | none => if !s.isMaster && j.startTick + 100000000 ≤ s.tick then s.joinFail 5 0 0 else s)

/-- Ports on which a joining device exchanges JOIN: those whose partner the image names (R81). -/
def State.joinPorts (s : State) : List Nat := (List.range 20).filter fun p => s.partnerOf p != 0xFFFFFFFF

/-- JOIN again every 1 ms on each such port that has not answered and whose latency is known (R81, R303). -/
def execJoinResend (s : State) : Out :=
  .next (
    match s.sch.join with
    | none => s
    | some j =>
      if s.tick < j.lastSent + 100000 then s else
      let s := { s with sch := { s.sch with join := some { j with lastSent := s.tick } } }
      (s.joinPorts.filter fun p => !j.heard.contains p && !(s.port p).joinOwn).foldl
        (fun s p => s.sendLink p s.joinOf 0) s)

/-- A mapped port without a join frame 1 s after the start (R81): reason 0x21, the lowest such port in the qualifier
(DEDUCED, log entry 20). -/
def execJoinFrameTimeout (s : State) : Out :=
  .next (
    match s.sch.join with
    | none => s
    | some j =>
      if s.tick < j.startTick + 100000000 then s else
      match s.mappedPorts.find? fun p => !j.heard.contains p with
      | some p => s.joinFail 4 0x21 p
      | none => s)

/-! ### Starting (R44, R47) -/

/-- The member's own fields of an arm flood: a device that relays adds nothing. -/
def State.armFields (s : State) : CheckFields :=
  if s.standby.relaying then {} else
  match s.sch.arming with
  | some a => { armed := a.withdrawn.isNone && !s.longHoldover, start := a.tick }
  | none => { armed := false }

/-- A flood with nothing yet received. -/
def newFlood (kind : FloodKind) (t0 : Nat) (ply : W64) (own : CheckFields) : Flood :=
  { kind := kind, t0 := t0, ply := ply, acc := own }

/-- A flood begins. -/
def State.startFlood (s : State) (kind : FloodKind) (t0 : Nat) (ply : W64) (own : CheckFields) : State :=
  { s with sch := { s.sch with flood := some (newFlood kind t0 ply own) } }

/-- A flood that began at tick t is in progress. -/
def State.floodBegun (s : State) (t : Nat) : Bool := (s.sch.flood.toList ++ s.sch.laterArms).any fun f => f.t0 == t

/-- An arm epoch begins a flood, also while the flood of an earlier epoch runs and when the start tick is already fixed
(R44). A member that left service in JOINED contributes armed = 0 from then on (R368). -/
def execArmEpoch (s : State) : Out :=
  .next (
    if !(s.dev == .joined || s.dev == .drained && s.image.isSome || s.tracking) || s.sch.live || s.dom % 4096 ≠ 0 ||
        s.floodBegun s.dom then s
    else if s.sch.flood.isNone then s.startFlood .arm s.dom 0 s.armFields
    else { s with sch := { s.sch with laterArms := s.sch.laterArms ++ [newFlood .arm s.dom 0 s.armFields] } })

/-- The withdrawal of an arming takes hold at the verdict of the first epoch whose flood began after it (R47). -/
def State.withdraw (s : State) (t0 : Nat) : State :=
  match s.sch.arming with
  | some a =>
    (match a.withdrawn with
     | some (stop, at_) =>
       if t0 < at_ then s else
       let s := { s with sch := { s.sch with arming := none } }.finish a.uid 0xD 0 0 0
       (match stop with | some u => s.finish u 0 0 0 0 | none => s)
     | none => s)
  | none => s

/-- The flood that ran is over; the oldest arm flood begun beside it is now the one whose verdict comes next. -/
def State.endFlood (s : State) : State :=
  { s with sch := { s.sch with flood := s.sch.laterArms.head?, laterArms := s.sch.laterArms.tail } }

/-- The verdict tick of an arm epoch: with armed = 1 the first ply starts at the later of the combined start tick and the
first arm epoch after the verdict; a stop that came later is then latched (R44, R47). The verdict of a later epoch
changes nothing once the start tick is fixed (DEDUCED, log entry 65). -/
def execArmVerdict (s : State) : Out :=
  .next (
    match s.sch.flood with
    | none => s
    | some f =>
      if f.kind != .arm || s.dom < s.verdictTick f then s else
      let s := s.endFlood
      if s.sch.firstStart.isSome then s else
      if f.acc.armed then
        let at_ := max f.acc.start ((s.verdictTick f / 4096 + 1) * 4096)
        let latch := match s.sch.arming.bind fun a => a.withdrawn with
          | some w => some w.1
          | none => s.sch.stopLatch
        { s with sch := { s.sch with
            firstStart := some at_, stopLatch := latch
            arming := s.sch.arming.map fun a => { a with withdrawn := none } } }
      else s.withdraw f.t0)

/-! ### The start of a ply -/

/-- Cycle 0 for block b: the boundary record is written and the sequencer starts at its entry address (R87). -/
def State.startBlock (s : State) (b : Nat) : State :=
  match s.codeOf b with
  | none => s
  | some c => s.updSeq b fun q => { q with pc := c.entry, st := .run, bwclass := 0 }

/-- Cycle 0 of a ply (R38, R87, R90, R114, R381, R501): unit state clears, the record is written, every block that is
neither halted nor being promoted starts; a waiting bundle move takes effect (R234). -/
def State.cycle0 (s : State) : State :=
  let s := { s with
    blocks := SMap.mapVals {} s.blocks Block.cycle0
    ccd := { s.ccd with bundles := SMap.mapVals {} s.ccd.bundles fun k => { k with moveDue := false } }
    ce := { s.ce with rho := [], mu := [] }
    fab := { s.fab with accepted := [], received := [], deadlines := [], led := [], released := [] }
    sch := { s.sch with sems := [], tickOut := true, tickOutAt := s.sch.start } }
  let s := s.qosTies
  (List.range 96).foldl (fun s b =>
    if (s.slotOf b).isNone then s else
    let s := s.updSeq b fun q => { q with
      recPrevRegs := q.recRegs, recPrevOverlay := q.recOverlay, recRegs := q.regs, recOverlay := q.overlay
      queues := [], tgtHalted := [], issued := [], completed := [], st := .idle }
    let waits := match (s.region (b / 12)).promo with | some (l, _, _) => l == b % 12 | none => false
    if (s.blk b).halted || waits then s else s.startBlock b) s

/-- The first ply starts (R44): RUNNING, PLY_RUN completes. A device that relays only keeps its time. Arm floods still in
progress end with JOINED. SCH_PLY_STATUS.replays counts from here (DESIGN CHOICE, log entry 66: R68 says since the last
PLY_RUN, not from which moment of it). -/
def execFirstPlyStart (s : State) : Out :=
  .next (
    match s.sch.firstStart with
    | none => s
    | some t =>
      if s.dom < t || s.sch.live then s else
      let go (s : State) (n : W64) : State := { s with sch := { s.sch with
        firstStart := none, arming := none, live := true, ply := n, attempt := 0, prevAttempt := 0, start := t
        len := s.plyLen, stretch := 0, replays := 0, restartAt := none, gen0 := [], gen1 := [], cur := {}, prev := {}
        persistent := none, exclDue := 0, decider := none, drainCause := none, flood := none, laterArms := [] } }
      if s.tracking then go s 0 else
      match s.dev, s.sch.arming with
      | .joined, some a =>
        let s := go ((s.enter .running).clearStrikes.clearDark.unhalt) a.ply
        s.cycle0.finish a.uid 0 0 0 0
      | _, _ => s)

/-- TICK_OUT is low again 10 ticks after the ply start (R501). -/
def execTickOutFall (s : State) : Out :=
  .next (
    if s.sch.tickOut && decide (s.sch.tickOutAt + 10 ≤ s.dom) then { s with sch := { s.sch with tickOut := false } } else s)

/-! ### The boundary (R37, R38, R49) -/

/-- Block b did not reach its end-of-ply point (R37). -/
def State.missedEop (s : State) (b : Nat) : Bool := !((s.blk b).seq.st == .eop && !(s.blk b).halted)

/-- A block not at its end-of-ply point falls its watchdog and halts; a miss at half rate is a strike (R37, R460). -/
def State.fallBlock (s : State) (b : Nat) : State :=
  let s := s.flagFall 1 (some b)
  let half := match s.slotOf b with | some p => s.ccd.halfLinks.contains (13 * p.1 + p.2) | none => false
  let s := if half then s.strike b 2 2 else s
  s.updBlk b fun B => { B with halted := true }

/-- Send frames that missed the boundary: port event 0x0A. -/
def State.boundaryPorts (s : State) : State :=
  (List.range 20).foldl (fun s p =>
    if (s.port p).sched.isEmpty then s else
    (s.updPort p fun k => { k with sched := [] }).portEvent p 0xA 0x1F 0) s

/-- The watchdogs of the boundary: blocks (R37), near-bank commands (R289), engine steps (R325) and the mirror (R337).
Their records are those of one cycle, so they take R456's order: level, unit, logical block. -/
def State.boundaryFalls (s : State) : State :=
  let missed := s.missedEop
  let nb := s.nbBoundary
  let ce := nb.1.ceBoundary
  let s := (List.range 96).foldl (fun s b =>
    let s := if missed b then s.fallBlock b else s
    let s := if nb.2.contains b then s.flagFall 5 (some b) else s
    if ce.2.contains b then s.flagFall 6 (some b) else s) ce.1.boundaryPorts
  if s.standby.mirrorPhase ≠ 0 && s.standby.mirrorPly < s.sch.ply then s.flagFall 4 none else s

/-- Deferred ramps proceed at the boundary and hold their neighbours' gates (R422). -/
def State.boundaryRamps (s : State) : State :=
  (List.range 104).foldl (fun s i =>
    if (s.slotPwr (i / 13) (i % 13)).deferredAt.isSome then s.rampNow (i / 13) (i % 13) true else s) s

/-- A standby's mirror is stale in attempt 3 of ply n (R338). -/
def State.staleMirror (s : State) : Bool :=
  s.isStandby && s.standby.place.isNone && s.sch.attempt == 3 &&
  match s.ownSec with
  | some x =>
    (x.standbyA != 0xFFFFFFFF && decide (s.standby.markA.toNat + 1 < s.sch.ply.toNat)) ||
    (x.standbyB != 0xFFFFFFFF && decide (s.standby.markB.toNat + 1 < s.sch.ply.toNat))
  | none => false

/-- The ply that has ended becomes the one under check; a member forced as culprit is not clean (R59, R368, R429). -/
def State.endedCheck (s : State) : PlyCheck :=
  let c := s.sch.cur
  let c := if s.sch.persistent.isSome || s.sch.drainCause.isSome then { c with clean := false, selfCulprit := true } else c
  if s.staleMirror then { c with replayable := false } else c

/-- The member's own fields of the check (Table 2.3). -/
def State.ownFields (s : State) (c : PlyCheck) (code : Nat) : CheckFields where
  clean := c.clean
  replayable := c.replayable
  stop := s.sch.stopLatch.isSome || s.longHoldover
  stretch := code

/-- The boundary tick: the next ply starts, and the check of the one that ended begins. -/
def execPlyBoundary (s : State) : Out :=
  .next (
    let t := s.sch.start + s.sch.len
    if !s.sch.live || s.sch.restartAt.isSome || s.sch.flood.isSome || s.dom < t then s
    else if s.tracking then
      let n := s.sch.ply
      { s with sch := { s.sch with
          prevAttempt := s.sch.attempt, attempt := 0, ply := n + 1, start := t, len := s.plyLen, stretch := 0 } }.startFlood
        .check t n {}
    else if !s.executing then s
    else
      let s := s.boundaryFalls
      let code := demandCode s.slack s.leastGate
      let n := s.sch.ply
      let c := s.endedCheck
      let s := { s with sch := { s.sch with
        prev := c, cur := {}, prevAttempt := s.sch.attempt, attempt := 0, ply := n + 1, start := t, len := s.plyLen
        stretch := 0, gen := !s.sch.gen } }
      let s := (s.startFlood .check t n (s.ownFields c code)).cycle0.boundaryRamps
      s.applyAtBoundary)

/-! ### Floods (R50, R334, R341) -/

/-- Check beacons of round i missing on the flood's ports (R51). -/
def State.missingRound (s : State) (f : Flood) (i : Nat) : State :=
  if f.kind == .arm then s else
  s.floodPorts.foldl (fun s p => if f.received.contains (p, i) then s else s.checkPort 3 p) s

/-- Round i of flood f is due. -/
def State.roundLeaves (s : State) (f : Flood) (i : Nat) : Bool :=
  f.round == i && decide (i < s.diam) && decide (f.t0 + 20 + i * s.hop ≤ s.dom)

/-- The frame of round i toward port p: the combined fields, and the blame bit toward a culprit. -/
def State.roundFrame (s : State) (f : Flood) (i p : Nat) : Frame :=
  if f.kind == .arm then .sArm f.acc.armed (BitVec.ofNat 64 f.acc.start)
  else .sCheck
    { clean := f.acc.clean, replayable := f.acc.replayable, stop := f.acc.stop
      stretch := BitVec.ofNat 8 f.acc.stretch, blame := s.sch.prev.blame.contains p
      round := BitVec.ofNat 8 i, plyLo := BitVec.ofNat 32 f.ply.toNat }

/-- Round i of flood f leaves on every flood port. -/
def State.sendRound (s : State) (f : Flood) (i : Nat) : State :=
  s.floodPorts.foldl (fun s p => s.sendDue p (s.roundFrame f i p) 0) s

/-- Round i leaves, of the flood that runs or of the oldest later arm flood for which it is due. -/
def execCheckFloodRound (i : Nat) (s : State) : Out :=
  .next (
    match s.sch.flood with
    | none => s
    | some f =>
      if s.roundLeaves f i then
        let s := if i = 0 then s else s.missingRound f (i - 1)
        { s with sch := { s.sch with flood := some { f with round := i + 1 } } }.sendRound f i
      else
        match s.sch.laterArms.find? fun g => s.roundLeaves g i with
        | none => s
        | some g => { s with sch := { s.sch with
            laterArms := s.sch.laterArms.replace g { g with round := i + 1 } } }.sendRound g i)

/-! ### The verdict (R53) -/

/-- A latched PLY_STOP completes with success: the device is in JOINED (R46). -/
def State.latchDone (s : State) : State :=
  match s.sch.stopLatch with
  | some u =>
    let s := { s with sch := { s.sch with stopLatch := none } }
    (match u with | some uid => s.finish uid 0 0 0 0 | none => s)
  | none => s

/-- The clean verdict that carries a stop (R43, R46): a device that has latched a PLY_STOP completes it. When the stop was
raised for lost time, every member posts the time-lost event, one that has posted it in this holdover excepted; else
every member but those that latched a PLY_STOP posts the domain-stopped event. A check beacon does not carry the reason
of its stop: lost says it where it is another member's. A member in a holdover of less than 100 ms that posts the event
at another member's stop posts none when its own 100 ms have run (DEDUCED, log entry 30). -/
def State.stopDone (s : State) (lost : Bool) : State :=
  if lost || s.longHoldover then
    let s := if s.sch.timeLost then s
      else { s with sch := { s.sch with timeLost := s.sch.holdover } }.postEvent 1 0
    s.latchDone
  else if s.sch.stopLatch.isSome then s.latchDone
  else s.postEvent 2 0

/-- The member enters JOINED; no ply is live. -/
def State.toJoined (s : State) : State :=
  { s with
    sch := { s.sch with live := false, restartAt := none, attempt := 0, stretch := 0, persistent := none
                        exclDue := 0, decider := none, drainCause := none, gen0 := [], gen1 := [], tickOut := false }
    standby := { s.standby with verdictAt := none, granted := none, prepared := false, asked := 0, gotGrant := false
                                refused := false, requests := [] } }.unhalt.enter .joined

/-- The ranges that the mirror of ply n reads cannot be read yet (R284). -/
def State.mirrorWaits (s : State) (n : W64) : Bool :=
  (s.standby.ranges.filter fun r => r.1 == n).any fun r => (s.serveAs r.2.2.2.2 98).waits false r.2.1 r.2.2.2.1

/-- Mirror writes for committed ply n (R335), or again after a rollback (R337). -/
def State.mirrorStart (s : State) (n : W64) : State :=
  let ds := s.mirrorTo
  if s.isStandby || ds.isEmpty then
    { s with standby := { s.standby with ranges := s.standby.ranges.filter fun r => decide (n < r.1) } }
  else if s.mirrorWaits n then
    { s with standby := { s.standby with mirrorPhase := 1, mirrorPly := n, mirrorOpen := 1 } }.defer (.mirror n)
  else
    let mine := s.standby.ranges.filter fun r => r.1 == n
    let one (acc : State × List (VFrame × SvcUse)) (r : W64 × Nat × Nat × Nat × Nat) : State × List (VFrame × SvcUse) :=
      (List.range (r.2.2.2.1 / 512)).foldl (fun acc k =>
        let d := (acc.1.serveAs r.2.2.2.2 98).devRead (r.2.1 + 512 * k) 512
        (d.1, acc.2 ++ ds.map fun dst =>
          (d.1.mkReq .write dst (r.2.2.1 + 512 * k) 512 r.2.2.2.2 d.2.1 (chunkMask 512 d.2.2), SvcUse.mirror))) acc
    let r := mine.foldl one (s, [])
    let s := { r.1 with standby := { r.1.standby with mirrorPhase := 1, mirrorPly := n, mirrorOpen := r.2.length } }
    ({ s with fab := { s.fab with waiting := s.fab.waiting ++ r.2 } }.mirrorNext |> fun s =>
      State.svcPump s.fab.waiting.length s)

/-- Commit of ply n (R53, R46, R60): the older generation is freed, copies applied by then complete, strikes clear. -/
def State.commit (s : State) (n : W64) : State :=
  let s := { s.freeGen false with sch := { (s.freeGen false).sch with committed := n, prev := {} } }
  (s.endHeld (fun c => c.appliedBy n) 0).clearStrikes.clearDark

/-- What s, now in JOINED by a stop, still owes from RUNNING, where it was s0: the blocks that failed in an undone ply are
promoted at once (R461, R462), and a member that was to enter endgame at its next verdict starts it in JOINED (R368,
R446, R464; DEDUCED, log entry 34). -/
def State.stopOwes (s s0 : State) (failed : List (Nat × Nat)) (n : W64) : State :=
  let s := failed.foldl (fun s x => s.promoteNow x.1 x.2) s
  match s0.sch.persistent.orElse fun _ => s0.sch.drainCause with
  | some c =>
    { s with sch := { s.sch with decider := s0.sch.decider } }.startEndgame c n s0.sch.exclDue
  | none => s

/-- The blocks failed for an immediate cause, in ascending order. -/
def State.failedNow (s : State) : List (Nat × Nat) :=
  (List.range 96).filterMap fun b => (s.blk b).failed.map fun row => (b, row)

/-- The domain stops at the verdict that commits n (R46, R62): the ply in flight is aborted. Waiting reads are made once
its generation is restored (R61). -/
def State.stopAtCommit (s : State) (n : W64) (lost : Bool) : State :=
  (((s.undoOne.endHeld (fun _ => true) 0xD).waitingOut.toJoined).stopDone lost).stopOwes s s.failedNow n

/-- The domain stops at a verdict that commits nothing, the rollback made (R54, R62). -/
def State.stopAtRollback (s : State) : State :=
  (((s.endHeld (fun _ => true) 0xD).waitingOut.toJoined.clearDark).latchDone).stopOwes s [] s.sch.ply

/-- Counts a rollback (R68). -/
def State.countReplay (s : State) : State :=
  { s with sch := { s.sch with replays := satAdd s.sch.replays 1 } }

/-- Ply n will restart at tick t as an attempt, with a stretch; its number stays (R59, R63, R66). -/
def State.restartSet (s : State) (t attempt code : Nat) : State :=
  { s with sch := { s.sch with restartAt := some t, attempt := attempt, stretch := code, flood := none } }

/-- Entries of block b in the two generations, newer first (R463). -/
def State.heldOf (s : State) (b : Nat) : List JEntry := (s.genOf true ++ s.genOf false).filter fun e => e.ofBlocks [b]

/-- Rolls back two plies, promoting the given failed blocks, whose entries wait (R59, R462, R463). The maps change at V,
before anything is restored, and the records of the promotions name the attempt that failed (Table 18.13). -/
def State.rollBack (s : State) (n : W64) (failed : List (Nat × Nat)) : State :=
  let held := failed.map fun x => (x, s.heldOf x.1)
  let can := failed.filter fun x => (s.spareOf (x.1 / 12)).isSome
  let first := can.filter fun x => (can.find? fun y => y.1 / 12 == x.1 / 12) == some x
  let s := held.foldl (fun s x => s.promoteAtVerdict x.1.1 x.1.2 x.2) (s.atAttempt n)
  (s.undoTwo n (first.map Prod.fst)).countReplay.unhalt

/-- An unrecoverable verdict (R59): rollback as far as the generations allow, event 0x03, JOINED. Failed blocks are
promoted at once (R462). A member that is already a persistent culprit then starts its endgame in JOINED. -/
def State.unrecoverable (s : State) (n : W64) : State :=
  let t := ((s.atAttempt n).undoTwo n []).countReplay
  let t := (t.endHeld (fun _ => true) 0xD).waitingOut
  let t := (t.toJoined.postEvent 3 n.toNat).latchDone
  t.clearStrikes.clearDark.stopOwes s (s.failedBlocks n s.sch.prevAttempt) n

/-- The failing member asks standby_a to take its place (R340); its mark is that of the last mirror completed. -/
def State.askTakeover (s : State) : State :=
  match s.ownSec with
  | none => s
  | some x =>
    if x.standby || x.standbyA = 0xFFFFFFFF then s else
    let mark := if s.standby.mirrorPhase = 0 then s.sch.committed else s.standby.mirrorPly - 1
    { s with standby := { s.standby with asked := 1 } }.svcRequest [(s.markReq x.standbyA mark true, .takeover)]

/-- The persistent verdict tick is kept and the request leaves, where the domain has standbys. -/
def State.takeoverFrom (s : State) (V : Nat) : State :=
  if s.nStandby = 0 then s else { s with standby := { s.standby with verdictAt := some V } }.askTakeover

/-- The slot that the record excludes when one block decided the endgame: that of the block left without a spare, or,
at a persistent fault, of the block failed at this verdict (R464, R469). -/
def State.failedSlot (s : State) (failed : List (Nat × Nat)) : BitVec 128 :=
  if s.sch.persistent.isSome || s.sch.drainCause.isSome then s.sch.exclDue else
  match failed.head?.bind fun x => s.slotOf x.1 with
  | some p => slotBit p.1 p.2
  | none => 0

/-- Persistent fault, a culprit: its engine steps end with status 0x08 and its near-bank commands under R291 (R339), the
plies are undone, endgame starts, and a takeover request leaves where the domain has standbys. The record that decided
the endgame is that of the cause it was forced by, or of the first failure of this attempt. -/
def State.persistentSelf (s : State) (n : W64) (V cause : Nat) (failed : List (Nat × Nat)) : State :=
  let excl := s.failedSlot failed
  let decider := s.sch.decider.orElse fun _ => s.sch.prev.decider
  let s := { s.atAttempt n with sch := { (s.atAttempt n).sch with decider := decider } }
  let s := ((((s.ceAbort 8).1.nbDropDevice 0x11).undoTwo n []).countReplay).startEndgame cause n excl
  { s with sch := { s.sch with live := false } }.takeoverFrom V

/-- Persistent fault in a domain without standbys, another member's: the domain stops (R54); failed blocks are promoted
by the steps of R463 (R462). -/
def State.persistentStop (s : State) (n : W64) (failed : List (Nat × Nat)) : State :=
  (s.rollBack n failed).clearStrikes.stopAtRollback

/-- Persistent fault of another member: ply n restarts as attempt 0 after the takeover. -/
def State.persistentWait (s : State) (n : W64) (V code : Nat) (failed : List (Nat × Nat)) : State :=
  let s := (s.rollBack n failed).clearStrikes
  let s := s.restartSet (V + s.rollbackAllow + s.takeoverAllow) 0 code
  { s with standby := { s.standby with verdictAt := some V } }

/-- A persistent fault (R53, R54, R59): the culprits start endgame, the rest promote their failed blocks and wait for the
takeover, or, with no standby in the domain, stop. Where no member enters endgame, which orphan tells, the verdict is
unrecoverable (R341; log entry 30). -/
def State.persistentVerdict (s : State) (n : W64) (V : Nat) (f : Flood) (orphan : Bool) : State :=
  let culprit := s.sch.persistent.isSome || s.sch.prev.selfCulprit || f.blamed
  let cause := (s.sch.persistent.orElse fun _ => s.sch.drainCause).getD 1
  let failed := s.failedBlocks n s.sch.prevAttempt
  if !culprit && (orphan || s.members == 1) then s.unrecoverable n
  else if culprit then s.persistentSelf n V cause failed
  else if s.nStandby = 0 then s.persistentStop n failed
  else s.persistentWait n V f.acc.stretch failed

/-- A device that relays only keeps the time of the place's plies. -/
def State.trackVerdict (s : State) (V : Nat) (f : Flood) : State :=
  let n := f.ply
  let stop (s : State) : State := { s with sch := { s.sch with live := false, restartAt := none } }
  let back (s : State) (t attempt : Nat) : State :=
    { s with sch := { s.sch with ply := n } }.restartSet t attempt f.acc.stretch
  if f.acc.clean then
    if f.acc.stop then stop s
    else { s with sch := { s.sch with len := s.sch.len + s.stretchTicks f.acc.stretch, stretch := f.acc.stretch } }
  else if !f.acc.replayable then stop s
  else if s.sch.prevAttempt < 3 then back s (V + s.rollbackAllow) (s.sch.prevAttempt + 1)
  else
    let s := back s (V + s.rollbackAllow + s.takeoverAllow) 0
    { s with standby := { s.standby with verdictAt := some V } }

/-- The verdict tick: commit, stop, rollback, persistent fault or unrecoverable ply (Table 2.4). lost: the stop that a
clean check carries was raised by a member that has been in holdover for 100 ms. A member that is a persistent culprit
is one from the first verdict that is not clean (R59; log entry 34). orphan: no member enters endgame at a persistent
verdict. -/
def execPlyVerdict (s : State) (lost orphan : Bool := false) : Out :=
  .next (
    match s.sch.flood with
    | none => s
    | some f =>
      let V := s.verdictTick f
      if f.kind != .check || !s.sch.live || s.dom < V then s else
      let s := if s.diam = 0 then s else s.missingRound f (s.diam - 1)
      let s := { s with sch := { s.sch with flood := none } }
      let n := f.ply
      if s.tracking then s.trackVerdict V f
      else if !s.executing then s
      else if !f.acc.clean && !f.acc.replayable then s.unrecoverable n
      else if f.acc.clean then
        let s := s.commit n
        if f.acc.stop then (s.stopAtCommit n lost).mirrorStart n
        else
          let s := s.waitingOut
          { s with sch := { s.sch with
              len := s.sch.len + s.stretchTicks f.acc.stretch, stretch := f.acc.stretch } }.mirrorStart n
      else if s.sch.persistent.isSome then s.persistentVerdict n V f orphan
      else if s.sch.prevAttempt < 3 then
        (s.rollBack n (s.failedBlocks n s.sch.prevAttempt)).restartSet (V + s.rollbackAllow) (s.sch.prevAttempt + 1)
          f.acc.stretch
      else s.persistentVerdict n V f orphan)

/-- The restart tick of a replay (R59). A member that has not finished rolling back falls its rollback watchdog and is a
persistent culprit at once; its blocks start nothing. -/
def execPlyRestart (finished : Bool) (s : State) : Out :=
  .next (
    match s.sch.restartAt with
    | none => s
    | some t =>
      if !s.sch.live || s.dom < t then s else
      let s := { s with
        sch := { s.sch with
          restartAt := none, start := t, len := s.plyLen + s.stretchTicks s.sch.stretch, cur := {}, prev := {} }
        standby := { s.standby with verdictAt := none } }
      if s.tracking then s
      else if finished then
        let s := s.cycle0.applyAtRestart
        if s.standby.mirrorPhase = 0 then s else s.mirrorStart s.standby.mirrorPly
      else
        let s := { s with blocks := (List.range 96).foldl (fun m b =>
          SMap.upd {} m b fun B => { B with halted := true }) s.blocks }
        ((s.cycle0.flagFall 2 none).makePersistent 6).applyAtRestart)

/-! ### Takeover (R340-R342) -/

/-- The served members' requests at a standby, lowest requester first. -/
def State.requestsInOrder (s : State) : List (VFrame × Nat) :=
  s.standby.requests.mergeSort fun a b => decide (a.1.src.toNat ≤ b.1.src.toNat)

/-- Ticks after the persistent verdict at which this standby grants a member's request: 200 as its standby_a, 400 as its
standby_b (R340). -/
def State.grantDelay (s : State) (src : Nat) : Nat :=
  let second := match s.image with
    | some im => im.served.any fun x => x.ldev == src && x.standbyA != im.ldev && x.standbyB == im.ldev
    | none => false
  if second then 400 else 200

/-- At V + 200 or V + 400 a standby that serves no place grants the lowest requester and answers the others with NAK
0x04 (R340). -/
def execTakeoverGrant (s : State) : Out :=
  .next (
    let due (V : Nat) (r : VFrame × Nat) : Bool := decide (V + s.grantDelay r.1.src.toNat ≤ s.dom)
    match s.standby.verdictAt, s.requestsInOrder.filter (due (s.standby.verdictAt.getD 0)) with
    | some V, r :: rest =>
      if !s.isStandby then s else
      let free := s.standby.place.isNone && s.standby.granted.isNone && s.executing
      let s := { s with standby := { s.standby with requests := s.standby.requests.filter fun x => !due V x } }
      let nak (s : State) (x : VFrame × Nat) : State := s.vAnswer (vNakFor x.1 4)
      if free then
        let s := { s with standby := { s.standby with granted := some r.1.src.toNat } }
        rest.foldl nak (s.vAnswer (vReply r.1 .response))
      else (r :: rest).foldl nak s
    | _, _ => s)

/-- The granted standby is prepared (R341): the place's number, code and zero registers; no line dirty from its plies. -/
def execStandbyPreparationComplete (s : State) : Out :=
  .next (
    match s.standby.granted with
    | none => s
    | some place =>
      if s.standby.verdictAt.isNone || s.standby.prepared || !s.executing then s else
      let s := { s with standby := { s.standby with place := some place, prepared := true } }
      let s := (s.ccd.lines.map Prod.fst).foldl (fun s L => s.writeBack L) s.serveSched
      (List.range 96).foldl (fun s b =>
        if (s.slotOf b).isNone then s else
        (s.reloadSeq b [] 0xFFFF).updSeq b fun q => { q with
          recPrevRegs := q.recRegs, recPrevOverlay := q.recOverlay, recRegs := [], recOverlay := 0xFFFF }) s)

/-- A prepared standby does not take the place after all: its sequencers go back to its own committed state (R341). -/
def State.unprepare (s : State) : State :=
  let s := { s with standby := { s.standby with place := none } }
  (List.range 96).foldl (fun s b =>
    if (s.slotOf b).isNone then s else
    let q := (s.blk b).seq
    (s.reloadSeq b q.recPrevRegs q.recPrevOverlay).updSeq b fun q => { q with
      recRegs := q.recPrevRegs, recOverlay := q.recPrevOverlay }) s

/-- A member, or one that has left and may have to relay, takes part in a takeover; one in FAULT does not (R343). -/
def State.attends (s : State) : Bool := s.inDomain || s.dev == .drained

/-- This device is a standby that serves no place (R340). -/
def State.idleStandby (s : State) : Bool := s.isStandby && s.standby.place.isNone

/-- T1 = V + 2,500: the takeover flood; stop from a member in endgame without a grant, unless it is a standby that serves
no place (R340), and from a granted standby that is not prepared. -/
def execTakeoverFlood (s : State) : Out :=
  .next (
    match s.standby.verdictAt with
    | none => s
    | some V =>
      if !s.attends || s.dom < V + 2500 || s.sch.flood.isSome then s else
      let stop := !s.tracking &&
        ((s.err.phase != 0 && !s.standby.gotGrant && !s.idleStandby) || (s.standby.granted.isSome && !s.standby.prepared))
      s.startFlood .takeover (V + 2500) s.sch.ply { stop := stop })

/-- V2: the domain stops with the committed state of ply n - 1, or the restart stands: the standby posts the takeover
event, the failed member keeps the time of its plies and relays for it (R341-R343), and a member mirrors no more to
those of its standbys that serve a place from now on (R335; log entry 68). A standby in endgame that serves no place
keeps the time of the domain's plies, so that its failure alone does not stop the domain (R340). -/
def execTakeoverVerdict (s : State) (serving : List Nat := []) : Out :=
  .next (
    match s.sch.flood, s.standby.verdictAt with
    | some f, some V =>
      if !s.attends || f.kind != .takeover || s.dom < s.verdictTick f then s else
      let s := { s with sch := { s.sch with flood := none } }
      if f.acc.stop then
        let s := if s.standby.granted.isSome && s.standby.prepared then s.unprepare else s
        let s := { s with standby := { s.standby with
          verdictAt := none, granted := none, prepared := false, relaying := s.standby.relaying && s.tracking } }
        if s.tracking || s.err.phase ≠ 0 then { s with sch := { s.sch with live := false, restartAt := none } }
        else s.stopAtRollback
      else if s.err.phase ≠ 0 && !s.tracking then
        let on := s.standby.gotGrant || s.idleStandby
        { s with
          standby := { s.standby with tracking := on, verdictAt := none }
          sch := { s.sch with live := on, attempt := 0
                              restartAt := if on then some (V + s.rollbackAllow + s.takeoverAllow) else none } }.relayFrom
      else
        let s := { s with standby := { s.standby with gone := s.standby.gone ++ serving.filter fun d => !s.standby.gone.contains d } }
        match s.standby.granted with
        | some place =>
          { s with standby := { s.standby with granted := none, prepared := false } }.postEvent 5 place
        | none => s
    | _, _ => s)

/-! ### Endgame phases (R465) -/

/-- Opcodes permitted in DRAINED (Table 13.7). -/
def drainedOk (op : Nat) : Bool := [0x01, 0x03, 0x11, 0x18, 0x19, 0x1A, 0x1C].contains op

/-- The status of a descriptor that is in the device when endgame completes: DRAIN succeeds, PLY_STOP is a wrong state
(R11), the others are aborted (Table 13.10). -/
def drainedStatus (op : Nat) : Nat := if op = 0x21 then 0 else if op = 0x0B then 2 else 0xD

/-- The status of one read and not started (Table 13.10). -/
def queuedStatus (op : Nat) : Nat := if op = 0x0B then 2 else 0xD

/-- Descriptors that DRAINED does not permit complete; those read and not started leave their rings. -/
def State.drainDescs (s : State) : State :=
  let op (dws : List W32) : Nat := bitsN (dwN dws 0) 7 0
  let s := (s.hif.active.filter fun a => a.st == .running && !drainedOk (op a.dws)).foldl
    (fun s a => s.finish a.uid (drainedStatus (op a.dws)) 0 0 0) s
  (List.range 32).foldl (fun s q =>
    let bad := (s.sq q).fetched.filter fun d => !drainedOk (op d)
    let s := if bad.isEmpty then s else s.updSq q fun r => { r with fetched := r.fetched.filter fun d => drainedOk (op d) }
    bad.foldl (fun s d =>
      s.complete { uid := s.hif.nextUid, sq := q, dws := d, st := .running } (queuedStatus (op d)) 0 0 0) s) s

/-- A write-back has not reached HBM. -/
def State.backPending (s : State) : Bool := s.hbmStacks.any fun e => e.2.chans.any fun c => c.2.queue.any fun r => r.write

/-- A restore of the rollback has not been made. -/
def State.restorePending (s : State) : Bool :=
  s.ccd.waiting.any fun h => match h with | .restore _ => true | _ => false

/-- A phase ends and the next begins: the write-back once every restore has been made, and DRAINED once HBM holds every
write (R218); after phase 4 the replace record is written. -/
def execEndgamePhaseComplete (s : State) : Out :=
  .next (
    let go (s : State) (k : Nat) : State := { s with err := { s.err with phase := k } }
    if !s.inEndgame then s else
    match s.err.phase with
    | 1 => (go s 2).endgamePhase2.relayFrom
    | 2 => go s 3
    | 3 => if s.restorePending then s else go ((s.ccd.lines.map Prod.fst).foldl (fun s L => s.writeBack L) s.serveSched) 4
    | 4 =>
      if s.backPending then s else
      let s := match s.err.pendRec with
        | some p => s.writeReplace fun r => r.merge p
        | none => s
      let s := go { s with err := { s.err with pendRec := none } } 5
      let s := { s with
        hif := { s.hif with heldCopies := [] }
        sch := { s.sch with stopLatch := none, persistent := none, exclDue := 0, decider := none, drainCause := none, tickOut := false } }
      let s := if s.thm.tripped then s.powerOffRegions else s
      (s.drainDescs.enter .drained).waitingOut
    | _ => s)

/-- The promoted block is ready (R463): its held entries are restored, its sequencer loaded from the record, the failed
slot goes dark; in an attempt that has begun the block starts now. -/
def execPromotionReady (r : Nat) (s : State) : Out :=
  onUnit (decide (r < 8)) (
    match (s.region r).promo with
    | none => s
    | some (l, old, _) =>
      let b := 12 * r + l
      let ramping := match s.slotOf b with | some p => (s.slotPwr p.1 p.2).ramping | none => false
      if ramping then s else
      let es := (s.region r).heldEntries
      let s := s.updRegion r fun g => { g with promo := none, heldEntries := [] }
      let s := s.restoreAll es
      let q := (s.blk b).seq
      let s := s.reloadSeq b q.recRegs q.recOverlay
      let s := s.darken r old
      if s.inPly && !(s.blk b).halted then s.startBlock b else s)

end Sys2Proof.Machine
end

