-- ==== Sys2Proof/Machine/Thermal.lean ====
section
/-! DEFINITION. Temperature (chapter 17): the housekeeping round with its bands, throttling, estimates and trips, and the
sensor readings of STANDBY. Temperatures are in 1/16 °C. -/

namespace Sys2Proof.Machine

/-! ### Readings (R438, R440) -/

/-- A reading inside -40 °C to 150 °C; anything else is invalid. -/
def validReading (t : Option Int) : Option Int :=
  match t with
  | some x => if -640 ≤ x && x ≤ 2400 then some x else none
  | none => none

/-- n readings with every invalid one as none; one that the round does not give is invalid. -/
def readList (l : List (Option Int)) (n : Nat) : List (Option Int) :=
  (List.range n).map fun i => validReading (l.getD i none)

/-- The readings of a round, checked. -/
def rdChecked (r : Readings) : Readings where
  diode := readList r.diode 96
  hbm := readList r.hbm 8
  ext := readList r.ext 2
  therm := readList r.therm 4

/-- Diode i. -/
def rdD (r : Readings) (i : Nat) : Option Int := r.diode.getD i none

/-- Every channel with its object number (Table 17.3). -/
def rdObjects (r : Readings) : List (Nat × Option Int) :=
  ((List.range 96).zip r.diode) ++ (((List.range 8).map (· + 0x60)).zip r.hbm) ++
  ([0x68, 0x69].zip r.ext) ++ ([0x6A, 0x6B, 0x6C, 0x6D].zip r.therm)

/-- Inputs that the integrator may leave unconnected (R440). -/
def optionalObj (o : Nat) : Bool := o == 0x68 || o == 0x69 || o == 0x6A || o == 0x6B

/-- A temperature as the 16-bit field of notices, records and the snapshot: 0x8000 for none (R450). -/
def temp16 (t : Option Int) : Nat :=
  match t with
  | some x => unsgn 16 x
  | none => 0x8000

/-- A thermal notice: event 0x0A (R449). -/
def State.thmNotice (s : State) (sub obj : Nat) (t : Option Int) : State :=
  s.postEvent 0xA (sub + (obj % 256) <<< 8 + temp16 t <<< 16)

/-- A record of unit 0x28. -/
def State.thmRec (s : State) (cls code obj : Nat) (t : Option Int) : State :=
  s.post { cls := cls, level := 3, unit := 0x28, code := code, loc := obj, data0 := temp16 t }

/-- The first invalid round of each channel: a CE record and notice 0x05; THM_STAT.invalid follows (R440). -/
def State.noteInvalid (s : State) (r : Readings) : State :=
  let objs := rdObjects r
  let seen := (objs.filter fun x => optionalObj x.1 && x.2.isSome).map Prod.fst ++ s.thm.seenValid
  let bad := (objs.filter fun x => x.2.isNone && (!optionalObj x.1 || seen.contains x.1)).map Prod.fst
  let was := s.thm.invalidNow
  let s := { s with thm := { s.thm with seenValid := seen.eraseDups, invalidNow := bad } }
  (bad.filter fun o => !was.contains o).foldl (fun s o => (s.thmRec 1 1 o none).thmNotice 5 o none) s

/-- The largest of some temperatures. -/
def hottest (l : List Rat) : Option Rat :=
  l.foldl (fun a x => match a with | none => some x | some y => some (max x y)) none

/-- The readings of some diodes that are valid. -/
def rdValids (r : Readings) (l : List Nat) : List Rat := l.filterMap fun i => (rdD r i).map fun t => (t : Rat)

/-- The valid base-die readings. -/
def rdHbm (r : Readings) : List Rat := r.hbm.filterMap fun x => x.map fun (t : Int) => (t : Rat)

/-! ### The middle layer (R444, R445) -/

/-- The hot-spot diodes of lower-die group j. -/
def ownDiodes (j : Nat) : List Nat := (List.range 4).map fun k => 40 + 4 * j + k

/-- The current of the mapped blocks over lower-die group j in A, averaged over the round. -/
def State.groupCurrent (s : State) (j : Nat) : Rat :=
  let r := 4 + j / 2
  ((List.range 13).filter fun n => decide (n < 7) == decide (j % 2 = 0)).foldl (fun a n =>
    match s.blockAt r n with
    | some b =>
      let B := s.blk b
      a + (if B.estN = 0 then (B.est : Rat) else (B.estSum : Rat) / B.estN) / 1000
    | none => a) 0

/-- A calibration share, 0-1 (R444). -/
def share (k : Rat) : Rat := max 0 (min 1 k)

/-- T_est of group j; none when the outlet diode is invalid. -/
def State.estimate (s : State) (r : Readings) (j : Nat) : Option Rat :=
  (rdD r (72 + j)).map fun out =>
    let o : Rat := out
    let up := match hottest (rdValids r ((List.range 4).map fun k => 4 * j + k)) with
      | some t => share (Config.kU j) * max 0 (t - o) | none => 0
    let cd := match rdD r (80 + 2 * (4 + j / 2) + j % 2) with
      | some t => share (Config.kC j) * max 0 ((t : Rat) - o) | none => 0
    o + up + cd + 16 * Config.kI j * s.groupCurrent j

/-- A temperature as a whole number of 1/16 °C: the number below where the rest is under one half (Table 17.5: 1,655.04 is
1,655), either neighbour from one half on (log entry 89). -/
def State.whole (s : State) (t : Rat) : Int :=
  if t - t.floor < 1 / 2 then t.floor else t.floor + (if s.freeBool then 1 else 0)

/-- The estimate that stands in place of a group's hot-spot diodes. -/
def State.governing (s : State) (j : Nat) : Option Rat :=
  let g := SMap.get {} s.thm.groups j
  if g.governs then g.est else none

/-- Group j at the end of a round. -/
def State.groupRound (s : State) (r : Readings) (j : Nat) : State :=
  let e := s.estimate r j
  let own := hottest (rdValids r (ownDiodes j))
  let g := SMap.get {} s.thm.groups j
  let code := match e with | some t => s.whole t | none => 0
  let s := s.tookFree
  let diff := e.bind fun t => own.map fun o => t - o
  let overN := match diff with | some d => if 128 < d then g.overRounds + 1 else 0 | none => 0
  let under := match diff with | some d => if d ≤ 64 then g.underRounds + 1 else 0 | none => 0
  let blind := e.isSome && own.isNone
  let starts := !g.governs && (blind || decide (3 ≤ overN))
  let ends := g.governs && decide (10 ≤ under)
  let g' : GroupEst := { est := e, code := code, overRounds := overN, underRounds := if starts then 0 else under
                         governs := starts || (g.governs && !ends) }
  let s := { s with thm := { s.thm with groups := SMap.set {} s.thm.groups j g' } }
  let s := if starts && !blind then s.thmRec 1 2 j (some code) else s
  if starts then s.thmNotice 3 j (some code) else if ends then s.thmNotice 4 j (some code) else s

/-! ### Governing readings, bands and throttling (R441-R443) -/

/-- The governing readings of the compute stack with the diode each stands for; a governing estimate stands for one of
its group's diodes. -/
def State.governed (s : State) (r : Readings) : List (Nat × Rat) :=
  (List.range 96).filterMap fun i =>
    let j := (i - 40) / 4
    let byGroup := if 40 ≤ i && i < 72 then s.governing j else none
    match byGroup with
    | some t => some (i, t)
    | none => (rdD r i).map fun t => (i, (t : Rat))

/-- A band after a reading: it rises to the band whose upper limit the reading does not exceed, and falls one band when
the reading is hyst below the limit crossed. -/
def bandNext (cur : Nat) (t : Rat) (limits : List Int) (hyst : Int) : Nat :=
  let need := (limits.filter fun (l : Int) => (l : Rat) < t).length
  if cur < need then need
  else if 0 < cur && t ≤ ((limits.getD (cur - 1) 0 - hyst : Int) : Rat) then cur - 1
  else cur

/-- The stack band: any invalid compute-stack reading counts as above 100 °C (R440, R441). A change starts the bundles'
retune (R233). -/
def State.stackBand (s : State) (r : Readings) : State :=
  let blind := r.diode.any Option.isNone
  let hot := hottest ((s.governed r).map Prod.snd)
  let t := if blind then some (max 1616 (hot.getD 1616)) else hot
  match t with
  | none => s
  | some t =>
    let b := bandNext s.thm.stackBand t [960, 1280, 1600] 48
    if b = s.thm.stackBand then s else
    let shown := if blind && decide (hot.getD 0 ≤ 1600) then none else some (s.whole t)
    let s := (s.tookFree).thmNotice 8 b shown
    { s with thm := { s.thm with stackBand := b }, ccd := { s.ccd with retuning := true } }

/-- Stack k is in band b from now on; a change starts the interface check of its channels (R257; DESIGN CHOICE, log entry
72: chapter 9 names no other check than that of each access). -/
def State.setBand (s : State) (k b : Nat) : State :=
  if b = (s.stack k).band then s else
  (List.range 32).foldl (fun s c => s.updChan k c fun x => { x with checkDue := x.state != 2 })
    (s.updStack k fun x => { x with band := b })

/-- Refresh bands of the stacks (R257). -/
def State.hbmBands (s : State) (r : Readings) : State :=
  (List.range 8).foldl (fun s k => s.setBand k (match r.hbm.getD k none with
    | some t => bandNext (s.stack k).band t [1360, 1520] 32
    | none => 2)) s

/-- The diodes that R442 draws on for region r. -/
def regionDiodes (r : Nat) : List Nat :=
  let base := if r < 4 then 0 else 40
  let out := if r < 4 then 32 else 72
  let js := [2 * (r % 4), 2 * (r % 4) + 1]
  js.flatMap (fun j => (List.range 4).map fun k => base + 4 * j + k) ++ js.map (out + ·) ++ [80 + 2 * r, 81 + 2 * r]

/-- The excesses of region r with the temperature behind each. -/
def State.excesses (s : State) (rd : Readings) (r : Nat) : List (Rat × Rat) :=
  let ds := regionDiodes r
  let comp := ((s.governed rd).filter fun x => ds.contains x.1).map fun x => (x.2 - (16 : Rat) * s.thm.tComp, x.2)
  let hbm := (hottest (rdHbm rd)).map fun t => (t - (16 : Rat) * s.thm.tHbm, t)
  comp ++ hbm.toList

/-- g_th of an excess in 1/16 K: floor of 64 tt_r, with the slope in 0.5 % per kelvin. -/
def gateOfExcess (slope : Nat) (e : Rat) : Nat :=
  (64 * min 1 (max (1 / 4) (1 - (slope : Rat) / 200 * (e / 16)))).floor.toNat

/-- The largest excess. -/
def largest (l : List (Rat × Rat)) : Option (Rat × Rat) :=
  l.foldl (fun a x => match a with | none => some x | some y => some (if y.1 < x.1 then x else y)) none

/-- Every region takes its gate from the round; notices 0x01 and 0x02 (R442, R443). -/
def State.throttle (s : State) (rd : Readings) : State :=
  let one (r : Nat) : Nat × Option Rat :=
    match largest (s.excesses rd r) with
    | some x => (gateOfExcess s.thm.slope x.1, some x.2)
    | none => (16, none)
  let gs := (List.range 8).map one
  let low := (List.range 8).foldl (fun b r => if (gs.getD r (64, none)).1 < (gs.getD b (64, none)).1 then r else b) 0
  let now := gs.any fun g => decide (g.1 < 64)
  let s := (List.range 8).foldl (fun s r => s.updRegion r fun g => { g with gTh := (gs.getD r (64, none)).1 }) s
  if now == s.thm.throttling then s else
  let s := { s with thm := { s.thm with throttling := now } }
  if now then
    ((s.thmNotice 1 low ((gs.getD low (64, none)).2.map s.whole)).tookFree)
  else
    ((s.thmNotice 2 0 (some (s.freeNat % 65536))).tookFree)

/-! ### Trips (R446, R447), coolant (R448) and the round -/

/-- A 10-bit temperature code of THM_STAT (R452): T = code / 4 - 64, zero for no reading; either neighbour where the
temperature lies between two codes. -/
def State.code10 (s : State) (t : Option Rat) : Nat :=
  match t with
  | none => 0
  | some x => (max 1 (min 1023 (s.whole ((x + 1024) / 4)))).toNat

/-- What THM_STAT reports of the round. -/
def State.thmStat (s : State) (r : Readings) : State :=
  let one (t : Option Rat) (f : Thm → Nat → Thm) (s : State) : State :=
    { s with thm := f s.thm (s.code10 t) }.tookFree
  let cmax := hottest ((s.governed r).map Prod.snd)
  let hmax := hottest (rdHbm r)
  let th (i : Nat) : Option Rat := (r.therm.getD i none).map fun (t : Int) => (t : Rat)
  let s := one cmax (fun h n => { h with maxStack := n }) s
  let s := one hmax (fun h n => { h with maxHbm := n }) s
  let s := one (th 0) (fun h n => { h with inlet := n }) s
  one (th 1) (fun h n => { h with outlet := n }) s

/-- The hottest entry of a list of objects and temperatures. -/
def hottestObj (l : List (Nat × Rat)) : Option (Nat × Rat) :=
  l.foldl (fun a x => match a with | none => some x | some y => some (if y.2 < x.2 then x else y)) none

/-- What a trip does in each state (R446). -/
def State.thermalTrip (s : State) (obj : Nat) (t : Int) : State :=
  let s := { s.thmRec 3 3 obj (some t) with thm := { s.thm with tripped := true } }
  match s.dev with
  | .running => { s with thm := { s.thm with gateHeld := true } }.makePersistent 3
  | .joined => s.startEndgame 3 s.sch.committed 0
  | .boot | .recovery | .ready =>
    s.raiseFA { cls := 4, level := 3, unit := 0x28, code := 3, loc := obj, data0 := temp16 (some t) }
  | _ => s

/-- Two critical rounds: an FA record in the log and in the management domain's store, then STANDBY, and the main side
stays off (R447). -/
def State.criticalOff (s : State) (obj : Nat) (t : Int) : State :=
  let s := (s.thmRec 4 4 obj (some t)).mainOff
  { s with supply := { s.supply with lockedOff := true } }

/-- The trip rules at the end of a round. -/
def State.trips (s : State) (r : Readings) : State :=
  let c := hottestObj (s.governed r)
  let h := hottestObj (((List.range 8).zip r.hbm).filterMap fun x => x.2.map fun (t : Int) => (0x60 + x.1, (t : Rat)))
  let atOrAbove (x : Option (Nat × Rat)) (l : Int) : Bool :=
    match x with | some y => decide ((l : Rat) ≤ y.2) | none => false
  let crit := atOrAbove c 2000 || atOrAbove h 1840
  let trip := atOrAbove c 1840 || atOrAbove h 1680
  let who := if (if crit then atOrAbove c 2000 else atOrAbove c 1840) then c else h
  let was := (s.thm.wasTrip, s.thm.wasCrit)
  let s := { s with thm := { s.thm with wasTrip := trip, wasCrit := crit } }
  match who with
  | none => s
  | some (obj, x) =>
    let t := s.whole x
    let s := s.tookFree
    if crit && was.2 then s.criticalOff obj t
    else if !(trip && (was.1 || crit)) then s
    else s.thermalTrip obj t

/-- Coolant notices (R448): none while TH0 or TH1 has been open since reset (R502). -/
def State.coolant (s : State) (r : Readings) : State :=
  if !(s.thm.seenValid.contains 0x6A && s.thm.seenValid.contains 0x6B) then s else
  let t0 := r.therm.getD 0 none
  let s := match t0 with
    | some t => if t < 240 || 640 < t then s.thmNotice 6 0 (some t) else s
    | none => s
  match t0, r.therm.getD 1 none with
  | some a, some b => if 320 < b - a then s.thmNotice 7 0 (some (b - a)) else s
  | _, _ => s

/-- The end of a 10 ms round, from the end of BOOT step 0x01 on (R439). -/
def execHousekeepingRound (rd : Readings) (s : State) : Out :=
  .next (
    if !s.mainOn || !s.sec.stepsDone.contains 1 then s else
    let r := rdChecked rd
    let s := { s with thm := { s.thm with round := s.thm.round + 1, roundTick := s.dom, last := r } }
    let s := s.noteInvalid r
    let s := (List.range 8).foldl (fun s j => s.groupRound r j) s
    let s := { s with blocks := SMap.mapVals {} s.blocks fun B => { B with estSum := 0, estN := 0 } }
    ((((((s.stackBand r).hbmBands r).throttle r).thmStat r).coolant r).trips r))

/-- Every 100 ms of STANDBY: EXT0, EXT1 and TH0-TH3 (R439). -/
def execStandbySensorRead (ext therm : List (Option Int)) (s : State) : Out :=
  .next (
    if s.dev != .standby then s else
    { s with mgmt := { s.mgmt with ext := readList ext 2, therm := readList therm 4 } })

end Sys2Proof.Machine
end

