-- ==== Sys2Proof/WellFormed.lean ====
section
/-! DEFINITION. Which commands name units that the device has: the ranges of block, cell, channel, port, stack, ring,
slice, region, slot and step numbers. A meaning refuses a command that is not well-formed with noSuchUnit. -/

namespace Sys2Proof

/-- Logical blocks 0-95 (R19). -/
def okBlock (b : Nat) : Bool := decide (b < 96)

/-- Regions 0-7 (R18). -/
def okRegion (r : Nat) : Bool := decide (r < 8)

/-- Ports 0-19 (R294). -/
def okPort (p : Nat) : Bool := decide (p < 20)

/-- Submission rings 0-31 (R354). -/
def okRing (q : Nat) : Bool := decide (q < 32)

/-- A ring register group that exists (R374). -/
def okSel (r : RingSel) : Bool :=
  match r with
  | .sq q => decide (q < 32)
  | .cq c => decide (c < 16)
  | .eq => true

/-- A bundle's link exists (R232). -/
def okLink (l : BundleLink) : Bool :=
  match l with
  | .block r n => decide (r < 8) && decide (n < 13)
  | .shared => true

/-- A BAR2 access: at most 4,096 bytes inside one 4 KiB page of the BAR (R353). -/
def okTlp (off len : Nat) : Bool :=
  decide (len ≤ 4096) && decide (off % 4096 + len ≤ 4096) && decide (off + len ≤ 2 ^ 40)

/-- A sensor of Table 17.1. -/
def okSensor (x : Sensor) : Bool :=
  match x with
  | .diode i => decide (i < 96)
  | .hbm k => decide (k < 8)
  | .ext i => decide (i < 2)
  | .therm i => decide (i < 4)
  | _ => true

/-- The command names only units that exist. -/
def Instr.wf (i : Instr) : Bool :=
  match i with
  | .auxSupplyValid _ _ | .auxSupplyLost | .inputValidHold | .suppliesValid | .supplyStartTimeout | .startRetry
  | .input48vLoss _ | .powerSample _ _ _ | .refclkLoss | .refclkRestore | .pllLockLoss _ | .bootWatchdog
  | .heldMainReset | .fwStoreWriteComplete _ | .housekeepingRound _ | .standbySensorRead _ _
  | .bundleRetuneComplete _ _ | .hostInterfaceReset _ | .hifResetWrite _
  | .schJournalCfgWrite _ | .ccdCfgWrite _ | .qosCfgWrite _ | .heldRegisterWriteApply
  | .eqHeadDoorbell _ | .descriptorComplete _ | .armEpoch | .armVerdict | .firstPlyStart
  | .plyBoundary | .checkFloodRound _ | .plyVerdict _ _ | .plyRestart _ | .timeBeaconEmit | .timeWatchdogExpiry
  | .holdoverLimit | .timeLockAchieved | .timeLockTimeout | .joinResend | .joinFrameTimeout | .takeoverGrant
  | .standbyPreparationComplete | .takeoverFlood | .takeoverVerdict _ | .endgamePhaseComplete | .ceSend _
  | .ceRecv _ | .ceReduce _ | .ceCombine _ | .ceMirror _ | .ceContributionReady _ | .ceStepComplete _
  | .sendReadLead _ | .sendEntryRelease _ | .expectEntryDeadline _ | .qosEpoch | .qosWindowEnd | .i3cEntdaa _
  | .mctpControl _ | .pldmDiscovery | .pldmFirmwareUpdate _ _ | .getVersion _
  | .getCapabilities _ | .negotiateAlgorithms _ | .getDigests _ | .getCertificate _ | .challenge _ _
  | .getMeasurements _ _ _ _ | .getRecords _ _ _ _ | .getThermal _ | .getReplace _ | .clearReplace _ _ | .powerRelease _ | .powerHoldOff _
  | .powerForceOff _ _ | .mainReset _ _ | .installLicence _ _ _ | .salvageRead _ _ _ | .salvagePage _
  | .holdoverBeacon | .tickOutFall => true
  | .busConverterFault k => decide (k < 4)
  | .blockUnderVoltage region slot | .rampDeferralEnd region slot => okRegion region && decide (slot < 13)
  | .rampComplete region slot => okRegion region && decide (slot < 14)
  | .uncoreUnderVoltage domain => decide (domain < 30)
  | .currentEstimateFrame b _ | .endOfPlyPoint b | .seqAlu b | .seqAddi b | .seqAndi b | .seqOri b
  | .seqXori b | .seqSlli b | .seqSrli b | .seqSrai b | .seqSlti b | .seqSltiu b | .seqLui b | .seqLw b
  | .seqSw b | .seqBeq b | .seqBne b | .seqBlt b | .seqBge b | .seqBltu b | .seqBgeu b | .seqJal b
  | .seqJalr b | .seqCissue b | .seqLaunch b | .seqWaitc b | .seqWaitk b | .seqWaitx b | .seqSempost b
  | .seqSemwait b | .seqLoadi b | .seqCsrr b | .seqCsrw b | .seqTrap b | .seqEop b | .seqIllegalInstruction b
  | .seqStallRelease b | .seqWaitRelease b | .groupDispatch b | .kernelComplete b | .tgNop b _ | .tgAdd b _
  | .tgAddI b _ | .tgSub b _ | .tgSubI b _ | .tgMullo b _ | .tgMulloI b _ | .tgMulhi b _ | .tgMulhiI b _
  | .tgMuladd b _ | .tgMinmax b _ | .tgMinmaxI b _ | .tgAnd b _ | .tgAndI b _ | .tgOr b _ | .tgOrI b _
  | .tgXor b _ | .tgXorI b _ | .tgShl b _ | .tgShlI b _ | .tgShr b _ | .tgShrI b _ | .tgBitcnt b _
  | .tgLeadz b _ | .tgPick b _ | .tgMovr b _ | .tgMovk b _ | .tgAddf b _ | .tgAddfI b _ | .tgMulf b _
  | .tgMulfI b _ | .tgMadf b _ | .tgMinmaxf b _ | .tgMinmaxfI b _ | .tgSignf b _ | .tgTrans b _ | .tgConv b _
  | .tgPack b _ | .tgCmpi b _ | .tgCmpf b _ | .tgFlagop b _ | .tgXlane b _ | .tgCensus b _ | .tgLanered b _
  | .tgSysr b _ | .tgSpld b _ | .tgSpst b _ | .tgDvld b _ | .tgDvst b _ | .tgSpat b _ | .tgDvat b _
  | .tgJump b _ | .tgCall b _ | .tgJreg b _ | .tgDone b _ | .tgMeet b _ | .tgFence b _ | .tgUwait b _
  | .tgUwaitRelease b _ | .tgTrapi b _ | .tgIllegalInstruction b _ | .blockWatchdogExpiry b _ | .tgLoadDataReturn b _ _
  | .nbCommandAccept b | .ceStepAccept b => okBlock b
  | .bootStepComplete step _ => decide (1 ≤ step) && decide (step ≤ 10)
  | .bundleIdlePattern bundle link _ => decide (bundle < 131200) && okLink link
  | .linkChange rate width _ => decide (rate < 4) && (width == 1 || width == 2 || width == 4)
  | .bar2Read off len | .bar2Write off len _ => okTlp off len
  | .pldmSensorRead x => okSensor x
  | .registerWrite off _ _ => decide (off < 0x4000000)
  | .hbmGranWrite stack _ _ => decide (stack < 8)
  | .qosMinWrite g m _ => decide (g < 3) && decide (m < 100)
  | .ringCfgWrite ring _ => okSel ring
  | .msixVectorUnmask vec => decide (vec < 128)
  | .sqTailDoorbell off _ | .cqHeadDoorbell off _ => decide (off < 0x10000)
  | .descriptorFetch q _ | .hostNop q | .copyH2d q _ | .copyD2h q | .copyD2d q
  | .hostFill q | .imageLoad q _ | .domainJoin q | .domainLeave q | .plyRun q | .plyStop q
  | .cacheRangePrefetch q | .cacheRangeFlush q | .cacheRangeInvalidate q | .cacheRangeCleanInvalidate q
  | .cacheRangeDead q | .cacheRangePin q | .cacheRangeUnpin q | .hostFence q | .pimSubmit q _
  | .licenceInstall q _ _ | .queryIdentity q | .queryErrorLog q | .querySlotMap q | .queryMeasurements q
  | .queryLicences q | .queryThermal q | .queryReplace q | .eventAck q | .fwStage q _ | .promote q | .drain q => okRing q
  | .cqInterruptDelay c => decide (c < 16)
  | .promotionReady region => okRegion region
  | .semaphoreGrant sem => decide (sem < 64)
  | .mcNop b k | .mcCfg b k | .mcBase b k | .mcLoadw b k | .mcCastle b k | .mcStream b k | .mcClracc b k
  | .mcRowIssue b k | .mcRowResult b k _ | .mcLoadwComplete b k | .mcStreamComplete b k => okBlock b && decide (k < 2)
  | .dmaNop b c | .dmaBase b c | .dmaCopy b c | .dmaFill b c | .dmaRangePrefetch b c | .dmaRangeFlush b c
  | .dmaRangeInvalidate b c | .dmaRangeCleanInvalidate b c | .dmaRangeDead b c | .dmaCommandComplete b c => okBlock b && decide (c < 4)
  | .blockArrayScrub b bank => okBlock b && decide (bank < 32)
  | .cacheDieRead sl | .cacheDieWrite sl | .cacheDieFill sl | .cacheDieReduction sl | .cacheDieScrub sl => decide (sl < 8)
  | .hbmRequestService stk ch _ | .hbmRefresh stk ch | .hbmScrub stk ch | .hbmRetrainComplete stk ch _
  | .hbmRemapWindow stk ch | .hbmRemapWindowEnd stk ch => decide (stk < 8) && decide (ch < 32)
  | .nbCommandStart stk | .nbJournalPhaseEnd stk | .nbSegmentEnd stk _ | .nbServiceWindowEnd stk
  | .nbCommandComplete stk => decide (stk < 8)
  | .frameSlot p | .idleFrame p _ | .sDataFrame p _ _ | .sCheckFrame p _ _ | .sArmFrame p _ _ _
  | .vRead p _ _ | .vWrite p _ _ | .vResponse p _ _ | .vNak p _ _ | .tBeacon p _ _ _ _ | .joinFrame p _ _ _
  | .echoReq p _ _ | .echoResp p _ _ _ | .widthFrame p _ _ _ | .corruptFrame p _ | .noFrameTimeout p
  | .portUp p _ | .laneMove p _ _ _ | .laneAck p _ _ | .linkAnswerTimeout p | .latencyRemeasure p | .receiverRealign p => okPort p
  | .laneLossOfLock p lane | .laneSymbolWindow p lane _ _
  | .laneRetrainComplete p lane _ => okPort p && decide (lane < 17)
  | .serviceRetryTimeout tag | .quarantineEnd tag => decide (tag < 4096)

end Sys2Proof
end

