-- ==== Sys2Proof/Machine/Registers.lean ====
section
/-! DEFINITION. BAR0 (chapter 20 and the register tables of every chapter): which register an offset holds, what a read
returns, and what a write does. -/

namespace Sys2Proof.Machine

/-- The registers of BAR0 (Tables 20.3-20.14). -/
inductive Reg where
  | hifState | hifCtrl | hifReset | hifLink | hifAccErr | hifEvtPend
  | ringBase (r : RingSel) | ringCfg (r : RingSel) | ringIdx (r : RingSel)
  | msix (i : Nat) | pba (i : Nat)
  | secFwVer | secFwStore | secFeatures | secFloor | secIdStat | secBoot
  | schTime | schJournal | schPlyNum | schPlyStatus | schCause
  | portStat (p : Nat) | portErr (p : Nat) | laneStat (p l : Nat)
  | fabCfg | svcStat | ceCfg | ceStat | standbyStat | mirrorStat
  | hbmCfg (k : Nat) | granLo (k : Nat) | granHi (k : Nat) | hbmStat (k : Nat) | hbmLap (k : Nat) | chStat (k c : Nat)
  | ccdCfg | ccdWays | sliceStat (n : Nat) | sliceLap (n : Nat) | slicePins (n : Nat) | vbStat
  | slotMap (r : Nat) | ckCfg (r : Nat) | tgCfg (r : Nat) | baCfg (r : Nat)
  | mcStat (b k : Nat) | mcCk (b k : Nat) | tgStat (b : Nat) | dmaStat (b c : Nat) | baStat (b : Nat) | blkPwr (b : Nat)
  | pwrCfg | pwrStat | clkStat | thmCfg | thmStat | thmRgn
  | errCfg | errLogStat | errClassCnt | errEndgame
  | qosCfg | qosWeight | qosWinSeq | qosMin (g m : Nat) | qosCnt (r c : Nat)
  | pimCfg | pimCap | pimStk (k : Nat)
  | dbgId | dbgScratch
  deriving DecidableEq, Repr

/-! ### The map (R485, R486) -/

/-- Registers of one ring, by offset from its base (Table 13.12). -/
def ringAt (r : RingSel) (o : Nat) : Option Reg :=
  match o with
  | 0 => some (.ringBase r) | 8 => some (.ringCfg r) | 0xC => some (.ringIdx r) | _ => none

/-- HIF registers by offset (Table 20.3). -/
def hifAt (o : Nat) : Option Reg :=
  match o with
  | 0 => some .hifState | 4 => some .hifCtrl | 8 => some .hifReset | 0x10 => some .hifLink | 0x18 => some .hifAccErr
  | 0x20 => some .hifEvtPend
  | _ =>
    if 0x1000 ≤ o ∧ o < 0x1400 then ringAt (.sq ((o - 0x1000) / 32)) (o % 32)
    else if 0x2000 ≤ o ∧ o < 0x2200 then ringAt (.cq ((o - 0x2000) / 32)) (o % 32)
    else if 0x3000 ≤ o ∧ o < 0x3020 then ringAt .eq (o % 32)
    else if 0x8000 ≤ o ∧ o < 0x8800 then some (.msix ((o - 0x8000) / 4))
    else if 0x9000 ≤ o ∧ o < 0x9010 then some (.pba ((o - 0x9000) / 4))
    else none

/-- FAB registers by offset in the window (Table 20.6). -/
def fabAt (o : Nat) : Option Reg :=
  let p := o / 0x10000
  let w := o % 0x10000
  match o with
  | 0x8000 => some .fabCfg | 0x8008 => some .svcStat | 0x8100 => some .ceCfg | 0x8108 => some .ceStat
  | 0x8110 => some .standbyStat | 0x8118 => some .mirrorStat
  | _ =>
    if 20 ≤ p then none
    else if w = 0 then some (.portStat p)
    else if w = 8 then some (.portErr p)
    else if 0x100 ≤ w ∧ w < 0x144 ∧ w % 4 = 0 then some (.laneStat p ((w - 0x100) / 4))
    else none

/-- HBM registers by offset in the window (Table 20.7). -/
def hbmAt (o : Nat) : Option Reg :=
  let k := o / 0x10000
  let w := o % 0x10000
  if 8 ≤ k then none else
  match w with
  | 0 => some (.hbmCfg k) | 8 => some (.granLo k) | 0x10 => some (.granHi k) | 0x20 => some (.hbmStat k)
  | 0x28 => some (.hbmLap k)
  | _ => if 0x100 ≤ w ∧ w < 0x200 ∧ w % 8 = 0 then some (.chStat k ((w - 0x100) / 8)) else none

/-- CCD registers by offset in the window (Table 20.8). -/
def ccdAt (o : Nat) : Option Reg :=
  match o with
  | 0 => some .ccdCfg | 8 => some .ccdWays | 0x200 => some .vbStat
  | _ =>
    if 0x100 ≤ o ∧ o < 0x140 ∧ o % 8 = 0 then some (.sliceStat ((o - 0x100) / 8))
    else if 0x140 ≤ o ∧ o < 0x160 ∧ o % 4 = 0 then some (.sliceLap ((o - 0x140) / 4))
    else if 0x180 ≤ o ∧ o < 0x1A0 ∧ o % 4 = 0 then some (.slicePins ((o - 0x180) / 4))
    else none

/-- RGN registers by offset in the window (Table 20.9). -/
def rgnAt (o : Nat) : Option Reg :=
  let r := o / 0x100000
  let w := o % 0x100000
  if 8 ≤ r then none else
  match w with
  | 0x10 => some (.slotMap r) | 0x20 => some (.ckCfg r) | 0x30 => some (.tgCfg r) | 0x40 => some (.baCfg r)
  | _ =>
    let n := w / 0x10000
    if n = 0 ∨ 12 < n then none else
    let b := 12 * r + (n - 1)
    match w % 0x10000 with
    | 0x100 => some (.mcStat b 0) | 0x108 => some (.mcStat b 1) | 0x110 => some (.mcCk b 0) | 0x118 => some (.mcCk b 1)
    | 0x200 => some (.tgStat b) | 0x300 => some (.dmaStat b 0) | 0x308 => some (.dmaStat b 1)
    | 0x310 => some (.dmaStat b 2) | 0x318 => some (.dmaStat b 3) | 0x400 => some (.baStat b) | 0x500 => some (.blkPwr b)
    | _ => none

/-- QOS registers by offset in the window (Table 20.12). -/
def qosAt (o : Nat) : Option Reg :=
  match o with
  | 0 => some .qosCfg | 8 => some .qosWeight | 0x10 => some .qosWinSeq
  | _ =>
    if 0x1000 ≤ o ∧ o < 0x1600 then
      let g := (o - 0x1000) / 0x200
      let m := o % 0x200 / 4
      if m < 100 ∧ o % 4 = 0 then some (.qosMin g m) else none
    else if 0x2000 ≤ o ∧ o < 0x22C0 ∧ o % 8 = 0 then some (.qosCnt ((o - 0x2000) / 64) ((o - 0x2000) / 8 % 8))
    else none

/-- The register that starts at an offset of BAR0. -/
def regAt (o : Nat) : Option Reg :=
  if o < 0x100000 then hifAt o
  else if o < 0x200000 then
    match o - 0x100000 with
    | 0 => some .secFwVer | 8 => some .secFwStore | 0x10 => some .secFeatures | 0x18 => some .secFloor
    | 0x20 => some .secIdStat | 0x28 => some .secBoot | _ => none
  else if o < 0x400000 then
    match o - 0x200000 with
    | 0 => some .schTime | 0x40 => some .schJournal | 0x80 => some .schPlyNum | 0x88 => some .schPlyStatus
    | 0x90 => some .schCause | _ => none
  else if o < 0x800000 then fabAt (o - 0x400000)
  else if o < 0xC00000 then hbmAt (o - 0x800000)
  else if o < 0x1000000 then ccdAt (o - 0xC00000)
  else if o < 0x2000000 then rgnAt (o - 0x1000000)
  else if o < 0x2100000 then
    match o - 0x2000000 with
    | 0 => some .pwrCfg | 8 => some .pwrStat | 0x10 => some .clkStat | 0x100 => some .thmCfg | 0x108 => some .thmStat
    | 0x110 => some .thmRgn | _ => none
  else if o < 0x2200000 then
    match o - 0x2100000 with
    | 0 => some .errCfg | 8 => some .errLogStat | 0x10 => some .errClassCnt | 0x18 => some .errEndgame | _ => none
  else if o < 0x2300000 then qosAt (o - 0x2200000)
  else if o < 0x3000000 then
    match o - 0x2300000 with
    | 0 => some .pimCfg | 8 => some .pimCap
    | w => if 0x100 ≤ w ∧ w < 0x140 ∧ w % 8 = 0 then some (.pimStk ((w - 0x100) / 8)) else none
  else match o - 0x3000000 with
    | 0 => some .dbgId | 8 => some .dbgScratch | _ => none

/-- 64-bit registers. -/
def Reg.wide (r : Reg) : Bool :=
  match r with
  | .hifAccErr | .ringBase _ | .secFwStore | .secBoot | .schTime | .schPlyNum | .schPlyStatus | .portStat _ | .portErr _
  | .svcStat | .ceStat | .standbyStat | .mirrorStat | .granLo _ | .hbmStat _ | .chStat _ _ | .sliceStat _ | .vbStat
  | .slotMap _ | .mcStat _ _ | .mcCk _ _ | .tgStat _ | .dmaStat _ _ | .baStat _ | .pwrStat | .clkStat | .thmStat
  | .thmRgn | .errLogStat | .errClassCnt | .errEndgame | .qosWeight | .qosWinSeq | .qosCnt _ _ | .pimStk _ => true
  | _ => false

/-- The register whose dword stands at a dword-aligned offset, and whether it is the high dword. -/
def regOf (o : Nat) : Option (Reg × Bool) :=
  match regAt o with
  | some r => some (r, false)
  | none =>
    if o < 4 then none else
    match regAt (o - 4) with
    | some r => if r.wide then some (r, true) else none
    | none => none

/-- HIF registers, which BOOT, RECOVERY and FAULT serve as READY does (R386, R487). -/
def Reg.isHif (r : Reg) : Bool :=
  match r with
  | .hifState | .hifCtrl | .hifReset | .hifLink | .hifAccErr | .hifEvtPend | .ringBase _ | .ringCfg _ | .ringIdx _
  | .msix _ | .pba _ => true
  | _ => false

/-- READY-only registers (R487). -/
def Reg.readyOnly (r : Reg) : Bool :=
  match r with
  | .schJournal | .fabCfg | .ceCfg | .hbmCfg _ | .granLo _ | .granHi _ | .ccdCfg | .ckCfg _ | .tgCfg _ | .baCfg _
  | .pwrCfg | .thmCfg | .errCfg | .qosCfg | .qosWeight | .qosMin _ _ | .pimCfg => true
  | _ => false

/-! ### Reads (R488) -/

/-- Base, configuration and index registers of a ring. -/
def State.ringReg (s : State) (r : RingSel) : Nat × Nat × Nat :=
  match r with
  | .sq q => let x := s.sq q; (x.base.toNat, b2n x.en + 2 * x.size, x.head)
  | .cq c =>
    let x := s.cq c
    (x.base.toNat, b2n x.en + 2 * x.size + 32 * b2n x.ien + x.vec <<< 6 + x.cnt <<< 13 + x.delay <<< 21,
      x.tail + b2n x.phase <<< 16)
  | .eq =>
    let x := s.hif.eq
    (x.base.toNat, b2n x.en + 2 * x.size + 32 * b2n x.ien + x.vec <<< 6, x.tail + b2n x.phase <<< 16 + x.lost <<< 17)

/-- FAB_PORT_STAT of port p (Table 11.14). spare_used keeps its reset value until the port has been up: no lane has a state
before (DEDUCED, log entry 13). -/
def Port.statWord (k : Port) : Nat :=
  k.state + b2n (decide (2 ≤ k.state) && k.spare.isNone) <<< 3 + k.fn <<< 4 + k.partner <<< 16 + k.latency <<< 32 + k.budget <<< 44

/-- FAB_LANE_STAT (Table 11.16). -/
def Lane.statWord (l : Lane) : Nat :=
  l.state + l.position <<< 2 + b2n l.lock <<< 7 + l.retrains.toNat <<< 8 + l.sym.toNat <<< 16

/-- Tags in a state. -/
def State.tagCount (s : State) (p : TagSt → Bool) : Nat := (s.fab.tags.filter fun e => p e.2.st).length

/-- HBM_LAP of a stack (Table 9.10): the longest lap, once every channel has completed one. -/
def State.hbmLapOf (s : State) (k : Nat) : Nat :=
  if (List.range 32).all fun c => (s.chan k c).lapped then
    (List.range 32).foldl (fun a c => max a (s.chan k c).lap.toNat) 0
  else 0

/-- RGN_MC_STAT (Table 4.19). -/
def Mc.statWord (m : Mc) : Nat :=
  m.err + b2n m.halted <<< 8 + (m.seqNo % 65536) <<< 16 + m.active.fmt <<< 32 + m.shadow.fmt <<< 36 +
  b2n m.shadowFull <<< 40 + b2n (m.active.poisoned || m.shadow.poisoned || m.acc.any fun e => e.2.poisoned) <<< 41

/-- THM_STAT (Table 17.7). -/
def Thm.statWord (t : Thm) : Nat :=
  t.maxStack + t.maxHbm <<< 10 + t.inlet <<< 20 + t.outlet <<< 30 + t.stackBand <<< 40 +
  ((List.range 8).foldl (fun a j =>
    let g := SMap.get {} t.groups j
    a + b2n (g.governs && g.est.isSome) <<< j) 0) <<< 42 +
  b2n t.throttling <<< 50 + b2n (!t.invalidNow.isEmpty) <<< 51 + (t.round % 4096) <<< 52

/-- PIM_STK_STAT (Table 10.10). -/
def NbStack.statWord (n : NbStack) : Nat :=
  n.devQ.length + (min 16 n.hostQ.length) <<< 5 + b2n n.run.isSome <<< 10 +
  b2n (match n.run with | some r => r.phase == .journal | none => false) <<< 11 + n.lastReason <<< 16 +
  n.done.toNat <<< 24 + n.rejected.toNat <<< 40 + n.aborted.toNat <<< 52

/-- The value of a register as the units hold it. -/
def State.regValue (s : State) (r : Reg) : Nat :=
  match r with
  | .hifState => s.dev.code
  | .hifCtrl => b2n s.hif.expert + 2 * b2n s.hif.ceEvents
  | .hifReset => 0
  | .hifLink => s.hif.linkRate + 8 * s.hif.linkWidth + 64 * b2n s.hif.linkFlit
  | .hifAccErr => s.hif.accCount.toNat + s.hif.accOffset.toNat <<< 16 + s.hif.accKind.toNat <<< 48
  | .hifEvtPend => b2n s.hif.pendTimeLost + 2 * b2n s.hif.pendUnrecoverable
  | .ringBase x => (s.ringReg x).1
  | .ringCfg x => (s.ringReg x).2.1
  | .ringIdx x => (s.ringReg x).2.2
  | .msix i =>
    let v := SMap.get {} s.hif.msix (i / 4)
    (match i % 4 with
     | 0 => v.addr.toNat % 2 ^ 32 | 1 => v.addr.toNat / 2 ^ 32 | 2 => v.data.toNat | _ => b2n v.mask)
  | .pba i => (List.range 32).foldl (fun a k => a + b2n (SMap.get {} s.hif.msix (32 * i + k)).pending <<< k) 0
  | .secFwVer => match s.sec.running with | some f => f.version.toNat | none => 0
  | .secFwStore =>
    (match s.flash.store with
     | some f => if s.sec.storeBad then 0 else f.version.toNat + 1 <<< 32
     | none => 0) + b2n s.sec.staging.isSome <<< 33
  | .secFeatures => s.sec.features.toNat
  | .secFloor => s.flash.floor.toNat
  | .secIdStat =>
    b2n s.sec.idValid + 2 * b2n s.sec.helper + s.flash.installed.length <<< 2 + s.sec.ignored.toNat <<< 7
  | .secBoot => s.sec.readyMs.toNat + s.sec.failStep.toNat <<< 16
  | .schTime => s.dom
  | .schJournal => s.sch.journalSize.toNat
  | .schPlyNum => s.sch.committed.toNat
  | .schPlyStatus =>
    s.sch.attempt + b2n s.sch.locked <<< 2 + b2n s.sch.holdover <<< 3 + s.sch.stretch <<< 4 +
    b2n (!s.sch.cur.replayable) <<< 12 + s.sch.replays.toNat <<< 32
  | .schCause => s.sch.causes.toNat
  | .portStat p => (s.portNow p).statWord
  | .portErr p =>
    let k := s.port p
    k.fecCorr.toNat + k.fecUncorr.toNat <<< 16 + k.crcErr.toNat <<< 32 + k.viol.toNat <<< 48
  | .laneStat p l => ((s.portNow p).lane l).statWord
  | .fabCfg => s.fab.quarantine + s.fab.retry <<< 10 + s.fab.retries <<< 18 + s.fab.laneThresh <<< 20
  | .svcStat =>
    s.tagCount (fun t => match t with | .out _ _ _ _ _ => true | _ => false) +
    s.tagCount (fun t => match t with | .quarantine _ => true | _ => false) <<< 13 +
    s.fab.abandoned.toNat <<< 26 + s.fab.late.toNat <<< 42
  | .ceCfg => s.ce.resTol
  | .ceStat =>
    s.ce.crcFail.toNat + s.ce.resFail.toNat <<< 16 + s.ce.resSkip.toNat <<< 32 + s.ce.stepFail.toNat <<< 48 +
    s.ce.lastStatus <<< 56
  | .standbyStat =>
    s.standby.place.getD 0x7FFF + b2n (s.standby.relaying && s.standby.tracking) <<< 15 + (s.standby.markA.toNat % 2 ^ 32) <<< 32
  | .mirrorStat => s.standby.markB.toNat % 2 ^ 32 + (min 0xFFFF s.standby.mirrorOpen) <<< 32
  | .hbmCfg k =>
    let x := s.stack k
    b2n x.scrubEn + x.scrubGap <<< 1 + b2n x.liveRemap <<< 5 + x.remapThresh <<< 6
  | .granLo k => (s.stack k).openGran.toNat % 2 ^ 64
  | .granHi k => (s.stack k).openGran.toNat / 2 ^ 64
  | .hbmStat k =>
    let x := s.stack k
    x.band + x.ce.toNat <<< 8 + x.ue.toNat <<< 24 +
    ((List.range 32).foldl (fun a c => a + (s.chan k c).remapped.length) 0) <<< 40 + x.refused.toNat <<< 55
  | .hbmLap k => s.hbmLapOf k
  | .chStat k c => let x := s.chan k c; x.state + x.retrains.toNat <<< 16 + x.crc.toNat <<< 32
  | .ccdCfg => s.ccd.pinMax + b2n s.ccd.strict <<< 6 + b2n s.ccd.scrubEn <<< 7 + s.ccd.scrubGap <<< 8
  | .ccdWays => s.cacheWays + s.journalWays <<< 8
  | .sliceStat n =>
    let x := s.slice n
    x.ce.toNat + x.ue.toNat <<< 16 + x.refetch.toNat <<< 32 + x.resurrect.toNat <<< 48
  | .sliceLap n => (s.slice n).lap.toNat
  | .slicePins n => (s.ccd.lines.filter fun e => e.2.pinned && lineSlice e.1 == n).length
  | .vbStat =>
    (s.ccd.bundles.filter fun e => e.2.spareUsed).length + (s.ccd.bundles.filter fun e => e.2.half && !e.2.dead).length <<< 18 +
    s.ccd.bundleBand <<< 36 + b2n s.ccd.retuning <<< 40
  | .slotMap g => (s.region g).slotState.toNat + (s.region g).mapGen.toNat <<< 56
  | .ckCfg g => b2n (s.region g).ckAction + 2 * b2n (s.region g).ckAcc
  | .tgCfg g => (s.region g).wdExp
  | .baCfg g => b2n (s.region g).scrubEn + 2 * (s.region g).scrubGap
  | .mcStat b k => (s.mcAt b k).statWord
  | .mcCk b k =>
    let m := s.mcAt b k
    m.fails.toNat + m.skipped.toNat <<< 16 + m.lastCol <<< 32 + b2n m.lastReadout <<< 40
  | .tgStat b =>
    let t := (s.blk b).tg
    t.cause + b2n t.trapped <<< 8 + b2n t.wdFall <<< 9 + b2n s.sec.safeMode <<< 10 + b2n t.kernel.isSome <<< 11 +
    t.trapThread <<< 16 + t.trapGroup <<< 24
  | .dmaStat b c =>
    let d := s.dmaAt b c
    d.status + b2n d.halted <<< 8 + b2n d.busy.isSome <<< 9 + d.done.toNat <<< 16 + d.faultOff.toNat <<< 32
  | .baStat b => let B := s.blk b; B.baCe.toNat + B.baUe.toNat <<< 16 + B.baLap.toNat <<< 32
  | .blkPwr b =>
    let p := match s.slotOf b with | some x => s.slotPwr x.1 x.2 | none => {}
    p.vset.toNat + b2n p.capped <<< 8 + b2n p.ramping <<< 9 + (s.blk b).uv.toNat <<< 16 + (s.blk b).gB <<< 24
  | .pwrCfg => s.pwr.capW + b2n s.pwr.peakEn <<< 12
  | .pwrStat =>
    b2n (decide (s.pwr.tp < 1)) + s.pwr.allowance <<< 1 + (256 * s.pwr.tp).floor.toNat <<< 13 + s.pwr.pIn <<< 22 +
    s.pwr.vIn <<< 34 + s.supply.bcGood.toNat <<< 44
  | .clkStat =>
    b2n s.pwr.lockUpper + 2 * b2n s.pwr.lockLower + 4 * b2n s.pwr.refOk + 8 * b2n s.pwr.freeRun +
    s.pwr.steer.toNat <<< 16 + s.pwr.refLoss.toNat <<< 32
  | .thmCfg => s.thm.tComp + s.thm.tHbm <<< 8 + s.thm.slope <<< 16
  | .thmStat => s.thm.statWord
  | .thmRgn => (List.range 8).foldl (fun a g => a + (s.region g).gTh <<< (8 * g)) 0
  | .errCfg => s.err.ceLimit
  | .errLogStat => s.err.next.toNat + (s.err.next - BitVec.ofNat 32 s.err.log.length).toNat <<< 32
  | .errClassCnt => s.err.ce.toNat + s.err.de.toNat <<< 16 + s.err.uc.toNat <<< 32 + s.err.fa.toNat <<< 48
  | .errEndgame => s.err.phase + s.err.cause <<< 8 + s.err.index.toNat <<< 32
  | .qosCfg => s.qos.win
  | .qosWeight => s.qos.weights.toNat
  | .qosWinSeq => s.qos.winSeq.toNat
  | .qosMin g m => s.qos.min g m
  | .qosCnt x c => SMap.get 0 s.qos.snapshot (8 * x + c) % 2 ^ 48
  | .pimCfg => b2n s.pim.compat + 2 * b2n s.pim.hostInRun + s.pim.svcWin <<< 2
  | .pimCap => b2n s.nbLicensed + 0x1000 <<< 16
  | .pimStk k => (s.nbStack k).statWord
  | .dbgId => 0x10960
  | .dbgScratch => s.dbgScratch.toNat

/-- The state whose registers BOOT and RECOVERY show outside HIF (R386): reset values, but for the fields whose Reset
column is fw. -/
def State.bootView (s : State) : State :=
  { State.reset with
    tick := s.tick, dev := s.dev, supply := s.supply, flash := s.flash, hif := s.hif, mgmt := s.mgmt
    sec := { s.sec with safeMode := false, staging := none }
    sch := { timeOff := -(s.tick : Int) }
    regions := SMap.mapVals {} s.regions fun g => { ({} : Region) with slotState := g.slotState }
    ccd := { bundles := s.ccd.bundles, bundleBand := s.ccd.bundleBand }
    hbmStacks := SMap.mapVals {} s.hbmStacks fun k => ({
      band := k.band
      chans := SMap.mapVals {} k.chans fun c => ({ state := c.state, remapped := c.remapped } : Chan) } : Stack)
    fab := { ports := SMap.mapVals {} s.fab.ports fun k => ({
      state := k.state
      lanes := SMap.mapVals {} k.lanes fun l => { state := l.state, position := l.position, lock := l.lock } } : Port) }
    pwr := {
      pIn := s.pwr.pIn, vIn := s.pwr.vIn, lockUpper := s.pwr.lockUpper, lockLower := s.pwr.lockLower, refOk := s.pwr.refOk
      slots := SMap.mapVals {} s.pwr.slots fun p => ({ vset := p.vset, capped := p.capped } : SlotPwr) }
    thm := { stackBand := s.thm.stackBand } }

/-- The state whose registers FAULT shows outside HIF (R487). -/
def State.faultView (s : State) : State :=
  match s.frozen with
  | none => s
  | some f =>
    { s with
      tick := f.dom, supply := f.supply, pwr := f.pwr, sec := f.sec, flash := f.flash, image := f.image
      sch := { f.sch with timeOff := 0 }, standby := f.standby, blocks := f.blocks, regions := f.regions, ccd := f.ccd
      hbmStacks := f.hbmStacks, pim := f.pim, ce := f.ce, fab := f.fab, qos := f.qos, thm := f.thm, err := f.err }

/-- What a read of a register returns in this state. -/
def State.regRead (s : State) (r : Reg) : Nat :=
  if r.isHif then s.regValue r
  else match s.dev with
    | .boot | .recovery => s.bootView.regValue r
    | .fault => s.faultView.regValue r
    | _ => s.regValue r

/-- A dword of BAR0; an offset without a register reads zero (R486). -/
def State.readDword (s : State) (o : Nat) : Nat :=
  match regOf o with
  | some (r, hi) => if hi then s.regRead r / 2 ^ 32 else s.regRead r % 2 ^ 32
  | none => 0

/-- A read of BAR0; none where BAR0 is unreachable. One narrower than a dword returns its bytes of the dword (R7,
R487). -/
def State.readBar0 (s : State) (o size : Nat) : Option Nat :=
  if !s.mainOn then none
  else if size = 8 then some (s.readDword o + 2 ^ 32 * s.readDword (o + 4))
  else if size < 4 then some (s.readDword (o / 4 * 4) / 2 ^ (8 * (o % 4)) % 2 ^ (8 * size))
  else some (s.readDword o)

/-! ### Writes -/

/-- MSI-X vector v is unmasked: a pending message is sent (R360). -/
def State.unmaskVec (s : State) (v : Nat) : State :=
  let m := SMap.get {} s.hif.msix v
  let s := { s with hif := { s.hif with msix := SMap.set {} s.hif.msix v { m with mask := false, pending := false } } }
  if m.pending then { s with hif := { s.hif with messages := v :: s.hif.messages } } else s

/-- A dword of the MSI-X table is written. -/
def State.writeMsix (s : State) (i v : Nat) : State :=
  let k := i / 4
  let m := SMap.get {} s.hif.msix k
  let put (m : MsixVec) : State := { s with hif := { s.hif with msix := SMap.set {} s.hif.msix k m } }
  match i % 4 with
  | 0 => put { m with addr := BitVec.ofNat 64 (m.addr.toNat / 2 ^ 32 * 2 ^ 32 + v / 4 * 4) }
  | 1 => put { m with addr := BitVec.ofNat 64 (m.addr.toNat % 2 ^ 32 + v * 2 ^ 32) }
  | 2 => put { m with data := BitVec.ofNat 32 v }
  | _ => if bitN v 0 then put { m with mask := true } else s.unmaskVec k

/-- The ring is enabled. -/
def State.ringEn (s : State) (r : RingSel) : Bool :=
  match r with
  | .sq q => (s.sq q).en
  | .cq c => (s.cq c).en
  | .eq => s.hif.eq.en

/-- A ring's base takes a value; bits [11:0] read zero. -/
def State.putBase (s : State) (r : RingSel) (v : Nat) : State :=
  let b := BitVec.ofNat 64 (v / 4096 * 4096)
  match r with
  | .sq q => s.updSq q fun x => { x with base := b }
  | .cq c => s.updCq c fun x => { x with base := b }
  | .eq => { s with hif := { s.hif with eq := { s.hif.eq with base := b } } }

/-- A ring's configuration takes a value (R355, R372, Table 13.12): a change of size while enabled is ignored and logged
at offset o; enabling sets head, tail and phase. -/
def State.putRingCfg (s : State) (r : RingSel) (o v : Nat) : State :=
  let en := bitN v 0
  let size := max 6 (bitsN v 4 1)
  let vec := bitsN v 12 6
  match r with
  | .sq q =>
    let x := s.sq q
    let bad := x.en && size != x.size
    let s := if bad then s.accErr 2 o else s
    s.updSq q fun x => { x with
      en := en, size := if bad then x.size else size
      head := if en && !x.en then 0 else x.head, tail := if en && !x.en then 0 else x.tail }
  | .cq c =>
    let x := s.cq c
    let bad := x.en && size != x.size
    let s := if bad then s.accErr 2 o else s
    let fresh := en && !x.en
    let s := s.updCq c fun x => { x with
      en := en, size := if bad then x.size else size, ien := bitN v 5, vec := vec
      cnt := max 1 (bitsN v 20 13), delay := bitsN v 30 21
      head := if fresh then 0 else x.head, tail := if fresh then 0 else x.tail
      phase := if fresh then true else x.phase, unsignalled := if fresh then 0 else x.unsignalled }
    (State.cqDrain c (s.cq c).waiting.length s).cqSignal c
  | .eq =>
    let x := s.hif.eq
    let bad := x.en && size != x.size
    let s := if bad then s.accErr 2 o else s
    let fresh := en && !x.en
    let s := { s with hif := { s.hif with eq := { x with
      en := en, size := if bad then x.size else size, ien := bitN v 5, vec := vec
      head := if fresh then 0 else x.head, tail := if fresh then 0 else x.tail
      phase := if fresh then true else x.phase } } }
    State.eqDrain (s.hif.eq.waiting.length + 1) s

/-- Highest way that holds a pinned line, plus one. -/
def State.pinFloor (s : State) : Nat := s.ccd.lines.foldl (fun a e => if e.2.pinned then max a (e.2.way + 1) else a) 0

/-- Sum of group g's guarantees with master m's replaced by v (R380). -/
def Qos.sumWith (q : Qos) (g m v : Nat) : Nat :=
  (List.range 100).foldl (fun a k => a + if k = m then v else q.min g k) 0

/-- The window in progress is discarded (R383). -/
def State.discardWindow (s : State) : State := { s with qos := { s.qos with discard := true } }

/-- A READY-only register takes the full value v, written at offset o, of which the write names the bits of m. -/
def State.putReady (s : State) (r : Reg) (o v : Nat) (m : W64 := BitVec.allOnes 64) : State :=
  match r with
  | .schJournal =>
    let size := BitVec.ofNat 2 v
    if size = s.sch.journalSize then s else (s.setJournal size).discardImage
  | .fabCfg => { s with fab := { s.fab with
      quarantine := clampN 4 1000 (bitsN v 9 0), retry := clampN 1 250 (bitsN v 17 10), retries := bitsN v 19 18
      laneThresh := max 16 (bitsN v 31 20) } }
  | .ceCfg => { s with ce := { s.ce with resTol := clampN 4 20 (bitsN v 4 0) } }
  | .hbmCfg k => s.updStack k fun x => { x with
      scrubEn := bitN v 0, scrubGap := clampN 2 10 (bitsN v 4 1), liveRemap := bitN v 5
      remapThresh := max 1 (bitsN v 9 6) }
  | .granLo k => s.writeGran k false (BitVec.ofNat 64 v) m
  | .granHi k => s.writeGran k true (BitVec.ofNat 64 (v % 2 ^ 16)) m
  | .ccdCfg =>
    let pm := min 33 (bitsN v 5 0)
    if pm < s.pinFloor then s.accErr 2 o else
    { s with ccd := { s.ccd with
      pinMax := pm, strict := bitN v 6, scrubEn := bitN v 7, scrubGap := clampN 2 10 (bitsN v 11 8) } }
  | .ckCfg g => s.updRegion g fun x => { x with ckAction := bitN v 0, ckAcc := bitN v 1 }
  | .tgCfg g => s.updRegion g fun x => { x with wdExp := clampN 16 26 (bitsN v 4 0) }
  | .baCfg g => s.updRegion g fun x => { x with scrubEn := bitN v 0, scrubGap := clampN 4 12 (bitsN v 4 1) }
  | .pwrCfg => { s with pwr := { s.pwr with capW := clampN 1000 2600 (bitsN v 11 0), peakEn := bitN v 12 } }
  | .thmCfg => { s with thm := { s.thm with
      tComp := clampN 70 110 (bitsN v 7 0), tHbm := clampN 70 100 (bitsN v 15 8), slope := clampN 2 30 (bitsN v 20 16) } }
  | .errCfg => { s with err := { s.err with ceLimit := max 1 (bitsN v 3 0) } }
  | .qosCfg => { s with qos := { s.qos with win := clampN 1 1000 (bitsN v 9 0), discard := true } }
  | .qosWeight => { s with qos := { s.qos with weights := BitVec.ofNat 64 v } }
  | .qosMin g m =>
    let w := bitsN v 10 0
    if 1024 < w ∨ 1024 < s.qos.sumWith g m w then s.accErr 2 o else
    { s with qos := { s.qos with mins := SMap.set 0 s.qos.mins (128 * g + m) (if w = minReset g m then 0 else w + 1) } }
  | .pimCfg => { s with pim := { s.pim with
      compat := bitN v 0, hostInRun := bitN v 1, svcWin := min 100 (bitsN v 8 2) } }
  | _ => s

/-- A control descriptor that holds set-up writes is executing (R489): IMAGE_LOAD, DOMAIN_JOIN, LICENCE_INSTALL or
PROMOTE. -/
def State.ctrlHolds (s : State) : Bool :=
  s.hif.active.any fun a =>
    let op := bitsN (dwN a.dws 0) 7 0
    op == 8 || op == 9 || op == 0x18 || op == 0x20

/-- A set-up write is held: a control descriptor executes, or earlier held writes have not been made yet (R489). -/
def State.setupHeld (s : State) : Bool := s.ctrlHolds || !s.hif.heldWrites.isEmpty

/-- The full value of a register with one of its dwords replaced by v. -/
def State.withHalf (s : State) (r : Reg) (hi : Bool) (v : Nat) : Nat :=
  if hi then s.regValue r % 2 ^ 32 + v * 2 ^ 32 else s.regValue r / 2 ^ 32 * 2 ^ 32 + v

/-- A HIF register is written. -/
def State.writeHif (s : State) (r : Reg) (o v : Nat) : State :=
  match r with
  | .hifCtrl => { s with hif := { s.hif with expert := bitN v 0, ceEvents := bitN v 1 } }
  | .hifReset => if v = 0xA55A then s.requestReset else s
  | .ringBase x => if s.ringEn x then s.accErr 2 o else s.putBase x v
  | .ringCfg x => s.putRingCfg x o v
  | .msix i => s.writeMsix i v
  | _ => s

/-- A write of the full value v to register r at offset o, of which it names the bits of m; in BOOT, RECOVERY and FAULT it is
logged. -/
def State.writeReg (s : State) (r : Reg) (o size v : Nat) (m : W64 := BitVec.allOnes 64) : State :=
  if r.isHif then s.writeHif r o v
  else if s.dev == .boot || s.dev == .recovery || s.dev == .fault then s.accErr 2 o
  else if r.readyOnly then
    if s.dev != .ready then s.accErr 2 o
    else if s.setupHeld then
      { s with hif := { s.hif with heldWrites := s.hif.heldWrites ++ [(o, size, BitVec.ofNat 64 v)] } }
    else s.putReady r o v m
  else match r with
    | .schCause => s.causeClear (BitVec.ofNat 7 v)
    | .dbgScratch => { s with dbgScratch := BitVec.ofNat 32 v }
    | _ => s

/-- A dword write (R486, R489): one half of a 64-bit register takes effect with the other half unchanged. -/
def State.writeDword (s : State) (o v : Nat) : State :=
  match regOf o with
  | none => s.accErr 2 o
  | some (r, hi) =>
    if r.wide then
      if r.readyOnly && s.dev == .ready && s.setupHeld then
        { s with hif := { s.hif with heldWrites := s.hif.heldWrites ++ [(o, 4, BitVec.ofNat 64 v)] } }
      else s.writeReg r o 4 (s.withHalf r hi v) (if hi then 0xFFFFFFFF00000000 else 0xFFFFFFFF)
    else s.writeReg r o 4 v

/-- A write of BAR0 (R7): a narrow or misaligned one is discarded and logged with kind 1. -/
def State.writeBar0 (s : State) (o size : Nat) (value : W64) : State :=
  if !s.mainOn then s
  else if !(size == 4 || size == 8) || o % size != 0 then s.accErr 1 o
  else if size = 4 then s.writeDword o (value.toNat % 2 ^ 32)
  else match regAt o with
    | some r =>
      if r.wide then s.writeReg r o 8 value.toNat
      else (s.writeDword o (value.toNat % 2 ^ 32)).writeDword (o + 4) (value.toNat / 2 ^ 32)
    | none => (s.writeDword o (value.toNat % 2 ^ 32)).writeDword (o + 4) (value.toNat / 2 ^ 32)

/-- The held writes are made in arrival order once no control descriptor holds them: applied in READY, otherwise
ignored and logged (R489). -/
def State.applyHeldWrites (s : State) : State :=
  if s.ctrlHolds then s else
  s.hif.heldWrites.foldl (fun s w =>
    if s.dev == .ready then s.writeBar0 w.1 w.2.1 w.2.2 else s.accErr 2 w.1)
    { s with hif := { s.hif with heldWrites := [] } }

/-! ### The rows -/

/-- A host write to a BAR0 offset. -/
def execRegisterWrite (off size : Nat) (value : W64) (s : State) : Out :=
  onUnit (decide (off < 0x4000000)) (s.writeBar0 off size value)

/-- HIF_RESET: the key starts a main-side reset (R374). -/
def execHifResetWrite (value : W32) (s : State) : Out := .next (s.writeBar0 8 4 (value.setWidth 64))

/-- SCH_JOURNAL_CFG (R209, R490). -/
def execSchJournalCfgWrite (value : W32) (s : State) : Out := .next (s.writeBar0 0x200040 4 (value.setWidth 64))

/-- HBM_GRAN_LO or HBM_GRAN_HI of a stack (R247, R490). -/
def execHbmGranWrite (k : Nat) (hi : Bool) (value : W64) (s : State) : Out :=
  onUnit (decide (k < 8))
    (if hi then s.writeBar0 (0x800010 + 0x10000 * k) 4 value else s.writeBar0 (0x800008 + 0x10000 * k) 8 value)

/-- CCD_CFG (R238). -/
def execCcdCfgWrite (value : W32) (s : State) : Out := .next (s.writeBar0 0xC00000 4 (value.setWidth 64))

/-- QOS_MIN of group g and master m (R380). -/
def execQosMinWrite (g m : Nat) (value : W32) (s : State) : Out :=
  onUnit (decide (g < 3) && decide (m < 100)) (s.writeBar0 (0x2201000 + 0x200 * g + 4 * m) 4 (value.setWidth 64))

/-- QOS_CFG (R383). -/
def execQosCfgWrite (value : W32) (s : State) : Out := .next (s.writeBar0 0x2200000 4 (value.setWidth 64))

/-- BAR0 offset of a ring's configuration register (R374). -/
def ringCfgOff (r : RingSel) : Nat :=
  match r with
  | .sq q => 0x1008 + 32 * q
  | .cq c => 0x2008 + 32 * c
  | .eq => 0x3008

/-- HIF_SQ_CFG, HIF_CQ_CFG or HIF_EQ_CFG (R355, R372). -/
def execRingCfgWrite (r : RingSel) (value : W32) (s : State) : Out :=
  onUnit (okSel r)
    (s.writeBar0 (ringCfgOff r) 4 (value.setWidth 64))

/-- The mask bit of a vector is cleared (R360). -/
def execMsixVectorUnmask (vec : Nat) (s : State) : Out :=
  onUnit (decide (vec < 128)) (if s.mainOn then s.unmaskVec vec else s)

/-- Held set-up writes are made (R489). -/
def execHeldRegisterWriteApply (s : State) : Out := .next s.applyHeldWrites

end Sys2Proof.Machine
end

