-- ==== Sys2Proof/Machine/Host.lean ====
section
/-! DEFINITION. The host interface beside its registers and descriptors (chapter 13): reset, link, BAR2, doorbells,
descriptor fetch, completions and interrupts. -/

namespace Sys2Proof.Machine

/-! ### Reset and link (R348, R351) -/

/-- A service request of a peer copy. -/
def SvcUse.isCopy : SvcUse → Bool
  | .copy _ _ => true
  | _ => false

/-- What stopped descriptors leave behind beside the host interface: peer copies make no further request, a join in
progress ends (R351). -/
def State.dropDescs (s : State) : State :=
  let s := { s with fab := { s.fab with
    copies := [], copyPoison := [], waiting := s.fab.waiting.filter fun w => !w.2.isCopy } }
  match s.sch.join with
  | none => s
  | some _ =>
    { s with sch := { s.sch with join := none, locked := false, timeOff := s.sch.localOff } }.unmapPorts

/-- The host interface alone is reset (R351, Table 13.10). Register writes that a control descriptor held are made once it
has stopped. -/
def State.resetHif (s : State) : State :=
  let t := s.hifReset
  { t with hif := { t.hif with heldWrites := s.hif.heldWrites } }.dropDescs

/-- PERST#, hot reset, FLR, link down or D3hot exit resets the host interface. PERST# holds link training until it is
released (R498); entry to D3hot resets nothing; a surprise link down sets its AER status bit (PRESUMED, log entry 67). -/
def execHostInterfaceReset (s : State) (cause : HifCause := .flr) : Out :=
  let s := match cause with
    | .perstAssert => { s with supply := { s.supply with perst := true } }
    | .perstRelease => { s with supply := { s.supply with perst := false } }
    | _ => s
  .next (
    if !s.mainOn then s else
    match cause with
    | .perstRelease => if s.sec.stepsDone.contains 1 then { s with hif := { s.hif with linkWidth := 0 } }.linkTrains else s
    | .d3Enter => { s with hif := { s.hif with cfg := { s.hif.cfg with d3hot := true } } }
    | .linkDown =>
      let t := s.resetHif
      { t with hif := { t.hif with cfg := { t.hif.cfg with aerUncorr := 0x20 } } }
    | _ => s.resetHif)

/-- The link settles at a rate and a width (R348). -/
def execLinkChange (rate width : Nat) (flit : Bool) (s : State) : Out :=
  onUnit (decide (rate < 4) && (width == 1 || width == 2 || width == 4)) (
    if !s.mainOn || s.supply.perst then s else
    let s := { s with hif := { s.hif with linkRate := rate, linkWidth := width, linkFlit := flit } }
    s.postEvent 8 (s.regValue .hifLink))

/-! ### BAR2 (R353) -/

/-- The device serves memory accesses of the host: READY, JOINED, RUNNING, DRAINED. -/
def State.served (s : State) : Bool :=
  match s.dev with
  | .ready | .joined | .running | .drained => true
  | _ => false

/-- The parts of a range by 256-byte sector: address, bytes, offset in the range. -/
def sectorPieces (A n : Nat) : List (Nat × Nat × Nat) :=
  if n = 0 then [] else
  (List.range ((A + n - 1) / 256 - A / 256 + 1)).map fun i =>
    let lo := max A ((A / 256 + i) * 256)
    let hi := min (A + n) ((A / 256 + i + 1) * 256)
    (lo, hi - lo, lo - A)

/-- A BAR2 read starts: a request of class 3 per sector. -/
def State.bar2Start (s : State) (off len : Nat) : State :=
  let n := s.hif.bar2Next
  let ps := sectorPieces off len
  let s := { s with hif := { s.hif with bar2Next := n + 1, bar2Open := SMap.set 0 s.hif.bar2Open n ps.length } }
  ps.foldl (fun s p => s.cacheSend
    { addr := p.1, len := p.2.1, write := false, bytes := [], poison := false, who := .bar2 n, cls := 3 }) s

/-- A sector of BAR2 read n has been answered; the end of a read lets the next one that waits start. -/
def State.bar2Got (s : State) (n : Nat) : State :=
  let left := SMap.get 0 s.hif.bar2Open n - 1
  let s := { s with hif := { s.hif with bar2Open := SMap.set 0 s.hif.bar2Open n left } }
  if left ≠ 0 then s else
  match s.hif.bar2Wait with
  | [] => s
  | r :: rest => { s with hif := { s.hif with bar2Wait := rest } }.bar2Start r.1 r.2

/-- A host read through BAR2: all ones outside installed memory, else served at the cache die, at most 32 at once. -/
def execBar2Read (off len : Nat) (s : State) : Out :=
  onUnit (okTlp off len) (
    if !s.mainOn then s
    else if memBytes ≤ off then
      let s := s.accErr 4 off
      { s with hif := { s.hif with
          bar2Out := { off := off, len := len, bytes := [], ep := false, allOnes := true } :: s.hif.bar2Out } }
    else if !s.served then s
    else if 32 ≤ s.hif.bar2Open.length || !s.hif.bar2Wait.isEmpty then
      { s with hif := { s.hif with bar2Wait := s.hif.bar2Wait ++ [(off, len)] } }
    else s.bar2Start off len)

/-- A host write through BAR2: discarded in RUNNING and outside installed memory, else merged at the cache die. -/
def execBar2Write (off len : Nat) (bytes : Mem) (s : State) : Out :=
  onUnit (okTlp off len) (
    if !s.mainOn then s
    else if s.running then s.accErr 5 off
    else if memBytes ≤ off then s.accErr 4 off
    else if !s.served then s
    else
      let d := Mem.take bytes len
      (sectorPieces off len).foldl (fun s p => s.cacheSend
        { addr := p.1, len := p.2.1, write := true, bytes := Mem.slice d p.2.2 p.2.1, poison := false,
          who := .bar2 0, cls := 3 }) s)

/-! ### Doorbells (R354) -/

/-- A doorbell's value is an index of an enabled ring. -/
def doorbellOk (en : Bool) (size v : Nat) : Bool := en && decide (v < 2 ^ size)

/-- The tail of submission ring q is written. -/
def State.sqTail (s : State) (q v : Nat) : State :=
  if doorbellOk (s.sq q).en (s.sq q).size v then s.updSq q fun r => { r with tail := v } else s.accErr 3 (64 * q)

/-- The head of completion ring c is written: waiting entries follow. -/
def State.cqHead (s : State) (c v : Nat) : State :=
  if doorbellOk (s.cq c).en (s.cq c).size v then
    let s := s.updCq c fun r => { r with head := v }
    State.cqDrain c (s.cq c).waiting.length s
  else s.accErr 3 (0x800 + 64 * c)

/-- The head of the event ring is written: waiting records follow. -/
def State.eqHead (s : State) (v : Nat) : State :=
  if doorbellOk s.hif.eq.en s.hif.eq.size v then
    let s := { s with hif := { s.hif with eq := { s.hif.eq with head := v } } }
    State.eqDrain (s.hif.eq.waiting.length + 1) s
  else s.accErr 3 0xC00

/-- A 32-bit write to offset o of BAR4 (Table 13.4): a doorbell, or ignored and logged with kind 3. -/
def State.writeBar4 (s : State) (o v : Nat) : State :=
  if !s.mainOn then s
  else if o < 0x800 && o % 64 == 0 then s.sqTail (o / 64) v
  else if 0x800 ≤ o && o < 0xC00 && o % 64 == 0 then s.cqHead ((o - 0x800) / 64) v
  else if o = 0xC00 then s.eqHead v
  else s.accErr 3 o

/-- A read of BAR4 returns zero. -/
def State.readBar4 (_ : State) (_ : Nat) : Nat := 0

/-- A write meant for a submission ring's tail doorbell, at a BAR4 offset. -/
def execSqTailDoorbell (off : Nat) (value : W32) (s : State) : Out :=
  onUnit (decide (off < 0x10000)) (s.writeBar4 off value.toNat)

/-- A write meant for a completion ring's head doorbell, at a BAR4 offset. -/
def execCqHeadDoorbell (off : Nat) (value : W32) (s : State) : Out :=
  onUnit (decide (off < 0x10000)) (s.writeBar4 off value.toNat)

/-- The event ring's head doorbell. -/
def execEqHeadDoorbell (value : W32) (s : State) : Out := .next (s.writeBar4 0xC00 value.toNat)

/-! ### Descriptors read and completed (R355, R358, R360) -/

/-- Sixteen dwords, whatever the outside gave. -/
def dws16 (dws : List W32) : List W32 := (List.range 16).map fun i => dws.getD i 0

/-- The device reads the slot at the head of ring q, at most 16 ahead of the oldest descriptor not started. -/
def execDescriptorFetch (q : Nat) (dws : List W32) (s : State) : Out :=
  onUnit (decide (q < 32)) (
    let r := s.sq q
    if !s.served || !r.en || r.head == r.tail || decide (16 ≤ r.fetched.length) then s
    else s.updSq q fun r => { r with head := ringNext r.size r.head, fetched := r.fetched ++ [dws16 dws] })

/-- A near-bank host command issued by an earlier descriptor has not completed. -/
def State.nbHostBefore (s : State) (uid : Nat) : Bool :=
  let early (c : NbCmd) : Bool := match c.issuer with | .host u => decide (u < uid) | .block _ _ _ => false
  s.pim.seqs.any fun e => e.2.hostQ.any early || (match e.2.run with | some r => early r.cmd | none => false)

/-- A FENCE has nothing left to wait for: every descriptor that started before it on its ring, or on every ring, has
completed (R368); in IA540 fence mode every host command accepted before it too (R287). -/
def State.fenceDone (s : State) (a : Active) : Bool :=
  !(s.hif.active.any fun x => decide (x.uid < a.uid) && (bitN (dwN a.dws 2) 0 || x.sq == a.sq)) &&
  !(s.pim.compat && s.nbHostBefore a.uid)

/-- A promotion holds: the slot that took the block has ended its ramp (R368, R424). -/
def State.promoteHolds (s : State) (a : Active) : Bool :=
  match s.slotOf (bitsN (dwN a.dws 2) 6 0) with
  | some p => !(s.slotPwr p.1 p.2).ramping && (s.slotPwr p.1 p.2).deferredAt.isNone
  | none => true

/-- A started descriptor has finished, or has nothing left to wait for: status, reason, qualifier and value. -/
def State.outcomeOf (s : State) (a : Active) : Option (Nat × Nat × Nat × Nat) :=
  match a.st with
  | .done status reason qualifier value => some (status, reason, qualifier, value)
  | .running =>
    (match bitsN (dwN a.dws 0) 7 0 with
     | 0x11 => if s.fenceDone a then some (0, 0, 0, 0) else none
     | 0x20 => if s.promoteHolds a then some (0, 0, 0, 0) else none
     | _ => none)

/-- A descriptor has finished: its completion entry is written (R358). -/
def execDescriptorComplete (uid : Nat) (s : State) : Out :=
  .next (
    match s.desc uid with
    | some a => (match s.outcomeOf a with
      | some r => s.complete a r.1 r.2.1 r.2.2.1 r.2.2.2
      | none => s)
    | none => s)

/-- The coalescing delay of ring c has passed since its first entry not yet signalled. -/
def execCqInterruptDelay (c : Nat) (s : State) : Out :=
  onUnit (decide (c < 16)) (
    let r := s.cq c
    if !s.mainOn || !r.ien || r.unsignalled == 0 || decide (s.tick < r.firstAt + 100 * r.delay) then s
    else (s.updCq c fun r => { r with unsignalled := 0 }).raiseVec r.vec)

end Sys2Proof.Machine
end

