-- ==== Sys2Proof/Machine/Cache.lean ====
section
/-! DEFINITION. Requests, fills, reductions and scrubbing at the cache die, the block arrays' scrubbers, and the vertical
bundles (chapters 7 and 8). -/

namespace Sys2Proof.Machine

/-! ### Requests (R213, R214) -/

/-- The request that a slice serves next of some reads or writes, with the grant made, and the others: the banks take
turns in the order of their oldest requests, and a bank grants by R378 (log entry 44). -/
def State.nextReq (s : State) (write : Bool) (rs : List CReq) : Option (CReq × List CReq × State) :=
  let c := (firsts [] 0 rs).filter fun x => !s.reqHeld x.2 && !s.qos.ceiling (if write then 1 else 0) x.2.who.master
  match c with
  | [] => none
  | x :: _ =>
    let here := c.filter fun y => lineSet y.2.line % 32 == lineSet x.2.line % 32
    match s.qosPick (if write then 1 else 0) (bankArb write x.2.line) (fun i => ((rs[i]?).map CReq.len).getD 0)
      (here.map fun x => (x.1, x.2.who.master, x.2.cls)) with
    | none => none
    | some (i, s) => (rs[i]?).map fun x => (x, rs.eraseIdx i, s)

/-- Allocates line L; its victim's dirty sectors go to HBM through the queue, before L's fill completes (R216). -/
def State.allocQueued (s : State) (L cls master : Nat) : State :=
  match s.line L, s.victim L s.cacheWays with
  | none, some (_, some v) =>
    let dirty := match s.line v with | some l => l.dirty | none => 0
    let s := if dirty = 0 then s else
      (s.countPut v dirty).hbmSend { s.backReq v dirty (some L) with cls := cls, master := master }
    (s.dropLine v).allocLine L
  | none, _ => s.allocLine L
  | some _, _ => s

/-- A request joins those that wait for the line's fetch. -/
def State.merge (s : State) (r : CReq) : State :=
  s.updSlice (lineSlice r.line) fun k => { k with merged := k.merged ++ [r] }

/-- Starts the fetch of some sectors of a present line, for a request that waits for it. -/
def State.startFetch (s : State) (mask : BitVec 4) (r : CReq) : State :=
  ((s.updLine r.line fun l => { l with fetching := true }).hbmSend {
    line := r.line, sectors := mask, write := false, data := [], words := [], cls := r.cls, master := r.who.master
    forLine := none, arrived := s.tick, first := r.addr % 1024 / 256 }).merge r

/-- Data on its way to the requester; a poisoned BAR2 read posts its record (R353), and what the L1 fetched again fills it
(R190). -/
def State.deliver (s : State) (r : CReq) : State :=
  let w0 := r.addr / 8
  let n := (r.addr + r.len + 7) / 8 - w0
  let data := Mem.slice s.ccd.mem r.addr r.len
  let words := s.sentWords w0 n
  match r.who with
  | .bar2 n =>
    if SMap.get 0 s.hif.bar2Open n = 0 then s else
    let ep := words.any fun e => e.2.poison
    let s := s.bar2Got n
    let s := { s with hif := { s.hif with
      bar2Out := { off := r.addr, len := r.len, bytes := data, ep := ep, allOnes := false } :: s.hif.bar2Out } }
    if ep then s.post { cls := 2, level := 3, unit := 0x26, code := 1, addr := r.addr } else s
  | .l1Fill b => (s.l1Overtake b (r.addr / 256) s.ccd.responses).l1Fill b (r.addr / 256) data words
  | _ => { s with ccd := { s.ccd with
      responses := s.ccd.responses ++
        [{ who := r.who, addr := r.addr, len := r.len, data := data, words := words, fill := true }] } }

/-- The poison of a write, by 64-bit word of the line (R230). -/
def CReq.psn (r : CReq) : RMap Bool :=
  let w0 := r.addr % 1024 / 8
  if r.poison then RMap.fill false [] w0 ((r.addr % 1024 + r.len + 7) / 8 - w0) true else []

/-- Performs a request whose line is there, or failing that fetches what it needs at once. -/
def State.perform (s : State) (r : CReq) : State :=
  let s := s.serveAs r.cls r.who.master
  if r.write then s.linePut r.line (r.addr % 1024) r.len r.bytes r.psn
  else (s.lineServe r.line (r.addr % 1024) r.len).deliver r

/-- The bytes of its line that a request reads, by offset and length: a write reads the 64-bit words it covers in part. -/
def CReq.reads (r : CReq) : List (Nat × Nat) :=
  let o := r.addr % 1024
  if !r.write then [(o, r.len)]
  else (if o % 8 = 0 then [] else [(o, 1)]) ++ if (o + r.len) % 8 = 0 then [] else [(o + r.len - 1, 1)]

/-- The sectors that a request finds invalid or, where HBM cannot be read at once, finds to hold an uncorrectable word and
has invalidated: they are fetched for it through the channel's queue (R213, R260, R262, Table 8.8). -/
def State.refetch (s : State) (r : CReq) : State × BitVec 4 :=
  let rs := r.reads.filter fun x => s.refetches r.line x.1 x.2
  if rs.isEmpty || (s.serveAs r.cls r.who.master).placeFree (place r.line) then (s, 0)
  else
    (rs.foldl (fun s x => s.secdedRange r.line x.1 x.2) s, rs.foldl (fun m x => m ||| sectorMask x.1 x.2) 0)

/-- A request whose line is there and needs no fetch is performed, unless a word that it reads must be fetched again. -/
def State.performOrFetch (s : State) (r : CReq) : State :=
  let f := s.refetch r
  if f.2 = 0 then s.perform r else f.1.startFetch f.2 r

/-- A read is taken up: it joins a fetch in progress, hits, fetches the sector that is missing, or misses (R213). -/
def State.takeRead (s : State) (r : CReq) : State :=
  match s.line r.line with
  | some l =>
    if l.fetching then s.merge r
    else if sectorMask (r.addr % 1024) r.len &&& ~~~ l.valid = 0 then s.performOrFetch r
    else s.startFetch (sectorMask (r.addr % 1024) r.len) r
  | none => ((s.resurrect r.line).allocQueued r.line r.cls r.who.master).startFetch 0xF r

/-- A write is taken up (R214). -/
def State.takeWrite (s : State) (r : CReq) : State :=
  let busy := match s.line r.line with | some l => l.fetching | none => false
  if busy then s.merge r else
  let s := (s.clearDead r.line).1
  let need := s.writeNeed r.line (r.addr % 1024) r.len
  let s := s.allocQueued r.line r.cls r.who.master
  if need = 0 then s.performOrFetch r else s.startFetch need r

/-- A request that its slice has accepted is taken up. -/
def State.take (s : State) (r : CReq) : State := if r.write then s.takeWrite r else s.takeRead r

/-- A request is accepted: it has passed its link, crossbar and ring, is counted, and is taken up. -/
def State.accept (s : State) (r : CReq) : State :=
  let s := s.serveAs r.cls r.who.master
  let s := match r.who with
    | .bar2 _ => s
    | .thread b _ _ => s.linkGrant b 2
    | .blockStore b => s.linkGrant b 2
    | .l1Fill b => s.linkGrant b 2
  ((s.routeGrant r.line).qosAdd (if r.write then 1 else 0) r.len).take r

/-! ### Accesses that wait (R213, R284) -/

/-- A waiting access can be made. -/
def State.heldFree (s : State) (h : HeldAccess) : Bool :=
  match h with
  | .request f _ => !(s.serveAs f.bwclass.toNat 99).waits (f.op != .read) (vAddr f) (vBytes f)
  | .frame a _ _ _ _ _ => !s.serveSched.waits true a 512
  | .copyData _ c a n _ _ => !(s.serveAs c 96).waits true a n
  | .exchange c a n _ => !(s.serveAs c 96).waits true a n
  | .restore e => (match e.key with | .line L => !s.serveSched.restoreHeld L | .granule _ _ => true)
  | .copyOut uid =>
    (match s.desc uid with
     | some a => !(s.serveHost a.dws).waits false (dwQ a.dws 4) (dwLen a.dws)
     | none => true)
  | .mirror n => !s.mirrorWaits n

/-- Makes an access that has waited; a request's answer goes now. -/
def State.makeHeld (s : State) (h : HeldAccess) : State :=
  match h with
  | .request f p =>
    (match s.vExec f p with
     | (s, some r) => if p = 20 then s.svcSelf f.tag.toNat r else s.vAnswer r
     | (s, none) => s)
  | .frame a d m e k t => s.putFrame a d m e k t
  | .copyData uid c a n d m => s.copyData uid c a n d m
  | .exchange c a n d => s.exchange c a n d
  | .restore e => s.restoreEntry e
  | .copyOut uid => s.copyOutLater uid
  | .mirror n => s.mirrorStart n

/-- Scheduled frame traffic and journal restores: they come before every request (R378). -/
def HeldAccess.sched (h : HeldAccess) : Bool :=
  match h with
  | .frame _ _ _ _ _ _ => true
  | .restore _ => true
  | _ => false

/-- The place of the oldest waiting access that p names and that can be made: none overtakes an earlier one to its line. -/
def State.heldReady (s : State) (p : HeldAccess → Bool) : Option Nat :=
  let l := s.ccd.waiting
  (List.range l.length).find? fun i =>
    match l[i]? with
    | some h => p h && ({ s with ccd := { s.ccd with waiting := l.take i } } : State).heldFree h
    | none => false

/-- Makes the waiting access at place i. -/
def State.makeHeldAt (s : State) (i : Nat) : State :=
  let l := s.ccd.waiting
  match l[i]? with
  | none => s
  | some h =>
    let t := ({ s with ccd := { s.ccd with waiting := l.take i } } : State).makeHeld h
    { t with ccd := { t.ccd with waiting := t.ccd.waiting ++ l.drop (i + 1) } }

/-- What a slice does next of its reads or writes: waiting scheduled traffic first (R378), then its next request, then any
access that has waited. -/
def State.sliceNext (s : State) (sl : Nat) (write : Bool) : State :=
  match s.heldReady HeldAccess.sched with
  | some i => s.makeHeldAt i
  | none =>
    match s.nextReq write (if write then (s.slice sl).writes else (s.slice sl).reads) with
    | some (r, rest, t) =>
      (t.updSlice sl fun k => if write then { k with writes := rest } else { k with reads := rest }).accept r
    | none =>
      match s.heldReady fun _ => true with
      | some i => s.makeHeldAt i
      | none => s

/-- A slice accepts its next read request, or an access that has waited is made. In FAULT the slices issue nothing (R467),
here and in the rows below. -/
def execCacheDieRead (sl : Nat) (s : State) : Out :=
  onUnit (decide (sl < 8)) (if s.dev = .fault then s else s.sliceNext sl false)

/-- A slice accepts its next write request, or an access that has waited is made. -/
def execCacheDieWrite (sl : Nat) (s : State) : Out :=
  onUnit (decide (sl < 8)) (if s.dev = .fault then s else s.sliceNext sl true)

/-- A write-back of the line that L's miss evicted has not reached HBM (R216). -/
def State.evicting (s : State) (L : Nat) : Bool :=
  s.hbmStacks.any fun e => e.2.chans.any fun c => c.2.queue.any fun r => r.write && r.forLine == some L

/-- A fill completes: the requests that wait for the line are taken up again in the order they were accepted (R213), and
those after one that starts another fetch join it. -/
def execCacheDieFill (sl : Nat) (s : State) : Out :=
  onUnit (decide (sl < 8)) (
    if s.dev = .fault then s else
    match (s.slice sl).fills.find? fun L => !s.claimed L && !s.evicting L with
    | none => s
    | some L =>
      let mine := (s.slice sl).merged.filter fun r => r.line == L
      let s := s.updSlice sl fun k => { k with
        fills := k.fills.erase L, merged := k.merged.filter fun r => r.line != L }
      mine.foldl State.take (s.updLine L fun l => { l with fetching := false }))

/-! ### Reductions (R224-R226) -/

/-- Bytes of a source element. -/
def redBytes (op : Nat) : Nat := 256 / (redDest op 256 / 4)

/-- A source element as FP32 (R225, log entry 27). -/
def redConv (op v : Nat) : W32 :=
  match redBytes op with
  | 4 => BitVec.ofNat 32 v
  | 2 => BitVec.ofNat 32 (v * 65536)
  | _ => enc32 ((if op = 2 then e4m3 else e5m2).dec v)

/-- One destination element. -/
def redElem (op : Nat) (first : Bool) (old src : W32) : W32 :=
  if first then src else if 4 ≤ op then fmax32 old src else enc32 ((dec32 old).add (dec32 src))

/-- The source word of a destination element is poisoned. -/
def RedReq.srcDark (r : RedReq) (i : Nat) : Bool := r.srcPoison.getLsbD (i * redBytes r.op / 8)

/-- 256-bit words of a range in the cache die with a word that has never been written. -/
def State.neverWritten (s : State) (A n : Nat) : List Nat :=
  ((List.range (n / 32)).map fun i => A + 32 * i).filter fun a =>
    RMap.anyIn {} s.ccd.words (a / 8) 4 CWord.unwritten

/-- Performs a reduction on its line, which it pins until its last sector is written (R226). -/
def State.reduce (s : State) (r : RedReq) : State :=
  let n := redDest r.op 256
  let L := r.dest / 1024
  let o := r.dest % 1024
  let s := s.serveAs r.cls 98
  let s := if r.first then s else
    let s := s.lineRead L o n
    (s.neverWritten r.dest n).foldl (fun s a =>
      s.postSyndrome 8 { cls := 2, level := 3, unit := 0x20, code := 4, loc := lineSlice L, addr := a }) s
  let old := Mem.slice s.ccd.mem r.dest n
  let words := s.ccd.words
  let elem (i : Nat) : W32 :=
    redElem r.op r.first (Mem.rd32 old (4 * i)) (redConv r.op (Mem.rd r.src (i * redBytes r.op) (redBytes r.op)))
  let data := Mem.ofBytes 0 ((List.range (n / 4)).flatMap fun i =>
    let v := elem i
    [v.setWidth 8, (v >>> 8).setWidth 8, (v >>> 16).setWidth 8, (v >>> 24).setWidth 8])
  let dark (j : Nat) : Bool := r.srcDark (2 * j) || r.srcDark (2 * j + 1) ||
    (!r.first && (RMap.get {} words (r.dest / 8 + j)).poison)
  let psn := (List.range (n / 8)).foldl (fun m j => if dark j then RMap.fill false m (o / 8 + j) 1 true else m) []
  (s.lineWrite L o n data psn).tempPin L true

/-- A reduction must wait for its line, or for the bank's grants (R226, R284, R378). -/
def State.redWaits (s : State) (r : RedReq) : Bool :=
  let n := redDest r.op 256
  let L := r.dest / 1024
  let s := s.serveAs r.cls 98
  s.lineBusy L (if r.first then s.writeNeed L (r.dest % 1024) n else s.readNeed L (r.dest % 1024) n ||| s.writeNeed L (r.dest % 1024) n)
    true || (s.bankGrant true L n s.reqHeld).isNone || !r.first && (s.bankGrant false L n s.reqHeld).isNone

/-- A slice's reduce unit takes its next reduction, in the order of acceptance (R226). -/
def execCacheDieReduction (sl : Nat) (s : State) : Out :=
  onUnit (decide (sl < 8)) (
    if s.dev = .fault then s else
    match (s.slice sl).reds with
    | [] => s
    | r :: rest =>
      if s.redWaits r then s
      else (s.updSlice sl fun k => { k with reds := rest }).reduce r)

/-! ### Scrubbers (R201, R231) -/

/-- Microseconds since a tick, held at the largest 32-bit value. -/
def State.lapUs (s : State) (since : Nat) : W32 := BitVec.ofNat 32 (min 0xFFFFFFFF ((s.tick - since) / 100))

/-- Order of the scrubber: set, then way. -/
def scrubKey (e : Nat × Line) : Nat := lineSet e.1 * 48 + e.2.way

/-- The valid lines of a slice from a scrub position on. -/
def State.scrubFrom (s : State) (sl pos : Nat) : List (Nat × Line) :=
  s.ccd.lines.filter fun e => lineSlice e.1 == sl && decide (pos ≤ scrubKey e)

/-- A bank of a slice has no request waiting. -/
def Slice.bankIdle (k : Slice) (bank : Nat) : Bool :=
  !(k.reads ++ k.writes).any (fun r => lineSet r.line % 32 == bank) &&
    !k.reds.any fun r => lineSet (r.dest / 1024) % 32 == bank

/-- Scrub key of line i of a slice's share of a reserved area that begins at set c of way w: sets first, then ways
(Table 8.1; DESIGN CHOICE, log entry 47). -/
def areaKey (w c i : Nat) : Nat := (c + i) % 8192 * 48 + w + (c + i) / 8192

/-- A check error of an area lies in slice sl: its 1 KiB lines lie in the slices of their numbers modulo 8 (DESIGN CHOICE,
log entry 47). -/
def inSlice (sl : Nat) (e : Nat × Chk) : Bool := e.1 / 128 % 8 == sl

/-- The scrub keys of an area's lines in slice sl that hold a check error. -/
def areaKeys (sl w c : Nat) (m : SMap Chk) : List Nat := (m.filter (inSlice sl)).map fun e => areaKey w c (e.1 / 1024)

/-- The words of the area's line at key k of slice sl, corrected. What stays, and the area offsets of those corrected. -/
def scrubArea (sl w c k : Nat) (m : SMap Chk) : SMap Chk × List Nat :=
  let one (e : Nat × Chk) : Bool := inSlice sl e && areaKey w c (e.1 / 1024) == k && e.2 == .single
  (m.filter fun e => !one e, (m.filter one).map fun e => 8 * e.1)

/-- A journal entry corrected; an uncorrectable word stays as it was copied (Table 8.8). -/
def JEntry.scrubbed (e : JEntry) : JEntry :=
  { e with
    cwords := RMap.mapRange {} e.cwords 0 128 fun c => if c.chk == .single then { c with chk := .good } else c
    words := RMap.mapRange {} e.words 0 256 fun c => if c.chk == .single then { c with chk := .good } else c }

/-- Words with a correctable error in a journal entry. -/
def JEntry.singles (e : JEntry) : Nat :=
  let n (l : List (Nat × Nat)) : Nat := l.foldl (fun a g => a + g.2) 0
  n (RMap.segs {} e.cwords 0 128 fun c => c.chk == .single) + n (RMap.segs {} e.words 0 256 fun c => c.chk == .single)

/-- Journal entries, newest first, with their scrub keys: the entries of slice sl fill its half of the generation, which
begins at line base of the journal ways from way w on, in the order they are made (DESIGN CHOICE, log entry 47). -/
def keyed (sl w base : Nat) : List JEntry → List (Option Nat × JEntry)
  | [] => []
  | e :: es =>
    (if e.home == sl then some (areaKey w 0 (base + (es.filter fun x => x.home == sl).length)) else none, e) :: keyed sl w base es

/-- Journal entries of slice sl with their keys, of generation 1 or 0. -/
def State.keyedGen (s : State) (sl : Nat) (one : Bool) : List (Option Nat × JEntry) :=
  keyed sl s.cacheWays (if one then s.halfCap else 0) (if one then s.sch.gen1 else s.sch.gen0)

/-- The scrub keys of the lines of the reserved ways of slice sl that a visit may change: journal, ply-code, firmware and
working-storage areas (R208, R231; DESIGN CHOICE, log entry 47). -/
def State.reservedKeys (s : State) (sl : Nat) : List Nat :=
  ((s.keyedGen sl false ++ s.keyedGen sl true).filterMap Prod.fst) ++ areaKeys sl 45 0 s.ccd.plyChk ++
    areaKeys sl 47 0 s.ccd.fwChk ++ areaKeys sl 47 2048 s.ccd.workChk

/-- The scrub keys of slice sl from a scrub position on. -/
def State.scrubKeys (s : State) (sl pos : Nat) : List Nat :=
  ((s.scrubFrom sl pos).map scrubKey) ++ (s.reservedKeys sl).filter fun k => decide (pos ≤ k)

/-- The scrubber visits the reserved line at key k of slice sl: each correction counts and posts a CE record with its area
offset, for a journal word that of its line (R240, R455, Table 18.4; DESIGN CHOICE, log entry 40). An uncorrectable word is
left for its fetch (R229). -/
def State.scrubReserved (s : State) (sl k : Nat) : State :=
  let p := scrubArea sl 45 0 k s.ccd.plyChk
  let f := scrubArea sl 47 0 k s.ccd.fwChk
  let u := scrubArea sl 47 2048 k s.ccd.workChk
  let off := ((k % 48 - s.cacheWays) * 8192 + k / 48) * 1024
  let here (l : List (Option Nat × JEntry)) : List Nat :=
    List.replicate ((l.filter fun e => e.1 == some k).map fun e => e.2.singles).sum off
  let fix (l : List (Option Nat × JEntry)) : List JEntry := l.map fun e => if e.1 == some k then e.2.scrubbed else e.2
  let offs := p.2 ++ f.2 ++ u.2 ++ here (s.keyedGen sl false) ++ here (s.keyedGen sl true)
  if offs.isEmpty then s else
  offs.foldl (fun s a => s.postSyndrome 8 { cls := 1, level := 3, unit := 0x20, code := 1, loc := sl, addr := a }) { s with
    ccd := { s.ccd with
      plyChk := p.1, fwChk := f.1, workChk := u.1
      slices := SMap.upd {} s.ccd.slices sl fun k => { k with ce := satAdd k.ce offs.length } }
    sch := { s.sch with gen0 := fix (s.keyedGen sl false), gen1 := fix (s.keyedGen sl true) } }

/-- The scrubber of a slice visits its next line in order of set and way, reserved ways among them; past the last one its lap
completes. -/
def execCacheDieScrub (sl : Nat) (s : State) : Out :=
  onUnit (decide (sl < 8)) (
    if !s.served || !s.ccd.scrubEn then s else
    let pos := (s.slice sl).scrubPos
    let lap (s : State) : State := s.updSlice sl fun k => { k with lap := s.lapUs k.lapStart, scrubPos := 0 }
    let begin_ (s : State) : State := if pos = 0 then s.updSlice sl fun k => { k with lapStart := s.tick } else s
    match s.scrubKeys sl pos with
    | [] => lap (begin_ s)
    | k :: rest =>
      let k := rest.foldl min k
      if !(s.slice sl).bankIdle (k / 48 % 32) then s else
      let here := (s.scrubFrom sl pos).filter fun e => scrubKey e == k
      let s := here.foldl (fun s e => s.secdedRange e.1 0 1024) s.serveScrub
      let s := (begin_ (s.scrubReserved sl k)).updSlice sl fun x => { x with scrubPos := k + 1 }
      if (s.scrubKeys sl (k + 1)).isEmpty then lap s else s)

/-- The scrubber of a bank visits one word: poisoned and unwritten words are skipped, a singly wrong one is corrected and
counted, and an uncorrectable one is marked poisoned (Table 7.10). -/
def State.scrubWord (s : State) (b w : Nat) : State :=
  let st := (s.blk b).wordSt w
  if !st.written || st.poison then s
  else if st.chk != .bad then s.baCorrect b w 1
  else ((s.baCount b st).baRec b w st).updBlk b fun B => { B with
    baSt := RMap.fill {} B.baSt w 1 { written := true, poison := true } }

/-- The L1 line that byte offset o of the array of block b holds: the rows of the L1 range hold the ways of its sets one
after the other (log entry 79). -/
def State.l1At (s : State) (b o : Nat) : Option L1Line :=
  let u := s.l1Units b
  let k := (o - (8 - u) * 0x40000) / 256
  if u = 0 || decide (o < (8 - u) * 0x40000) then none
  else (s.blk b).tg.l1.find? fun l => l.sector % (128 * u) == k / 8 && l.way == k % 8

/-- The scrubber visits the eight words of a row that the L1 holds; poisoned words are skipped, and a sector that it drops is
fetched again (R190, R200, R201). -/
def State.scrubL1 (s : State) (b o : Nat) : State :=
  match s.l1At b o with
  | none => s
  | some l =>
    let r := s.l1Meet b l (o % 256 / 4) 8 true
    if r.2.isNone then r.1.l1Refetch b l.sector else r.1

/-- Laps of a block's scrubber that every bank has completed. -/
def Block.laps (B : Block) : Nat :=
  (List.range 32).foldl (fun a k => min a (SMap.get 0 B.scrubRow k / 2048)) (SMap.get 0 B.scrubRow 0 / 2048)

/-- The scrubber of a block-array bank visits its next row of eight words; a spare slot is not scrubbed. -/
def execBlockArrayScrub (b bank : Nat) (s : State) : Out :=
  onUnit (decide (b < 96) && decide (bank < 32)) (
    if !s.served || !(s.region (b / 12)).scrubEn || (s.slotOf b).isNone then s else
    let w := SMap.get 0 (s.blk b).scrubRow bank % 2048 * 256 + bank * 8
    let s := (List.range 8).foldl (fun s i => s.scrubWord b (w + i)) (s.scrubL1 b (4 * w))
    s.updBlk b fun B =>
      let B : Block := if B.scrubRow.isEmpty then { B with lapStart := s.tick } else B
      let C : Block := { B with scrubRow := SMap.upd 0 B.scrubRow bank (· + 1) }
      if B.laps < C.laps then { C with baLap := s.lapUs B.lapStart, lapStart := s.tick } else C)

/-! ### Vertical bundles (R233-R236) -/

/-- The bundles carry traffic, idle patterns and re-checks: from the end of BOOT step 0x03, and in RECOVERY (R233, R234). -/
def State.bundlesUp (s : State) : Bool :=
  s.served || s.dev == .recovery || (s.dev == .boot && s.sec.stepsDone.contains 3)

/-- What is seen of a bundle since its last idle pattern: a connection that mismatches twice in succession, or to which
three corrected errors point within 10 ms, has failed (R234). -/
def execBundleIdlePattern (k : Nat) (link : BundleLink) (bad : List Nat) (s : State) : Out :=
  onUnit (decide (k < 131200) && okLink link) (
    if !s.bundlesUp then s else
    let b := SMap.get {} s.ccd.bundles k
    let miss := (bad.filter fun c => decide (c < 33) && !b.failed.contains c).eraseDups
    let syn := ((bad.filter fun c => decide (33 ≤ c) && decide (c < 66)).map (· - 33)).filter fun c => !b.failed.contains c
    let errs := (syn.map fun c => (c, s.tick)) ++ b.errs.filter fun e => decide (s.tick < e.2 + 1000000)
    let lost := (List.range 33).filter fun c =>
      miss.contains c && b.suspect.contains c || decide (3 ≤ (errs.filter fun e => e.1 == c).length)
    let s := { s with ccd := { s.ccd with
      bundles := SMap.set {} s.ccd.bundles k { b with
        suspect := miss.filter fun c => !lost.contains c, errs := errs.filter fun e => !lost.contains e.1 } } }
    lost.foldl (fun s c => s.loseConnection k link c) s)

/-- The bundles have re-checked their settings for the band in force: connections are set to the centres of their windows,
those with a narrow window sweep again, and their links hold their traffic; a connection still narrow after that sweep has
failed. With none left, the retune is complete and every link carries traffic again (R233). -/
def execBundleRetuneComplete (s : State) (narrow : List (Nat × BundleLink) := []) (windows : List TapWindow := []) : Out :=
  .next (
    if !s.bundlesUp || !s.ccd.retuning then s else
    let swept (w : TapWindow) : Bool := s.ccd.sweeping.any fun e => e.1 == w.bundle
    let again := narrow ++ (windows.filter fun w => !swept w && decide (w.hi + 1 - w.lo < 24)).map fun w => (w.bundle, w.link)
    let s := windows.foldl (fun s w => s.tapWindow (swept w) w) s
    if again.isEmpty then
      { s with ccd := { s.ccd with retuning := false, sweeping := [], bundleBand := s.thm.stackBand } }
    else { s with ccd := { s.ccd with sweeping := again } })

end Sys2Proof.Machine
end

