-- ==== Sys2Proof/Machine/Image.lean ====
section
/-! DEFINITION. Ply images (R70-R80): the tables of an image as read from host memory, the checks of IMAGE_LOAD in their
order, and what a successful load does. -/

namespace Sys2Proof.Machine

/-! ### The tables -/

/-- A field of the image: n bytes at offset o. -/
def imgF (m : Mem) (o n : Nat) : Nat := Mem.rd m o n

/-- Entry i of the directory: its offset in the image (Table 3.2). -/
def dirAt (m : Mem) (i : Nat) : Nat := imgF m 0x40 8 + 64 * i

/-- Offset and length of logical device i's section. -/
def secSpan (m : Mem) (i : Nat) : Nat × Nat := (imgF m (dirAt m i + 8) 8, imgF m (dirAt m i + 0x10) 8)

/-- The section of logical device i, based at 0, when it lies inside the image and holds its header. -/
def secBytes (m : Mem) (len i : Nat) : Option (Mem × Nat) :=
  let x := secSpan m i
  if x.1 + x.2 ≤ len && 256 ≤ x.2 then some (Mem.slice m x.1 x.2, x.2) else none

/-- A directory entry for logical device i exists (reason 0x0A). -/
def dirHas (m : Mem) (i : Nat) : Bool := decide (i < imgF m 0x48 4) && imgF m (dirAt m i) 4 == i

/-- Code table entry b of a section (Table 3.4). -/
def codeRow (m : Mem) (b : Nat) : CodeEntry :=
  let a := imgF m 0x80 8 + 16 * b
  { baseOff := imgF m a 4, baseLen := imgF m (a + 4) 2, entry := imgF m (a + 6) 2, ovlOff := imgF m (a + 8) 4
    ovlCount := imgF m (a + 12) 2 }

/-- Transfer table entry e of a section (Table 3.5). -/
def xferRow (m : Mem) (e : Nat) : Xfer :=
  let a := imgF m 0x90 8 + 32 * e
  { tick := imgF m a 4, expect := imgF m (a + 4) 1 == 1, port := imgF m (a + 5) 1, frames := imgF m (a + 6) 2
    period := imgF m (a + 8) 2, phase := imgF m (a + 10) 2, flow := imgF m (a + 12) 2
    kind := imgF m (a + 0x17) 1, offset := imgF m (a + 0x10) 7 }

/-- Load list entry l of a section (Table 3.6). -/
def loadRow (m : Mem) (l : Nat) : LoadEntry :=
  let a := imgF m 0xA0 8 + 32 * l
  { fill := imgF m a 1 == 1, kind := imgF m (a + 1) 1, block := imgF m (a + 2) 1, shared := imgF m (a + 3) 1 == 1
    pattern := Mem.rd32 m (a + 4), target := imgF m (a + 8) 8, source := imgF m (a + 0x10) 8
    length := imgF m (a + 0x18) 8 }

/-- Numbers of transfer and load entries of a section. -/
def secCounts (m : Mem) : Nat × Nat := (imgF m 0x98 4, imgF m 0xA8 4)

/-- A section as the device keeps it (Table 3.3). -/
def secOf (m : Mem) : Section where
  ldev := imgF m 0 4
  standby := imgF m 4 4 == 1
  coords := (List.range 4).map fun i => imgF m (8 + i) 1
  timeUp := imgF m 0xC 1
  portFn := (List.range 20).map fun p => imgF m (0x10 + p) 1
  portPartner := (List.range 20).map fun p => imgF m (0x24 + 4 * p) 4
  standbyA := imgF m 0x74 4
  standbyB := imgF m 0x78 4
  code := (List.range 96).map (codeRow m)
  blob := Mem.slice m (imgF m 0x80 8 + 1536) (imgF m 0x88 4)
  blobLen := imgF m 0x88 4
  xfers := (List.range (secCounts m).1).map (xferRow m)
  loads := (List.range (secCounts m).2).map (loadRow m)

/-- The logical devices whose sections a member takes: its own, and on a standby those of the members it serves (R78). -/
def secWanted (m : Mem) (len ldev : Nat) : List Nat :=
  match secBytes m len ldev with
  | none => [ldev]
  | some x =>
    if imgF m (dirAt m ldev + 4) 1 = 1 then
      ldev :: [imgF x.1 0x74 4, imgF x.1 0x78 4].filter fun k => k != 0xFFFFFFFF
    else [ldev]

/-! ### The checks (Table 3.8) -/

/-- Check 1: format, and image_len covers what the header names. -/
def imgFormat (m : Mem) (len : Nat) : Bool :=
  decide (0x200 ≤ len) && imgF m 0 4 == 0x594C5049 && imgF m 4 2 == 1 && imgF m 6 2 == 0x200 && imgF m 8 8 == len &&
  imgF m 0x4C 4 == 64 && decide (imgF m 0x40 8 + 64 * imgF m 0x48 4 ≤ len) &&
  decide (imgF m 0x70 8 + imgF m 0x78 8 ≤ len) && decide (imgF m 0x1A8 8 + 1024 ≤ len)

/-- Reserved fields of a section, as far as its tables lie inside it. -/
def secReserved (m : Mem) (len : Nat) : Bool :=
  zeroSpan m 0xD 3 && zeroSpan m 0x7C 4 && zeroSpan m 0x8C 4 && zeroSpan m 0x9C 4 && zeroSpan m 0xAC 0x54 &&
  ((List.range 96).all fun b =>
    let a := imgF m 0x80 8 + 16 * b
    decide (len < a + 16) || zeroSpan m (a + 14) 2) &&
  (List.range (min (secCounts m).1 (len / 32))).all fun e =>
    let a := imgF m 0x90 8 + 32 * e
    decide (len < a + 32) || (zeroSpan m (a + 14) 2 && zeroSpan m (a + 0x18) 8)

/-- Check 2: reserved fields are zero, in every directory entry, those of sections that the device does not take among them
(DESIGN CHOICE, log entry 93). -/
def imgReserved (m : Mem) (len : Nat) (want : List Nat) : Bool :=
  let sig := imgF m 0x1A8 8
  zeroSpan m 0xA4 4 && zeroSpan m 0x1B0 0x50 && zeroSpan m (sig + 0x308) 0xF8 &&
  ((List.range (imgF m 0x48 4)).all fun i => zeroSpan m (dirAt m i + 5) 3 && zeroSpan m (dirAt m i + 0x18) 8) &&
  want.all fun k =>
    match secBytes m len k with
    | some x => secReserved x.1 x.2
    | none => true

/-- Check 4: the signature, against the owner key hash of an owner-signing licence, if one is installed. -/
def imgSigned (m : Mem) (owner : Option (BitVec 256)) : Bool :=
  let sig := imgF m 0x1A8 8
  match owner with
  | some h =>
    imgF m sig 4 == 1 && sha256 (Mem.span m (sig + 8) 384 ++ Mem.span m (sig + 4) 4) == h &&
    pssVerify (leNat m (sig + 8) 384) (leNat m (sig + 4) 4) (shaSpan m 0 0x200) (leNat m (sig + 0x188) 384)
  | none => zeroSpan m sig 0x308

/-- Torus extents. -/
def imgDims (m : Mem) : List Nat := (List.range 4).map fun i => imgF m (0x20 + i) 1

/-- Host exchange entry i. -/
def xchgRow (m : Mem) (i : Nat) : Xchg :=
  let a := 0xA8 + 16 * i
  { offset := imgF m a 8, len := imgF m (a + 8) 4, output := imgF m (a + 12) 4 == 1 }

/-- Host exchange ranges in use. -/
def xchgs (m : Mem) : List Xchg := (List.range (min 16 (imgF m 0xA0 4))).map (xchgRow m)

/-- Check 5: ranges. -/
def imgRanges (m : Mem) : Bool :=
  let d := imgDims m
  decide (1024 ≤ imgF m 0x18 4) && decide (imgF m 0x18 4 ≤ 1048576) && decide (imgF m 0x1C 1 ≤ 50) &&
  decide (1 ≤ imgF m 0x1E 2) && decide (imgF m 0x1E 2 ≤ 1000) && (d.all fun x => decide (1 ≤ x) && decide (x ≤ 20)) &&
  imgF m 0x24 4 == d.prod && decide (imgF m 0x2C 4 < imgF m 0x24 4) &&
  decide ((d.map (· / 2)).sum ≤ imgF m 0x1D 1) && imgF m 0x48 4 == imgF m 0x24 4 + imgF m 0x28 4 &&
  decide (imgF m 0xA0 4 ≤ 16) &&
  (List.range (min 16 (imgF m 0xA0 4))).all fun i =>
    let x := xchgRow m i
    x.offset % 1024 == 0 && x.len % 1024 == 0 && decide (imgF m (0xA8 + 16 * i + 12) 4 ≤ 1)

/-- Members of the domain, and its largest size under a feature word (check 6). -/
def domainLimit (features : Nat) : Nat :=
  match bitsN features 3 2 with
  | 0 => 1 | 1 => 64 | 2 => 1024 | _ => 20480

/-- Bytes of the journal area (Table 8.2). -/
def journalArea (size : Nat) : Nat := 0x4000000 * 2 ^ size

/-- R_min in ticks (R58). -/
def rMin (area : Nat) : Nat := ceilDiv (4000000 + area) 20000

/-- Check 8: journal demand and allowances (R58, R341). -/
def imgAllow (m : Mem) (area : Nat) : Bool :=
  decide (imgF m 0x30 4 * 1024 ≤ area / 2) && decide (rMin area ≤ imgF m 0x34 4) &&
  (imgF m 0x28 4 == 0 || decide (2651 + imgF m 0x1D 1 * imgF m 0x1E 2 ≤ imgF m 0x34 4 + imgF m 0x38 4))

/-- Check 9: digests of the directory, the shared section and each wanted section. -/
def imgDigests (m : Mem) (len : Nat) (want : List Nat) : Bool :=
  shaSpan m (imgF m 0x40 8) (64 * imgF m 0x48 4) == digestAt m 0x50 &&
  shaSpan m (imgF m 0x70 8) (imgF m 0x78 8) == digestAt m 0x80 &&
  want.all fun k => !dirHas m k ||
    match secBytes m len k with
    | some x => sha256 (Mem.span x.1 0 x.2) == digestAt m (dirAt m k + 0x20)
    | none => false

/-- port_fn (R294, R308): every code once, no unlicensed port, and bonded pairs name one partner. -/
def portsOk (x : Section) (licensed : Nat → Bool) : Bool :=
  let fn (p : Nat) : Nat := x.portFn.getD p 0xFF
  (List.range 20).all fun p => fn p == 0xFF ||
    (decide (fn p ≤ 0x13) && licensed p &&
      (List.range 20).all (fun q => q == p || fn q != fn p) &&
      (decide (0x10 ≤ fn p) ||
        (List.range 20).any fun q => fn q == fn p ^^^ 1 && x.portPartner.getD q 0 == x.portPartner.getD p 0))

/-- A code table entry obeys Table 3.4. -/
def codeRowOk (blobLen : Nat) (c : CodeEntry) : Bool :=
  c.baseOff % 4 == 0 && c.baseLen % 4 == 0 && decide (4 ≤ c.baseLen) && decide (c.baseLen ≤ 32768) &&
  decide (c.baseOff + c.baseLen ≤ blobLen) && c.entry % 4 == 0 && decide (0x4000 ≤ c.entry) &&
  decide (c.entry ≤ 0xBFFC) && decide (c.entry < 0x4000 + c.baseLen) && decide (c.ovlCount ≤ 1024) &&
  (c.ovlCount == 0 || decide (c.ovlOff + 16384 * c.ovlCount ≤ blobLen))

/-- A transfer table entry obeys Table 3.5 and R319; its kind byte is given. -/
def xferRowOk (plyLen : Nat) (fn : List Nat) (kindByte : Nat) (x : Xfer) : Bool :=
  decide (x.tick < plyLen) && decide (kindByte ≤ 1) && decide (x.port < 20) && fn.getD x.port 0xFF != 0xFF &&
  decide (1 ≤ x.frames) && decide (1 ≤ x.period) && decide (x.phase < x.period) &&
  match x.kind with
  | 0 | 1 => true
  | 2 => decide (bitsN x.offset 55 48 ≤ 95) && bitsN x.offset 47 21 == 0
  | 4 => bitsN x.offset 55 6 == 0
  | _ => false

/-- Two expect entries of one port share a flow and can apply in one ply (R305). -/
def flowClash (x y : Xfer) : Bool :=
  x.expect && y.expect && x.port == y.port && x.flow == y.flow &&
  ((x.phase : Int) - y.phase) % (Nat.gcd x.period y.period : Int) == 0

/-- A load list entry obeys Table 3.6; its op and src bytes are given. -/
def loadRowOk (opByte srcByte ownLen sharedLen : Nat) (l : LoadEntry) : Bool :=
  decide (opByte ≤ 1) && decide (l.kind ≤ 2) && l.target % 1024 == 0 && l.length % 1024 == 0 && l.length != 0 &&
  (if l.kind = 2 then decide (l.block ≤ 95) else l.block == 0) &&
  (l.fill || (decide (srcByte ≤ 1) && decide (l.source + l.length ≤ if l.shared then sharedLen else ownLen)))

/-- A section obeys the tables (check 10): its header agrees with the directory, and its tables lie inside it. -/
def secOk (m : Mem) (len plyLen sharedLen ldev role : Nat) (licensed : Nat → Bool) : Bool :=
  let n := secCounts m
  imgF m 0 4 == ldev && imgF m 4 4 == role && decide (role ≤ 1) && decide (n.1 ≤ 262144) && decide (n.2 ≤ 65536) &&
  decide (imgF m 0x80 8 + 1536 + imgF m 0x88 4 ≤ len) && decide (imgF m 0x90 8 + 32 * n.1 ≤ len) &&
  decide (imgF m 0xA0 8 + 32 * n.2 ≤ len) &&
  (let x := secOf m
   portsOk x licensed && x.code.all (codeRowOk x.blobLen) &&
   ((List.range n.1).all fun e => xferRowOk plyLen x.portFn (imgF m (imgF m 0x90 8 + 32 * e + 4) 1) (xferRow m e)) &&
   ((List.range n.1).all fun e => (List.range e).all fun f => !flowClash (xferRow m e) (xferRow m f)) &&
   (List.range n.2).all fun l =>
     let a := imgF m 0xA0 8 + 32 * l
     loadRowOk (imgF m a 1) (imgF m (a + 3) 1) len sharedLen (loadRow m l))

/-- Check 10 over the wanted sections. -/
def imgTables (m : Mem) (len : Nat) (want : List Nat) (licensed : Nat → Bool) : Bool :=
  want.all fun k => dirHas m k &&
    match secBytes m len k with
    | some x => secOk x.1 x.2 (imgF m 0x18 4) (imgF m 0x78 8) k (imgF m (dirAt m k + 4) 1) licensed
    | none => false

/-- A load entry stays inside its target; a transfer entry's frames do (R74). -/
def secInside (x : Section) : Bool :=
  (x.loads.all fun l => decide (l.target + l.length ≤ if l.kind = 2 then baBytes else memBytes)) &&
  x.xfers.all fun e =>
    match e.kind with
    | 0 | 1 => decide (e.offset + 512 * e.frames ≤ memBytes)
    | 2 => decide (bitsN e.offset 20 0 + 512 * e.frames ≤ baBytes)
    | _ => true

/-- Check 11: the ply-code area, and ranges. -/
def imgFits (secs : List Section) : Bool :=
  decide ((secs.map fun x => 1536 + x.blobLen + 32 * x.xfers.length).sum ≤ 0x8000000) && secs.all secInside

/-- What the checks of IMAGE_LOAD are made against. -/
structure LoadEnv where
  ldev : Nat
  fw : Nat
  features : Nat
  area : Nat
  owner : Option (BitVec 256)
  licensed : Nat → Bool

/-- The sections a member takes, once the tables are known to be whole. -/
def secsOf (m : Mem) (len : Nat) (want : List Nat) : List Section :=
  want.filterMap fun k => (secBytes m len k).map fun x => secOf x.1

/-- The first failing check of Table 3.8, up to 0x0B, of the image read from host memory (len bytes); or the image. -/
def imgCheck (v : LoadEnv) (m : Mem) (len : Nat) : Nat ⊕ Image :=
  if !imgFormat m len then .inl 1 else
  let want := if dirHas m v.ldev then secWanted m len v.ldev else []
  if !imgReserved m len want then .inl 2
  else if v.fw < imgF m 0x3C 4 then .inl 3
  else if !imgSigned m v.owner then .inl 4
  else if !imgRanges m then .inl 5
  else if domainLimit v.features < imgF m 0x24 4 + imgF m 0x28 4 then .inl 6
  else if imgF m 0x18 4 < 150 + imgF m 0x1D 1 * imgF m 0x1E 2 + 256 then .inl 7
  else if !imgAllow m v.area then .inl 8
  else if !imgDigests m len want then .inl 9
  else if want.isEmpty || !imgTables m len want v.licensed then .inl 0xA
  else
    let secs := secsOf m len want
    if !imgFits secs then .inl 0xB
    else match secs with
      | [] => .inl 0xA
      | own :: served =>
        .inr {
          imageId := Mem.rd64 m 0x10, plyLen := imgF m 0x18 4, slack := imgF m 0x1C 1, checkDiam := imgF m 0x1D 1
          hopBudget := imgF m 0x1E 2, dims := imgDims m, nActive := imgF m 0x24 4, nStandby := imgF m 0x28 4
          timeMaster := imgF m 0x2C 4, journalLines := imgF m 0x30 4, rollbackAllow := imgF m 0x34 4
          takeoverAllow := imgF m 0x38 4, xchg := xchgs m, ldev := v.ldev, own := own, served := served
          digest := shaSpan m 0 0x200 }

/-- The owner key hash that an installed owner-signing licence names (R76, R405). -/
def State.ownerKey (s : State) : Option (BitVec 256) :=
  (s.flash.installed.find? fun x => !s.sec.ignored.getLsbD x.1 && licSigns x.2).map fun x => licOwner x.2

/-- The environment of a load now. -/
def State.loadEnv (s : State) (ldev : Nat) : LoadEnv where
  ldev := ldev
  fw := match s.sec.running with | some f => f.version.toNat | none => 0
  features := s.sec.features.toNat
  area := journalArea s.sch.journalSize.toNat
  owner := s.ownerKey
  licensed := s.portLicensed

/-! ### Loading (R75, R79, R80) -/

/-- The bytes that a load list entry writes. -/
def loadData (own shared : Mem) (l : LoadEntry) : Mem :=
  if l.fill then Mem.pattern l.pattern l.length
  else Mem.slice (if l.shared then shared else own) l.source l.length

/-- A memory error stops the entry: a line of its target lies in a dead channel (R78, R260; log entry 77). -/
def State.entryDead (s : State) (l : LoadEntry) : Bool :=
  decide (l.kind < 2) && (linesOf l.target l.length).any fun L => let p := place L; (s.chan p.stk p.ch).state == 2

/-- Writes bytes of a load entry's target. -/
def State.loadWrite (s : State) (l : LoadEntry) (o n : Nat) (d : Mem) : State :=
  if l.kind < 2 then s.devWrite (l.target + o) n d []
  else if (s.slotOf l.block).isSome then s.baWrite l.block (l.target + o) n d [] else s

/-- A load entry that stopped: each word of its target holds its prior value or the loaded one (R79). A word is 32 bytes
of device memory, 4 bytes of a block array. -/
def State.loadStopped (s : State) (d : Mem) (l : LoadEntry) : State :=
  let w := if l.kind < 2 then 32 else 4
  (List.range (l.length / w)).foldl (fun s i =>
    if s.freeBool then s.tookFree.loadWrite l (w * i) w (Mem.slice d (w * i) w) else s.tookFree) s

/-- Executes one load list entry, its data given: the state, and the reason that stops the load, or 0. A refused pin
counts as a target outside installed memory (R220), and leaves none of the entry's own lines pinned (DESIGN CHOICE, log
entry 95). -/
def State.loadOne (s : State) (d : Mem) (l : LoadEntry) : State × Nat :=
  if s.entryDead l then (s.loadStopped d l, 0xC) else
  if l.kind = 1 then
    match (linesOf l.target l.length).foldl (fun (acc : Option State) L => acc.bind fun s => s.pinLine L false) (some s) with
    | some t => (t.loadWrite l 0 l.length d, 0)
    | none => (s, 0xB)
  else (s.loadWrite l 0 l.length d, 0)

/-- Executes load entries with their data in order, until one stops. -/
def State.loadAll : List (Mem × LoadEntry) → State → State × Nat
  | [], s => (s, 0)
  | x :: xs, s =>
    let r := s.loadOne x.1 x.2
    if r.2 = 0 then State.loadAll xs r.1 else r

/-- The load entries, with their data, of the member's own section and then, on a standby, of those it serves,
standby_b's last (R78, R342). -/
def loadsOf (m : Mem) (secs : List Section) : List (Mem × LoadEntry) :=
  let shared := Mem.slice m (imgF m 0x70 8) (imgF m 0x78 8)
  secs.flatMap fun x =>
    let sp := secSpan m x.ldev
    let own := Mem.slice m sp.1 sp.2
    x.loads.map fun l => (loadData own shared l, l)

/-- Places the image: code blobs in the ply-code area from its first byte, then every mapped sequencer's base segment (R80).
The transfer tables stay decoded in State.image and take no bytes of the area (DESIGN CHOICE, log entry 93). -/
def State.placeImage (s : State) (im : Image) : State :=
  let blobs := (im.own :: im.served).foldl (fun (acc : Mem × Nat) x =>
    (Mem.splice acc.1 acc.2 x.blobLen x.blob, acc.2 + x.blobLen)) (([] : Mem), 0)
  let s := { s with
    image := some im
    ccd := { s.ccd with plyCode := blobs.1, plyChk := [] }
    blocks := SMap.mapVals {} s.blocks fun B => { B with tg := { B.tg with icChk := [] } } }
  (List.range 96).foldl (fun s b => if (s.slotOf b).isSome then s.loadSeq b 0xFFFF else s) s

/-- IMAGE_LOAD of an image read as m, for a descriptor of class cls: status and reason, and the state it leaves. -/
def State.loadImage (s : State) (cls ldev len : Nat) (m : Mem) : State × Nat × Nat :=
  let s := s.discardImage
  match imgCheck (s.loadEnv ldev) m len with
  | .inl r => (s, 3, r)
  | .inr im =>
    let r := State.loadAll (loadsOf m (im.own :: im.served)) (s.serveAs cls 96)
    if r.2 = 0 then (r.1.placeImage im, 0, 0) else (r.1, 3, r.2)

/-- IMAGE_LOAD whose read fails at load entry n: what was written stays, and no image is loaded (R78, R79). -/
def State.loadCut (s : State) (cls ldev len : Nat) (m : Mem) (n : Nat) : State × Nat × Nat :=
  let s := s.discardImage
  match imgCheck (s.loadEnv ldev) m len with
  | .inl r => (s, 3, r)
  | .inr im =>
    let l := loadsOf m (im.own :: im.served)
    let r := State.loadAll (l.take n) (s.serveAs cls 96)
    if r.2 ≠ 0 then (r.1, 3, r.2) else
    match l[n]? with
    | some x => (r.1.loadStopped x.1 x.2, 8, 0)
    | none => (r.1, 8, 0)

end Sys2Proof.Machine
end

