-- ==== Sys2Proof/Machine/Records.lean ====
section
/-! DEFINITION. Records that QUERY and the management port return (R369, R407, R450, R454, R468): identity, error records,
slot maps, measurements, licences, thermal snapshot, replace record. -/

namespace Sys2Proof.Machine

/-- Writes a digest, first byte at address a. -/
def Mem.wrDigest (m : Mem) (a : Nat) (d : BitVec 256) : Mem := Mem.splice m a 32 (Mem.ofBytes 0 (digestBytes d))

/-- Item 0x01: identity, 64 bytes. The key hash is given while the identity is valid (R397). -/
def State.identityRec (s : State) : Mem :=
  let m := Mem.wr64 [] 0 s.flash.serial
  let m := Mem.wr32 m 8 (match s.sec.running with | some f => f.version | none => 0)
  let m := Mem.wr32 m 12 s.sec.features
  match s.validId with
  | some d => Mem.wrDigest m 16 d
  | none => m

/-- The 64 bytes of an error record, with its CRC. -/
def ErrRec.bytes (r : ErrRec) : Mem := Mem.wr32 r.bytes0 0x3C (crc32 (Mem.span r.bytes0 0 0x3C))

/-- Index of the oldest record that the log holds. -/
def Err.oldest (e : Err) : Nat := (e.next - BitVec.ofNat 32 e.log.length).toNat

/-- The log's records from an index on, or from the oldest still held (R456), oldest first. -/
def Err.from (e : Err) (index : Nat) : List ErrRec :=
  e.log.reverse.drop (index - e.oldest)

/-- Item 0x03: RGN_SLOT_MAP of regions 0-7, 128 bytes. -/
def State.slotMapRec (s : State) : Mem :=
  (List.range 8).foldl (fun m r =>
    Mem.wr m (8 * r) 8 ((s.region r).slotState.toNat + (s.region r).mapGen.toNat <<< 56)) []

/-- Measurement 2 (Table 15.9): the installed licences in slot order. -/
def Flash.licenceDigest (f : Flash) : BitVec 256 :=
  if f.installed.isEmpty then 0 else sha256 (f.installed.flatMap fun x => Mem.span x.2 0 512)

/-- Measurements 1 to 3 (Table 15.9). -/
def State.measured3 (s : State) : List (BitVec 256) :=
  [match s.sec.running with | some f => f.digest | none => 0, s.flash.licenceDigest,
   match s.image with | some im => im.digest | none => 0]

/-- Item 0x06: the thermal snapshot, 320 bytes (Table 17.4). -/
def State.thermalRec (s : State) : Mem :=
  let t := s.thm
  let put (m : Mem) (a n : Nat) (l : List (Option Int)) : Mem :=
    (List.range n).foldl (fun m i => Mem.wr m (a + 2 * i) 2 (temp16 (l.getD i none))) m
  let m := Mem.wr [] 0 8 t.round
  let m := Mem.wr m 8 8 t.roundTick
  let m := put m 0x10 96 t.last.diode
  let m := put m 0xD0 8 t.last.hbm
  let m := put m 0xE0 2 t.last.ext
  let m := put m 0xE4 4 t.last.therm
  let g (j : Nat) : GroupEst := SMap.get {} t.groups j
  let m := put m 0xEC 8 ((List.range 8).map fun j => if (g j).est.isSome then some (g j).code else none)
  let m := (List.range 8).foldl (fun m r => Mem.wr m (0xFC + r) 1 (s.region r).gTh) m
  let m := Mem.wr m 0x104 1 t.stackBand
  let m := (List.range 8).foldl (fun m k => Mem.wr m (0x105 + k) 1 (s.stack k).band) m
  Mem.wr m 0x10D 1 ((List.range 8).foldl (fun a j => a + b2n ((g j).governs && (g j).est.isSome) <<< j) 0)

/-- The replace record, 256 bytes (Table 18.11). -/
def Flash.replaceRec (f : Flash) : Mem :=
  let r := f.replace
  let m := Mem.wr [] 0 8 (0x52435052 + 0x0001 <<< 32 + 0x0100 <<< 48)
  let m := Mem.wr32 m 8 r.seq
  let m := Mem.wr32 m 0xC r.fwVersion
  let m := Mem.wr64 m 0x10 f.serial
  let m := Mem.wr m 0x18 2 (r.replace.toNat + r.cause.toNat <<< 8)
  let m := Mem.wr32 m 0x1C r.ldev
  let m := Mem.wr64 m 0x20 r.imageId
  let m := Mem.wr64 m 0x28 r.ply
  let m := Mem.wr64 m 0x30 r.tick
  let m := Mem.wr32 m 0x38 r.causes
  let m := Mem.wr32 m 0x3C r.errIndex
  let m := Mem.wr m 0x40 16 r.exclude.toNat
  let m := Mem.wr m 0x50 32 r.hbmDead.toNat
  let m := Mem.wr m 0x70 4 (r.promotions.toNat + r.endgames.toNat <<< 16)
  Mem.wr32 m 0xFC (crc32 (Mem.span m 0 0xFC))

/-- Items of QUERY (Table 13.9a). -/
def queryItems : List Nat := [1, 2, 3, 4, 5, 6, 7]

/-- Bytes of one record of an item. -/
def itemSize (item : Nat) : Nat :=
  match item with
  | 3 => 128 | 4 => 32 | 5 => 512 | 6 => 320 | 7 => 256 | _ => 64

/-- Indexed items. -/
def itemIndexed (item : Nat) : Bool := item == 2 || item == 4 || item == 5

/-- The records of an item from an index on. -/
def State.itemRecs (s : State) (item index : Nat) : List Mem :=
  match item with
  | 1 => [s.identityRec]
  | 2 => (s.err.from index).map ErrRec.bytes
  | 3 => [s.slotMapRec]
  | 4 => (s.measured3.drop index).map fun d => Mem.wrDigest [] 0 d
  | 5 => (s.flash.installed.drop index).map fun x => x.2
  | 6 => [s.thermalRec]
  | _ => [s.flash.replaceRec]

/-- Records one after another, each of n bytes. -/
def packRecs (n : Nat) (rs : List Mem) : Mem :=
  (List.range rs.length).foldl (fun m i => Mem.splice m (n * i) n (rs.getD i [])) []

end Sys2Proof.Machine
end

