-- ==== Sys2Proof/Machine/Descriptors.lean ====
section
/-! DEFINITION. Descriptors (chapter 13): which one may start, the checks of R364 in their order, and what each opcode
does. -/

namespace Sys2Proof.Machine

/-! ### Fields (R356, R365) -/

/-- The opcode. -/
def dwOp (dws : List W32) : Nat := bitsN (dwN dws 0) 7 0

/-- The opcodes of Table 13.7. -/
def knownOps : List Nat :=
  [0x01, 0x02, 0x03, 0x04, 0x05, 0x08, 0x09, 0x0A, 0x0B, 0x10, 0x11, 0x14, 0x18, 0x19, 0x1A, 0x1C, 0x20, 0x21]

/-- Control descriptors (R357). -/
def ctrlOp (op : Nat) : Bool := [0x08, 0x09, 0x0A, 0x0B, 0x18, 0x19, 0x1A, 0x1C, 0x20, 0x21].contains op

/-- Data movers (R357). -/
def moverOp (op : Nat) : Bool := [0x02, 0x03, 0x04, 0x05, 0x10].contains op

/-- Bits of dword i that Tables 13.5 and 13.8 give a meaning. -/
def dwMask (op i : Nat) : Nat :=
  let full := 0xFFFFFFFF
  match i with
  | 0 => 0x00073FFF
  | 1 => full
  | _ =>
    let fields : List Nat :=
      match op with
      | 0x02 | 0x03 => [full, full, full, full, full, 0xFF]
      | 0x04 => [full, full, full, full, full, 0xFF, 0x1FFFF]
      | 0x05 => [0xFF01, full, full, full, full, 0xFF]
      | 0x08 => [full, full, full, full, 0x7FFF]
      | 0x09 | 0x11 => [1]
      | 0x0A | 0x1C => [full, full, full, full]
      | 0x10 => [7, 0, full, full, full, 0xFF]
      | 0x14 => List.replicate 14 full
      | 0x18 => [full, full, full]
      | 0x19 => [0xFF, full, full, full, full]
      | 0x1A => [0xFF]
      | 0x20 => [0x7F]
      | _ => []
    fields.getD (i - 2) 0

/-- No reserved bit is set (R3). -/
def dwReservedOk (dws : List W32) : Bool :=
  (List.range 16).all fun i => dwN dws i &&& dwMask (dwOp dws) i == dwN dws i

/-- dir and peer of a COPY_D2D. -/
def dwDir (dws : List W32) : Nat := bitsN (dwN dws 8) 1 0

/-- See dwDir. -/
def dwPeer (dws : List W32) : Nat := bitsN (dwN dws 8) 16 2

/-- The ranges of Table 13.8 and of R366 and R369. -/
def dwRangesOk (dws : List W32) : Bool :=
  let len := dwLen dws
  match dwOp dws with
  | 0x02 | 0x03 => len != 0
  | 0x04 =>
    len != 0 && dwDir dws != 3 && (dwDir dws != 0 || dwPeer dws == 0) &&
    (dwDir dws == 0 || (dwQ dws 2 % 256 == 0 && dwQ dws 4 % 256 == 0 && len % 256 == 0))
  | 0x05 =>
    let b := bitsN (dwN dws 2) 15 8
    len != 0 && len % 1024 == 0 && dwQ dws 4 % 1024 == 0 &&
    (if bitN (dwN dws 2) 0 then (decide (b < 96) || b == 0xFF) && decide (dwQ dws 4 < baBytes) else b == 0)
  | 0x10 => len != 0 && len % 1024 == 0 && dwQ dws 4 % 1024 == 0 && bitsN (dwN dws 2) 2 0 != 7
  | 0x18 => decide (1 ≤ dwN dws 4) && decide (dwN dws 4 ≤ 65536)
  | 0x19 =>
    let item := bitsN (dwN dws 2) 7 0
    let n := dwN dws 6
    queryItems.contains item && dwQ dws 4 % 64 == 0 && n % 64 == 0 && decide (64 ≤ n) && decide (n ≤ 0x100000) &&
    (itemIndexed item || dwN dws 3 == 0) && decide (itemSize item ≤ n)
  | 0x1A => bitsN (dwN dws 2) 7 0 == 1 || bitsN (dwN dws 2) 7 0 == 3
  | 0x1C => decide (1 ≤ dwQ dws 4) && decide (dwQ dws 4 ≤ 0x10000000)
  | 0x20 => decide (bitsN (dwN dws 2) 6 0 ≤ 95)
  | _ => true

/-- Check 1 of R364; of a PIM_SUBMIT only the opcode and the common fields are checked here. -/
def dwWellFormed (dws : List W32) : Bool := knownOps.contains (dwOp dws) && dwReservedOk dws && dwRangesOk dws

/-! ### The state check (R364, Table 13.7) -/

/-- n bytes at A lie wholly inside one input exchange range. -/
def State.insideInput (s : State) (A n : Nat) : Bool :=
  match s.image with
  | some im => im.xchg.any fun x => !x.output && decide (x.offset ≤ A) && decide (A + n ≤ x.offset + x.len)
  | none => false

/-- n bytes at A meet an output exchange range. -/
def State.meetsOutput (s : State) (A n : Nat) : Bool :=
  match s.image with
  | some im => im.xchg.any fun x => x.output && decide (x.offset < A + n) && decide (A < x.offset + x.len)
  | none => false

/-- The opcode is permitted now; an armed device counts as RUNNING. DOMAIN_JOIN needs a loaded image (R81). -/
def State.dwPermitted (s : State) (dws : List W32) : Bool :=
  let op := dwOp dws
  match (if s.armed then DevState.running else s.dev) with
  | .ready =>
    [0x01, 0x02, 0x03, 0x05, 0x08, 0x10, 0x11, 0x14, 0x18, 0x19, 0x1A, 0x1C, 0x20].contains op ||
    (op == 0x04 && dwDir dws == 0) || (op == 0x09 && !bitN (dwN dws 2) 0 && s.image.isSome)
  | .joined =>
    [0x01, 0x02, 0x03, 0x04, 0x05, 0x0A, 0x10, 0x11, 0x14, 0x19, 0x1A, 0x1C, 0x20, 0x21].contains op ||
    (op == 0x09 && bitN (dwN dws 2) 0)
  | .running =>
    [0x01, 0x03, 0x0B, 0x11, 0x19, 0x1A, 0x1C, 0x21].contains op ||
    (op == 0x02 && s.insideInput (dwQ dws 4) (dwLen dws)) ||
    (op == 0x10 && [0, 1, 3].contains (bitsN (dwN dws 2) 2 0)) || (op == 0x14 && s.pim.hostInRun)
  | .drained => [0x01, 0x03, 0x11, 0x18, 0x19, 0x1A, 0x1C].contains op
  | _ => false

/-- Checks 1 to 3 of R364: the status of the first that fails. -/
def State.dwRefused (s : State) (dws : List W32) : Option Nat :=
  if !dwWellFormed dws then some 0x01
  else if (dwOp dws == 0x20 || dwOp dws == 0x21) && !s.hif.expert then some 0x10
  else if !s.dwPermitted dws then some 0x02
  else none

/-! ### Starting (R357) -/

/-- A control descriptor runs; an armed PLY_RUN has left the sequence. -/
def State.ctrlBusy (s : State) : Bool :=
  s.hif.active.any fun a => ctrlOp (dwOp a.dws) && a.st == .running &&
    !(match s.sch.arming with | some r => r.uid == a.uid | none => false)

/-- Data movers that run. -/
def State.moversRunning (s : State) : Nat :=
  (s.hif.active.filter fun a => moverOp (dwOp a.dws) && a.st == .running).length

/-- A mover waits for the lines of its device range (R213, R222, R284, R378); one that accesses them later does not. -/
def State.moverWaits (s : State) (dws : List W32) : Bool :=
  let A := dwQ dws 4
  let n := dwLen dws
  let h := s.serveHost dws
  match dwOp dws with
  | 0x02 => !s.running && h.waits true A n
  | 0x03 => !(s.running && s.meetsOutput A n) && h.waits false A n
  | 0x04 => dwDir dws != 2 && h.waits false (dwQ dws 2) n || dwDir dws == 0 && h.waits true A n
  | 0x05 => !bitN (dwN dws 2) 0 && h.waits true A n
  | 0x10 => h.rangeWaits (bitsN (dwN dws 2) 2 0) A n
  | _ => false

/-- Ring q's next descriptor can start: descriptors are served, outside endgame; its barrier, the control sequence and
the mover limit allow it; no held granule or register write goes first (R357, R364, R489, Table 10.6). -/
def State.canStart (s : State) (q : Nat) (dws : List W32) : Bool :=
  s.served && !s.inEndgame && s.pim.heldGran.isEmpty && (s.hif.heldWrites.isEmpty || s.ctrlHolds) &&
  (!bitN (dwN dws 0) 13 || !s.hif.active.any fun a => a.sq == q) &&
  (!ctrlOp (dwOp dws) || !s.ctrlBusy) &&
  (!moverOp (dwOp dws) || (decide (s.moversRunning < 16) && (!dwWellFormed dws || !s.moverWaits dws)))

/-- Ring q's next descriptor, if it can start. -/
def State.startable (s : State) (q : Nat) : Option (List W32) :=
  (s.sq q).fetched.head?.bind fun d => if s.canStart q d then some d else none

/-- The ring whose descriptor starts now: round-robin among those that can start. -/
def State.pickRing (s : State) : Option Nat :=
  ((List.range 32).map fun i => (s.hif.startPtr + i) % 32).find? fun q => (s.startable q).isSome

/-- The next descriptor of ring q leaves its ring and is active. -/
def State.beginDesc (s : State) (q : Nat) (d : List W32) : State :=
  let s := s.updSq q fun r => { r with fetched := r.fetched.drop 1 }
  { s with hif := { s.hif with
      active := s.hif.active ++ [{ uid := s.hif.nextUid, sq := q, dws := d, st := .running }]
      nextUid := s.hif.nextUid + 1, startPtr := (q + 1) % 32 } }

/-- Starts ring q's next descriptor when it is this row's and its turn: a failing check ends it, else run has its
effect. -/
def State.startDesc (s : State) (q : Nat) (mine : List W32 → Bool) (run : Active → State → State) : State :=
  if s.pickRing ≠ some q then s else
  match s.startable q with
  | none => s
  | some d =>
    if !mine d then s else
    let uid := s.hif.nextUid
    let t := s.beginDesc q d
    match s.dwRefused d with
    | some st => t.finish uid st 0 0 0
    | none => run { uid := uid, sq := q, dws := d, st := .running } t

/-- A row of a descriptor: ring q must exist. -/
def descRow (q : Nat) (s : State) (mine : List W32 → Bool) (run : Active → State → State) : Out :=
  onUnit (decide (q < 32)) (s.startDesc q mine run)

/-- The descriptor's opcode is op. -/
def isOp (op : Nat) (dws : List W32) : Bool := dwOp dws == op

/-- A CACHE_RANGE of operation k. -/
def isRange (k : Nat) (dws : List W32) : Bool := dwOp dws == 0x10 && bitsN (dwN dws 2) 2 0 == k

/-- A QUERY of an item. -/
def isQuery (k : Nat) (dws : List W32) : Bool := dwOp dws == 0x19 && bitsN (dwN dws 2) 7 0 == k

/-- Completes with a status alone. -/
def State.endDesc (s : State) (a : Active) (status : Nat) : State := s.finish a.uid status 0 0 0

/-! ### Data movers (R366, R367) -/

/-- COPY_H2D: in RUNNING held until a boundary, otherwise written now. -/
def State.copyIn (a : Active) (rd : HostRead) (s : State) : State :=
  let A := dwQ a.dws 4
  let n := dwLen a.dws
  if !installed A n then s.endDesc a 0x0A else
  match rd with
  | .failed | .cut _ _ => s.endDesc a 8
  | .data m =>
    if s.running then
      { s with hif := { s.hif with heldCopies := s.hif.heldCopies ++
          [{ uid := a.uid, dev := A, len := n, bytes := Mem.take m n, applied := none, arrivedAt := 0 }] } }
    else ((s.serveHost a.dws).devWrite A n (Mem.take m n) []).finish a.uid 0 0 0 (kib n)

/-- COPY_D2H: in RUNNING, a range that meets an output exchange range waits for a committing verdict. -/
def State.copyOutOrWait (a : Active) (s : State) : State :=
  let A := dwQ a.dws 4
  let n := dwLen a.dws
  if !installed A n then s.endDesc a 0x0A
  else if s.running && s.meetsOutput A n then
    { s with hif := { s.hif with waitingD2h := s.hif.waitingD2h ++ [a.uid] } }
  else s.copyOut a

/-- Poison by destination word when n bytes at A are copied to B: a word that takes a byte of a poisoned word. -/
def movedPoison (B : Nat) (ep : List (Nat × Nat)) : RMap Bool :=
  ep.foldl (fun m g => RMap.fill false m ((B + g.1) / 8 - B / 8) ((B + g.1 + g.2 - 1) / 8 + 1 - (B + g.1) / 8) true) []

/-- COPY_D2D, dir 0. -/
def State.copyLocal (a : Active) (s : State) : State :=
  let A := dwQ a.dws 2
  let B := dwQ a.dws 4
  let n := dwLen a.dws
  let r := (s.serveHost a.dws).devRead A n
  let ep := epParts A n r.2.2
  (r.1.devWrite B n r.2.1 (movedPoison B ep)).finish a.uid (if ep.isEmpty then 0 else 9) 0 0 (kib n)

/-- The requests of a peer copy: 512 B where the peer's address is aligned to it and 512 B are left, else 256 B (R310,
R366; DEDUCED, log entry 22): offset and size. -/
def peerParts (addr : Nat) : Nat → Nat → Nat → List (Nat × Nat)
  | 0, _, _ => []
  | fuel + 1, off, left =>
    if left = 0 then []
    else if (addr + off) % 512 = 0 && 512 ≤ left then (off, 512) :: peerParts addr fuel (off + 512) (left - 512)
    else (off, 256) :: peerParts addr fuel (off + 256) (left - 256)

/-- COPY_D2D to or from a peer: writes carry data read here, reads deliver here when answered. -/
def State.copyPeer (a : Active) (s : State) : State :=
  let src := dwQ a.dws 2
  let dst := dwQ a.dws 4
  let n := dwLen a.dws
  let peer := dwPeer a.dws
  let cls := dwClass a.dws
  let s := s.serveHost a.dws
  let s := { s with fab := { s.fab with copies := SMap.set 0 s.fab.copies a.uid n } }
  if dwDir a.dws = 1 then
    let r := (peerParts dst (n / 256) 0 n).foldl (fun (acc : State × List (VFrame × SvcUse)) p =>
      let d := acc.1.devRead (src + p.1) p.2
      let m := chunkMask p.2 d.2.2
      let t := if m = 0 || d.1.fab.copyPoison.contains a.uid then d.1 else
        { d.1 with fab := { d.1.fab with copyPoison := a.uid :: d.1.fab.copyPoison } }
      (t, acc.2 ++ [(t.mkReq .write peer (dst + p.1) p.2 cls d.2.1 m, SvcUse.copy a.uid p.1)])) (s, [])
    r.1.svcRequest r.2
  else
    s.svcRequest ((peerParts src (n / 256) 0 n).map fun p =>
      (s.mkReq .read peer (src + p.1) p.2 cls [] 0, SvcUse.copy a.uid p.1))

/-- COPY_D2D. -/
def State.copyDev (a : Active) (s : State) : State :=
  if !installed (dwQ a.dws 2) (dwLen a.dws) || !installed (dwQ a.dws 4) (dwLen a.dws) then s.endDesc a 0x0A
  else if dwDir a.dws = 0 then s.copyLocal a
  else s.copyPeer a

/-- FILL. -/
def State.fill (a : Active) (s : State) : State :=
  let o := dwQ a.dws 4
  let n := dwLen a.dws
  let p := a.dws.getD 3 0
  let s := s.serveHost a.dws
  if bitN (dwN a.dws 2) 0 then
    if baBytes < o + n then s.endDesc a 0x0A
    else (s.fillArray (bitsN (dwN a.dws 2) 15 8) o n p).finish a.uid 0 0 0 (kib n)
  else if !installed o n then s.endDesc a 0x0A
  else (s.fillDev o n p).finish a.uid 0 0 0 (kib n)

/-- CACHE_RANGE operations 0 to 4 and 6. -/
def State.cacheRange (op : Nat) (a : Active) (s : State) : State :=
  let A := dwQ a.dws 4
  let n := dwLen a.dws
  if !installed A n then s.endDesc a 0x0A
  else ((s.serveHost a.dws).rangeOp op A n).finish a.uid 0 0 0 (kib n)

/-- CACHE_RANGE operation 5: a refused pin ends it with status 0x06 and the lines pinned (R220, R368). -/
def State.cachePin (a : Active) (s : State) : State :=
  let A := dwQ a.dws 4
  let n := dwLen a.dws
  if !installed A n then s.endDesc a 0x0A else
  let r := (s.serveHost a.dws).pinRange A n
  if r.2.2 then r.1.finish a.uid 0 0 0 (kib n) else r.1.finish a.uid 6 0 0 r.2.1

/-! ### Control descriptors (R368) -/

/-- Nothing at the cache die or HBM can make a line wait. -/
def State.memCalm (s : State) : Bool :=
  s.ccd.waiting.isEmpty && s.ccd.lines.all (fun e => !e.2.fetching && !s.heldLine e.2) &&
  s.ccd.slices.all (fun e => e.2.reads.isEmpty && e.2.writes.isEmpty) && s.pim.seqs.all (fun e => e.2.run.isNone) &&
  s.hbmStacks.all fun e => e.2.chans.all fun c =>
    c.2.state != 1 && !c.2.retrainDue && c.2.window.isNone && c.2.queue.isEmpty && c.2.bypass.isEmpty

/-- IMAGE_LOAD waits for the lines that its load lists write (R284). -/
def State.imageWaits (s : State) (d : List W32) (rd : HostRead) : Bool :=
  !s.memCalm &&
  match rd with
  | .failed => false
  | .data m | .cut m _ =>
    let len := dwQ d 4
    match imgCheck (s.loadEnv (bitsN (dwN d 6) 14 0)) (Mem.take m len) len with
    | .inl _ => false
    | .inr im => (im.own :: im.served).any fun x => x.loads.any fun l =>
        decide (l.kind < 2) && (s.serveHost d).waits true l.target l.length

/-- IMAGE_LOAD: a failed read leaves no image loaded; one that fails before the load lists has written nothing (R78,
R79). -/
def State.imageLoad (a : Active) (rd : HostRead) (s : State) : State :=
  match rd with
  | .failed => s.discardImage.endDesc a 8
  | .data m =>
    let len := dwQ a.dws 4
    let r := s.loadImage (dwClass a.dws) (bitsN (dwN a.dws 6) 14 0) len (Mem.take m len)
    r.1.finish a.uid r.2.1 r.2.2 0 0
  | .cut m n =>
    let len := dwQ a.dws 4
    let r := s.loadCut (dwClass a.dws) (bitsN (dwN a.dws 6) 14 0) len (Mem.take m len) n
    r.1.finish a.uid r.2.1 r.2.2 0 0

/-- The domain needs the mirroring licence for this member (R333). -/
def Section.needsMirror (x : Section) : Bool := x.standby || !x.standbys.isEmpty

/-- Every port takes its function and hop budget from the image (R81). -/
def State.mapPorts (s : State) (im : Image) : State :=
  (List.range 20).foldl (fun s p => s.updPort p fun k =>
    let fn := im.own.portFn.getD p 0xFF
    { k with fn := fn, budget := if fn = 0xFF then 0 else im.hopBudget }) s

/-- DOMAIN_JOIN (R81): functions, then the latency measurement of every port with a partner, whose JOIN leaves when its
latency is known (R303); then the join rows go on. -/
def State.joinStart (a : Active) (s : State) : State :=
  match s.image with
  | none => s.endDesc a 2
  | some im =>
    if im.own.needsMirror && !bitN s.sec.features.toNat 6 then s.finish a.uid 4 0x24 0 0 else
    let s := s.mapPorts im
    let s := { s with sch := { s.sch with
      join := some { uid := a.uid, startTick := s.tick, lastSent := s.tick }
      locked := false, holdover := false, timeLost := false } }
    s.joinPorts.foldl (fun s p => (s.updPort p fun k => { k with joinOwn := true, remeasure := true }).sendEcho p) s

/-- DOMAIN_JOIN with leave (R82): the ports carry nothing more, the local count serves again, READY. -/
def State.leave (a : Active) (s : State) : State :=
  let s := { s with
    sch := { s.sch with
      locked := false, holdover := false, timeLost := false, timeOff := s.sch.localOff, flood := none
      laterArms := [] }
    standby := { s.standby with place := none }
    pwr := { s.pwr with steer := 0 } }
  (s.unmapPorts.enter .ready).endDesc a 0

/-- DOMAIN_JOIN. -/
def State.joinOrLeave (a : Active) (s : State) : State :=
  if bitN (dwN a.dws 2) 0 then s.leave a else s.joinStart a

/-- PLY_RUN arms the device, unless an event waits to be acknowledged (R44, R363). -/
def State.armRun (a : Active) (s : State) : State :=
  if s.hif.pendTimeLost || s.hif.pendUnrecoverable then s.endDesc a 0x0E
  else { s with sch := { s.sch with
    arming := some { uid := a.uid, ply := BitVec.ofNat 64 (dwQ a.dws 2), tick := dwQ a.dws 4 } } }

/-- PLY_STOP: latched, or the withdrawal of an arming whose start is not fixed (R46, R47). -/
def State.plyStop (a : Active) (s : State) : State :=
  match s.sch.arming with
  | some r =>
    if s.sch.firstStart.isSome then { s with sch := { s.sch with stopLatch := some (some a.uid) } }
    else { s with sch := { s.sch with arming := some { r with withdrawn := some (some a.uid, s.dom) } } }
  | none => { s with sch := { s.sch with stopLatch := some (some a.uid) } }

/-- LICENCE_INSTALL (R402-R404). -/
def State.licenceInstall (a : Active) (rd : HostRead) (flashOk : Bool) (s : State) : State :=
  match rd with
  | .failed | .cut _ _ => s.endDesc a 8
  | .data m =>
    let len := dwN a.dws 4
    let m := Mem.take m len
    let key := match s.sec.running with
      | some f => (f.trustModulus, f.trustExponent, f.version)
      | none => (0, 0, 0)
    match licCheck m len s.validId key.1 key.2.1 key.2.2 with
    | some r => s.finish a.uid 0xB r 0 0
    | none =>
      if s.sec.licAt == some (licId m, s.tick, true) then s.finish a.uid 0xB 6 0 0 else
      match s.flash.licSlot m with
      | .inl r => s.finish a.uid 0xB r 0 0
      | .inr k => if flashOk then (s.takeLicence k m).endDesc a 0 else s.licenceTorn.finish a.uid 0xB 9 0 0

/-- QUERY: whole records of the item, as many as fit (R369). -/
def State.query (a : Active) (s : State) : State :=
  let item := bitsN (dwN a.dws 2) 7 0
  let size := itemSize item
  let rs := (s.itemRecs item (dwN a.dws 3)).take (dwN a.dws 6 / size)
  let n := size * rs.length
  let s := if rs.isEmpty then s else
    s.hostWrite { addr := dwQ a.dws 4, len := n, bytes := packRecs size rs, ep := [] }
  s.finish a.uid 0 0 0 n

/-- EVENT_ACK clears the bit of its event (R363). -/
def State.eventAck (a : Active) (s : State) : State :=
  let s := if bitsN (dwN a.dws 2) 7 0 = 1 then { s with hif := { s.hif with pendTimeLost := false } }
    else { s with hif := { s.hif with pendUnrecoverable := false } }
  s.endDesc a 0

/-- FW_STAGE: the image is checked in the order of Table 15.5 and its write to the store begins (R392, R393). -/
def State.fwStage (a : Active) (rd : HostRead) (s : State) : State :=
  match rd with
  | .failed | .cut _ _ => s.endDesc a 8
  | .data m =>
    let len := dwQ a.dws 4
    match fwCheck (Mem.take m len) len s.flash.floor with
    | .inl r => s.finish a.uid 0xC r 0 0
    | .inr f =>
      if s.sec.staging.isSome then s.finish a.uid 0xC 6 0 0
      else s.beginStore f (some a.uid)

/-- PROMOTE: the region's spare takes the block, or status 0x11 (R368). -/
def State.promoteDesc (a : Active) (s : State) : State :=
  let b := bitsN (dwN a.dws 2) 6 0
  if (s.spareOf (b / 12)).isNone || (s.slotOf b).isNone then s.endDesc a 0x11 else s.promoteNow b 0

/-- DRAIN: endgame at once in JOINED, withdrawing an arming; in RUNNING the member is culprit from now on (R368). -/
def State.drainDesc (s : State) : State :=
  if s.running then
    { s with sch := { s.sch with drainCause := some (s.sch.drainCause.getD 4) } }
  else
    let arm := s.sch.arming
    let s := s.startEndgame 4 s.sch.committed 0
    match arm with
    | some r => s.finish r.uid 0xD 0 0 0
    | none => s

/-! ### PIM_SUBMIT (R282, R290) -/

/-- PIM_SUBMIT: licence, host read, checks, host queue; a command beyond its 16 entries waits behind it. -/
def State.pimSubmit (a : Active) (rd : HostRead) (s : State) : State :=
  let stk := bitsN (dwN a.dws 2) 2 0
  let iss : NbIssuer := .host a.uid
  if !s.nbLicensed || s.sec.nbFailed then s.nbFail stk iss stk 1 else
  match rd with
  | .failed | .cut _ _ => s.nbFail stk iss stk 8
  | .data m =>
    let prog := (List.range (bitsN (dwN a.dws 3) 5 0 + 1)).map fun i => Mem.rd32 m (4 * i)
    match nbBuild iss false (dwClass a.dws) a.dws prog with
    | .inl reason => s.nbFail stk iss stk reason
    | .inr c =>
      let s := s.updNb stk fun k => { k with hostQ := k.hostQ ++ [c] }
      if s.pim.compat && (s.nbStack stk).hostQ.length ≤ 16 then s.endDesc a 0 else s

/-! ### The rows -/

/-- NOP completes at its start; an opcode outside Table 13.7 ends here too, as malformed. -/
def execHostNop (q : Nat) (s : State) : Out :=
  descRow q s (fun d => isOp 0x01 d || !knownOps.contains (dwOp d)) fun a s => s.endDesc a 0

/-- COPY_H2D. -/
def execCopyH2d (q : Nat) (rd : HostRead) (s : State) : Out := descRow q s (isOp 0x02) (State.copyIn · rd)

/-- COPY_D2H. -/
def execCopyD2h (q : Nat) (s : State) : Out := descRow q s (isOp 0x03) State.copyOutOrWait

/-- COPY_D2D. -/
def execCopyD2d (q : Nat) (s : State) : Out := descRow q s (isOp 0x04) State.copyDev

/-- FILL. -/
def execHostFill (q : Nat) (s : State) : Out := descRow q s (isOp 0x05) State.fill

/-- IMAGE_LOAD. -/
def execImageLoad (q : Nat) (rd : HostRead) (s : State) : Out :=
  descRow q s (fun d => isOp 0x08 d && ((s.dwRefused d).isSome || !s.imageWaits d rd)) (State.imageLoad · rd)

/-- DOMAIN_JOIN; one with leave set and a failing check ends here too. -/
def execDomainJoin (q : Nat) (s : State) : Out :=
  descRow q s (fun d => isOp 0x09 d && !bitN (dwN d 2) 0) State.joinOrLeave

/-- DOMAIN_JOIN with leave set. -/
def execDomainLeave (q : Nat) (s : State) : Out :=
  descRow q s (fun d => isOp 0x09 d && bitN (dwN d 2) 0) State.joinOrLeave

/-- PLY_RUN. -/
def execPlyRun (q : Nat) (s : State) : Out := descRow q s (isOp 0x0A) State.armRun

/-- PLY_STOP. -/
def execPlyStop (q : Nat) (s : State) : Out := descRow q s (isOp 0x0B) State.plyStop

/-- CACHE_RANGE operation 0; operation 7 ends here, as malformed. -/
def execCacheRangePrefetch (q : Nat) (s : State) : Out :=
  descRow q s (fun d => isRange 0 d || isRange 7 d) (State.cacheRange 0)

/-- CACHE_RANGE operation 1. -/
def execCacheRangeFlush (q : Nat) (s : State) : Out := descRow q s (isRange 1) (State.cacheRange 1)

/-- CACHE_RANGE operation 2. -/
def execCacheRangeInvalidate (q : Nat) (s : State) : Out := descRow q s (isRange 2) (State.cacheRange 2)

/-- CACHE_RANGE operation 3. -/
def execCacheRangeCleanInvalidate (q : Nat) (s : State) : Out := descRow q s (isRange 3) (State.cacheRange 3)

/-- CACHE_RANGE operation 4. -/
def execCacheRangeDead (q : Nat) (s : State) : Out := descRow q s (isRange 4) (State.cacheRange 4)

/-- CACHE_RANGE operation 5. -/
def execCacheRangePin (q : Nat) (s : State) : Out := descRow q s (isRange 5) State.cachePin

/-- CACHE_RANGE operation 6. -/
def execCacheRangeUnpin (q : Nat) (s : State) : Out := descRow q s (isRange 6) (State.cacheRange 6)

/-- FENCE: it stays active until its wait is over (execDescriptorComplete). -/
def execHostFence (q : Nat) (s : State) : Out :=
  descRow q s (isOp 0x11) fun a s => if s.fenceDone a then s.endDesc a 0 else s

/-- PIM_SUBMIT. -/
def execPimSubmit (q : Nat) (rd : HostRead) (s : State) : Out := descRow q s (isOp 0x14) (State.pimSubmit · rd)

/-- LICENCE_INSTALL. -/
def execLicenceInstall (q : Nat) (rd : HostRead) (flashOk : Bool) (s : State) : Out :=
  descRow q s (isOp 0x18) (State.licenceInstall · rd flashOk)

/-- QUERY item 0x01; an item outside Table 13.9a ends here, as malformed. -/
def execQueryIdentity (q : Nat) (s : State) : Out :=
  descRow q s (fun d => isQuery 1 d || (isOp 0x19 d && !queryItems.contains (bitsN (dwN d 2) 7 0))) State.query

/-- QUERY item 0x02. -/
def execQueryErrorLog (q : Nat) (s : State) : Out := descRow q s (isQuery 2) State.query

/-- QUERY item 0x03. -/
def execQuerySlotMap (q : Nat) (s : State) : Out := descRow q s (isQuery 3) State.query

/-- QUERY item 0x04. -/
def execQueryMeasurements (q : Nat) (s : State) : Out := descRow q s (isQuery 4) State.query

/-- QUERY item 0x05. -/
def execQueryLicences (q : Nat) (s : State) : Out := descRow q s (isQuery 5) State.query

/-- QUERY item 0x06. -/
def execQueryThermal (q : Nat) (s : State) : Out := descRow q s (isQuery 6) State.query

/-- QUERY item 0x07. -/
def execQueryReplace (q : Nat) (s : State) : Out := descRow q s (isQuery 7) State.query

/-- EVENT_ACK. -/
def execEventAck (q : Nat) (s : State) : Out := descRow q s (isOp 0x1A) State.eventAck

/-- FW_STAGE. -/
def execFwStage (q : Nat) (rd : HostRead) (s : State) : Out := descRow q s (isOp 0x1C) (State.fwStage · rd)

/-- PROMOTE. -/
def execPromote (q : Nat) (s : State) : Out := descRow q s (isOp 0x20) State.promoteDesc

/-- DRAIN: it completes on entering DRAINED. -/
def execDrain (q : Nat) (s : State) : Out := descRow q s (isOp 0x21) fun _ s => s.drainDesc

end Sys2Proof.Machine
end

