-- ==== Sys2Proof/Machine/Hbm.lean ====
section
/-! DEFINITION. The HBM channels: serving requests, interface errors and retraining, refresh, scrubbing, and row remap
(chapter 9). -/

namespace Sys2Proof.Machine

/-- Bytes of a request. -/
def HReq.size (r : HReq) : Nat := 256 * ((List.range 4).filter fun q => r.sectors.getLsbD q).length

/-- The channel has the request's row open. -/
def Chan.hasOpen (c : Chan) (r : HReq) : Bool :=
  let p := place r.line
  SMap.get 0 c.openRow p.b == p.row + 1

/-- Among requests to banks that a running near-bank command opens, those of class 0 come first (Table 10.6). -/
def State.windowFirst (s : State) (stk ch : Nat) (can : List (Nat × HReq)) : List (Nat × HReq) :=
  let opened (x : Nat × HReq) : Bool := (s.nbOpens stk ch (place x.2.line).b).isSome
  if can.any fun x => opened x && x.2.cls == 0 then can.filter fun x => !opened x || x.2.cls == 0 else can

/-- The place in the reorder queue of the request that is served next (R251): one that has waited 640 ns, else scheduled
traffic, else one to an open row, else any, by R378; requests to one line stay in order. The grant moves the pointer past
its requester (R381). -/
def State.queuePick (s : State) (stk ch : Nat) : Option (Nat × State) :=
  let c := s.chan stk ch
  let q := c.queue.take 64
  let can := (List.range q.length).filterMap fun i =>
    match q[i]? with
    | some r => if s.hbmHeld r || (q.take i).any fun x => x.line == r.line then none else some (i, r)
    | none => none
  let can := s.windowFirst stk ch can
  let pick (xs : List (Nat × HReq)) : Option (Nat × State) :=
    match xs.find? fun x => decide (100 ≤ x.2.master) with
    | some x => some (x.1, s)
    | none =>
      s.qosPick (2 + stk) (chanArb stk ch) (fun i => ((q[i]?).map HReq.size).getD 0) (xs.map fun x => (x.1, x.2.master, x.2.cls))
  match can.find? fun x => decide (x.2.arrived + 64 ≤ s.tick) with
  | some x => pick [x]
  | none =>
    let opn := can.filter fun x => c.hasOpen x.2
    pick (if opn.isEmpty || can.any (fun x => decide (100 ≤ x.2.master)) then can else opn)

/-- Notes that the fetch of a line has arrived. -/
def State.arrived (s : State) (L : Nat) : State :=
  s.updSlice (lineSlice L) fun k => { k with fills := if k.fills.contains L then k.fills else k.fills ++ [L] }

/-- The sectors of a request that its line still lacks. -/
def State.lacking (s : State) (r : HReq) : BitVec 4 :=
  match s.line r.line with | some l => r.sectors &&& ~~~ l.valid | none => 0

/-- Performs a request: fetches the sectors it wants that are still missing, or stores a write-back. -/
def State.runRequest (s : State) (r : HReq) : State :=
  let s := s.serveAs r.cls r.master
  if r.write then s.hbmPut r.line r.sectors r.data r.words
  else
    let need := s.lacking r
    (if need = 0 then s else s.fetchNow r.line need r.first).arrived r.line

/-- A request whose access still fails after a retraining (R259): some of the words read are delivered poisoned; a write
leaves each of its words at either value (log entry 5). -/
def State.failRequest (s : State) (r : HReq) : State :=
  let t := s.serveAs r.cls r.master
  if r.write then t.tornPut r.line r.sectors r.data r.words
  else (s.runRequest r).poisonRead r.line (s.lacking r)

/-- Serves a request that has left its list, with the number of CRC failures it meets; put returns it to the front. -/
def State.serveRequest (s : State) (stk ch n : Nat) (r : HReq) (put : HReq → State → State) : State :=
  if (s.chan stk ch).state = 2 || n = 0 then s.runRequest r
  else if r.retried then (s.crcFailed stk ch 1).failRequest r
  else if n < 3 then (s.runRequest r).crcFailed stk ch n
  else (put { r with retried := true } (s.crcFailed stk ch 3)).retrain stk ch

/-- An interface check that a band change has started meets n CRC failures; with none due, the next access made without a
queued request meets them: the retraining that a third failure starts begins now, and the access comes after it (R257, R259;
DESIGN CHOICE, log entries 44 and 72). -/
def State.channelCheck (s : State) (stk ch n : Nat) : State :=
  let c := s.chan stk ch
  if c.state = 2 then s
  else if !c.checkDue then
    if n < 3 then s.updChan stk ch fun c => { c with crcDue := n }
    else ((s.updChan stk ch fun c => { c with crcDue := if 3 < n then 3 else 0 }).crcFailed stk ch 3).retrain stk ch
  else
    let s := (s.updChan stk ch fun c => { c with checkDue := false }).crcFailed stk ch (min n 3)
    if n < 3 then s else s.retrain stk ch

/-- A channel serves its next request: the first of the bypass's eight entries that need not wait (R254, R284), then the
queue; with no request it makes its check. Requests wait while it retrains. -/
def execHbmRequestService (stk ch crcFails : Nat) (s : State) : Out :=
  onUnit (decide (stk < 8) && decide (ch < 32)) (
    let c := s.chan stk ch
    if !s.alive || c.state == 1 || c.retrainDue || s.sharedHolds then s else
    match (c.bypass.take 8).find? fun r => !s.hbmHeld r with
    | some r =>
      (s.updChan stk ch fun c => { c with bypass := c.bypass.erase r }).serveRequest stk ch crcFails r fun r s =>
        s.updChan stk ch fun c => { c with bypass := r :: c.bypass }
    | none =>
      match s.queuePick stk ch with
      | some (i, s) =>
        (match c.queue[i]? with
         | some r =>
           (s.updChan stk ch fun c => { c with queue := c.queue.eraseIdx i }).serveRequest stk ch crcFails r fun r s =>
             s.updChan stk ch fun c => { c with queue := r :: c.queue }
         | none => s)
      | none => if c.bypass.isEmpty && c.queue.isEmpty then s.channelCheck stk ch crcFails else s)

/-! ### Refresh (R256) -/

/-- tREFI of a band in ticks of 5 ns. -/
def tRefi (band : Nat) : Nat := if band = 0 then 780 else if band = 1 then 390 else 195

/-- Channel ch starts its refresh in this tick: offset ch * tREFI / 32 within each interval. -/
def State.refreshDue (s : State) (stk ch : Nat) : Bool :=
  let c := s.chan stk ch
  let t := 32 * tRefi c.refBand
  decide ((64 * s.tick + t - ch * tRefi c.refBand) % t < 64) && c.refreshedAt != some s.tick

/-- A channel's refresh: its rows close and the stack's band is in force; within a near-bank segment it is deferred. -/
def execHbmRefresh (stk ch : Nat) (s : State) : Out :=
  onUnit (decide (stk < 8) && decide (ch < 32)) (
    if !s.mainOn || !s.refreshDue stk ch then s else
    let deferred := match (s.nbStack stk).run with
      | some r => r.cmd.pairLo ≤ ch && ch ≤ r.cmd.pairHi && (match r.phase with | .segment _ => true | _ => false)
      | none => false
    s.updChan stk ch fun c => { c with
      refreshedAt := some s.tick, refBand := (s.stack stk).band
      deferred := if deferred then c.deferred + 1 else c.deferred
      openRow := if deferred then c.openRow else [] })

/-! ### Scrubbing (R258) -/

/-- Lines of a channel. -/
def chanLines : Nat := 2621440

/-- The first line from m on that lies in a protected granule. -/
def Stack.nextProt (k : Stack) (m : Nat) : Nat :=
  if chanLines ≤ m then chanLines
  else if k.isOpen m then
    match (List.range 80).find? fun g => decide (m >>> 15 < g) && !k.isOpen (32768 * g) with
    | some g => 32768 * g
    | none => chanLines
  else m

/-- The first line from m on that the scrubber visits: open granules and the row of a live window are skipped. -/
def State.scrubLine (s : State) (stk ch m : Nat) : Nat :=
  let k := s.stack stk
  let m := k.nextProt m
  match (s.chan stk ch).window with
  | some w => if m >>> 6 = w.row && (m >>> 1) % 32 = w.bank then k.nextProt (m / 2 * 2 + 2) else m
  | none => m

/-- The scrubber reads one word: marked words are skipped, a correctable one is written back corrected, an uncorrectable
one makes its row a candidate. -/
def State.scrubHbmWord (s : State) (p : Place) (w : Nat) : State :=
  let key := p.store * 32 + w
  let h := RMap.get {} s.hbmWords key
  match h.mark, h.chk with
  | .data, .single => { s.hbmCorrected p with hbmWords := RMap.fill {} s.hbmWords key 1 { mark := .data } }
  | .data, .bad => (s.hbmPoisonRec p 2 2 (lineAt p.stk p.ch p.m * 1024 + 32 * w)).candidate p
  | _, _ => s

/-- A channel's scrubber visits its next line, when its queues are empty; past the last one its lap completes. Words whose
read fails after a retraining post their records (R259). -/
def execHbmScrub (stk ch : Nat) (s : State) : Out :=
  onUnit (decide (stk < 8) && decide (ch < 32)) (
    let c := s.chan stk ch
    if !s.served || !(s.stack stk).scrubEn || c.state != 0 || c.retrainDue || !c.queue.isEmpty || !c.bypass.isEmpty then s
    else
      let lap (s : State) : State := s.updChan stk ch fun c =>
        { c with lap := s.lapUs c.lapStart, lapped := true, scrubPos := 0 }
      let s := s.serveScrub
      let begun := if c.scrubPos = 0 then s.updChan stk ch fun c => { c with lapStart := s.tick } else s
      let m := s.scrubLine stk ch c.scrubPos
      if chanLines ≤ m then lap begun else
      let p := place (lineAt stk ch m)
      if s.bankHeld stk ch p.b then s else
      let c := (begun.openBank p).crcMet p
      let f : State × List Nat := if c.2 then c.1.failedRead (lineAt stk ch m) 0xF else (c.1, [])
      let s := (List.range 32).foldl (fun s w => if f.2.contains w then s else s.scrubHbmWord p w) f.1
      let s := s.updChan stk ch fun c => { c with scrubPos := m + 1 }
      if chanLines ≤ s.scrubLine stk ch (m + 1) then lap s else s)

/-! ### Retraining (R260) -/

/-- The next channel of a stack in channel order that waits for its retraining begins it. -/
def State.nextRetrain (s : State) (stk : Nat) : State :=
  match (List.range 32).find? fun c => (s.chan stk c).retrainDue with
  | some c => (s.updChan stk c fun k => { k with retrainDue := false }).retrain stk c
  | none => s

/-- A channel is dead: the replace record takes its bit, and the member becomes a persistent culprit or enters
endgame. -/
def State.channelDead (s : State) (stk ch : Nat) : State :=
  let s := s.updChan stk ch fun c => { c with state := 2, failsInRow := 3, retrainDue := false }
  let s := s.writeReplace fun r => { r with hbmDead := r.hbmDead ||| BitVec.ofNat 256 (2 ^ (32 * stk + ch)) }
  match s.dev with
  | .running => if s.err.phase ≠ 0 then s else s.makePersistent 7
  | .joined => s.startEndgame 7 s.sch.committed 0
  | _ => s

/-- A channel's retraining ends. A channel that failed takes its turn again; the third failure in succession kills it. -/
def execHbmRetrainComplete (stk ch : Nat) (ok : Bool) (s : State) : Out :=
  onUnit (decide (stk < 8) && decide (ch < 32)) (
    let c := s.chan stk ch
    if !s.alive || c.state != 1 then s
    else if ok then (s.updChan stk ch fun c => { c with state := 0, failsInRow := 0 }).nextRetrain stk
    else if c.failsInRow < 2 then
      (s.updChan stk ch fun c => { c with state := 0, retrainDue := true, failsInRow := c.failsInRow + 1 }).nextRetrain stk
    else (s.channelDead stk ch).nextRetrain stk)

/-! ### Row remap (R261-R263) -/

/-- The spares of a bank used once the next remap has taken one. -/
def State.sparesAfter (s : State) (stk ch bank : Nat) : Nat :=
  let used := s.sparesUsed stk ch bank
  match s.nextSpare stk ch bank with
  | some i => used ||| 2 ^ i
  | none => used

/-- The flash notes a remap and the spare that it takes. -/
def State.noteRemap (s : State) (stk ch : Nat) (w : Window) : State :=
  { s with flash := { s.flash with remap := s.flash.remap.put {
      remaps := s.flash.remaps ++ [{ stack := stk, channel := ch, bank := w.bank, row := w.row }]
      sparesUsed := SMap.set 0 s.flash.sparesUsed ((stk * 32 + ch) * 32 + w.bank)
        (s.sparesAfter stk ch w.bank) } } }

/-- The channel's first candidate is dealt with: recorded for the next BOOT, or, in place of a refresh, its window
begins. -/
def execHbmRemapWindow (stk ch : Nat) (s : State) : Out :=
  onUnit (decide (stk < 8) && decide (ch < 32)) (
    let c := s.chan stk ch
    match c.candidates with
    | [] => s
    | w :: rest =>
      if !s.alive || c.state != 0 || c.window.isSome then s else
      let u := s.updChan stk ch fun c => { c with candidates := rest }
      if (s.nextSpare stk ch w.bank).isNone then u.refuseRemap (place (lineAt stk ch (w.row * 64 + 2 * w.bank)))
      else if !(s.stack stk).liveRemap then u.noteRemap stk ch w
      else if !s.refreshDue stk ch || (s.nbOpens stk ch w.bank).isSome then s
      else u.updChan stk ch fun c => { c with
        window := some w, refreshedAt := some s.tick, openRow := SMap.del c.openRow w.bank })

/-- What a word becomes when its row is copied to a spare: corrected; marks carried; uncorrectable words poisoned. -/
def HWord.copied (h : HWord) : HWord :=
  match h.mark, h.chk with
  | .data, .single => { mark := .data }
  | _, .good => h
  | _, _ => { mark := .poison }

/-- A remap window ends: the row has been copied, and the table entry is switched. -/
def execHbmRemapWindowEnd (stk ch : Nat) (s : State) : Out :=
  onUnit (decide (stk < 8) && decide (ch < 32)) (
    match (s.chan stk ch).window with
    | none => s
    | some w =>
      if !s.alive then s else
      let s := [0, 1].foldl (fun s h =>
        let p := place (lineAt stk ch (w.row * 64 + 2 * w.bank + h))
        { s with hbmWords := RMap.mapRange {} s.hbmWords (p.store * 32) 32 HWord.copied }) s
      let used := s.sparesAfter stk ch w.bank
      (s.noteRemap stk ch w).updChan stk ch fun c => { c with
        window := none, remapped := c.remapped ++ [w], spares := SMap.set 0 c.spares w.bank used })

end Sys2Proof.Machine
end

