-- ==== Sys2Proof/Machine/McArith.lean ====
section
/-! DEFINITION. Arithmetic of the matrix cells (chapters 4 and 5): images, column results of the eight modes,
accumulation, readout conversion, top-k ranking and the checksum comparison. Every function here is pure. -/

namespace Sys2Proof.Machine

/-! ### Formats and images (R97, R98) -/

/-- Bits of an element (Table 4.2). -/
def elemBits (fmt : Nat) : Nat :=
  match fmt with
  | 2 | 3 => 6
  | 4 => 4
  | 6 => 16
  | _ => 8

/-- Bytes of a row image of kq + 1 groups. -/
def rowBytes (fmt kq : Nat) : Nat := (kq + 1) * 32 * elemBits fmt / 8

/-- Bytes of one row's scales. -/
def rowScaleBytes (fmt kq : Nat) : Nat := if fmt < 5 then kq + 1 else if fmt = 5 then 4 else 0

/-- Offset of the scale area behind n rows: the next 64-byte boundary. -/
def scaleArea (fmt kq n : Nat) : Nat := ceilDiv (n * rowBytes fmt kq) 64 * 64

/-- Bytes of an image of n rows with its scale area. -/
def imageBytes (fmt kq n : Nat) : Nat :=
  if rowScaleBytes fmt kq = 0 then n * rowBytes fmt kq else scaleArea fmt kq n + n * rowScaleBytes fmt kq

/-- Element j of the little-endian bit string at base. -/
def elemAt (m : Mem) (base bits j : Nat) : Nat :=
  Mem.rd m (base + bits * j / 8) 3 / 2 ^ (bits * j % 8) % 2 ^ bits

/-- The value of an element code. -/
def elemVal (fmt code : Nat) : Fp :=
  match fmt with
  | 0 => e4m3.dec code
  | 1 => e5m2.dec code
  | 2 => e3m2.dec code
  | 3 => e2m3.dec code
  | 4 => e2m1.dec code
  | 5 => Fp.ofI (sgn 8 code)
  | 6 => bf16.dec code
  | _ => .fin false 0 0

/-- The value of an E8M0 scale. -/
def e8m0 (c : Nat) : Fp := if c = 0xFF then .nan else .fin false 1 ((c : Int) - 127)

/-- An operand: an element with its scale applied (E8M0 code, FP32 bits, or none). -/
def scaled (fmt code scale : Nat) : Fp :=
  let v := elemVal fmt code
  if fmt < 5 then v.mul (e8m0 scale) else if fmt = 5 then v.mul (dec32 (BitVec.ofNat 32 scale)) else v

/-- Exact sum from +0. -/
def sumFp (l : List Fp) : Fp := l.foldl Fp.add (.fin false 0 0)

/-- Weight code of column n at depth k. -/
def WBuf.code (w : WBuf) (n k : Nat) : Nat := SMap.get 0 w.w (128 * n + k)

/-- Scale of column n at depth k. -/
def WBuf.scale (w : WBuf) (n k : Nat) : Nat := SMap.get 0 w.scales (if w.fmt < 5 then 4 * n + k / 32 else n)

/-- Weight of column n at depth k with its scale applied; zero outside what was loaded (R105). -/
def WBuf.val (w : WBuf) (n k : Nat) : Fp :=
  if w.depth ≤ k then .fin false 0 0 else scaled w.fmt (w.code n k) (w.scale n k)

/-- Keeps the non-zero values of a function on 0 to n - 1. -/
def sparse (n : Nat) (f : Nat → Nat) : SMap Nat :=
  (List.range n).filterMap fun i => let v := f i; if v = 0 then none else some (i, v)

/-- As sparse, for dwords. -/
def sparse32 (n : Nat) (f : Nat → W32) : SMap W32 :=
  (List.range n).filterMap fun i => let v := f i; if v = 0 then none else some (i, v)

/-- A weight buffer before its checksum columns, from a tile image (R98, R105). -/
def tileBuf (fmt kq nq : Nat) (m : Mem) : WBuf :=
  let depth := 32 * (kq + 1)
  let rows := 32 * (nq + 1)
  let rb := rowBytes fmt kq
  let sa := scaleArea fmt kq rows
  { fmt := fmt
    depth := depth
    w := (List.range rows).flatMap fun n =>
      (sparse depth fun k => elemAt m (n * rb) (elemBits fmt) k).map fun e => (128 * n + e.1, e.2)
    scales :=
      if fmt < 5 then (List.range rows).flatMap fun n =>
        (sparse (kq + 1) fun g => Mem.rd m (sa + n * (kq + 1) + g) 1).map fun e => (4 * n + e.1, e.2)
      else if fmt = 5 then sparse rows fun n => Mem.rd m (sa + 4 * n) 4
      else [] }

/-- Forms C0 and C1 over the buffer as loaded (R132). -/
def WBuf.withChecks (w : WBuf) : WBuf :=
  { w with
    c0 := sparse32 w.depth fun k => enc32 (sumFp ((List.range 128).map fun n => w.val n k))
    c1 := sparse32 w.depth fun k =>
      enc32 (sumFp ((List.range 128).map fun (n : Nat) => (Fp.fin false (n + 1) 0).mul (w.val n k))) }

/-- The buffer a LOADW leaves. -/
def loadBuf (fmt kq nq : Nat) (m : Mem) : WBuf := (tileBuf fmt kq nq m).withChecks

/-! ### Column results (R95, R100, R101, R123, R126) -/

/-- An input row: format, element codes by depth, scales (E8M0 by group, or one FP32). -/
structure RowIn where
  fmt : Nat
  codes : List Nat
  scales : List Nat
  deriving DecidableEq, Repr

/-- Input code at depth k. -/
def RowIn.code (x : RowIn) (k : Nat) : Nat := x.codes.getD k 0

/-- Input operand at depth k with its scale applied. -/
def RowIn.val (x : RowIn) (k : Nat) : Fp :=
  scaled x.fmt (x.code k) (x.scales.getD (if x.fmt < 5 then k / 32 else 0) 0)

/-- Order with -0 below +0. -/
def Fp.ltz (a b : Fp) : Bool := a.lt b || (a.eq b && a.isNeg && !b.isNeg)

/-- Maximum (or minimum) of the terms with the least index that attains it; NaN with the least NaN term. -/
def bestOf (mx : Bool) (ts : List Fp) : Fp × Nat :=
  let better (a b : Fp) : Bool := if mx then b.ltz a else a.ltz b
  let go := fun (acc : (Fp × Nat) × Nat) (t : Fp) =>
    (if acc.1.1.isNan then acc.1
     else if t.isNan || better t acc.1.1 then (t, acc.2) else acc.1, acc.2 + 1)
  match ts with
  | [] => (.fin false 0 0, 0)
  | t :: rest => (rest.foldl go ((t, 0), 1)).1

/-- A zero of either sign as +0.0. -/
def Fp.plusZero (x : Fp) : Fp :=
  match x with
  | .fin _ 0 _ => .fin false 0 0
  | x => x

/-- The term of a mode (Table 5.2); an exact zero sum is +0.0 (R100, R123). -/
def mcTerm (mode : Nat) (x w : Fp) : Fp :=
  match mode with
  | 1 | 2 => (x.add w).plusZero
  | 3 => (x.add w.neg).abs
  | 4 => let d := x.add w.neg; d.mul d
  | _ => x.mul w

/-- RNE(isum * RNE(sx * sw)) (R101). -/
def int8Result (x : RowIn) (w : WBuf) (n depth : Nat) : W32 :=
  let isum : Int := ((List.range depth).map fun k => sgn 8 (x.code k) * sgn 8 (w.code n k)).sum
  let s := enc32 ((dec32 (BitVec.ofNat 32 (x.scales.getD 0 0))).mul (dec32 (BitVec.ofNat 32 (w.scale n 0))))
  enc32 ((Fp.ofI isum).mul (dec32 s))

/-- The FP32 result of column n over depth positions, with its index in modes 6 and 7. -/
def mcColumn (mode depth : Nat) (x : RowIn) (w : WBuf) (n : Nat) : W32 × Nat :=
  let terms := (List.range depth).map fun k => mcTerm mode (x.val k) (w.val n k)
  match mode with
  | 0 => (if x.fmt = 5 then int8Result x w n depth else enc32 (sumFp terms), 0)
  | 1 => (enc32 (bestOf true terms).1, 0)
  | 2 => (enc32 (bestOf false terms).1, 0)
  | 5 => (enc32 (Fp.ofI ((List.range depth).filter fun k => x.code k == w.code n k).length), 0)
  | 6 => let r := bestOf true terms; (enc32 r.1, r.2)
  | 7 => let r := bestOf false terms; (enc32 r.1, r.2)
  | _ => (enc32 (sumFp terms), 0)

/-- A checksum column of a mode-0 row (R133): the exact sum of the operands with the column of C0 or C1, rounded once.
For INT8 inputs too (DEDUCED from R133: C0 and C1 are no integers, log entry 23). -/
def checkColumn (depth : Nat) (x : RowIn) (c : SMap W32) : W32 :=
  enc32 (sumFp ((List.range depth).map fun k => (x.val k).mul (dec32 (SMap.get 0 c k))))

/-- The FP32 results of a row by column, and its indices. -/
def mcRow (mode depth : Nat) (x : RowIn) (w : WBuf) : SMap W32 × SMap Nat :=
  let cols := (List.range 128).map fun n => (n, mcColumn mode depth x w n)
  let vals := cols.filterMap fun e => if e.2.1 = 0 then none else some (e.1, e.2.1)
  let checks := if mode = 0 then
      [(128, checkColumn depth x w.c0), (129, checkColumn depth x w.c1)].filter fun e => e.2 != 0
    else []
  (vals ++ checks, cols.filterMap fun e => if e.2.2 = 0 then none else some (e.1, e.2.2))

/-! ### Permitted pairs and combinations -/

/-- The pair of input and weight format is permitted (Tables 4.4 and 5.1). -/
def pairOk (mode ifmt wfmt : Nat) : Bool :=
  let fmts : List Nat := match mode with
    | 0 | 3 | 4 => [0, 1, 2, 3, 4, 5, 6]
    | 5 => [0, 1, 5]
    | _ => [0, 1, 5, 6]
  fmts.contains ifmt &&
  (wfmt == 0xF || wfmt == ifmt || (mode == 0 && decide (ifmt < 5) && decide (wfmt < 5)) ||
   (mode == 5 && fmts.contains wfmt))

/-- A combination of Table 5.4. -/
def mcForbidden (c : McCfg) (acc : Nat) : Bool :=
  decide (5 ≤ c.mode) && decide (2 ≤ c.ofmt) || decide (6 ≤ c.mode) && acc != 0 ||
  decide (6 ≤ c.mode) && c.topk != 0 || c.topk != 0 && acc != 0 || c.topk != 0 && c.ofmt != 0

/-! ### Accumulation (R102, R109, R124) -/

/-- Combines one column result into an accumulator value. -/
def mcCombine (mode : Nat) (fresh : Bool) (a v : W32) : W32 :=
  if mode = 1 || mode = 2 then
    if fresh then v
    else
      let x := dec32 a
      let y := dec32 v
      if x.isNan || y.isNan then 0x7FC00000
      else if mode = 1 then (if x.ltz y then v else a) else (if y.ltz x then v else a)
  else enc32 ((dec32 a).add (dec32 v))

/-- Combines a row into an entry; modes 1 to 5 leave columns 128 and 129 alone, at the +0.0 of a cleared entry (R140). -/
def AccEntry.combine (e : AccEntry) (mode : Nat) (vals : SMap W32) (psn : Bool) : AccEntry where
  vals := sparse32 130 fun n =>
    if mode = 0 || n < 128 then mcCombine mode e.fresh (SMap.get 0 e.vals n) (SMap.get 0 vals n) else SMap.get 0 e.vals n
  poisoned := e.poisoned || psn
  fresh := false

/-! ### Readout (R103, R104, R127) -/

/-- srhash (R104), of ply, logical cell, stream sequence, row and column alone: the rounding of a result is the same
in every run and attempt, and in whichever slot the block stands (R65, R66). -/
def srhash (ply cell seq row col : Nat) : Nat :=
  let h := ply ^^^ cell * 2 ^ 48 % 2 ^ 64 ^^^ seq * 2 ^ 32 ^^^ row * 2 ^ 8 ^^^ col
  let h := (h ^^^ h / 2 ^ 31) * 0xBF58476D1CE4E5B9 % 2 ^ 64
  let h := (h ^^^ h / 2 ^ 27) * 0x94D049BB133111EB % 2 ^ 64
  h ^^^ h / 2 ^ 31

/-- Rounding of a magnitude with 32 random bits: up when the discarded fraction in 2^-32 plus r reaches 2^32. -/
def stochShift (r m n : Nat) : Nat :=
  m / 2 ^ n + (if 2 ^ 32 ≤ m % 2 ^ n * 2 ^ 32 / 2 ^ n + r then 1 else 0)

/-- The output format of ofmt 1 to 3. -/
def outFmt (ofmt : Nat) : Fmt := if ofmt = 1 then bf16 else if ofmt = 2 then e4m3 else e5m2

/-- How a NaN is written (Table 4.5). -/
def outNan (ofmt : Nat) : Nat := if ofmt = 1 then 0x7FC0 else if ofmt = 2 then 0x7F else 0x7E

/-- What an overflow or an infinity becomes (Table 4.5). -/
def outOver (ofmt : Nat) (sat neg : Bool) : Nat :=
  let f := outFmt ofmt
  if sat then f.signBit neg + f.maxCode
  else if ofmt = 2 then 0x7F
  else f.infCode neg

/-- Converts FP32 to an output format (Table 4.5); rnd gives the way to round a magnitude. -/
def mcConvert (ofmt : Nat) (sat : Bool) (rnd : Nat → Nat → Nat) (v : W32) : Nat :=
  if ofmt = 0 then (if (dec32 v).isNan then 0x7FC00000 else v.toNat) else
  match dec32 v with
  | .nan => outNan ofmt
  | .inf neg => outOver ofmt sat neg
  | .fin neg m e =>
    let f := outFmt ofmt
    let c := f.magCode rnd m e
    if f.maxCode < c then outOver ofmt sat neg else f.signBit neg + c

/-- Width in bits of an output element (R98, R127). -/
def outWidth (mode ofmt : Nat) : Nat :=
  if 6 ≤ mode then (if ofmt = 0 then 64 else 32)
  else if ofmt = 0 then 32 else if ofmt = 1 then 16 else 8

/-- One output element: the converted value, with its index above it in modes 6 and 7. A count of mode 5 that its format
cannot hold is rounded as CFG.stoch says (DESIGN CHOICE, log entry 94). -/
def mcElem (c : McCfg) (hash : Nat → Nat) (n : Nat) (v : W32) (idx : Nat) : Nat :=
  let rnd := if c.stoch && decide (c.mode < 6) then stochShift (hash n % 2 ^ 32) else rneShift
  let x := mcConvert c.ofmt c.sat rnd v
  if 6 ≤ c.mode then x + idx * 2 ^ (outWidth c.mode c.ofmt / 2) else x

/-- Bytes of an output row. -/
def outRowBytes (c : McCfg) : Nat := (c.nq + 1) * 32 * outWidth c.mode c.ofmt / 8

/-- An output row's bytes. -/
def mcRowImage (c : McCfg) (hash : Nat → Nat) (vals : SMap W32) (idx : SMap Nat) : Mem :=
  let w := outWidth c.mode c.ofmt / 8
  Mem.ofBytes 0 ((List.range ((c.nq + 1) * 32)).flatMap fun n =>
    let e := mcElem c hash n (SMap.get 0 vals n) (SMap.get 0 idx n)
    (List.range w).map fun j => BitVec.ofNat 8 (e / 2 ^ (8 * j)))

/-! ### Top-k (R129, R130) -/

/-- An entry ranks above another. -/
def topkAbove (smallest : Bool) (a b : W32 × Nat) : Bool :=
  let x := dec32 a.1
  let y := dec32 b.1
  (if smallest then x.ltz y else y.ltz x) || (a.1 == b.1 && decide (a.2 < b.2))

/-- Inserts an entry into a ranked list. -/
def topkIns (smallest : Bool) (e : W32 × Nat) : List (W32 × Nat) → List (W32 × Nat)
  | [] => [e]
  | x :: l => if topkAbove smallest e x then e :: x :: l else x :: topkIns smallest e l

/-- Offers a result to a list of at most k entries; a NaN never enters. -/
def topkOffer (k : Nat) (smallest : Bool) (v : W32) (row : Nat) (l : List (W32 × Nat)) : List (W32 × Nat) :=
  if (dec32 v).isNan then l else (topkIns smallest (v, row) l).take k

/-- A list as its k entries of 8 bytes, with fillers. -/
def topkWords (k : Nat) (smallest : Bool) (l : List (W32 × Nat)) : List W32 :=
  (List.range k).flatMap fun i =>
    match l[i]? with
    | some e => [e.1, BitVec.ofNat 32 e.2]
    | none => [if smallest then 0x7F800000 else 0xFF800000, 0xFFFFFFFF]

/-- The four bytes of a dword. -/
def w32Bytes (w : W32) : List Byte := (List.range 4).map fun j => BitVec.ofNat 8 (w.toNat / 2 ^ (8 * j))

/-- All lists of a stream, column by column. -/
def topkImage (c : McCfg) (lists : SMap (List (W32 × Nat))) : Mem :=
  Mem.ofBytes 0 ((List.range ((c.nq + 1) * 32)).flatMap fun n =>
    (topkWords c.topk c.topkSmallest (SMap.get [] lists n)).flatMap w32Bytes)

/-! ### Checksum comparison (R133, R135, R137) -/

/-- A finite FP32 value in units of 2^-149. -/
def fp32Units (v : W32) : Int :=
  match dec32 v with
  | .fin neg m e => scaledTo neg m e (-149)
  | _ => 0

/-- a / b rounded to the nearest integer, ties to even. -/
def rneDiv (a b : Int) : Int :=
  let n := a.natAbs
  let d := b.natAbs
  let q := n / d
  let r := n % d
  let q := if 2 * r < d then q else if d < 2 * r then q + 1 else q + q % 2
  if decide (a < 0) == decide (b < 0) then q else -(q : Int)

/-- Outcome of a comparison. -/
inductive CkOut where
  | pass
  | skip
  | fail (col : Nat)
  deriving DecidableEq, Repr

/-- Compares a row's 128 results with its two checksum results, and localises a failure (Table 5.5). -/
def mcCheck (tol : Nat) (vals : SMap W32) : CkOut :=
  let v (n : Nat) : W32 := SMap.get 0 vals n
  if (List.range 130).any fun n => !(dec32 (v n)).isFin then .skip else
  let y (n : Nat) : Int := fp32Units (v n)
  let cols := List.range 128
  let d0 := y 128 - (cols.map y).sum
  let m0 := (cols.map fun n => (y n).natAbs).sum + (y 128).natAbs
  let d1 := y 129 - (cols.map fun (n : Nat) => ((n : Int) + 1) * y n).sum
  let m1 := (cols.map fun n => (n + 1) * (y n).natAbs).sum + (y 129).natAbs
  let o0 := decide (m0 < d0.natAbs * 2 ^ tol)
  let o1 := decide (m1 < d1.natAbs * 2 ^ tol)
  match o0, o1 with
  | false, false => .pass
  | true, false => .fail 0x80
  | false, true => .fail 0x81
  | true, true =>
    let q := rneDiv d1 d0
    if 1 ≤ q && q ≤ 128 && decide ((d1 - q * d0).natAbs * 2 ^ tol ≤ m1) then .fail (q - 1).toNat else .fail 0xFE

end Sys2Proof.Machine
end

