-- ==== Sys2Proof/Machine/Mc.lean ====
section
/-! DEFINITION. Matrix-cell commands and events (chapters 4 and 5). A command row takes effect when the command at the
head of the cell's queue is of that row and may start (R112, Table 4.14); an unlisted opcode is met by MC_NOP's row.
Cell k of block b is logical cell 2b + k (R20). -/

namespace Sys2Proof.Machine

/-- Changes the configuration of a cell. -/
def State.setMcCfg (s : State) (b k : Nat) (c : McCfg) : State := s.updMc b k fun m => { m with cfg := c }

/-- A record of a matrix cell (Table 18.4). -/
def State.mcRec (s : State) (b k cls code data0 : Nat) : State :=
  s.post { cls := cls, level := 0, unit := 0x02, code := code, lblock := some b, loc := 2 * b + k, data0 := data0 }

/-- A command error stops the cell (R117). -/
def State.mcError (s : State) (b k code : Nat) (w : W64) : State :=
  ((s.updMc b k fun m => { m with err := code, halted := true }).dropQueue b k).mcRec b k 3 code w.toNat

/-- A DE record for a poisoned operand of a command (R118). -/
def State.mcPoisonRec (s : State) (b k : Nat) (w : W64) : State := s.mcRec b k 2 0x11 w.toNat

/-- The newest stream has no row left to issue and no castling to make: the stream engine is free. -/
def Mc.engineFree (m : Mc) : Bool :=
  match m.streams.getLast? with
  | none => true
  | some t => t.castled && decide (t.rows ≤ t.next)

/-- No stream waits to castle. -/
def Mc.noCastlePending (m : Mc) : Bool := m.streams.all fun t => t.castled

/-- Every accumulating stream has made its last addition (Table 4.14, CLRACC). -/
def Mc.addsDone (m : Mc) : Bool := m.streams.all fun t => t.acc == 0 || (decide (t.rows ≤ t.next) && t.inFlight.isEmpty)

/-- Swaps the active and shadow buffers (R106, R107). -/
def Mc.castle (m : Mc) : Mc := { m with active := m.shadow, shadow := m.active, shadowFull := false }

/-- The newest stream castles, if it waits to. -/
def Mc.castlePending (m : Mc) : Mc :=
  if m.noCastlePending then m
  else { m.castle with streams := m.streams.map fun t => { t with castled := true } }

/-- Opcode of a command word. -/
def cmdOp (w : W64) : Nat := bitsN w.toNat 5 0

/-- Starts the head command of cell k of block b when it is of the wanted row and may start now; f has its effect. -/
def State.mcStart (s : State) (b k : Nat) (want : Nat → Bool) (may : Mc → W64 → State → Bool)
    (f : W64 → State → State) : State :=
  if !s.blockLive b || (s.mcAt b k).halted then s else
  match s.headCmd b k with
  | none => s
  | some (w, cls) =>
    if want (cmdOp w) && may (s.mcAt b k) w s then f w ((s.takeCmd b k).serveAs cls b) else s

/-- MC_NOP. -/
def execMcNop (b k : Nat) (s : State) : Out :=
  onUnit (decide (b < 96) && decide (k < 2)) (s.mcStart b k (fun o => o == 0 || decide (7 ≤ o))
    (fun m _ _ => m.engineFree)
    fun w s => if w = 0 then s.cmdDone b k else s.mcError b k 1 w)

/-- The configuration a CFG word names (Table 4.8). -/
def cfgOf (w : Nat) : McCfg where
  mode := bitsN w 8 6
  ifmt := bitsN w 12 9
  ofmt := bitsN w 15 13
  stoch := bitN w 16
  sat := bitN w 17
  kq := bitsN w 19 18
  nq := bitsN w 21 20
  tol := bitsN w 26 22
  topk := bitsN w 31 27
  topkSmallest := bitN w 32

/-- The error code of a CFG word, 0 for none, in the order of R117. -/
def cfgError (licensed : Bool) (w : Nat) : Nat :=
  let c := cfgOf w
  if bitsN w 63 33 ≠ 0 then 1
  else if 6 < c.ifmt || 3 < c.ofmt || c.tol < 8 || 24 < c.tol || 16 < c.topk then 5
  else if c.mode ≠ 0 && !licensed then 6
  else 0

/-- MC_CFG. -/
def execMcCfg (b k : Nat) (s : State) : Out :=
  onUnit (decide (b < 96) && decide (k < 2)) (s.mcStart b k (· == 1) (fun m _ _ => m.engineFree) fun w s =>
    let e := cfgError (bitN s.sec.features.toNat 5) w.toNat
    if e ≠ 0 then s.mcError b k e w else (s.setMcCfg b k (cfgOf w.toNat)).cmdDone b k)

/-- MC_BASE. -/
def execMcBase (b k : Nat) (s : State) : Out :=
  onUnit (decide (b < 96) && decide (k < 2)) (s.mcStart b k (· == 2)
    (fun m w _ => if bitsN w.toNat 7 6 = 2 then m.loading.isNone else m.engineFree)
    fun w s =>
      let a := w.toNat / 2 ^ 16 * 1024
      if bitsN w.toNat 15 8 ≠ 0 then s.mcError b k 1 w else
      match bitsN w.toNat 7 6 with
      | 0 => (s.updMc b k fun m => { m with baseSrc := a }).cmdDone b k
      | 1 => (s.updMc b k fun m => { m with baseDst := a }).cmdDone b k
      | 2 => (s.updMc b k fun m => { m with baseLoad := a }).cmdDone b k
      | _ => s.mcError b k 5 w)

/-- A LOADW's operand range: device or scratchpad, address, length (Table 4.10, R98). -/
def loadwRange (m : Mc) (w : Nat) : Bool × Nat × Nat :=
  (bitN w 14, bitsN w 36 16 * 64 + (if bitN w 14 then m.baseLoad else 0),
   imageBytes (bitsN w 9 6) (bitsN w 11 10) (32 * (bitsN w 13 12 + 1)))

/-- MC_LOADW: the shadow buffer begins to fill (R105, R107, R132); its tag and poison read as before until the load completes
(DESIGN CHOICE, log entry 84). -/
def execMcLoadw (b k : Nat) (s : State) : Out :=
  onUnit (decide (b < 96) && decide (k < 2)) (s.mcStart b k (· == 3)
    (fun m w s =>
      let r := loadwRange m w.toNat
      m.loading.isNone && m.noCastlePending && !s.unitWaits b (s.headCls b k) r.1 false r.2.1 r.2.2)
    fun w s =>
      let n := w.toNat
      let r := loadwRange (s.mcAt b k) n
      if bitN n 15 || bitsN n 63 37 ≠ 0 then s.mcError b k 1 w
      else if 6 < bitsN n 9 6 then s.mcError b k 5 w
      else if !s.unitRange b r.1 r.2.1 r.2.2 then s.mcError b k 3 w
      else
        let d := (s.linkPass b k r.1).opRead b r.1 r.2.1 r.2.2
        let s := if d.2.2 then d.1.mcPoisonRec b k w else d.1
        let buf := loadBuf (bitsN n 9 6) (bitsN n 11 10) (bitsN n 13 12) d.2.1
        s.updMc b k fun m => { m with loading := some {
          buf := { buf with poisoned := d.2.2 }, space := r.1, addr := r.2.1, len := r.2.2 } })

/-- MC_LOADW_COMPLETE: the shadow buffer holds the load; a castling that waited for it happens (R105, Table 4.14). -/
def execMcLoadwComplete (b k : Nat) (s : State) : Out :=
  onUnit (decide (b < 96) && decide (k < 2)) (
    match (s.mcAt b k).loading with
    | none => s
    | some l =>
      if !s.blockLive b then s else
      (s.updMc b k fun m =>
        ({ m with loading := none, shadow := l.buf, shadowFull := true } : Mc).castlePending).cmdDone b k)

/-- MC_CASTLE: waits while a LOADW runs (R107). -/
def execMcCastle (b k : Nat) (s : State) : Out :=
  onUnit (decide (b < 96) && decide (k < 2)) (s.mcStart b k (· == 4)
    (fun m w _ => m.engineFree && (m.loading.isNone || bitsN w.toNat 63 6 != 0))
    fun w s =>
      if bitsN w.toNat 63 6 ≠ 0 then s.mcError b k 1 w else (s.updMc b k Mc.castle).cmdDone b k)

/-- The stream a STREAM word starts under a cell's configuration and bases (Table 4.12). -/
def streamOf (m : Mc) (w : W64) (cls : Nat) : McStream :=
  let n := w.toNat
  { word := w, cfg := m.cfg, castle := bitN n 6, acc := bitsN n 8 7, abase := bitsN n 15 9
    rows := bitsN n 39 16 + 1, sspace := bitN n 40, dspace := bitN n 41
    src := bitsN n 52 42 * 1024 + (if bitN n 40 then m.baseSrc else 0)
    dst := bitsN n 63 53 * 1024 + (if bitN n 41 then m.baseDst else 0)
    seq := m.seqNo, cls := cls, castled := !bitN n 6 }

/-- Bytes a stream reads, from its source. -/
def McStream.srcLen (t : McStream) : Nat := imageBytes t.cfg.ifmt t.cfg.kq t.rows

/-- Bytes a stream writes, from its destination: rows, lists, or none with acc 1 (R98, R108, R130). -/
def McStream.dstLen (t : McStream) : Nat :=
  if t.cfg.topk ≠ 0 then (t.cfg.nq + 1) * 32 * t.cfg.topk * 8
  else if t.acc = 1 then 0 else t.rows * outRowBytes t.cfg

/-- The error code of a starting stream, 0 for none (R117). -/
def State.streamError (s : State) (b : Nat) (t : McStream) : Nat :=
  if t.acc = 3 then 5
  else if mcForbidden t.cfg t.acc then 7
  else if t.acc ≠ 0 && decide (128 < t.rows) then 4
  else if !s.unitRange b t.sspace t.src t.srcLen || (t.dstLen != 0 && !s.unitRange b t.dspace t.dst t.dstLen) then 3
  else 0

/-- MC_STREAM: the sequence number counts it, its checks are made, and it castles if asked and no LOADW runs (R104,
R108, R117). -/
def execMcStream (b k : Nat) (s : State) : Out :=
  onUnit (decide (b < 96) && decide (k < 2)) (s.mcStart b k (· == 5) (fun m _ _ => m.engineFree) fun w s =>
    let t := streamOf (s.mcAt b k) w (match s.qos.who with | some (c, _) => c | none => 0)
    let s := s.updMc b k fun m => { m with seqNo := (m.seqNo + 1) % 65536 }
    let e := s.streamError b t
    if e ≠ 0 then s.mcError b k e w
    else s.updMc b k fun m =>
      let m := { m with streams := m.streams ++ [t] }
      if m.loading.isNone then m.castlePending else m)

/-- MC_CLRACC: entries become +0.0, unpoisoned and fresh (R109, R118, R124). -/
def execMcClracc (b k : Nat) (s : State) : Out :=
  onUnit (decide (b < 96) && decide (k < 2)) (s.mcStart b k (· == 6) (fun m _ _ => m.engineFree && m.addsDone) fun w s =>
    let first := bitsN w.toNat 12 6
    let count := bitsN w.toNat 20 13
    if bitsN w.toNat 63 21 ≠ 0 then s.mcError b k 1 w
    else if count = 0 || 128 < first + count then s.mcError b k 5 w
    else (s.updMc b k fun m =>
      { m with acc := m.acc.filter fun e => !(decide (first ≤ e.1) && decide (e.1 < first + count)) }).cmdDone b k)

/-- Changes the newest stream of a cell. -/
def Mc.updNewest (m : Mc) (f : McStream → McStream) : Mc :=
  match m.streams.getLast? with
  | none => m
  | some t => { m with streams := m.streams.dropLast ++ [f t] }

/-- Offset and length of row i's elements and of its scales, from the source of a stream. -/
def McStream.rowAt (t : McStream) (i : Nat) : (Nat × Nat) × (Nat × Nat) :=
  let rb := rowBytes t.cfg.ifmt t.cfg.kq
  let sb := rowScaleBytes t.cfg.ifmt t.cfg.kq
  ((t.src + i * rb, rb), (t.src + scaleArea t.cfg.ifmt t.cfg.kq t.rows + i * sb, sb))

/-- Reads input row i of a stream: its elements and scales, and whether an operand word arrives poisoned. -/
def State.mcReadRow (s : State) (b : Nat) (t : McStream) (i : Nat) : State × RowIn × Bool :=
  let p := t.rowAt i
  let bits := elemBits t.cfg.ifmt
  let d := s.opRead b t.sspace p.1.1 p.1.2
  let q := if p.2.2 = 0 then (d.1, [], false) else d.1.opRead b t.sspace p.2.1 p.2.2
  (q.1,
   { fmt := t.cfg.ifmt
     codes := (List.range ((t.cfg.kq + 1) * 32)).map fun j => elemAt d.2.1 0 bits j
     scales := if t.cfg.ifmt < 5 then (List.range (t.cfg.kq + 1)).map fun g => Mem.rd q.2.1 g 1
               else [Mem.rd q.2.1 0 4] },
   d.2.2 || q.2.2)

/-- MC_ROW_ISSUE: the next row of the newest stream is read and bound to the active buffer; before the first row, the
format pair is checked (R96, R99, R117, R118, R122). -/
def execMcRowIssue (b k : Nat) (s : State) : Out :=
  onUnit (decide (b < 96) && decide (k < 2)) (
    let m := s.mcAt b k
    match m.streams.getLast? with
    | none => s
    | some t =>
      let p := t.rowAt t.next
      if !s.blockLive b || m.halted || !t.castled || decide (t.rows ≤ t.next) ||
         s.unitWaits b t.cls t.sspace false p.1.1 p.1.2 || s.unitWaits b t.cls t.sspace false p.2.1 p.2.2 then s
      else if t.next = 0 && !pairOk t.cfg.mode t.cfg.ifmt m.active.fmt then
        (s.updMc b k fun m => { m with streams := m.streams.dropLast }).mcError b k 2 t.word
      else
        let d := (s.serveAs t.cls b).mcReadRow b t t.next
        let s := if d.2.2 then d.1.mcPoisonRec b k t.word else d.1
        let r := mcRow t.cfg.mode ((t.cfg.kq + 1) * 32) d.2.1 m.active
        let row : McRow := { i := t.next, vals := r.1, idx := r.2, poisoned := d.2.2 || m.active.poisoned }
        (s.linkPass b k t.sspace).updMc b k fun m => m.updNewest fun t =>
          { t with next := t.next + 1, inFlight := t.inFlight ++ [row] })

/-- A failed comparison: counted, recorded, and with action 0 a strike and a check cause (R138, R142). -/
def State.mcFail (s : State) (b k row col : Nat) (readout : Bool) : State :=
  let s := s.updMc b k fun m => { m with fails := satAdd m.fails 1, lastCol := col, lastReadout := readout }
  let s := s.mcRec b k 1 0x10 (row + col * 2 ^ 24 + b2n readout * 2 ^ 32)
  if (s.region (b / 12)).ckAction then s else (s.checkSelf 0).strike b k 1

/-- One checksum comparison; that of a poisoned row is skipped (R133, R137). -/
def State.mcCompare (s : State) (b k tol row : Nat) (vals : SMap W32) (psn readout : Bool) : State :=
  match if psn then .skip else mcCheck tol vals with
  | .pass => s
  | .skip => s.updMc b k fun m => { m with skipped := satAdd m.skipped 1 }
  | .fail col => s.mcFail b k row col readout

/-- Writes an output row of a stream: its bytes depend on ply, logical cell, stream and results alone (R65, R66). -/
def State.mcWriteRow (s : State) (b k : Nat) (t : McStream) (i : Nat) (vals : SMap W32) (idx : SMap Nat)
    (psn : Bool) : State :=
  let n := outRowBytes t.cfg
  s.opWrite b t.dspace (t.dst + i * n) n
    (mcRowImage t.cfg (srhash s.sch.ply.toNat (2 * b + k) t.seq i) vals idx) psn

/-- Offers a row's results to the lists of a top-k stream (R129). -/
def McStream.offer (t : McStream) (r : McRow) : McStream := { t with
  lists := (List.range ((t.cfg.nq + 1) * 32)).foldl (fun m n => SMap.upd [] m n fun l =>
    topkOffer t.cfg.topk t.cfg.topkSmallest (SMap.get 0 r.vals n) r.i l) t.lists
  anyPoison := t.anyPoison || r.poisoned }

/-- Changes the stream of index j of a cell. -/
def Mc.updStream (m : Mc) (j : Nat) (f : McStream → McStream) : Mc :=
  { m with streams := m.streams.modify j f }

/-- Handles the results of a row of stream j: offered, written or accumulated, then compared (R108, R124, R129, R133,
R136, R140). -/
def State.mcResult (s : State) (b k j : Nat) (t : McStream) (r : McRow) : State :=
  let s := s.updMc b k fun m => m.updStream j fun t => { t with inFlight := t.inFlight.drop 1 }
  let check (s : State) : State :=
    if t.cfg.mode = 0 then s.mcCompare b k t.cfg.tol r.i r.vals r.poisoned false else s
  if t.cfg.topk ≠ 0 then check (s.updMc b k fun m => m.updStream j fun t => t.offer r)
  else if t.acc = 0 then check (s.mcWriteRow b k t r.i r.vals r.idx r.poisoned)
  else
    let e := (t.abase + r.i) % 128
    let a := (SMap.get {} (s.mcAt b k).acc e).combine t.cfg.mode r.vals r.poisoned
    if t.acc = 1 then check (s.updMc b k fun m => { m with acc := SMap.set {} m.acc e a })
    else
      let s := s.updMc b k fun m => { m with acc := SMap.del m.acc e }
      let s := check (s.mcWriteRow b k t r.i a.vals [] a.poisoned)
      if t.cfg.mode = 0 && (s.region (b / 12)).ckAcc then s.mcCompare b k t.cfg.tol r.i a.vals r.poisoned true else s

/-- Column results with those that the datapath got wrong in their place (R96). -/
def upsetVals (upset vals : SMap W32) : SMap W32 :=
  upset.foldl (fun v e => if e.1 < 130 then SMap.set 0 v e.1 e.2 else v) vals

/-- MC_ROW_RESULT: the oldest row in the pipeline leaves it; upset gives the columns whose FP32 result the datapath got
wrong (R96, R108). -/
def execMcRowResult (b k : Nat) (upset : SMap W32) (s : State) : Out :=
  onUnit (decide (b < 96) && decide (k < 2)) (
    let m := s.mcAt b k
    match m.streams.findIdx? fun t => !t.inFlight.isEmpty with
    | none => s
    | some j =>
      match m.streams[j]?.bind fun t => t.inFlight.head?.map fun r => (t, r) with
      | none => s
      | some (t, r) =>
        let n := outRowBytes t.cfg
        if !s.blockLive b ||
           (t.cfg.topk == 0 && t.acc != 1 && s.unitWaits b t.cls t.dspace true (t.dst + r.i * n) n) then s
        else
          ((s.serveAs t.cls b).linkPass b k (t.cfg.topk == 0 && t.acc != 1 && t.dspace)).mcResult b k j t
            { r with vals := upsetVals upset r.vals })

/-- MC_STREAM_COMPLETE: the oldest stream has handled its last row; a top-k stream writes its lists (R111, R130, R131). -/
def execMcStreamComplete (b k : Nat) (s : State) : Out :=
  onUnit (decide (b < 96) && decide (k < 2)) (
    match (s.mcAt b k).streams with
    | [] => s
    | t :: rest =>
      if !s.blockLive b || decide (t.next < t.rows) || !t.inFlight.isEmpty ||
         (t.cfg.topk != 0 && s.unitWaits b t.cls t.dspace true t.dst t.dstLen) then s
      else
        let s := ((s.serveAs t.cls b).linkPass b k (t.cfg.topk != 0 && t.dspace)).updMc b k fun m =>
          { m with streams := rest }
        let s := if t.cfg.topk = 0 then s else
          s.opWrite b t.dspace t.dst t.dstLen (topkImage t.cfg t.lists) t.anyPoison
        s.cmdDone b k)

end Sys2Proof.Machine
end

