-- ==== Sys2Proof/Machine/Mgmt.lean ====
section
/-! DEFINITION. The management port (chapter 19) and the SPDM responder (R406-R408). An answer is the model's record of
what the port, or the responder, last sent. -/

namespace Sys2Proof.Machine

/-! ### Transport (R472-R475) -/

/-- The port answers: auxiliary power, and a dynamic address. -/
def State.portUp (s : State) : Bool := s.dev != .off && s.mgmt.addr.isSome

/-- A request that reaches the port; rom tells whether the mask ROM's responder serves it too, and others are answered
with status 0x02 (R475). -/
def State.onPort (s : State) (rom : Bool) (cmd : Nat) (act : State → State) : State :=
  if !s.portUp then s
  else if !s.mgmt.fwRuns && !rom then s.answer (.vendor cmd 2 s.dev.code [])
  else act s

/-- ENTDAA gives the port its dynamic address, in answer to its provisioned ID (R472). -/
def execI3cEntdaa (addr : BitVec 7) (s : State) : Out :=
  .next (if s.dev == .off then s else
    { s with mgmt := { s.mgmt with addr := some addr, pidSent := some (Config.provisionedId s.flash.serial) } })

/-- A message is discarded and counted (R473). -/
def Mgmt.discard (m : Mgmt) : Mgmt := { m with assembly := none, discarded := m.discarded + 1 }

/-- A packet of a message to the device (R473): one of a wrong PEC, or that belongs to no message begun, is dropped; a message
whose tag-owner bit is clear, that grows above 8,192 B, or whose packet is larger than the transmission unit is discarded;
one that begins takes the place of one not ended. Once the last packet has come, the message's own row says what it asks. -/
def Mgmt.packet (m : Mgmt) (start stop owner : Bool) (bytes : Nat) (pecOk : Bool) : Mgmt :=
  if !pecOk then m else
  let m := if start && m.assembly.isSome then m.discard else m
  match (if start then some 0 else m.assembly) with
  | none => m
  | some n =>
    if !owner || 8192 < n + bytes || m.unit < bytes then m.discard
    else { m with assembly := if stop then none else some (n + bytes) }

/-- MCTP control and transport (R473, R474): message types 1 PLDM, 5 SPDM, 0x7F vendor-defined IANA. -/
def execMctpControl (req : MctpReq) (s : State) : Out :=
  .next (s.onPort true 0 fun s =>
    match req with
    | .setEid eid => { s with mgmt := { s.mgmt with eid := eid } }.answer (.mctp eid)
    | .getEid => s.answer (.mctp s.mgmt.eid)
    | .getVersion => s.answer .mctpVersion
    | .getMessageTypes => s.answer (.mctpTypes [0, 1, 5, 0x7F])
    | .dropped => { s with mgmt := s.mgmt.discard }
    | .setUnit n => if 64 ≤ n && n ≤ 256 then { s with mgmt := { s.mgmt with unit := n } } else s
    | .packet start stop owner bytes pecOk => { s with mgmt := s.mgmt.packet start stop owner bytes pecOk }
    | .privateRead => { s with mgmt := { s.mgmt with ibi := false } })

/-- PLDM base discovery: the PLDM types served (R474, R475). -/
def execPldmDiscovery (s : State) : Out :=
  .next (s.onPort true 0 fun s => s.answer (.pldmDiscovery (if s.mgmt.fwRuns then [0, 2, 5] else [0, 5])))

/-- What a sensor reads: die, HBM and power sensors need the main side (Table 19.1). -/
def State.sensor (s : State) (x : Sensor) : Option Int :=
  let t := s.thm.last
  match x with
  | .diode i => if s.mainOn then t.diode.getD i none else none
  | .hbm k => if s.mainOn then t.hbm.getD k none else none
  | .ext i => if s.mainOn then t.ext.getD i none else s.mgmt.ext.getD i none
  | .therm i => if s.mainOn then t.therm.getD i none else s.mgmt.therm.getD i none
  | .inputPower => if s.mainOn then some s.pwr.pIn else none
  | .inputVoltage => if s.mainOn then some s.pwr.vIn else none
  | .deviceState => some s.dev.code

/-- A PLDM numeric sensor is read. -/
def execPldmSensorRead (x : Sensor) (s : State) : Out :=
  onUnit (okSensor x) (s.onPort false 0 fun s => s.answer (.pldmSensor (s.sensor x)))

/-- A firmware image arrives through PLDM (R391, R478, R481): checked in the order of Table 15.5, then its store write
begins; the answer to a good image follows that write. -/
def execPldmFirmwareUpdate (image : Mem) (len : Nat) (s : State) : Out :=
  .next (s.onPort true 0 fun s =>
    if s.sec.staging.isSome then s.answer .pldmInUpdate else
    match fwCheck (Mem.take image len) len s.flash.floor with
    | .inl r => s.answer (.pldmApply (0x80 + r))
    | .inr f => s.beginStore f none)

/-! ### SPDM (R406-R408) -/

/-- An exchange of GET_VERSION, GET_CAPABILITIES or NEGOTIATE_ALGORITHMS. -/
def SpdmReq.opens (q : SpdmReq) : Bool :=
  match q with
  | .version | .capabilities | .algorithms => true
  | _ => false

/-- An exchange of GET_MEASUREMENTS. -/
def SpdmReq.measures (q : SpdmReq) : Bool :=
  match q with
  | .measurements _ _ _ => true
  | _ => false

/-- The earlier exchanges that the signature of an answer covers (log entry 6). -/
def spdmCovered (l : List (SpdmReq × SpdmResp)) (q : SpdmReq) : List (SpdmReq × SpdmResp) :=
  l.filter fun x => if q.measures then x.1.opens || x.1.measures else !x.1.measures

/-- The exchanges held after one more (log entry 6). -/
def spdmHeard (l : List (SpdmReq × SpdmResp)) (q : SpdmReq) (r : SpdmResp) : List (SpdmReq × SpdmResp) :=
  if r = .busy then l else
  match q with
  | .version => [(q, r)]
  | .challenge _ => l.filter fun x => x.1.opens || x.1.measures
  | .measurements _ _ true => l.filter fun x => !x.1.measures
  | _ => l ++ [(q, r)]

/-- A request reaches the responder: over DOE from the end of BOOT step 0x01, over MCTP through the port. -/
def State.onSpdm (s : State) (doe rom : Bool) (q : SpdmReq) (act : State → SpdmResp × State) : State :=
  let go (s : State) : State :=
    let r := act s
    let t := r.2
    { t with mgmt := { t.mgmt with spdm := spdmHeard t.mgmt.spdm q r.1 } }.answer (.spdm doe r.1)
  if doe then (if s.mainOn && s.sec.stepsDone.contains 1 then go s else s) else s.onPort rom 0 go

/-- A request that needs no key. -/
def State.spdmPlain (s : State) (doe rom : Bool) (q : SpdmReq) (r : SpdmResp) : Out :=
  .next (s.onSpdm doe rom q fun s => (r, s))

/-- GET_VERSION answers 1.3 only. -/
def execGetVersion (doe : Bool) (s : State) : Out := s.spdmPlain doe true .version .version

/-- GET_CAPABILITIES: CERT_CAP, CHAL_CAP, MEAS_CAP with signature. -/
def execGetCapabilities (doe : Bool) (s : State) : Out := s.spdmPlain doe false .capabilities .capabilities

/-- NEGOTIATE_ALGORITHMS: RSASSA-PSS 3072 and SHA-256. -/
def execNegotiateAlgorithms (doe : Bool) (s : State) : Out := s.spdmPlain doe false .algorithms .algorithms

/-- GET_DIGESTS: certificate slot 0. -/
def execGetDigests (doe : Bool) (s : State) : Out := s.spdmPlain doe false .digests (.digests s.flash.certDigest)

/-- GET_CERTIFICATE: the chain of slot 0 (R398). -/
def execGetCertificate (doe : Bool) (s : State) : Out := s.spdmPlain doe false .certificate (.certificate s.flash.certChain)

/-- The identity key signs: a valid identity, in READY, JOINED, RUNNING or DRAINED. -/
def State.canSign (s : State) : Bool := s.served && s.sec.idValid

/-- The identity key's signature over the exchanges that an answer, without its signature, closes. -/
def State.spdmSign (s : State) (q : SpdmReq) (r : SpdmResp) : Nat × State :=
  let d := sha256 (spdmMessage (spdmCovered s.mgmt.spdm q) q r)
  (match s.sec.idKey with
   | some k => pssSign k.1 k.2 d (Config.salt s.sec.spdmCount)
   | none => 0, { s with sec := { s.sec with spdmCount := s.sec.spdmCount + 1 } })

/-- CHALLENGE. -/
def execChallenge (doe : Bool) (nonce : BitVec 256) (s : State) : Out :=
  .next (s.onSpdm doe false (.challenge nonce) fun s =>
    if !s.canSign then (.busy, s) else
    let r := s.spdmSign (.challenge nonce) (.challengeAuth s.flash.certDigest 0)
    (.challengeAuth s.flash.certDigest r.1, r.2))

/-- The measurement blocks asked for: all of them for index 0 (Table 15.9). -/
def State.blocksOf (s : State) (index : Nat) : List (Nat × BitVec 256) :=
  ([1, 2, 3].zip s.measured3).filter fun x => index == 0 || x.1 == index

/-- GET_MEASUREMENTS (R407, R408). -/
def execGetMeasurements (doe : Bool) (nonce : BitVec 256) (index : Nat) (signed : Bool) (s : State) : Out :=
  .next (s.onSpdm doe false (.measurements nonce index signed) fun s =>
    let bs := s.blocksOf index
    if !signed then (.measurements bs none, s)
    else if !s.canSign then (.busy, s)
    else
      let r := s.spdmSign (.measurements nonce index signed) (.measurements bs none)
      (.measurements bs (some r.1), r.2))

/-! ### Vendor messages (R476-R478) -/

/-- The 8-byte header of a vendor response (R476). -/
def vendorHeader (cmd status reason : Nat) (inst : Byte) : List Byte :=
  leBytes 4 Config.iana.toNat ++ [BitVec.ofNat 8 cmd, inst, BitVec.ofNat 8 status, BitVec.ofNat 8 reason]

/-- The bytes that follow the header of a successful response, by command (Table 19.2). -/
def vendorLen (cmd : Nat) : Nat :=
  match cmd with
  | 2 => 320 | 3 => 256 | 4 => 256 | 5 => 1 | 7 => 4 | _ => 0

/-- A vendor response as the bytes of its message (R476, R484; Tables 18.3, 19.2). -/
def MgmtResp.message (r : MgmtResp) : Option (List Byte) :=
  match r with
  | .vendor cmd status reason data inst =>
    some (vendorHeader cmd status reason inst ++ if status = 0 then Mem.span data 0 (vendorLen cmd) else [])
  | .records rs inst => some (vendorHeader 1 0 0 inst ++ rs.flatMap fun r => Mem.span r.bytes 0 64)
  | .salvage addr bytes map inst =>
    some (vendorHeader 8 0 0 inst ++ leBytes 8 addr ++ Mem.span bytes 0 4096 ++ leBytes 16 map.toNat)
  | _ => none

/-- A vendor answer: command, status, reason byte, data, under the instance number of the request. -/
def State.vendor (s : State) (h : VendorHdr) (cmd status reason : Nat) (data : Mem) : State :=
  s.answer (.vendor cmd status reason data h.inst)

/-- Status 0x02: not permitted in this state. -/
def State.notPermitted (s : State) (h : VendorHdr) (cmd : Nat) : State := s.vendor h cmd 2 s.dev.code []

/-- A vendor request that reaches the port: status 0x02 where the mask ROM's responder runs and does not serve it, 0x01 for a
wrong length, a reserved byte that is not zero, or a parameter out of its range (R475-R477). -/
def State.onVendor (s : State) (h : VendorHdr) (rom : Bool) (cmd : Nat) (act : State → State) : State :=
  if !s.portUp then s
  else if !s.mgmt.fwRuns && !rom then s.notPermitted h cmd
  else if h.pad ≠ 0 || h.badLen || h.badParam then s.vendor h cmd 1 0 []
  else act s

/-! ### Vendor commands (R476-R483) -/

/-- GET_RECORDS: the log, or the management domain's own store from a position on. -/
def State.getRecords (s : State) (store index count : Nat) (h : VendorHdr) : State :=
  s.onVendor h true 1 fun s =>
    if 1 < store || count = 0 || 64 < count then s.vendor h 1 1 0 []
    else if store = 1 then s.answer (.records ((s.mgmt.store.reverse.drop index).take count) h.inst)
    else if !(s.served || s.dev == .fault) then s.notPermitted h 1
    else if !h.reach then s.vendor h 1 5 0 []
    else s.answer (.records ((s.err.from index).take count) h.inst)

/-- The thermal snapshot of STANDBY: EXT and TH readings alone (R476). -/
def Mgmt.thermal (m : Mgmt) : Mem :=
  let put (x : Mem) (a n : Nat) (l : List (Option Int)) : Mem :=
    (List.range n).foldl (fun x i => Mem.wr x (a + 2 * i) 2 (temp16 (l.getD i none))) x
  put (put (put (put (put [] 0x10 96 []) 0xD0 8 []) 0xE0 2 m.ext) 0xE4 4 m.therm) 0xEC 8 []

/-- GET_THERMAL. -/
def State.getThermal (s : State) (h : VendorHdr) : State :=
  s.onVendor h false 2 fun s =>
    if s.mainOn && !h.reach then s.vendor h 2 5 0 []
    else s.vendor h 2 0 0 (if s.mainOn then s.thermalRec else s.mgmt.thermal)

/-- GET_REPLACE. -/
def State.getReplace (s : State) (h : VendorHdr) : State :=
  s.onVendor h false 3 fun s => s.vendor h 3 0 0 s.flash.replaceRec

/-- The replace record with the fields of a mask cleared (R483). -/
def ReplaceRec.clear (r : ReplaceRec) (mask : Byte) : ReplaceRec :=
  let r := if mask.getLsbD 0 then { r with
    replace := 0, cause := 0, ldev := 0xFFFFFFFF, imageId := 0, ply := 0, tick := 0, causes := 0, errIndex := 0 } else r
  let r := if mask.getLsbD 1 then { r with exclude := 0 } else r
  if mask.getLsbD 2 then { r with hbmDead := 0 } else r

/-- CLEAR_REPLACE. -/
def State.clearReplace (s : State) (mask : Byte) (h : VendorHdr) : State :=
  s.onVendor h false 4 fun s =>
    if 8 ≤ mask.toNat then s.vendor h 4 1 0 []
    else if s.dev == .boot then s.notPermitted h 4
    else
      let s := s.writeReplace fun r => r.clear mask
      s.vendor h 4 0 0 s.flash.replaceRec

/-- The answer of POWER: HIF_STATE.state. -/
def State.powerAnswer (s : State) (h : VendorHdr) : State := s.vendor h 5 0 0 (Mem.wr [] 0 1 s.dev.code)

/-- POWER op 0 clears the hold, and lets a main side that stayed off start again (R479). -/
def State.powerRelease (s : State) (h : VendorHdr) : State :=
  s.onVendor h true 5 fun s =>
    { s with supply := { s.supply with
        hold := false, lockedOff := false
        startFails := if s.supply.lockedOff then 0 else s.supply.startFails } }.powerAnswer h

/-- POWER op 1 sets the hold; a running main side goes on. -/
def State.powerHoldOff (s : State) (h : VendorHdr) : State :=
  s.onVendor h true 5 fun s => { s with supply := { s.supply with hold := true } }.powerAnswer h

/-- POWER op 2: as a loss of the 48 V side, then the hold; in JOINED and RUNNING only with the key. -/
def State.powerForceOff (s : State) (key : Byte) (h : VendorHdr) : State :=
  s.onVendor h true 5 fun s =>
    if (s.dev == .joined || s.running) && key != 0xA5 then s.notPermitted h 5
    else
      let s := if s.mainOn then s.mainOff else { s with supply := { s.supply with convEnabled := false, bcGood := 0 } }
      { s with supply := { s.supply with hold := true } }.powerAnswer h

/-- A port install and one of a host of the same licence_id arrive at the same moment, and this one second (R478; log entry
91). -/
def State.licClash (s : State) (port : Bool) (m : Mem) : Bool :=
  s.sec.licAt == some (licId m, s.tick, !port)

/-- INSTALL_LICENCE (R482): against the identity hash in flash and the trust key of the image that the management domain
verified. -/
def State.installLicence (s : State) (licence : Mem) (flashOk : Bool) (h : VendorHdr) : State :=
  s.onVendor h false 7 fun s =>
    if s.dev == .boot then s.notPermitted h 7 else
    let m := Mem.take licence 512
    let key := match s.mgmt.verified with
      | some f => (f.trustModulus, f.trustExponent, f.version)
      | none => (0, 0, 0)
    let fw := match s.sec.running with | some f => f.version | none => key.2.2
    match licCheck m 512 s.flash.idHash key.1 key.2.1 fw with
    | some r => s.vendor h 7 4 r []
    | none =>
      if s.licClash true m then s.vendor h 7 4 6 [] else
      match s.flash.licSlot m with
      | .inl r => s.vendor h 7 4 r []
      | .inr k =>
        if !flashOk then s.licenceTorn.vendor h 7 4 9 [] else
        let s := s.takeLicence k m true
        s.vendor h 7 0 0 (Mem.wr32 [] 0 (s.flash.features (s.sec.ignored &&& ~~~ BitVec.ofNat 16 (2 ^ k))))

/-- The effect of a vendor request whose turn has come. -/
def State.vendorServe (s : State) (x : VendorReq × VendorHdr) : State :=
  let h := x.2
  match x.1 with
  | .records store index count => s.getRecords store index count h
  | .thermal => s.getThermal h
  | .replaceRec => s.getReplace h
  | .clearReplace mask => s.clearReplace mask h
  | .release => s.powerRelease h
  | .holdOff => s.powerHoldOff h
  | .forceOff key => s.powerForceOff key h
  | .licence bytes flashOk => s.installLicence bytes flashOk h

/-- The requests that waited are served in arrival order. -/
def State.serveWaiting (s : State) : State :=
  let q := s.mgmt.waiting
  q.foldl State.vendorServe { s with mgmt := { s.mgmt with waiting := [] } }

/-- A vendor request arrives: one at a time is served, in arrival order, so one that comes while a salvage runs waits
(R478). -/
def State.vendorArrives (s : State) (r : VendorReq) (h : VendorHdr) : State :=
  if !s.portUp then s else
  let t := { s with mgmt := { s.mgmt with waiting := s.mgmt.waiting ++ [(r, h)] } }
  if s.mgmt.salvage.isSome then t else t.serveWaiting

/-- GET_RECORDS. -/
def execGetRecords (store index count : Nat) (s : State) (hdr : VendorHdr := {}) : Out :=
  .next (s.vendorArrives (.records store index count) hdr)

/-- GET_THERMAL. -/
def execGetThermal (s : State) (hdr : VendorHdr := {}) : Out := .next (s.vendorArrives .thermal hdr)

/-- GET_REPLACE. -/
def execGetReplace (s : State) (hdr : VendorHdr := {}) : Out := .next (s.vendorArrives .replaceRec hdr)

/-- CLEAR_REPLACE. -/
def execClearReplace (mask : Byte) (s : State) (hdr : VendorHdr := {}) : Out := .next (s.vendorArrives (.clearReplace mask) hdr)

/-- POWER op 0. -/
def execPowerRelease (s : State) (hdr : VendorHdr := {}) : Out := .next (s.vendorArrives .release hdr)

/-- POWER op 1. -/
def execPowerHoldOff (s : State) (hdr : VendorHdr := {}) : Out := .next (s.vendorArrives .holdOff hdr)

/-- POWER op 2. -/
def execPowerForceOff (key : Byte) (s : State) (hdr : VendorHdr := {}) : Out := .next (s.vendorArrives (.forceOff key) hdr)

/-- INSTALL_LICENCE. -/
def execInstallLicence (licence : Mem) (flashOk : Bool) (s : State) (hdr : VendorHdr := {}) : Out :=
  .next (s.vendorArrives (.licence licence flashOk) hdr)

/-- MAIN_RESET (R480): refused in JOINED and RUNNING, and while the device relays, unless forced; a salvage ends at its
current page first (R478). -/
def execMainReset (force : Byte) (s : State) (hdr : VendorHdr := {}) : Out :=
  .next (s.onVendor hdr false 6 fun s =>
    if !s.mainOn then s.notPermitted hdr 6
    else if (s.dev == .joined || s.running || s.standby.relaying) && force != 0xA5 then s.notPermitted hdr 6
    else if !hdr.reach then s.vendor hdr 6 5 0 []
    else
      let s := s.vendor hdr 6 0 0 []
      if s.mgmt.salvage.isSome then { s with mgmt := { s.mgmt with resetAfterPage := true } } else s.requestReset)

/-! ### Salvage (R484) -/

/-- SALVAGE_READ: the pages follow one at a time. -/
def execSalvageRead (addr pages : Nat) (s : State) (hdr : VendorHdr := {}) : Out :=
  .next (s.onVendor hdr false 8 fun s =>
    if addr % 4096 ≠ 0 || pages = 0 || 256 < pages then s.vendor hdr 8 1 0 []
    else if s.dev != .drained && s.dev != .fault then s.notPermitted hdr 8
    else if s.mgmt.salvage.isSome then s.vendor hdr 8 3 0 []
    else if !installed addr (4096 * pages) then s.vendor hdr 8 6 0 []
    else if !hdr.reach then s.vendor hdr 8 5 0 []
    else { s with mgmt := { s.mgmt with salvage := some (addr, pages), salvageInst := hdr.inst } })

/-- A word of a line that salvage reports as dark: poisoned, uncorrectable, unwritten, or of a dead channel. -/
def State.salvageDark (s : State) (L w : Nat) : Bool :=
  let p := place L
  let h := RMap.get {} s.hbmWords (p.store * 32 + w)
  (s.chan p.stk p.ch).state == 2 || (!(s.stack p.stk).isOpen p.m && (h.mark != .data || h.chk == .bad))

/-- The bytes of a 4 KiB page as HBM holds them. -/
def State.salvageBytes (s : State) (a : Nat) : Mem :=
  (List.range 4).foldl (fun m i =>
    Mem.splice m (1024 * i) 1024 (Mem.slice s.hbm ((place (a / 1024 + i)).store * 1024) 1024)) []

/-- The poison map of a page. -/
def State.salvageMap (s : State) (a : Nat) : BitVec 128 :=
  BitVec.ofNat 128 ((List.range 128).foldl (fun n k =>
    if s.salvageDark (a / 1024 + k / 32) (k % 32) then n + 2 ^ k else n) 0)

/-- The state in which a salvage reads a page: the channels of its lines have stored the write-backs that waited in their
queues, and the rows that the reads open stay open (R253, R484). -/
def State.salvageSees (s : State) (a : Nat) : State :=
  (List.range 4).foldl (fun s i =>
    let L := a / 1024 + i
    let p := place L
    let c := s.chan p.stk p.ch
    let mine (r : HReq) : Bool := r.write && r.line == L
    let s := (c.bypass ++ c.queue).foldl (fun s r => if mine r then s.hbmPut r.line r.sectors r.data r.words else s) s
    let s := s.updChan p.stk p.ch fun c => { c with
      bypass := c.bypass.filter fun r => !mine r, queue := c.queue.filter fun r => !mine r }
    s.openBank p) s

/-- The next page of a salvage: its message, or status 0x05 when the controllers cannot read it. Once the last has gone, the
requests that waited are served. -/
def execSalvagePage (readable : Bool) (s : State) : Out :=
  .next (
    match s.mgmt.salvage with
    | none => if s.portUp then s.serveWaiting else s
    | some (a, n) =>
      if !s.portUp then s else
      let again := s.mgmt.resetAfterPage
      let last := !readable || again || decide (n ≤ 1)
      let inst := s.mgmt.salvageInst
      let s := { s with mgmt := { s.mgmt with
        salvage := if last then none else some (a + 4096, n - 1), resetAfterPage := false } }
      let s :=
        if readable then
          let s := s.salvageSees a
          s.answer (.salvage a (s.salvageBytes a) (s.salvageMap a) inst)
        else s.vendor { inst := inst } 8 5 0 []
      let s := if again then s.requestReset else s
      if last then s.serveWaiting else s)

end Sys2Proof.Machine
end

