-- ==== Sys2Proof/Machine/TgCode.lean ====
section
/-! DEFINITION. Thread-group instruction words (R151-R155, R163): fields, operands, legality, and the values that the
register instructions compute. An instruction is its 64-bit word as a number. A field that Table 6.4 does not give an
opcode, and does not call reserved or zero, is ignored; func is zero where no func is listed (DEDUCED, log entry 25). -/

namespace Sys2Proof.Machine

/-! ### Fields (Tables 6.2, 6.3) -/

def tgOp (w : Nat) : Nat := bitsN w 7 0
def tgGf (w : Nat) : Nat := bitsN w 10 8
def tgSense (w : Nat) : Bool := bitN w 11
def tgRd (w : Nat) : Nat := bitsN w 19 12
/-- The flag that rd names. -/
def tgFd (w : Nat) : Nat := bitsN w 14 12
def tgRa (w : Nat) : Nat := bitsN w 27 20
def tgRb (w : Nat) : Nat := bitsN w 35 28
def tgRc (w : Nat) : Nat := bitsN w 43 36
/-- imm32 of format I. -/
def tgImm (w : Nat) : W32 := BitVec.ofNat 32 (bitsN w 63 32)
def tgSize (w : Nat) : Nat := bitsN w 38 36
def tgAop (w : Nat) : Nat := bitsN w 42 39
def tgSem (w : Nat) : Nat := bitsN w 44 43
def tgScope (w : Nat) : Nat := bitsN w 46 45
/-- off16, sign-extended. -/
def tgOff16 (w : Nat) : Int := sgn 16 (bitsN w 63 48)
/-- off32, sign-extended. -/
def tgOff32 (w : Nat) : Int := sgn 32 (bitsN w 63 32)
/-- imm16 of format S. -/
def tgImm16 (w : Nat) : Nat := bitsN w 43 28

/-- Opcodes in format I. -/
def tgIsI (op : Nat) : Bool :=
  ([0x11, 0x12, 0x13, 0x14, 0x16, 0x17, 0x18, 0x19, 0x1A, 0x1B, 0x1F, 0x30, 0x31, 0x33] : List Nat).contains op

/-- Opcodes in format S. -/
def tgIsS (op : Nat) : Bool := ([0x4C, 0x63, 0x68, 0x69, 0x6A, 0x6F] : List Nat).contains op

/-- Opcodes in format B. -/
def tgIsB (op : Nat) : Bool := op == 0x60 || op == 0x61

/-- Opcodes in format M. -/
def tgIsM (op : Nat) : Bool := decide (0x50 ≤ op) && decide (op ≤ 0x55)

/-- func, or func4 in format I. -/
def tgFunc (w : Nat) : Nat := if tgIsI (tgOp w) then bitsN w 31 28 else bitsN w 51 44

/-- Registers of a memory operand. -/
def tgWords (w : Nat) : Nat := if tgSize w = 3 then 2 else if tgSize w = 4 then 4 else 1

/-- Bytes of a memory operand. -/
def tgBytes (w : Nat) : Nat := 2 ^ tgSize w

/-! ### Operands and legality (R148, R151-R153, R163, R173) -/

/-- Source registers: first and count. -/
def tgSrcs (w : Nat) : List (Nat × Nat) :=
  let a := (tgRa w, 1)
  let b := (tgRb w, 1)
  let op := tgOp w
  if ([0x01, 0x02, 0x03, 0x04, 0x06, 0x07, 0x08, 0x09, 0x0A, 0x0B, 0x0E, 0x20, 0x21, 0x23, 0x39, 0x40, 0x41, 0x48]
      : List Nat).contains op then [a, b]
  else if op = 0x05 || op = 0x22 then [a, b, (tgRc w, 1)]
  else if op = 0x1F then []
  else if tgIsI op then [a]
  else if ([0x0C, 0x0D, 0x0F, 0x24, 0x28, 0x38, 0x4A, 0x50, 0x62] : List Nat).contains op then [a]
  else if op = 0x51 then [a, (tgRb w, tgWords w)]
  else if op = 0x52 then [(tgRa w, 2)]
  else if op = 0x53 then [(tgRa w, 2), (tgRb w, tgWords w)]
  else if op = 0x54 || op = 0x55 then
    [(tgRa w, if op = 0x54 then 1 else 2), (tgRb w, if tgAop w = 1 then 2 * tgWords w else tgWords w)]
  else []

/-- Destination registers: first and count. -/
def tgDst (w : Nat) : List (Nat × Nat) :=
  let op := tgOp w
  if ([0x00, 0x40, 0x41, 0x42, 0x51, 0x53, 0x60, 0x62, 0x63, 0x68, 0x69, 0x6A, 0x6F] : List Nat).contains op then []
  else if op = 0x49 then (if tgFunc w = 2 then [(tgRd w, 2)] else [])
  else if tgIsM op then [(tgRd w, tgWords w)]
  else [(tgRd w, 1)]

/-- The instruction writes a flag through rd. -/
def tgToFlag (w : Nat) : Bool :=
  ([0x40, 0x41, 0x42] : List Nat).contains (tgOp w) || (tgOp w == 0x49 && decide (tgFunc w < 2))

/-- Flags it reads as sources. -/
def tgFlagSrcs (w : Nat) : List Nat :=
  if tgOp w = 0x0E then [tgFunc w % 8]
  else if tgOp w = 0x42 then [tgRa w % 8, tgRb w % 8]
  else if tgOp w = 0x49 then [tgRa w % 8]
  else []

/-- func is one of the values listed for the opcode; size, aop and sem for a memory opcode. -/
def tgFuncOk (w : Nat) : Bool :=
  let f := tgFunc w
  let sz := tgSize w
  let sem := tgSem w
  match tgOp w with
  | 0x00 => w / 2 ^ 12 == 0
  | 0x01 | 0x02 | 0x03 | 0x05 | 0x07 | 0x08 | 0x09 | 0x0A | 0x0F | 0x20 | 0x21 | 0x22 | 0x39 => f == 0
  | 0x11 | 0x12 | 0x13 | 0x17 | 0x18 | 0x19 | 0x1A | 0x30 | 0x31 => f == 0
  | 0x04 | 0x0B | 0x14 | 0x1B | 0x23 | 0x24 | 0x33 => decide (f < 2)
  | 0x06 | 0x16 | 0x42 | 0x48 | 0x4A => decide (f < 4)
  | 0x0C | 0x0D => f == 0 && tgRb w == 0 && tgRc w == 0
  | 0x0E => decide (f < 8)
  | 0x1F => f == 0 && tgRa w == 0
  | 0x28 => decide (f < 5)
  | 0x38 => decide (f / 16 < 7) && decide (f % 16 < 7)
  | 0x40 => decide (f < 16) && decide (f % 8 < 6)
  | 0x41 => decide (f < 6)
  | 0x49 => decide (f < 3)
  | 0x4C => decide (f < 9)
  | 0x50 | 0x52 => decide (sz < 5) && decide (tgAop w < 2) && decide (sem < 2)
  | 0x51 | 0x53 => decide (sz < 5) && tgAop w == 0 && (sem == 0 || sem == 2) && tgRd w == 0
  | 0x54 | 0x55 =>
    decide (tgAop w < 0xD) &&
    (sz == 2 || (sz == 3 && tgAop w != 3 && tgAop w != 0xB && tgAop w != 0xC))
  | 0x60 | 0x61 => bitsN w 31 28 == 0
  | 0x62 => f == 0
  | 0x63 => f == 0
  | 0x68 => f == 0 && decide (tgImm16 w < 16)
  | 0x69 => decide (f < 4)
  | 0x6A => f == 0 && decide (tgImm16 w < 64)
  | 0x6F => f == 0 && decide (tgImm16 w < 128)
  | _ => false

/-- Reserved bits are zero. -/
def tgReservedOk (w : Nat) : Bool :=
  (tgIsI (tgOp w) || tgIsB (tgOp w) || (if tgIsM (tgOp w) then !bitN w 47 else bitsN w 63 52 == 0)) &&
  (!tgToFlag w || bitsN w 19 15 == 0) && (tgGf w != 0 || !tgSense w)

/-- Trap cause that the word alone gives, 0 for none: 0x01 illegal, 0x02 a misaligned pair or quad. -/
def tgCheck (regs w : Nat) : Nat :=
  let rs := tgSrcs w ++ tgDst w
  if !tgFuncOk w || !tgReservedOk w || rs.any (fun r => decide (regs < r.1 + r.2)) then 1
  else if rs.any fun r => r.1 % r.2 != 0 then 2
  else 0

/-! ### Values -/

/-- Sum in FP32; an exact zero sum gives +0.0 (R100, R154). -/
def fadd32 (x y : Fp) : W32 :=
  match x.add y with
  | .fin _ 0 _ => 0
  | v => enc32 v

/-- SIGNF gives the one NaN that FP32 operations write (R154). -/
def canonNan (w : W32) : W32 := if (dec32 w).isNan then 0x7FC00000 else w

/-- Integer and FP32 results of the register opcodes, from the low opcode in format R (Table 6.4): f is func, x, y, z
the operands. The sign of a zero product of MULF is the XOR of its operands' signs (DESIGN CHOICE, log entry 94). -/
def tgValue (op f : Nat) (x y z : W32) : W32 :=
  match op with
  | 0x01 => x + y
  | 0x02 => x - y
  | 0x03 => x * y
  | 0x04 =>
    if f = 0 then BitVec.ofNat 32 (x.toNat * y.toNat / 2 ^ 32) else BitVec.ofInt 32 (x.toInt * y.toInt / 2 ^ 32)
  | 0x05 => x * y + z
  | 0x06 =>
    match f with
    | 0 => if x.slt y then x else y
    | 1 => if x.slt y then y else x
    | 2 => if x.ult y then x else y
    | _ => if x.ult y then y else x
  | 0x07 => x &&& y
  | 0x08 => x ||| y
  | 0x09 => x ^^^ y
  | 0x0A => x <<< (y.toNat % 32)
  | 0x0B => if f = 0 then x >>> (y.toNat % 32) else x.sshiftRight (y.toNat % 32)
  | 0x0C => BitVec.ofNat 32 ((List.range 32).filter fun i => x.getLsbD i).length
  | 0x0D => BitVec.ofNat 32 (if x = 0 then 32 else 31 - Nat.log2 x.toNat)
  | 0x0F => x
  | 0x1F => y
  | 0x20 => fadd32 (dec32 x) (dec32 y)
  | 0x21 => enc32 ((dec32 x).mul (dec32 y))
  | 0x22 => fadd32 ((dec32 x).mul (dec32 y)) (dec32 z)
  | 0x23 => if f = 0 then fmin32 x y else fmax32 x y
  | 0x24 => canonNan (if f = 0 then x &&& 0x7FFFFFFF else x ^^^ 0x80000000)
  | 0x28 => trans f x
  | 0x39 => (y <<< 16) ||| (x &&& 0xFFFF)
  | _ => 0

/-- The value of a CONV source (R155). -/
def convSrc (ty : Nat) (x : W32) : Fp :=
  match ty with
  | 0 => dec32 x
  | 1 => Fp.ofI x.toInt
  | 2 => Fp.ofI x.toNat
  | 3 => bf16.dec (x.toNat % 65536)
  | 4 => e4m3.dec (x.toNat % 256)
  | 5 => e5m2.dec (x.toNat % 256)
  | _ => fp16.dec (x.toNat % 65536)

/-- A finite value rounded to an integer, ties to even. -/
def rneFp (neg : Bool) (m : Nat) (e : Int) : Int :=
  let n : Nat := if 0 ≤ e then m * 2 ^ e.toNat else rneShift m (-e).toNat
  if neg then -(n : Int) else n

/-- A value as an integer between lo and hi; NaN gives 0 (R155). -/
def toInt (lo hi : Int) (v : Fp) : Int :=
  match v with
  | .nan => 0
  | .inf neg => if neg then lo else hi
  | .fin neg m e => max lo (min hi (rneFp neg m e))

/-- A value in a narrow float format with overflow as sat = 1 (R155). -/
def toNarrow (f : Fmt) (nan : Nat) (v : Fp) : Nat :=
  match v with
  | .nan => nan
  | .inf neg => f.signBit neg + f.maxCode
  | .fin neg m e => f.signBit neg + min f.maxCode (f.magCode rneShift m e)

/-- CONV (R155). FP16 takes NaN 0x7E00 and saturates as the other narrow formats do (DEDUCED, log entry 26). -/
def convValue (f : Nat) (x : W32) : W32 :=
  let v := convSrc (f / 16) x
  match f % 16 with
  | 0 => enc32 v
  | 1 => BitVec.ofInt 32 (toInt (-2147483648) 2147483647 v)
  | 2 => BitVec.ofInt 32 (toInt 0 4294967295 v)
  | 3 => BitVec.ofNat 32 (toNarrow bf16 0x7FC0 v)
  | 4 => BitVec.ofNat 32 (toNarrow e4m3 0x7F v)
  | 5 => BitVec.ofNat 32 (toNarrow e5m2 0x7E v)
  | _ => BitVec.ofNat 32 (toNarrow fp16 0x7E00 v)

/-- CMPI: rel 0 eq, 1 ne, 2 lt, 3 le, 4 gt, 5 ge; bit 3 unsigned. -/
def cmpInt (f : Nat) (x y : W32) : Bool :=
  let lt (a b : W32) : Bool := if 8 ≤ f then a.ult b else a.slt b
  match f % 8 with
  | 0 => x == y
  | 1 => x != y
  | 2 => lt x y
  | 3 => !lt y x
  | 4 => lt y x
  | _ => !lt x y

/-- CMPF: a NaN operand makes every relation false except ne. -/
def cmpFp (f : Nat) (x y : W32) : Bool :=
  let a := dec32 x
  let b := dec32 y
  if a.isNan || b.isNan then f == 1 else
  match f with
  | 0 => a.eq b
  | 1 => !a.eq b
  | 2 => a.lt b
  | 3 => a.lt b || a.eq b
  | 4 => b.lt a
  | _ => b.lt a || a.eq b

/-- FLAGOP. -/
def flagOp (f : Nat) (x y : Bool) : Bool :=
  match f with
  | 0 => x && y
  | 1 => x || y
  | 2 => x != y
  | _ => x && !y

/-- The thread that XLANE reads, before the test that it acts: differences and sums are taken modulo 2^32 (DESIGN CHOICE,
log entry 94). -/
def xlaneSrc (f : Nat) (t : Nat) (y : W32) : Nat :=
  let tt : W32 := BitVec.ofNat 32 t
  match f with
  | 0 => y.toNat
  | 1 => (tt - y).toNat
  | 2 => (tt + y).toNat
  | _ => (tt ^^^ y).toNat

/-- The new value of an atomic on n bits (Table 6.6): old value, rb, rb + 1. -/
def atomicNew (aop n old b c : Nat) : Nat :=
  let f (g : W32 → W32 → W32) : Nat := (g (BitVec.ofNat 32 old) (BitVec.ofNat 32 b)).toNat
  match aop with
  | 0x0 => b
  | 0x1 => if old = b then c else old
  | 0x2 => (old + b) % 2 ^ n
  | 0x3 => f fun x y => fadd32 (dec32 x) (dec32 y)
  | 0x4 => if sgn n b < sgn n old then b else old
  | 0x5 => if sgn n old < sgn n b then b else old
  | 0x6 => min old b
  | 0x7 => max old b
  | 0x8 => old &&& b
  | 0x9 => old ||| b
  | 0xA => old ^^^ b
  | 0xB => f fmax32
  | _ => f fmin32

end Sys2Proof.Machine
end

