-- ==== Sys2Proof/Machine/Tg.lean ====
section
/-! DEFINITION. The thread-group cell (chapter 6): dispatch, issue, registers and flags, scratchpad and device accesses,
atomics, barriers, traps. A row TG_x names what group g of block b issues next; where that is another instruction, or
it cannot issue yet, nothing changes (log entry 4). Memory accesses are made one at a time, in an order that every rule
of R168-R174 allows (log entry 3). -/

namespace Sys2Proof.Machine

/-! ### Groups and threads -/

/-- Register r of a thread. -/
def Thread.reg (th : Thread) (r : Nat) : TReg := SMap.get {} th.regs r

/-- The value of register r. -/
def Thread.val (th : Thread) (r : Nat) : W32 := (th.reg r).val

/-- Writes a register. -/
def Thread.setReg (th : Thread) (r : Nat) (v : W32) (psn : Bool) : Thread :=
  { th with regs := SMap.set {} th.regs r { val := v, poison := psn } }

/-- Flag j; flag 0 reads false (R149). -/
def Thread.flag (th : Thread) (j : Nat) : Bool := j != 0 && SMap.get false th.flags j

/-- Flag j is poisoned. -/
def Thread.flagPsn (th : Thread) (j : Nat) : Bool := j != 0 && SMap.get false th.flagPoison j

/-- Writes a flag; a write of flag 0 is discarded. -/
def Thread.setFlag (th : Thread) (j : Nat) (v psn : Bool) : Thread :=
  if j = 0 then th else
  { th with flags := SMap.set false th.flags j v, flagPoison := SMap.set false th.flagPoison j psn }

/-- The registers of an operand list. -/
def regList (rs : List (Nat × Nat)) : List Nat := rs.flatMap fun r => (List.range r.2).map (r.1 + ·)

/-- Some source of instruction w is poisoned in a thread (R161). -/
def Thread.srcPsn (th : Thread) (w : Nat) : Bool :=
  (regList (tgSrcs w)).any (fun r => (th.reg r).poison) || (tgFlagSrcs w).any th.flagPsn

/-- The guard of w holds (R152). -/
def Thread.guard (th : Thread) (w : Nat) : Bool := tgGf w == 0 || (th.flag (tgGf w) != tgSense w)

/-- The low n registers from r as one number. -/
def Thread.wide (th : Thread) (r n : Nat) : Nat :=
  (List.range n).foldl (fun a i => a + (th.val (r + i)).toNat * 2 ^ (32 * i)) 0

/-- Writes n registers from r with a number and a poison per register. -/
def Thread.setWide (th : Thread) (r n v : Nat) (psn : Nat → Bool) : Thread :=
  (List.range n).foldl (fun th i => th.setReg (r + i) (BitVec.ofNat 32 (v / 2 ^ (32 * i))) (psn i)) th

/-- A thread neither exited nor at a barrier: its counter takes part in the choice of R157. -/
def Thread.live (th : Thread) : Bool :=
  match th.st with
  | .run | .uwait _ => true
  | _ => false

/-- The resident group g of block b. -/
def State.tgGroup (s : State) (b g : Nat) : Option Group :=
  (s.blk b).tg.kernel.bind fun k => k.live.lookup g

/-- Changes the resident kernel of block b. -/
def State.updKernel (s : State) (b : Nat) (f : Kernel → Kernel) : State :=
  s.updTg b fun t => { t with kernel := t.kernel.map f }

/-- Changes the resident group g of block b. -/
def State.updGroup (s : State) (b g : Nat) (f : Group → Group) : State :=
  s.updKernel b fun k => { k with live := k.live.map fun e => if e.1 = g then (e.1, f e.2) else e }

/-- Changes the threads of a group, each with its index. -/
def State.mapThreads (s : State) (b g : Nat) (f : Nat → Thread → Thread) : State :=
  s.updGroup b g fun k => { k with threads := k.threads.map fun e => (e.1, f e.1 e.2) }

/-- Changes thread t of a group. -/
def State.updThread (s : State) (b g t : Nat) (f : Thread → Thread) : State :=
  s.mapThreads b g fun i th => if i = t then f th else th

/-- Thread t of a group as it stands. -/
def State.thread (s : State) (b g t : Nat) : Thread :=
  match s.tgGroup b g with
  | some k => SMap.get { pc := 0 } k.threads t
  | none => { pc := 0 }

/-- The cell has stopped on a trap or a watchdog (R176). -/
def Tg.stopped (t : Tg) : Bool := t.trapped || t.wdFall

/-! ### Requests of the block under way -/

/-- A load of block b from a sector of the range has not returned. -/
def State.loadOpen (s : State) (b a n : Nat) : Bool :=
  (s.ccd.slices.any fun e => (e.2.reads ++ e.2.merged).any fun r =>
    !r.write && r.who.ofBlock b && sectorsMeet a n r.addr r.len) ||
  s.ccd.responses.any fun r => r.who.ofBlock b && sectorsMeet a n r.addr r.len

/-- A store of block b has not been accepted by the cache die. -/
def State.anyStoreOpen (s : State) (b : Nat) : Bool :=
  s.ccd.slices.any fun e => e.2.writes.any fun r => r.write && r.who.ofBlock b

/-- Requests of block b that are not yet accepted, its loads, and data on its way back, are discarded; a store that its slice
has accepted stands (R176, R213). -/
def State.dropRequests (s : State) (b : Nat) : State :=
  { s with ccd := { s.ccd with
      responses := s.ccd.responses.filter fun r => !r.who.ofBlock b
      slices := (s.ccd.slices.map fun e => (e.1, { e.2 with
        reads := e.2.reads.filter fun r => !r.who.ofBlock b
        writes := e.2.writes.filter fun r => !r.who.ofBlock b
        merged := e.2.merged.filter fun r => r.write || !r.who.ofBlock b })).filter fun e => e.2 != {} } }

/-! ### Traps (R176) -/

/-- The record of a stop at a thread of a group. -/
def State.tgRec (s : State) (b g t code pc : Nat) : State :=
  s.post { cls := 3, level := 1, unit := 0x03, code := code, lblock := some b, data0 := g + t * 2 ^ 24, data1 := pc }

/-- A trap stops the whole kernel; an uncorrectable register word is a strike (Table 18.6, row 4). -/
def State.tgTrap (s : State) (b g t cause : Nat) : State :=
  let pc := (s.thread b g t).pc
  let s := (s.dropRequests b).updTg b fun k =>
    { k with cause := cause, trapped := true, trapThread := t, trapGroup := g }
  let s := s.tgRec b g t cause pc
  if cause = 8 then s.strike b 2 4 else s

/-! ### Issue (R157, R152) -/

/-- What a group issues: its kernel's registers, word, the threads at its counter, those whose guard holds. -/
structure TgCtx where
  b : Nat
  g : Nat
  k : Kernel
  pc : Nat
  w : Nat
  part : List Nat
  acting : List Nat
  deriving Repr

/-- The lowest counter of the live threads; none when there is none, or a thread waits at it under UWAIT. -/
def Group.nextPc (k : Group) : Option Nat :=
  match (k.threads.filter fun e => e.2.live).map fun e => e.2.pc with
  | [] => none
  | p :: ps =>
    let m := ps.foldl min p
    if k.threads.any fun e => e.2.live && e.2.pc == m && e.2.st != .run then none else some m

/-- The instruction word at a counter of the ply-code area; a standby in a place counts from where that place's blobs
lie (log entry 10). -/
def State.tgWord (s : State) (pc : Nat) : Nat := Mem.rd s.ccd.plyCode (s.blobBase + pc) 8

/-- Cause 0x05 at a counter: outside the ply-code area, or an uncorrectable word of the area or of the instruction cache
(R147, R229). -/
def State.tgFetchBad (s : State) (b pc : Nat) : Bool :=
  let ic := (s.blk b).tg.icChk
  decide (0x8000000 < pc + 8) || SMap.get .good s.ccd.plyChk ((s.blobBase + pc) / 8) == .bad || SMap.get .good ic (pc / 4) == .bad || SMap.get .good ic (pc / 4 + 1) == .bad

/-- Threads at the counter of a group, in ascending index; a group has at most 64 (R144). -/
def Group.atPc (k : Group) (pc : Nat) : List Nat :=
  (List.range 64).filter fun i =>
    match k.threads.lookup i with
    | some th => th.st == .run && th.pc == pc
    | none => false

/-- No load of an acting thread has still to reach a register that w names (R156). -/
def State.tgReady (s : State) (c : TgCtx) : Bool :=
  let rs := regList (tgSrcs c.w ++ tgDst c.w)
  c.acting.all fun t => (s.thread c.b c.g t).pend.all fun p =>
    !(rs.any fun r => decide (p.rd ≤ r) && decide (r < p.rd + (if p.size = 3 then 2 else if p.size = 4 then 4 else 1)))

/-- The cause with which thread t traps on w, 0 for none: a poisoned guard, an uncorrectable register, or what the
opcode adds. -/
def State.tgCause (s : State) (c : TgCtx) (extra : Nat → Thread → Nat) (t : Nat) : Nat :=
  let th := s.thread c.b c.g t
  if th.flagPsn (tgGf c.w) then 6
  else if !c.acting.contains t then 0
  else if (regList (tgSrcs c.w)).any fun r => (th.reg r).chk == .bad then 8
  else extra c.w th

/-- A thread with its corrected errors in registers rs fixed in place (R150). -/
def Thread.fix (th : Thread) (rs : List Nat) : Thread :=
  { th with regs := rs.foldl (fun m r =>
      if (SMap.get {} m r).chk == .single then SMap.upd {} m r fun x => { x with chk := .good } else m) th.regs }

/-- The acting threads read their sources: corrected errors are fixed in place and counted as CE (R150, log entry 78). -/
def State.tgCorrect (s : State) (c : TgCtx) : State :=
  let rs := (regList (tgSrcs c.w)).eraseDups
  let n := (c.acting.flatMap fun t => rs.filter fun r => ((s.thread c.b c.g t).reg r).chk == .single).length
  if n = 0 then s else
  { s.mapThreads c.b c.g fun i th => if c.acting.contains i then th.fix rs else th with
    err := { s.err with ce := satAdd s.err.ce n } }

/-- Moves the threads of a list on by one instruction; the counter has 32 bits. -/
def State.tgAdvance (s : State) (c : TgCtx) (ts : List Nat) : State :=
  s.mapThreads c.b c.g fun i th => if ts.contains i then { th with pc := (c.pc + 8) % 2 ^ 32 } else th

/-- The round-robin of a group's segment set moves past it (R146). -/
def State.tgTurn (s : State) (b : Nat) (grp : Group) : State :=
  s.updKernel b fun k => { k with turn := SMap.set 0 k.turn grp.set (grp.ctx + 1) }

/-- Issues the next instruction of group g of block b when want takes its word: traps first, then f once ready. -/
def State.tgIssue (s : State) (b g : Nat) (want : Nat → Nat → Bool) (extra : Nat → Thread → Nat)
    (ready : TgCtx → State → Bool) (f : TgCtx → State → State) : State :=
  match (s.blk b).tg.kernel, s.tgGroup b g with
  | some k, some grp =>
    if !s.blockLive b || (s.blk b).tg.stopped then s else
    (match grp.nextPc with
     | none => s
     | some pc =>
       let part := grp.atPc pc
       let first := part.headD 0
       let s' := s.serveAs k.cls b
       if s.tgFetchBad b pc then
         let u := s'.tgTrap b g first 5
         if pc + 8 ≤ 0x8000000 then u.strike b 2 5 else u
       else
         let w := s.tgWord pc
         let ck := tgCheck k.regs w
         if !want w ck then s
         else if ck ≠ 0 then s'.tgTrap b g first ck
         else
           let acting := part.filter fun t => (s.thread b g t).guard w
           let c : TgCtx := { b := b, g := g, k := k, pc := pc, w := w, part := part, acting := acting }
           if !s.tgReady c then s else
           match part.find? fun t => s.tgCause c extra t != 0 with
           | some t => s'.tgTrap b g t (s.tgCause c extra t)
           | none => if ready c s' then (f c (s'.tgCorrect c)).tgTurn b grp else s)
  | _, _ => s

/-- No cause beyond the common ones. -/
def noCause (_ : Nat) (_ : Thread) : Nat := 0

/-- Always ready. -/
def always (_ : TgCtx) (_ : State) : Bool := true

/-- A row of one opcode. -/
def State.tgRow (s : State) (b g op : Nat) (extra : Nat → Thread → Nat) (ready : TgCtx → State → Bool)
    (f : TgCtx → State → State) : State :=
  s.tgIssue b g (fun w _ => tgOp w == op) extra ready f

/-- A row whose effect is on each acting thread alone. -/
def State.tgMap (s : State) (b g op : Nat) (f : TgCtx → Nat → Thread → Thread) : State :=
  s.tgRow b g op noCause always fun c s =>
    (s.mapThreads b g fun i th => if c.acting.contains i then f c i th else th).tgAdvance c c.part

/-- The second operand: rb, or imm32 in format I. -/
def Thread.opB (th : Thread) (w : Nat) : W32 := if tgIsI (tgOp w) then tgImm w else th.val (tgRb w)

/-- A register row: rd takes the value of opcode base (the format R opcode) on ra, rb or imm32, and rc. -/
def State.tgAlu (s : State) (b g op base : Nat) : State :=
  s.tgMap b g op fun c _ th =>
    th.setReg (tgRd c.w) (tgValue base (tgFunc c.w) (th.val (tgRa c.w)) (th.opB c.w) (th.val (tgRc c.w)))
      (th.srcPsn c.w)

/-- TG rows name a block and a group of it. -/
def onTg (b : Nat) (s : State) : Out := onUnit (decide (b < 96)) s

/-! ### Register rows -/

/-- TG_NOP. -/
def execTgNop (b g : Nat) (s : State) : Out := onTg b (s.tgMap b g 0x00 fun _ _ th => th)
/-- TG_ADD. -/
def execTgAdd (b g : Nat) (s : State) : Out := onTg b (s.tgAlu b g 0x01 0x01)
/-- TG_ADD_I. -/
def execTgAddI (b g : Nat) (s : State) : Out := onTg b (s.tgAlu b g 0x11 0x01)
/-- TG_SUB. -/
def execTgSub (b g : Nat) (s : State) : Out := onTg b (s.tgAlu b g 0x02 0x02)
/-- TG_SUB_I. -/
def execTgSubI (b g : Nat) (s : State) : Out := onTg b (s.tgAlu b g 0x12 0x02)
/-- TG_MULLO. -/
def execTgMullo (b g : Nat) (s : State) : Out := onTg b (s.tgAlu b g 0x03 0x03)
/-- TG_MULLO_I. -/
def execTgMulloI (b g : Nat) (s : State) : Out := onTg b (s.tgAlu b g 0x13 0x03)
/-- TG_MULHI. -/
def execTgMulhi (b g : Nat) (s : State) : Out := onTg b (s.tgAlu b g 0x04 0x04)
/-- TG_MULHI_I. -/
def execTgMulhiI (b g : Nat) (s : State) : Out := onTg b (s.tgAlu b g 0x14 0x04)
/-- TG_MULADD. -/
def execTgMuladd (b g : Nat) (s : State) : Out := onTg b (s.tgAlu b g 0x05 0x05)
/-- TG_MINMAX. -/
def execTgMinmax (b g : Nat) (s : State) : Out := onTg b (s.tgAlu b g 0x06 0x06)
/-- TG_MINMAX_I. -/
def execTgMinmaxI (b g : Nat) (s : State) : Out := onTg b (s.tgAlu b g 0x16 0x06)
/-- TG_AND. -/
def execTgAnd (b g : Nat) (s : State) : Out := onTg b (s.tgAlu b g 0x07 0x07)
/-- TG_AND_I. -/
def execTgAndI (b g : Nat) (s : State) : Out := onTg b (s.tgAlu b g 0x17 0x07)
/-- TG_OR. -/
def execTgOr (b g : Nat) (s : State) : Out := onTg b (s.tgAlu b g 0x08 0x08)
/-- TG_OR_I. -/
def execTgOrI (b g : Nat) (s : State) : Out := onTg b (s.tgAlu b g 0x18 0x08)
/-- TG_XOR. -/
def execTgXor (b g : Nat) (s : State) : Out := onTg b (s.tgAlu b g 0x09 0x09)
/-- TG_XOR_I. -/
def execTgXorI (b g : Nat) (s : State) : Out := onTg b (s.tgAlu b g 0x19 0x09)
/-- TG_SHL. -/
def execTgShl (b g : Nat) (s : State) : Out := onTg b (s.tgAlu b g 0x0A 0x0A)
/-- TG_SHL_I. -/
def execTgShlI (b g : Nat) (s : State) : Out := onTg b (s.tgAlu b g 0x1A 0x0A)
/-- TG_SHR. -/
def execTgShr (b g : Nat) (s : State) : Out := onTg b (s.tgAlu b g 0x0B 0x0B)
/-- TG_SHR_I. -/
def execTgShrI (b g : Nat) (s : State) : Out := onTg b (s.tgAlu b g 0x1B 0x0B)
/-- TG_BITCNT. -/
def execTgBitcnt (b g : Nat) (s : State) : Out := onTg b (s.tgAlu b g 0x0C 0x0C)
/-- TG_LEADZ. -/
def execTgLeadz (b g : Nat) (s : State) : Out := onTg b (s.tgAlu b g 0x0D 0x0D)
/-- TG_MOVR. -/
def execTgMovr (b g : Nat) (s : State) : Out := onTg b (s.tgAlu b g 0x0F 0x0F)
/-- TG_MOVK. -/
def execTgMovk (b g : Nat) (s : State) : Out := onTg b (s.tgAlu b g 0x1F 0x1F)
/-- TG_ADDF. -/
def execTgAddf (b g : Nat) (s : State) : Out := onTg b (s.tgAlu b g 0x20 0x20)
/-- TG_ADDF_I. -/
def execTgAddfI (b g : Nat) (s : State) : Out := onTg b (s.tgAlu b g 0x30 0x20)
/-- TG_MULF. -/
def execTgMulf (b g : Nat) (s : State) : Out := onTg b (s.tgAlu b g 0x21 0x21)
/-- TG_MULF_I. -/
def execTgMulfI (b g : Nat) (s : State) : Out := onTg b (s.tgAlu b g 0x31 0x21)
/-- TG_MADF. -/
def execTgMadf (b g : Nat) (s : State) : Out := onTg b (s.tgAlu b g 0x22 0x22)
/-- TG_MINMAXF. -/
def execTgMinmaxf (b g : Nat) (s : State) : Out := onTg b (s.tgAlu b g 0x23 0x23)
/-- TG_MINMAXF_I. -/
def execTgMinmaxfI (b g : Nat) (s : State) : Out := onTg b (s.tgAlu b g 0x33 0x23)
/-- TG_SIGNF. -/
def execTgSignf (b g : Nat) (s : State) : Out := onTg b (s.tgAlu b g 0x24 0x24)
/-- TG_TRANS. -/
def execTgTrans (b g : Nat) (s : State) : Out := onTg b (s.tgAlu b g 0x28 0x28)
/-- TG_PACK. -/
def execTgPack (b g : Nat) (s : State) : Out := onTg b (s.tgAlu b g 0x39 0x39)

/-- TG_CONV. -/
def execTgConv (b g : Nat) (s : State) : Out :=
  onTg b (s.tgMap b g 0x38 fun c _ th =>
    th.setReg (tgRd c.w) (convValue (tgFunc c.w) (th.val (tgRa c.w))) (th.srcPsn c.w))

/-- TG_PICK. -/
def execTgPick (b g : Nat) (s : State) : Out :=
  onTg b (s.tgMap b g 0x0E fun c _ th =>
    th.setReg (tgRd c.w) (if th.flag (tgFunc c.w) then th.val (tgRa c.w) else th.val (tgRb c.w)) (th.srcPsn c.w))

/-- TG_CMPI. -/
def execTgCmpi (b g : Nat) (s : State) : Out :=
  onTg b (s.tgMap b g 0x40 fun c _ th =>
    th.setFlag (tgFd c.w) (cmpInt (tgFunc c.w) (th.val (tgRa c.w)) (th.val (tgRb c.w))) (th.srcPsn c.w))

/-- TG_CMPF. -/
def execTgCmpf (b g : Nat) (s : State) : Out :=
  onTg b (s.tgMap b g 0x41 fun c _ th =>
    th.setFlag (tgFd c.w) (cmpFp (tgFunc c.w) (th.val (tgRa c.w)) (th.val (tgRb c.w))) (th.srcPsn c.w))

/-- TG_FLAGOP. -/
def execTgFlagop (b g : Nat) (s : State) : Out :=
  onTg b (s.tgMap b g 0x42 fun c _ th =>
    th.setFlag (tgFd c.w) (flagOp (tgFunc c.w) (th.flag (tgRa c.w % 8)) (th.flag (tgRb c.w % 8))) (th.srcPsn c.w))

/-! ### Lane rows -/

/-- XLANE traps on a poisoned source index (R161). -/
def xlaneCause (w : Nat) (th : Thread) : Nat := if (th.reg (tgRb w)).poison then 6 else 0

/-- TG_XLANE: the registers of the other threads are those before the instruction. -/
def execTgXlane (b g : Nat) (s : State) : Out :=
  onTg b (s.tgRow b g 0x48 xlaneCause always fun c s =>
    let src (i : Nat) (th : Thread) : TReg :=
      let j := xlaneSrc (tgFunc c.w) i (th.val (tgRb c.w))
      (s.thread b g (if c.acting.contains j then j else i)).reg (tgRa c.w)
    (s.mapThreads b g fun i th =>
      if c.acting.contains i then th.setReg (tgRd c.w) (src i th).val (src i th).poison else th).tgAdvance c c.part)

/-- TG_CENSUS. -/
def execTgCensus (b g : Nat) (s : State) : Out :=
  onTg b (s.tgRow b g 0x49 noCause always fun c s =>
    let j := tgRa c.w % 8
    let fl (i : Nat) : Bool := (s.thread b g i).flag j
    let psn := c.acting.any fun i => (s.thread b g i).flagPsn j
    let mask := c.acting.foldl (fun a i => if fl i then a + 2 ^ i else a) 0
    (s.mapThreads b g fun i th =>
      if !c.acting.contains i then th
      else if tgFunc c.w = 0 then th.setFlag (tgFd c.w) (c.acting.all fl) psn
      else if tgFunc c.w = 1 then th.setFlag (tgFd c.w) (c.acting.any fl) psn
      else th.setWide (tgRd c.w) 2 mask fun _ => psn).tgAdvance c c.part)

/-- The combination of LANERED over values in ascending thread index; that of one thread is its value as it stands (DESIGN
CHOICE, log entry 94). -/
def laneReduce (f : Nat) (vs : List W32) : W32 :=
  match vs with
  | [] => 0
  | v :: rest => rest.foldl (fun a x =>
      match f with
      | 0 => a + x
      | 1 => if x.slt a then x else a
      | 2 => if a.slt x then x else a
      | _ => fadd32 (dec32 a) (dec32 x)) v

/-- TG_LANERED. -/
def execTgLanered (b g : Nat) (s : State) : Out :=
  onTg b (s.tgRow b g 0x4A noCause always fun c s =>
    let v := laneReduce (tgFunc c.w) (c.acting.map fun i => (s.thread b g i).val (tgRa c.w))
    let psn := c.acting.any fun i => ((s.thread b g i).reg (tgRa c.w)).poison
    (s.mapThreads b g fun i th => if c.acting.contains i then th.setReg (tgRd c.w) v psn else th).tgAdvance c c.part)

/-- The value of SYSR for a thread (Table 6.4); the cycle within the tick is a free value, which
no later read in the tick runs behind. -/
def State.sysrVal (s : State) (c : TgCtx) (i : Nat) : W32 :=
  match tgFunc c.w with
  | 0 => BitVec.ofNat 32 i
  | 1 => BitVec.ofNat 32 c.g
  | 2 => BitVec.ofNat 32 c.k.width
  | 3 => BitVec.ofNat 32 c.b
  | 4 => BitVec.ofNat 32 s.ldevSeen
  | 5 => BitVec.ofNat 32 s.sch.ply.toNat
  | 6 => BitVec.ofNat 32 (s.sch.ply.toNat / 2 ^ 32)
  | 7 => BitVec.ofNat 32 c.k.args
  | _ => BitVec.ofNat 32 (13 * s.plyTick + s.cycleSub)

/-- TG_SYSR. -/
def execTgSysr (b g : Nat) (s : State) : Out :=
  onTg b (s.tgRow b g 0x4C noCause always fun c s =>
    let t := (s.mapThreads b g fun i th =>
      if c.acting.contains i then th.setReg (tgRd c.w) (s.sysrVal c i) false else th).tgAdvance c c.part
    if tgFunc c.w = 8 then t.readCycle else t)

/-! ### Ordering (R168-R173) -/

/-- The instruction acquires, or releases. -/
def tgAcquires (w : Nat) : Bool := tgSem w % 2 == 1
/-- See tgAcquires. -/
def tgReleases (w : Nat) : Bool := decide (2 ≤ tgSem w)

/-- No acquire of an acting thread is still to be performed (R170). -/
def State.acqDone (s : State) (c : TgCtx) : Bool :=
  c.acting.all fun t => (s.thread c.b c.g t).pend.all fun p => p.acq == 0

/-- Every earlier access of the acting threads has been performed, and at device scope every store of the block is
accepted (R172). -/
def State.relReady (s : State) (c : TgCtx) (scope : Nat) : Bool :=
  (c.acting.all fun t => (s.thread c.b c.g t).pend.isEmpty) && (decide (scope < 2) || !s.anyStoreOpen c.b)

/-- A memory instruction may be performed as far as order goes. -/
def State.memReady (s : State) (c : TgCtx) : Bool :=
  s.acqDone c && (!tgReleases c.w || s.relReady c (tgScope c.w))

/-- Discards the L1 of block b (R190); data on its way to the block, read before, no longer fills it (R170). -/
def State.l1Empty (s : State) (b : Nat) : State :=
  { s.updTg b fun t => { t with l1 := [] } with
    ccd := { s.ccd with responses := s.ccd.responses.map fun r =>
      match r.who with
      | .thread c _ _ => if c = b then { r with fill := false } else r
      | _ => r } }

/-- An acquire at device or system scope discards the L1. -/
def State.acquire (s : State) (c : TgCtx) : State :=
  if tgAcquires c.w && decide (2 ≤ tgScope c.w) then s.l1Empty c.b else s

/-! ### Scratchpad accesses (R160, R161, R198) -/

/-- Scratchpad offset of a thread. -/
def spAddr (w : Nat) (th : Thread) : Nat := unsgn 32 ((th.val (tgRa w)).toNat + tgOff16 w)

/-- Causes of a scratchpad access: poisoned address, misaligned, outside the scratchpad. -/
def spCause (top w : Nat) (th : Thread) : Nat :=
  let a := spAddr w th
  if (th.reg (tgRa w)).poison then 6
  else if a % tgBytes w ≠ 0 then 2
  else if top ≤ a then 3 else 0

/-- Reads the words of an access at offset a: its value and the poison of each word. -/
def State.spRead (s : State) (b a words : Nat) : State × Nat × List Bool :=
  (List.range words).foldl (fun acc i =>
    let r := acc.1.baTake b (a / 4 + i)
    (r.1, acc.2.1 + r.2.1.toNat * 2 ^ (32 * i), acc.2.2 ++ [r.2.2])) (s, 0, [])

/-- Takes the part of a word that a narrow load names, sign-extended if asked. -/
def narrow (w a v : Nat) : Nat :=
  if 2 ≤ tgSize w then v else
  let n := 8 * tgBytes w
  let x := v / 2 ^ (8 * (a % 4)) % 2 ^ n
  if bitN w 39 then unsgn 32 (sgn n x) else x

/-- TG_SPLD. -/
def execTgSpld (b g : Nat) (s : State) : Out :=
  onTg b (s.tgRow b g 0x50 (spCause (s.scratchTop b)) (fun c s => s.memReady c) fun c s =>
    ((c.acting.foldl (fun s i =>
      let a := spAddr c.w (s.thread b g i)
      let r := s.spRead b a (tgWords c.w)
      r.1.updThread b g i fun th => th.setWide (tgRd c.w) (tgWords c.w) (narrow c.w a r.2.1) fun j => r.2.2.getD j false)
      s).acquire c).tgAdvance c c.part)

/-- Stores n registers' worth of bytes of a thread at offset a. -/
def State.spStore (s : State) (b w a : Nat) (th : Thread) : State :=
  if tgSize w < 2 then s.baMerge b a (tgBytes w) (th.val (tgRb w)).toNat (th.reg (tgRb w)).poison
  else
    s.baWrite b a (tgBytes w) (Mem.wr [] 0 (tgBytes w) (th.wide (tgRb w) (tgWords w)))
      ((List.range (tgWords w)).map fun i => (i, (th.reg (tgRb w + i)).poison))

/-- TG_SPST. -/
def execTgSpst (b g : Nat) (s : State) : Out :=
  onTg b (s.tgRow b g 0x51 (spCause (s.scratchTop b)) (fun c s => s.memReady c) fun c s =>
    (c.acting.foldl (fun s i =>
      let th := s.thread b g i
      s.spStore b c.w (spAddr c.w th) th) s).tgAdvance c c.part)

/-! ### Atomics (R163, R166) -/

/-- The distinct values of a list, in order of first appearance. -/
def distinct (l : List Nat) : List Nat := l.foldl (fun acc x => if acc.contains x then acc else acc ++ [x]) []

/-- Evaluates a partition's operations in ascending thread index from an old value and its poison: the final value and
poison, and what each thread gets: the value before its operation, poisoned also by its own operands (R161). -/
def atomicSteps (w : Nat) (ths : List (Nat × Thread)) (old : Nat) (psn : Bool) :
    (Nat × Bool) × List (Nat × Nat × Bool) :=
  let n := 32 * tgWords w
  ths.foldl (fun acc e =>
    let b := e.2.wide (tgRb w) (tgWords w)
    let c := e.2.wide (tgRb w + tgWords w) (tgWords w)
    let bp := (List.range (if tgAop w = 1 then 2 * tgWords w else tgWords w)).any fun i => (e.2.reg (tgRb w + i)).poison
    ((atomicNew (tgAop w) n acc.1.1 b c, bp || (acc.1.2 && tgAop w != 0)),
     acc.2 ++ [(e.1, acc.1.1, acc.1.2 || bp)])) ((old, psn), [])

/-- The partitions of an atomic: address and threads, in ascending order of their lowest thread (R166). -/
def State.atomicParts (s : State) (c : TgCtx) (addr : Nat → Thread → Nat) : List (Nat × List (Nat × Thread)) :=
  let ths := c.acting.map fun i => (i, s.thread c.b c.g i)
  (distinct (ths.map fun e => addr c.w e.2)).map fun a => (a, ths.filter fun e => addr c.w e.2 == a)

/-- TG_SPAT. -/
def execTgSpat (b g : Nat) (s : State) : Out :=
  onTg b (s.tgRow b g 0x54 (spCause (s.scratchTop b)) (fun c s => s.memReady c) fun c s =>
    let n := tgWords c.w
    (((s.atomicParts c spAddr).foldl (fun s p =>
      let r := s.spRead b p.1 n
      let e := atomicSteps c.w p.2 r.2.1 (r.2.2.any id)
      let s := r.1.baWrite b p.1 (4 * n) (Mem.wr [] 0 (4 * n) e.1.1) (if e.1.2 then [(0, true)] else [])
      e.2.foldl (fun s x => s.updThread b g x.1 fun th => th.setWide (tgRd c.w) n x.2.1 fun _ => x.2.2) s) s).acquire
      c).tgAdvance c c.part)

/-! ### Device accesses (R160, R164, R189) -/

/-- Device address of a thread. -/
def dvAddr (w : Nat) (th : Thread) : Nat := unsgn 64 (th.wide (tgRa w) 2 + tgOff16 w)

/-- Causes of a device access: poisoned address, misaligned, outside installed memory. -/
def dvCause (w : Nat) (th : Thread) : Nat :=
  let a := dvAddr w th
  if (th.reg (tgRa w)).poison || (th.reg (tgRa w + 1)).poison then 6
  else if a % tgBytes w ≠ 0 then 2
  else if !installed a (tgBytes w) then 4 else 0

/-- Some acting thread's access meets p. -/
def State.dvAny (s : State) (c : TgCtx) (p : Nat → Nat → Bool) : Bool :=
  c.acting.any fun i => p (dvAddr c.w (s.thread c.b c.g i)) (tgBytes c.w)

/-- Poison of the 32-bit registers of a value at byte offset o of data whose 64-bit words have the given state. -/
def regPsn (words : RMap CWord) (o i : Nat) : Bool := (RMap.get {} words ((o + 4 * i) / 8)).poison

/-- The line of sector n becomes the most recently used of the L1 (R188). -/
def State.l1Used (s : State) (b n : Nat) : State :=
  s.updTg b fun t => { t with l1 := t.l1.filter (fun l => l.sector == n) ++ t.l1.filter fun l => l.sector != n }

/-- Looks the words of an access up in the L1 (R188, R190): an uncorrectable word drops its line and is no hit. -/
def State.l1Look (s : State) (b a n : Nat) : State × Option L1Line :=
  match s.l1Line b (a / 256) with
  | none => (s, none)
  | some l =>
    let r := s.l1Meet b l (a % 256 / 4) (ceilDiv n 4)
    (r.1.l1Used b (a / 256), r.2)

/-- One thread's load: an L1 hit reaches the register at once; a miss requests the sector, or without an L1 the bytes
alone. -/
def State.dvLoad (s : State) (c : TgCtx) (i : Nat) : State :=
  let a := dvAddr c.w (s.thread c.b c.g i)
  let n := tgBytes c.w
  let r := s.l1Look c.b a n
  match r.2 with
  | some l =>
    r.1.updThread c.b c.g i fun th =>
      th.setWide (tgRd c.w) (tgWords c.w) (narrow c.w a (Mem.rd l.data (a % 256 / 4 * 4) (max 4 n)))
        fun j => (RMap.get {} l.words (a % 256 / 4 + j)).poison
  | none =>
    let whole := s.l1Units c.b != 0
    (r.1.cacheSend {
        addr := if whole then a / 256 * 256 else a, len := if whole then 256 else n, write := false, bytes := []
        poison := false, who := .thread c.b c.g i, cls := c.k.cls }).updThread c.b c.g i fun th =>
      { th with pend := th.pend ++ [{ rd := tgRd c.w, addr := a, size := tgSize c.w, signed := bitN c.w 39
                                      value := none, acq := if tgAcquires c.w then tgScope c.w + 1 else 0 }] }

/-- An acting thread has an earlier load of the sector whose data has not returned (R168). -/
def State.loadBefore (s : State) (c : TgCtx) : Bool :=
  c.acting.any fun i =>
    let th := s.thread c.b c.g i
    th.pend.any fun p => p.value.isNone && sectorsMeet (dvAddr c.w th) (tgBytes c.w) p.addr (2 ^ p.size)

/-- TG_DVLD: it waits while a store of the block to its sector is on its way, and behind an earlier load of its thread from
that sector (R168; DESIGN CHOICE, log entry 92). -/
def execTgDvld (b g : Nat) (s : State) : Out :=
  onTg b (s.tgRow b g 0x52 dvCause
    (fun c s => s.memReady c && !s.dvAny c (s.storeOpen b) && !s.loadBefore c) fun c s =>
    (c.acting.foldl (fun s i => s.dvLoad c i) (s.acquire c)).tgAdvance c c.part)

/-- A line with n bytes stored at offset o: whole words take the poison of their registers, a word written in part keeps
its own too (R161, R198). -/
def L1Line.put (l : L1Line) (o n v : Nat) (psn : Nat → Bool) : L1Line :=
  { l with
    data := Mem.splice l.data o n (Mem.wr [] 0 n v)
    words := (List.range (ceilDiv n 4)).foldl (fun m j =>
      let old := decide (n < 4) && (RMap.get {} m (o / 4)).poison
      RMap.fill {} m (o / 4 + j) 1 { poison := psn j || old }) l.words }

/-- Updates a present L1 line with a store, which is a use of it (R188, R189); a narrow store meets the word that it is
merged into, and a sector dropped for it is fetched again once the store has been accepted (R190). -/
def State.l1Store (s : State) (b a n v : Nat) (psn : Nat → Bool) : State :=
  let s := if n < 4 then
      let r := s.l1Look b a n
      if r.2.isNone && (s.l1Line b (a / 256)).isSome then r.1.l1Refetch b (a / 256) else r.1
    else s.l1Used b (a / 256)
  s.updTg b fun t => { t with l1 := t.l1.map fun l => if l.sector = a / 256 then l.put (a % 256) n v psn else l }

/-- One thread's store, in parts of at most 8 bytes: through the L1, then to the cache die. -/
def State.dvStore (s : State) (c : TgCtx) (i : Nat) : State :=
  let th := s.thread c.b c.g i
  let a := dvAddr c.w th
  let n := min 8 (tgBytes c.w)
  (List.range (tgBytes c.w / n)).foldl (fun s j =>
    let r := tgRb c.w + 2 * j
    let v := th.wide r (min 2 (tgWords c.w))
    let psn := (List.range (min 2 (tgWords c.w))).any fun x => (th.reg (r + x)).poison
    (s.l1Store c.b (a + 8 * j) n v fun x => (th.reg (r + x)).poison).cacheSend {
      addr := a + 8 * j, len := n, write := true, bytes := Mem.wr [] 0 n v, poison := psn
      who := .blockStore c.b, cls := c.k.cls }) s

/-- TG_DVST: it waits while a load of the block from its sector is on its way (R168). -/
def execTgDvst (b g : Nat) (s : State) : Out :=
  onTg b (s.tgRow b g 0x53 dvCause (fun c s => s.memReady c && !s.dvAny c (s.loadOpen b)) fun c s =>
    (c.acting.foldl (fun s i => s.dvStore c i) s).tgAdvance c c.part)

/-- An atomic of n bytes at device address a can be performed for block b now (R164, R221, R377). -/
def State.atomicFree (s : State) (b cls a n : Nat) : Bool :=
  !s.linkHolds b && !s.unitWaits b cls true false a n && !s.unitWaits b cls true true a n

/-- Performs a partition at the home slice, which pins the line until it is complete, and leaves the old values to return
(R164, R221). -/
def State.dvatPart (s : State) (c : TgCtx) (a : Nat) (ths : List (Nat × Thread)) : State :=
  let n := 4 * tgWords c.w
  let s := (s.serveAs c.k.cls c.b).lineRead (a / 1024) (a % 1024) n
  let old := Mem.rd s.ccd.mem a n
  let e := atomicSteps c.w ths old (RMap.get {} s.ccd.words (a / 8)).poison
  let s := s.lineWrite (a / 1024) (a % 1024) n (Mem.wr [] 0 n e.1.1)
    (if e.1.2 then RMap.fill false [] (a % 1024 / 8) 1 true else [])
  ((s.tempPin (a / 1024) false).l1Drop c.b a n).mapThreads c.b c.g fun i th =>
    match e.2.find? fun x => x.1 == i with
    | some x => { th with pend := th.pend ++ [{ rd := tgRd c.w, addr := a, size := tgSize c.w, signed := false
                                                value := some (BitVec.ofNat 64 x.2.1, x.2.2), acq := 0 }] }
    | none => th

/-- TG_DVAT. -/
def execTgDvat (b g : Nat) (s : State) : Out :=
  onTg b (s.tgRow b g 0x55 dvCause
    (fun c s => s.memReady c && !s.dvAny c (s.storeOpen b) && !s.dvAny c (s.loadOpen b) &&
      !s.dvAny c fun a n => !s.atomicFree b c.k.cls a n)
    fun c s =>
      (((s.atomicParts c dvAddr).foldl (fun s p => s.dvatPart c p.1 p.2) s).acquire c).tgAdvance c c.part)

/-- The response that answers a pending load of thread t. -/
def State.respFor (s : State) (b g t : Nat) (p : PendLoad) : Option CResp :=
  s.ccd.responses.find? fun r => r.who == .thread b g t && decide (r.addr ≤ p.addr) && decide (p.addr < r.addr + r.len)

/-- A value reaches the destination of a pending load. -/
def Thread.deliver (th : Thread) (p : PendLoad) (v : Nat) (psn : Nat → Bool) : Thread :=
  let n := if p.size = 3 then 2 else if p.size = 4 then 4 else 1
  let v := if 2 ≤ p.size then v else if p.signed then unsgn 32 (sgn (8 * 2 ^ p.size) v) else v
  { th.setWide p.rd n v psn with pend := th.pend.erase p }

/-- Takes a response out; without an intervening device write of the block it fills the L1 (R188, R189), and older data of its
sector no longer does (R168). -/
def State.takeResp (s : State) (b : Nat) (r : CResp) : State :=
  let older := s.ccd.responses.takeWhile (· != r)
  let s := { s with ccd := { s.ccd with responses := s.ccd.responses.erase r } }
  if r.fill && r.len = 256 then (s.l1Overtake b (r.addr / 256) older).l1Fill b (r.addr / 256) r.data r.words else s

/-- TG_LOAD_DATA_RETURN: the oldest load of thread t whose data is there reaches its register; a poisoned word poisons it
(R161). Data that no load waits for is dropped. -/
def execTgLoadDataReturn (b g t : Nat) (s : State) : Out :=
  onTg b (
    if !s.blockLive b || (s.blk b).tg.stopped then s else
    match (s.thread b g t).pend.find? fun p => p.value.isSome || (s.respFor b g t p).isSome with
    | some p =>
      (match p.value with
       | some v => s.updThread b g t fun th => th.deliver p v.1.toNat fun _ => v.2
       | none =>
         match s.respFor b g t p with
         | none => s
         | some r =>
           let s := if 3 ≤ p.acq then
               { s with ccd := { s.ccd with responses := s.ccd.responses.erase r } }.l1Empty b else s
           (s.takeResp b r).updThread b g t fun th =>
             th.deliver p (Mem.rd r.data (p.addr - r.addr) (2 ^ p.size)) fun j =>
               regPsn r.words (p.addr - r.addr / 8 * 8) j)
    | none =>
      match s.ccd.responses.find? fun r => r.who == .thread b g t with
      | some r => s.takeResp b r
      | none => s)

/-! ### Control, barriers, synchronisation -/

/-- Moves acting threads to target and the rest on. -/
def State.tgJump (s : State) (c : TgCtx) (target : Thread → Nat) : State :=
  (s.tgAdvance c c.part).mapThreads c.b c.g fun i th => if c.acting.contains i then { th with pc := target th } else th

/-- Target of JUMP and CALL. -/
def TgCtx.target (c : TgCtx) : Nat := unsgn 32 ((c.pc : Int) + tgOff32 c.w * 8)

/-- TG_JUMP. -/
def execTgJump (b g : Nat) (s : State) : Out :=
  onTg b (s.tgRow b g 0x60 noCause always fun c s => s.tgJump c fun _ => c.target)

/-- TG_CALL. -/
def execTgCall (b g : Nat) (s : State) : Out :=
  onTg b (s.tgRow b g 0x61 noCause always fun c s =>
    (s.mapThreads b g fun i th =>
      if c.acting.contains i then th.setReg (tgRd c.w) (BitVec.ofNat 32 (c.pc + 8)) false else th).tgJump c
        fun _ => c.target)

/-- JREG traps on a poisoned target (R161). -/
def jregCause (w : Nat) (th : Thread) : Nat := if (th.reg (tgRa w)).poison then 6 else 0

/-- TG_JREG. -/
def execTgJreg (b g : Nat) (s : State) : Out :=
  onTg b (s.tgRow b g 0x62 jregCause always fun c s =>
    s.tgJump c fun th => (th.val (tgRa c.w)).toNat / 8 * 8)

/-- The identifier a thread waits at. -/
def Thread.meetId (th : Thread) : Option Nat :=
  match th.st with
  | .meet i => some i
  | _ => none

/-- Decides a group's barrier once no thread of it can issue, and frees the context of a group that has exited
(R157, R158). -/
def State.tgResolve (s : State) (b g : Nat) : State :=
  match s.tgGroup b g with
  | none => s
  | some k =>
    let open_ := k.threads.filter fun e => e.2.st != .exited
    match open_ with
    | [] => s.updKernel b fun q => { q with live := q.live.filter fun e => e.1 != g }
    | (t, th) :: rest =>
      if open_.any fun e => e.2.live then s
      else if rest.all fun e => e.2.meetId == th.meetId then
        s.updGroup b g fun k => { k with
          meetAt := none
          threads := k.threads.map fun e =>
            if e.2.st = .exited then e else (e.1, { e.2 with st := .run, pc := (e.2.pc + 8) % 2 ^ 32 }) }
      else s.tgTrap b g t 7

/-- TG_DONE. -/
def execTgDone (b g : Nat) (s : State) : Out :=
  onTg b (s.tgRow b g 0x63 noCause always fun c s =>
    ((s.tgAdvance c c.part).mapThreads b g fun i th =>
      if c.acting.contains i then { th with st := .exited } else th).tgResolve b g)

/-- TG_MEET: acting threads wait at the identifier; the watchdog of the group starts with its first waiting thread
(R158, R159). -/
def execTgMeet (b g : Nat) (s : State) : Out :=
  onTg b (s.tgRow b g 0x68 noCause (fun c s => c.acting.all fun t => (s.thread b g t).pend.isEmpty) fun c s =>
    let s := s.tgAdvance c (c.part.filter fun t => !c.acting.contains t)
    let s := s.mapThreads b g fun i th => if c.acting.contains i then { th with st := .meet (tgImm16 c.w) } else th
    let now := s.tick
    let s := if c.acting.isEmpty then s else
      s.updGroup b g fun k => { k with meetAt := match k.meetAt with | some t => some t | none => some now }
    s.tgResolve b g)

/-- TG_FENCE. -/
def execTgFence (b g : Nat) (s : State) : Out :=
  onTg b (s.tgRow b g 0x69 noCause (fun c s => s.relReady c (tgFunc c.w)) fun c s =>
    (if 2 ≤ tgFunc c.w && !c.acting.isEmpty then s.l1Empty b else s).tgAdvance c c.part)

/-- The units of a mask have completed what was issued to them before the LAUNCH (R165). -/
def State.uwaitDone (s : State) (b mask : Nat) : Bool :=
  match (s.blk b).tg.kernel with
  | none => false
  | some k => (List.range 6).all fun u => !bitN mask u ||
      decide (SMap.get 0 k.issued u ≤ SMap.get 0 (s.blk b).seq.completed u)

/-- TG_UWAIT: acting threads wait at the instruction until the units have completed. -/
def execTgUwait (b g : Nat) (s : State) : Out :=
  onTg b (s.tgRow b g 0x6A noCause always fun c s =>
    if s.uwaitDone b (tgImm16 c.w) then s.tgAdvance c c.part
    else
      (s.tgAdvance c (c.part.filter fun t => !c.acting.contains t)).mapThreads b g fun i th =>
        if c.acting.contains i then { th with st := .uwait (BitVec.ofNat 6 (tgImm16 c.w)) } else th)

/-- TG_UWAIT_RELEASE: waiting threads whose units have completed go on. -/
def execTgUwaitRelease (b g : Nat) (s : State) : Out :=
  onTg b (
    if !s.blockLive b || (s.blk b).tg.stopped then s else
    s.mapThreads b g fun _ th =>
      match th.st with
      | .uwait m => if s.uwaitDone b m.toNat then { th with st := .run, pc := (th.pc + 8) % 2 ^ 32 } else th
      | _ => th)

/-- TRAPI's cause for an acting thread. -/
def trapiCause (w : Nat) (_ : Thread) : Nat := 0x80 + tgImm16 w % 128

/-- TG_TRAPI: every acting thread traps. -/
def execTgTrapi (b g : Nat) (s : State) : Out :=
  onTg b (s.tgRow b g 0x6F trapiCause always fun c s => s.tgAdvance c c.part)

/-- TG_ILLEGAL_INSTRUCTION: the word breaks R153, R148 or R152 (cause 0x01). -/
def execTgIllegalInstruction (b g : Nat) (s : State) : Out :=
  onTg b (s.tgIssue b g (fun _ ck => ck == 1) noCause always fun _ s => s)

/-- BLOCK_WATCHDOG_EXPIRY: a barrier of group g has waited 2^wd_exp cycles of 13 a tick (R159). -/
def execBlockWatchdogExpiry (b g : Nat) (s : State) : Out :=
  onTg b (
    match (s.tgGroup b g).bind fun k => k.meetAt.map fun t => (k, t) with
    | none => s
    | some (k, t0) =>
      if !s.blockLive b || (s.blk b).tg.wdFall || (s.tick - t0) * 13 < 2 ^ (s.region (b / 12)).wdExp then s else
      let e := (k.threads.find? fun e => e.2.meetId.isSome).getD (0, { pc := 0 })
      let was := (s.blk b).tg.trapped
      let s := (s.dropRequests b).updTg b fun q =>
        if q.trapped then { q with wdFall := true } else { q with wdFall := true, trapThread := e.1, trapGroup := g }
      if was then s.checkSelf 4 else (s.tgRec b g e.1 0x100 e.2.pc).checkSelf 4)

/-! ### Dispatch and completion -/

/-- Contexts of a lane (R144). -/
def laneContexts (regs : Nat) : Nat := min 16 (1024 / (ceilDiv regs 4 * 4))

/-- The lowest free place of a kernel: segment set, then context (R145). -/
def Kernel.place (k : Kernel) : Option (Nat × Nat) :=
  ((List.range (64 / k.width)).flatMap fun j => (List.range (laneContexts k.regs)).map fun c => (j, c)).find? fun p =>
    !k.live.any fun e => e.2.set == p.1 && e.2.ctx == p.2

/-- The scratchpad ranges of commands that have started in block b (R180). -/
def State.startedRanges (s : State) (b : Nat) : List (Nat × Nat) :=
  let B := s.blk b
  B.mc.flatMap (fun e =>
    (match e.2.loading with
     | some l => if l.space then [] else [(l.addr, l.len)]
     | none => []) ++
    e.2.streams.flatMap fun t =>
      (if t.sspace then [] else [(t.src, t.srcLen)]) ++ (if t.dspace then [] else [(t.dst, t.dstLen)])) ++
  B.dma.flatMap fun e =>
    match e.2.busy with
    | none => []
    | some w => (dmaRanges e.2 w).filterMap fun r => if r.1 then none else some (r.2.1, r.2.2.1)

/-- GROUP_DISPATCH: the next group takes the lowest free place; the first waits for started commands that reach into the
L1 range (R145, R180). -/
def execGroupDispatch (b : Nat) (s : State) : Out :=
  onTg b (
    match (s.blk b).tg.kernel with
    | none => s
    | some k =>
      let top := (8 - k.l1) * 0x40000
      if !s.blockLive b || (s.blk b).tg.stopped || decide (k.groups ≤ k.next) then s
      else if !k.started && k.l1 != 0 && (s.startedRanges b).any fun r => decide (0 < r.2) && decide (top < r.1 + r.2) then s
      else match k.place with
        | none => s
        | some p =>
          s.updKernel b fun k => { k with
            started := true
            next := k.next + 1
            live := k.live ++ [(k.next, { set := p.1, ctx := p.2
                                          threads := (List.range k.width).map fun t => (t, { pc := k.entry }) })] })

/-- KERNEL_COMPLETE: every group has exited and every store is accepted; the L1 range returns to the scratchpad unwritten
(R94, R147, R190). -/
def execKernelComplete (b : Nat) (s : State) : Out :=
  onTg b (
    match (s.blk b).tg.kernel with
    | none => s
    | some k =>
      if !s.blockLive b || (s.blk b).tg.stopped || decide (k.next < k.groups) || !k.live.isEmpty || s.anyStoreOpen b then s
      else ((s.dropRequests b).baUnwrite b ((8 - k.l1) * 0x40000) (k.l1 * 0x40000)).updTg b fun t =>
        { t with kernel := none, l1 := [] })

end Sys2Proof.Machine
end

