-- ==== Sys2Proof/Machine/Dispatch.lean ====
section
/-! DEFINITION. One arm per command: the command's effect on everything but the queue. -/

namespace Sys2Proof.Machine

/-- The effect of a command. -/
def exec (i : Instr) (s : State) : Host.Outcome State Fault Refusal :=
  match i with
  | .auxSupplyValid strapHold readable => Sys2Proof.Machine.execAuxSupplyValid strapHold s readable
  | .auxSupplyLost => Sys2Proof.Machine.execAuxSupplyLost s
  | .inputValidHold => Sys2Proof.Machine.execInputValidHold s
  | .suppliesValid => Sys2Proof.Machine.execSuppliesValid s
  | .supplyStartTimeout => Sys2Proof.Machine.execSupplyStartTimeout s
  | .startRetry => Sys2Proof.Machine.execStartRetry s
  | .input48vLoss cause => Sys2Proof.Machine.execInput48vLoss cause s
  | .busConverterFault k => Sys2Proof.Machine.execBusConverterFault k s
  | .blockUnderVoltage region slot => Sys2Proof.Machine.execBlockUnderVoltage region slot s
  | .uncoreUnderVoltage domain => Sys2Proof.Machine.execUncoreUnderVoltage domain s
  | .powerSample p v faults => Sys2Proof.Machine.execPowerSample p v s faults
  | .currentEstimateFrame b est => Sys2Proof.Machine.execCurrentEstimateFrame b est s
  | .rampComplete region slot => Sys2Proof.Machine.execRampComplete region slot s
  | .rampDeferralEnd region slot => Sys2Proof.Machine.execRampDeferralEnd region slot s
  | .refclkLoss => Sys2Proof.Machine.execRefclkLoss s
  | .refclkRestore => Sys2Proof.Machine.execRefclkRestore s
  | .pllLockLoss upper => Sys2Proof.Machine.execPllLockLoss upper s
  | .bootStepComplete step obs => Sys2Proof.Machine.execBootStepComplete step obs s
  | .bootWatchdog => Sys2Proof.Machine.execBootWatchdog s
  | .heldMainReset => Sys2Proof.Machine.execHeldMainReset s
  | .fwStoreWriteComplete ok => Sys2Proof.Machine.execFwStoreWriteComplete ok s
  | .housekeepingRound r => Sys2Proof.Machine.execHousekeepingRound r s
  | .standbySensorRead ext therm => Sys2Proof.Machine.execStandbySensorRead ext therm s
  | .bundleIdlePattern bundle link bad => Sys2Proof.Machine.execBundleIdlePattern bundle link bad s
  | .bundleRetuneComplete narrow windows => Sys2Proof.Machine.execBundleRetuneComplete s narrow windows
  | .hostInterfaceReset cause => Sys2Proof.Machine.execHostInterfaceReset s cause
  | .linkChange rate width flit => Sys2Proof.Machine.execLinkChange rate width flit s
  | .registerWrite off size value => Sys2Proof.Machine.execRegisterWrite off size value s
  | .hifResetWrite value => Sys2Proof.Machine.execHifResetWrite value s
  | .schJournalCfgWrite value => Sys2Proof.Machine.execSchJournalCfgWrite value s
  | .hbmGranWrite stack hi value => Sys2Proof.Machine.execHbmGranWrite stack hi value s
  | .ccdCfgWrite value => Sys2Proof.Machine.execCcdCfgWrite value s
  | .qosMinWrite g m value => Sys2Proof.Machine.execQosMinWrite g m value s
  | .qosCfgWrite value => Sys2Proof.Machine.execQosCfgWrite value s
  | .ringCfgWrite ring value => Sys2Proof.Machine.execRingCfgWrite ring value s
  | .msixVectorUnmask vec => Sys2Proof.Machine.execMsixVectorUnmask vec s
  | .heldRegisterWriteApply => Sys2Proof.Machine.execHeldRegisterWriteApply s
  | .bar2Read off len => Sys2Proof.Machine.execBar2Read off len s
  | .bar2Write off len bytes => Sys2Proof.Machine.execBar2Write off len bytes s
  | .sqTailDoorbell off value => Sys2Proof.Machine.execSqTailDoorbell off value s
  | .cqHeadDoorbell off value => Sys2Proof.Machine.execCqHeadDoorbell off value s
  | .eqHeadDoorbell value => Sys2Proof.Machine.execEqHeadDoorbell value s
  | .descriptorFetch q dws => Sys2Proof.Machine.execDescriptorFetch q dws s
  | .descriptorComplete uid => Sys2Proof.Machine.execDescriptorComplete uid s
  | .cqInterruptDelay c => Sys2Proof.Machine.execCqInterruptDelay c s
  | .hostNop q => Sys2Proof.Machine.execHostNop q s
  | .copyH2d q rd => Sys2Proof.Machine.execCopyH2d q rd s
  | .copyD2h q => Sys2Proof.Machine.execCopyD2h q s
  | .copyD2d q => Sys2Proof.Machine.execCopyD2d q s
  | .hostFill q => Sys2Proof.Machine.execHostFill q s
  | .imageLoad q rd => Sys2Proof.Machine.execImageLoad q rd s
  | .domainJoin q => Sys2Proof.Machine.execDomainJoin q s
  | .domainLeave q => Sys2Proof.Machine.execDomainLeave q s
  | .plyRun q => Sys2Proof.Machine.execPlyRun q s
  | .plyStop q => Sys2Proof.Machine.execPlyStop q s
  | .cacheRangePrefetch q => Sys2Proof.Machine.execCacheRangePrefetch q s
  | .cacheRangeFlush q => Sys2Proof.Machine.execCacheRangeFlush q s
  | .cacheRangeInvalidate q => Sys2Proof.Machine.execCacheRangeInvalidate q s
  | .cacheRangeCleanInvalidate q => Sys2Proof.Machine.execCacheRangeCleanInvalidate q s
  | .cacheRangeDead q => Sys2Proof.Machine.execCacheRangeDead q s
  | .cacheRangePin q => Sys2Proof.Machine.execCacheRangePin q s
  | .cacheRangeUnpin q => Sys2Proof.Machine.execCacheRangeUnpin q s
  | .hostFence q => Sys2Proof.Machine.execHostFence q s
  | .pimSubmit q rd => Sys2Proof.Machine.execPimSubmit q rd s
  | .licenceInstall q rd flashOk => Sys2Proof.Machine.execLicenceInstall q rd flashOk s
  | .queryIdentity q => Sys2Proof.Machine.execQueryIdentity q s
  | .queryErrorLog q => Sys2Proof.Machine.execQueryErrorLog q s
  | .querySlotMap q => Sys2Proof.Machine.execQuerySlotMap q s
  | .queryMeasurements q => Sys2Proof.Machine.execQueryMeasurements q s
  | .queryLicences q => Sys2Proof.Machine.execQueryLicences q s
  | .queryThermal q => Sys2Proof.Machine.execQueryThermal q s
  | .queryReplace q => Sys2Proof.Machine.execQueryReplace q s
  | .eventAck q => Sys2Proof.Machine.execEventAck q s
  | .fwStage q rd => Sys2Proof.Machine.execFwStage q rd s
  | .promote q => Sys2Proof.Machine.execPromote q s
  | .drain q => Sys2Proof.Machine.execDrain q s
  | .armEpoch => Sys2Proof.Machine.execArmEpoch s
  | .armVerdict => Sys2Proof.Machine.execArmVerdict s
  | .firstPlyStart => Sys2Proof.Machine.execFirstPlyStart s
  | .plyBoundary => Sys2Proof.Machine.execPlyBoundary s
  | .checkFloodRound i_ => Sys2Proof.Machine.execCheckFloodRound i_ s
  | .plyVerdict lost orphan => Sys2Proof.Machine.execPlyVerdict s lost orphan
  | .plyRestart finished => Sys2Proof.Machine.execPlyRestart finished s
  | .endOfPlyPoint b => Sys2Proof.Machine.execEndOfPlyPoint b s
  | .timeBeaconEmit => Sys2Proof.Machine.execTimeBeaconEmit s
  | .timeWatchdogExpiry => Sys2Proof.Machine.execTimeWatchdogExpiry s
  | .holdoverLimit => Sys2Proof.Machine.execHoldoverLimit s
  | .timeLockAchieved => Sys2Proof.Machine.execTimeLockAchieved s
  | .timeLockTimeout => Sys2Proof.Machine.execTimeLockTimeout s
  | .joinResend => Sys2Proof.Machine.execJoinResend s
  | .joinFrameTimeout => Sys2Proof.Machine.execJoinFrameTimeout s
  | .takeoverGrant => Sys2Proof.Machine.execTakeoverGrant s
  | .standbyPreparationComplete => Sys2Proof.Machine.execStandbyPreparationComplete s
  | .takeoverFlood => Sys2Proof.Machine.execTakeoverFlood s
  | .takeoverVerdict serving => Sys2Proof.Machine.execTakeoverVerdict s serving
  | .endgamePhaseComplete => Sys2Proof.Machine.execEndgamePhaseComplete s
  | .promotionReady region => Sys2Proof.Machine.execPromotionReady region s
  | .seqAlu b => Sys2Proof.Machine.execSeqAlu b s
  | .seqAddi b => Sys2Proof.Machine.execSeqAddi b s
  | .seqAndi b => Sys2Proof.Machine.execSeqAndi b s
  | .seqOri b => Sys2Proof.Machine.execSeqOri b s
  | .seqXori b => Sys2Proof.Machine.execSeqXori b s
  | .seqSlli b => Sys2Proof.Machine.execSeqSlli b s
  | .seqSrli b => Sys2Proof.Machine.execSeqSrli b s
  | .seqSrai b => Sys2Proof.Machine.execSeqSrai b s
  | .seqSlti b => Sys2Proof.Machine.execSeqSlti b s
  | .seqSltiu b => Sys2Proof.Machine.execSeqSltiu b s
  | .seqLui b => Sys2Proof.Machine.execSeqLui b s
  | .seqLw b => Sys2Proof.Machine.execSeqLw b s
  | .seqSw b => Sys2Proof.Machine.execSeqSw b s
  | .seqBeq b => Sys2Proof.Machine.execSeqBeq b s
  | .seqBne b => Sys2Proof.Machine.execSeqBne b s
  | .seqBlt b => Sys2Proof.Machine.execSeqBlt b s
  | .seqBge b => Sys2Proof.Machine.execSeqBge b s
  | .seqBltu b => Sys2Proof.Machine.execSeqBltu b s
  | .seqBgeu b => Sys2Proof.Machine.execSeqBgeu b s
  | .seqJal b => Sys2Proof.Machine.execSeqJal b s
  | .seqJalr b => Sys2Proof.Machine.execSeqJalr b s
  | .seqCissue b => Sys2Proof.Machine.execSeqCissue b s
  | .seqLaunch b => Sys2Proof.Machine.execSeqLaunch b s
  | .seqWaitc b => Sys2Proof.Machine.execSeqWaitc b s
  | .seqWaitk b => Sys2Proof.Machine.execSeqWaitk b s
  | .seqWaitx b => Sys2Proof.Machine.execSeqWaitx b s
  | .seqSempost b => Sys2Proof.Machine.execSeqSempost b s
  | .seqSemwait b => Sys2Proof.Machine.execSeqSemwait b s
  | .seqLoadi b => Sys2Proof.Machine.execSeqLoadi b s
  | .seqCsrr b => Sys2Proof.Machine.execSeqCsrr b s
  | .seqCsrw b => Sys2Proof.Machine.execSeqCsrw b s
  | .seqTrap b => Sys2Proof.Machine.execSeqTrap b s
  | .seqEop b => Sys2Proof.Machine.execSeqEop b s
  | .seqIllegalInstruction b => Sys2Proof.Machine.execSeqIllegalInstruction b s
  | .seqStallRelease b => Sys2Proof.Machine.execSeqStallRelease b s
  | .seqWaitRelease b => Sys2Proof.Machine.execSeqWaitRelease b s
  | .semaphoreGrant sem => Sys2Proof.Machine.execSemaphoreGrant sem s
  | .mcNop b k => Sys2Proof.Machine.execMcNop b k s
  | .mcCfg b k => Sys2Proof.Machine.execMcCfg b k s
  | .mcBase b k => Sys2Proof.Machine.execMcBase b k s
  | .mcLoadw b k => Sys2Proof.Machine.execMcLoadw b k s
  | .mcCastle b k => Sys2Proof.Machine.execMcCastle b k s
  | .mcStream b k => Sys2Proof.Machine.execMcStream b k s
  | .mcClracc b k => Sys2Proof.Machine.execMcClracc b k s
  | .mcRowIssue b k => Sys2Proof.Machine.execMcRowIssue b k s
  | .mcRowResult b k upset => Sys2Proof.Machine.execMcRowResult b k upset s
  | .mcLoadwComplete b k => Sys2Proof.Machine.execMcLoadwComplete b k s
  | .mcStreamComplete b k => Sys2Proof.Machine.execMcStreamComplete b k s
  | .dmaNop b c => Sys2Proof.Machine.execDmaNop b c s
  | .dmaBase b c => Sys2Proof.Machine.execDmaBase b c s
  | .dmaCopy b c => Sys2Proof.Machine.execDmaCopy b c s
  | .dmaFill b c => Sys2Proof.Machine.execDmaFill b c s
  | .dmaRangePrefetch b c => Sys2Proof.Machine.execDmaRangePrefetch b c s
  | .dmaRangeFlush b c => Sys2Proof.Machine.execDmaRangeFlush b c s
  | .dmaRangeInvalidate b c => Sys2Proof.Machine.execDmaRangeInvalidate b c s
  | .dmaRangeCleanInvalidate b c => Sys2Proof.Machine.execDmaRangeCleanInvalidate b c s
  | .dmaRangeDead b c => Sys2Proof.Machine.execDmaRangeDead b c s
  | .dmaCommandComplete b c => Sys2Proof.Machine.execDmaCommandComplete b c s
  | .groupDispatch b => Sys2Proof.Machine.execGroupDispatch b s
  | .kernelComplete b => Sys2Proof.Machine.execKernelComplete b s
  | .tgNop b g => Sys2Proof.Machine.execTgNop b g s
  | .tgAdd b g => Sys2Proof.Machine.execTgAdd b g s
  | .tgAddI b g => Sys2Proof.Machine.execTgAddI b g s
  | .tgSub b g => Sys2Proof.Machine.execTgSub b g s
  | .tgSubI b g => Sys2Proof.Machine.execTgSubI b g s
  | .tgMullo b g => Sys2Proof.Machine.execTgMullo b g s
  | .tgMulloI b g => Sys2Proof.Machine.execTgMulloI b g s
  | .tgMulhi b g => Sys2Proof.Machine.execTgMulhi b g s
  | .tgMulhiI b g => Sys2Proof.Machine.execTgMulhiI b g s
  | .tgMuladd b g => Sys2Proof.Machine.execTgMuladd b g s
  | .tgMinmax b g => Sys2Proof.Machine.execTgMinmax b g s
  | .tgMinmaxI b g => Sys2Proof.Machine.execTgMinmaxI b g s
  | .tgAnd b g => Sys2Proof.Machine.execTgAnd b g s
  | .tgAndI b g => Sys2Proof.Machine.execTgAndI b g s
  | .tgOr b g => Sys2Proof.Machine.execTgOr b g s
  | .tgOrI b g => Sys2Proof.Machine.execTgOrI b g s
  | .tgXor b g => Sys2Proof.Machine.execTgXor b g s
  | .tgXorI b g => Sys2Proof.Machine.execTgXorI b g s
  | .tgShl b g => Sys2Proof.Machine.execTgShl b g s
  | .tgShlI b g => Sys2Proof.Machine.execTgShlI b g s
  | .tgShr b g => Sys2Proof.Machine.execTgShr b g s
  | .tgShrI b g => Sys2Proof.Machine.execTgShrI b g s
  | .tgBitcnt b g => Sys2Proof.Machine.execTgBitcnt b g s
  | .tgLeadz b g => Sys2Proof.Machine.execTgLeadz b g s
  | .tgPick b g => Sys2Proof.Machine.execTgPick b g s
  | .tgMovr b g => Sys2Proof.Machine.execTgMovr b g s
  | .tgMovk b g => Sys2Proof.Machine.execTgMovk b g s
  | .tgAddf b g => Sys2Proof.Machine.execTgAddf b g s
  | .tgAddfI b g => Sys2Proof.Machine.execTgAddfI b g s
  | .tgMulf b g => Sys2Proof.Machine.execTgMulf b g s
  | .tgMulfI b g => Sys2Proof.Machine.execTgMulfI b g s
  | .tgMadf b g => Sys2Proof.Machine.execTgMadf b g s
  | .tgMinmaxf b g => Sys2Proof.Machine.execTgMinmaxf b g s
  | .tgMinmaxfI b g => Sys2Proof.Machine.execTgMinmaxfI b g s
  | .tgSignf b g => Sys2Proof.Machine.execTgSignf b g s
  | .tgTrans b g => Sys2Proof.Machine.execTgTrans b g s
  | .tgConv b g => Sys2Proof.Machine.execTgConv b g s
  | .tgPack b g => Sys2Proof.Machine.execTgPack b g s
  | .tgCmpi b g => Sys2Proof.Machine.execTgCmpi b g s
  | .tgCmpf b g => Sys2Proof.Machine.execTgCmpf b g s
  | .tgFlagop b g => Sys2Proof.Machine.execTgFlagop b g s
  | .tgXlane b g => Sys2Proof.Machine.execTgXlane b g s
  | .tgCensus b g => Sys2Proof.Machine.execTgCensus b g s
  | .tgLanered b g => Sys2Proof.Machine.execTgLanered b g s
  | .tgSysr b g => Sys2Proof.Machine.execTgSysr b g s
  | .tgSpld b g => Sys2Proof.Machine.execTgSpld b g s
  | .tgSpst b g => Sys2Proof.Machine.execTgSpst b g s
  | .tgDvld b g => Sys2Proof.Machine.execTgDvld b g s
  | .tgDvst b g => Sys2Proof.Machine.execTgDvst b g s
  | .tgSpat b g => Sys2Proof.Machine.execTgSpat b g s
  | .tgDvat b g => Sys2Proof.Machine.execTgDvat b g s
  | .tgLoadDataReturn b g t => Sys2Proof.Machine.execTgLoadDataReturn b g t s
  | .tgJump b g => Sys2Proof.Machine.execTgJump b g s
  | .tgCall b g => Sys2Proof.Machine.execTgCall b g s
  | .tgJreg b g => Sys2Proof.Machine.execTgJreg b g s
  | .tgDone b g => Sys2Proof.Machine.execTgDone b g s
  | .tgMeet b g => Sys2Proof.Machine.execTgMeet b g s
  | .tgFence b g => Sys2Proof.Machine.execTgFence b g s
  | .tgUwait b g => Sys2Proof.Machine.execTgUwait b g s
  | .tgUwaitRelease b g => Sys2Proof.Machine.execTgUwaitRelease b g s
  | .tgTrapi b g => Sys2Proof.Machine.execTgTrapi b g s
  | .tgIllegalInstruction b g => Sys2Proof.Machine.execTgIllegalInstruction b g s
  | .blockWatchdogExpiry b g => Sys2Proof.Machine.execBlockWatchdogExpiry b g s
  | .blockArrayScrub b bank => Sys2Proof.Machine.execBlockArrayScrub b bank s
  | .cacheDieRead sl => Sys2Proof.Machine.execCacheDieRead sl s
  | .cacheDieWrite sl => Sys2Proof.Machine.execCacheDieWrite sl s
  | .cacheDieFill sl => Sys2Proof.Machine.execCacheDieFill sl s
  | .cacheDieReduction sl => Sys2Proof.Machine.execCacheDieReduction sl s
  | .cacheDieScrub sl => Sys2Proof.Machine.execCacheDieScrub sl s
  | .hbmRequestService stk ch crcFails => Sys2Proof.Machine.execHbmRequestService stk ch crcFails s
  | .hbmRefresh stk ch => Sys2Proof.Machine.execHbmRefresh stk ch s
  | .hbmScrub stk ch => Sys2Proof.Machine.execHbmScrub stk ch s
  | .hbmRetrainComplete stk ch ok => Sys2Proof.Machine.execHbmRetrainComplete stk ch ok s
  | .hbmRemapWindow stk ch => Sys2Proof.Machine.execHbmRemapWindow stk ch s
  | .hbmRemapWindowEnd stk ch => Sys2Proof.Machine.execHbmRemapWindowEnd stk ch s
  | .nbCommandAccept b => Sys2Proof.Machine.execNbCommandAccept b s
  | .nbCommandStart stk => Sys2Proof.Machine.execNbCommandStart stk s
  | .nbJournalPhaseEnd stk => Sys2Proof.Machine.execNbJournalPhaseEnd stk s
  | .nbSegmentEnd stk parity => Sys2Proof.Machine.execNbSegmentEnd stk parity s
  | .nbServiceWindowEnd stk => Sys2Proof.Machine.execNbServiceWindowEnd stk s
  | .nbCommandComplete stk => Sys2Proof.Machine.execNbCommandComplete stk s
  | .ceStepAccept b => Sys2Proof.Machine.execCeStepAccept b s
  | .ceSend i_ => Sys2Proof.Machine.execCeSend i_ s
  | .ceRecv i_ => Sys2Proof.Machine.execCeRecv i_ s
  | .ceReduce i_ => Sys2Proof.Machine.execCeReduce i_ s
  | .ceCombine i_ => Sys2Proof.Machine.execCeCombine i_ s
  | .ceMirror i_ => Sys2Proof.Machine.execCeMirror i_ s
  | .ceContributionReady i_ => Sys2Proof.Machine.execCeContributionReady i_ s
  | .ceStepComplete i_ => Sys2Proof.Machine.execCeStepComplete i_ s
  | .frameSlot p => Sys2Proof.Machine.execFrameSlot p s
  | .sendReadLead e => Sys2Proof.Machine.execSendReadLead e s
  | .sendEntryRelease e => Sys2Proof.Machine.execSendEntryRelease e s
  | .expectEntryDeadline e => Sys2Proof.Machine.execExpectEntryDeadline e s
  | .idleFrame p h => Sys2Proof.Machine.execIdleFrame p h s
  | .sDataFrame p h f => Sys2Proof.Machine.execSDataFrame p h f s
  | .sCheckFrame p h f => Sys2Proof.Machine.execSCheckFrame p h f s
  | .sArmFrame p h armed start => Sys2Proof.Machine.execSArmFrame p h armed start s
  | .vRead p h f => Sys2Proof.Machine.execVRead p h f s
  | .vWrite p h f => Sys2Proof.Machine.execVWrite p h f s
  | .vResponse p h f => Sys2Proof.Machine.execVResponse p h f s
  | .vNak p h f => Sys2Proof.Machine.execVNak p h f s
  | .tBeacon p h tick master holdover => Sys2Proof.Machine.execTBeacon p h tick master holdover s
  | .joinFrame p h imageId ldev => Sys2Proof.Machine.execJoinFrame p h imageId ldev s
  | .laneMove p h lane group => Sys2Proof.Machine.execLaneMove p h lane group s
  | .laneAck p h lane => Sys2Proof.Machine.execLaneAck p h lane s
  | .echoReq p h stamp => Sys2Proof.Machine.execEchoReq p h stamp s
  | .echoResp p h stamp roundTrip => Sys2Proof.Machine.execEchoResp p h stamp roundTrip s
  | .widthFrame p h width group => Sys2Proof.Machine.execWidthFrame p h width group s
  | .corruptFrame p kind => Sys2Proof.Machine.execCorruptFrame p kind s
  | .noFrameTimeout p => Sys2Proof.Machine.execNoFrameTimeout p s
  | .portUp p bad => Sys2Proof.Machine.execPortUp p bad s
  | .laneLossOfLock p lane => Sys2Proof.Machine.execLaneLossOfLock p lane s
  | .laneSymbolWindow p lane symbols codewords => Sys2Proof.Machine.execLaneSymbolWindow p lane symbols s codewords
  | .linkAnswerTimeout p => Sys2Proof.Machine.execLinkAnswerTimeout p s
  | .laneRetrainComplete p lane ok => Sys2Proof.Machine.execLaneRetrainComplete p lane ok s
  | .latencyRemeasure p => Sys2Proof.Machine.execLatencyRemeasure p s
  | .serviceRetryTimeout tag => Sys2Proof.Machine.execServiceRetryTimeout tag s
  | .quarantineEnd tag => Sys2Proof.Machine.execQuarantineEnd tag s
  | .qosEpoch => Sys2Proof.Machine.execQosEpoch s
  | .qosWindowEnd => Sys2Proof.Machine.execQosWindowEnd s
  | .i3cEntdaa addr => Sys2Proof.Machine.execI3cEntdaa addr s
  | .mctpControl req => Sys2Proof.Machine.execMctpControl req s
  | .pldmDiscovery => Sys2Proof.Machine.execPldmDiscovery s
  | .pldmSensorRead sensor => Sys2Proof.Machine.execPldmSensorRead sensor s
  | .pldmFirmwareUpdate image len => Sys2Proof.Machine.execPldmFirmwareUpdate image len s
  | .getVersion doe => Sys2Proof.Machine.execGetVersion doe s
  | .getCapabilities doe => Sys2Proof.Machine.execGetCapabilities doe s
  | .negotiateAlgorithms doe => Sys2Proof.Machine.execNegotiateAlgorithms doe s
  | .getDigests doe => Sys2Proof.Machine.execGetDigests doe s
  | .getCertificate doe => Sys2Proof.Machine.execGetCertificate doe s
  | .challenge doe nonce => Sys2Proof.Machine.execChallenge doe nonce s
  | .getMeasurements doe nonce index signed => Sys2Proof.Machine.execGetMeasurements doe nonce index signed s
  | .getRecords store index count hdr => Sys2Proof.Machine.execGetRecords store index count s hdr
  | .getThermal hdr => Sys2Proof.Machine.execGetThermal s hdr
  | .getReplace hdr => Sys2Proof.Machine.execGetReplace s hdr
  | .clearReplace mask hdr => Sys2Proof.Machine.execClearReplace mask s hdr
  | .powerRelease hdr => Sys2Proof.Machine.execPowerRelease s hdr
  | .powerHoldOff hdr => Sys2Proof.Machine.execPowerHoldOff s hdr
  | .powerForceOff key hdr => Sys2Proof.Machine.execPowerForceOff key s hdr
  | .mainReset force hdr => Sys2Proof.Machine.execMainReset force s hdr
  | .installLicence licence flashOk hdr => Sys2Proof.Machine.execInstallLicence licence flashOk s hdr
  | .salvageRead addr pages hdr => Sys2Proof.Machine.execSalvageRead addr pages s hdr
  | .salvagePage readable => Sys2Proof.Machine.execSalvagePage readable s
  | .holdoverBeacon => Sys2Proof.Machine.execHoldoverBeacon s
  | .receiverRealign p => Sys2Proof.Machine.execReceiverRealign p s
  | .tickOutFall => Sys2Proof.Machine.execTickOutFall s

end Sys2Proof.Machine
end

