-- ==== Sys2Proof/Safety.lean ====
section
/-! DEFINITION. The words in which statements speak of the device: what it means that a command has its effect, what a
unit is about to do, what else stays as it was, and the values that the manual's tables give, written apart from the
meanings of the rows. -/

namespace Sys2Proof.Machine

/-- The command answers a next state, and P holds of it. -/
def Runs (i : Instr) (s : State) (P : State → Prop) : Prop :=
  ∃ t, exec i s = .next t ∧ P t

/-- The newest record of t's error log was not in s and has this class, level, unit and code (Table 18.3). -/
def NewRecord (s t : State) (cls level unit code : Nat) : Prop :=
  ∃ r, t.err.log.head? = some r ∧ r.index = s.err.next ∧ t.err.next = s.err.next + 1 ∧
    r.cls = cls ∧ r.level = level ∧ r.unit = unit ∧ r.code = code

/-- The same record is the newest of the management domain's own store (R456). -/
def NewStored (t : State) (cls level unit code : Nat) : Prop :=
  ∃ r, t.mgmt.store.head? = some r ∧ r.cls = cls ∧ r.level = level ∧ r.unit = unit ∧ r.code = code

/-- The state with one access error logged at a BAR offset (Tables 13.7c and 13.11), and nothing else changed. -/
def logged (s : State) (kind off : Nat) : State :=
  { s with hif := { s.hif with
      accCount := satAdd s.hif.accCount 1, accOffset := BitVec.ofNat 32 off, accKind := BitVec.ofNat 4 kind } }

/-- Bits hi to lo of a written dword. -/
def field (v : W32) (hi lo : Nat) : Nat := v.toNat / 2 ^ lo % 2 ^ (hi + 1 - lo)

/-! ### Device memory -/

/-- Every line that n bytes at A touch is held whole by the cache die, and no word of the cache die carries a check
error. -/
def HeldRange (s : State) (A n : Nat) : Prop :=
  (∀ e ∈ s.ccd.words, e.2.chk = .good) ∧
  ∀ L, A / 1024 ≤ L → L * 1024 < A + n →
    ∃ l, s.line L = some l ∧ l.valid = 0xF

/-- The cache die holds byte f i at A + i for every i below n, and every other byte as before; HBM holds what it held. -/
def StoredAt (s t : State) (A n : Nat) (f : Nat → Byte) : Prop :=
  (∀ a, Mem.get t.ccd.mem a = if A ≤ a ∧ a < A + n then f (a - A) else Mem.get s.ccd.mem a) ∧
  t.hbm = s.hbm ∧ t.hbmWords = s.hbmWords

/-- Line L is not in the cache die, whose set for it is empty, and HBM can give it whole: its channel is in service with no
request and no failed transfer noted, and every word of it holds data. -/
def Absent (s : State) (L : Nat) : Prop :=
  s.line L = none ∧ s.setLines L = [] ∧ s.ccd.stuck = [] ∧ (s.chan (place L).stk (place L).ch).state ≠ 2 ∧
  (s.chan (place L).stk (place L).ch).crcDue = 0 ∧ (s.chan (place L).stk (place L).ch).queue = [] ∧
  (s.chan (place L).stk (place L).ch).bypass = [] ∧
  ∀ i, i < 32 → RMap.get {} s.hbmWords ((place L).store * 32 + i) = { mark := .data }

/-- Line L has come from HBM into the cache die: whole, clean, with the bytes that HBM holds. -/
def Fetched (s t : State) (L : Nat) : Prop :=
  (∃ l, t.line L = some l ∧ l.valid = 0xF ∧ l.dirty = 0) ∧
  (∀ i, i < 1024 → Mem.get t.ccd.mem (L * 1024 + i) = Mem.get s.hbm ((place L).store * 1024 + i)) ∧
  t.hbm = s.hbm ∧ t.hbmWords = s.hbmWords

/-- Every byte of the cache die and of HBM is as before. -/
def MemorySame (s t : State) : Prop :=
  t.ccd.mem = s.ccd.mem ∧ t.hbm = s.hbm ∧ t.hbmWords = s.hbmWords

/-! ### Descriptors -/

/-- Descriptor d is the next of ring q, it is its turn, and it passes the checks of R364 that come before its own. -/
def Starts (s : State) (q : Nat) (d : List W32) : Prop :=
  q < 32 ∧ s.pickRing = some q ∧ s.startable q = some d ∧ s.dwRefused d = none

/-- The descriptor that started in s has finished with this status, reason and value. -/
def Ended (s t : State) (status reason value : Nat) : Prop :=
  ∃ a ∈ t.hif.active, a.uid = s.hif.nextUid ∧ a.st = .done status reason 0 value

/-- The descriptor that started in s is active and has not finished. -/
def Waits (s t : State) : Prop :=
  ∃ a ∈ t.hif.active, a.uid = s.hif.nextUid ∧ a.st = .running

/-- The row of a descriptor of ring q; an opcode or item outside the tables belongs to the first row of its kind. -/
def rowFor (q : Nat) (d : List W32) (rd : HostRead) (ok : Bool) : Instr :=
  match dwOp d with
  | 0x02 => .copyH2d q rd | 0x03 => .copyD2h q | 0x04 => .copyD2d q | 0x05 => .hostFill q | 0x08 => .imageLoad q rd
  | 0x09 => if bitN (dwN d 2) 0 then .domainLeave q else .domainJoin q
  | 0x0A => .plyRun q | 0x0B => .plyStop q
  | 0x10 =>
    (match bitsN (dwN d 2) 2 0 with
     | 1 => .cacheRangeFlush q | 2 => .cacheRangeInvalidate q | 3 => .cacheRangeCleanInvalidate q
     | 4 => .cacheRangeDead q | 5 => .cacheRangePin q | 6 => .cacheRangeUnpin q | _ => .cacheRangePrefetch q)
  | 0x11 => .hostFence q | 0x14 => .pimSubmit q rd | 0x18 => .licenceInstall q rd ok
  | 0x19 =>
    (match bitsN (dwN d 2) 7 0 with
     | 2 => .queryErrorLog q | 3 => .querySlotMap q | 4 => .queryMeasurements q | 5 => .queryLicences q
     | 6 => .queryThermal q | 7 => .queryReplace q | _ => .queryIdentity q)
  | 0x1A => .eventAck q | 0x1C => .fwStage q rd | 0x20 => .promote q | 0x21 => .drain q
  | _ => .hostNop q

/-- Descriptor uid, if it had not finished, has now finished so, and the other started descriptors are as before. -/
def Finishes (s t : State) (uid status reason qualifier value : Nat) : Prop :=
  ∀ a ∈ s.hif.active,
    (if a.uid = uid ∧ a.st = .running then { a with st := .done status reason qualifier value } else a) ∈ t.hif.active

/-! ### Plies -/

/-- The extra ticks of a stretch code for a ply of length L (R63). -/
def stretchBy (code L : Nat) : Nat := (code * L + 63) / 64

/-- A flood of a kind is under way and its verdict tick has come. -/
def VerdictDue (s : State) (f : Flood) : Prop :=
  s.sch.flood = some f ∧ f.t0 + 150 + s.diam * s.hop ≤ s.dom

/-- This member executes plies and keeps no other device's time. -/
def Executes (s : State) : Prop :=
  s.dev = .running ∧ s.err.phase = 0 ∧ s.sch.live = true ∧ s.standby.tracking = false

/-- Every port is as before, but that beacons of this tick joined the due frames of some; with no place taken, those are
the ports downstream of this member that have a function and are up, with one beacon each. -/
def SendsBeacons (s t : State) (im : Image) (holdover : Bool) : Prop :=
  t = { s with fab := { s.fab with ports := t.fab.ports } } ∧
  ∀ p, ∃ l, t.port p = { s.port p with due := (s.port p).due ++ l } ∧
    (∀ e ∈ l, e.1 = .tBeacon (BitVec.ofNat 64 s.dom) (BitVec.ofNat 15 im.timeMaster) holdover) ∧
    (s.standby.place = none → l.length =
      if p < 20 ∧ Config.downstream im.imageId im.ldev p = true ∧ im.own.timeUp ≠ p ∧ (s.port p).fn ≠ 0xFF ∧
        (s.port p).isUp = true then 1 else 0)

/-- Block b starts at its entry address at cycle 0 (R87). -/
def StartsAt (t : State) (b : Nat) (c : CodeEntry) : Prop :=
  (t.blk b).seq.st = .run ∧ (t.blk b).seq.pc = c.entry ∧ (t.blk b).seq.bwclass = 0 ∧ (t.blk b).seq.queues = [] ∧
  (t.blk b).dma = []

/-! ### Sequencers -/

/-- Words w to w + n - 1 of a block array are written, not poisoned and without an error. -/
def GoodWords (B : Block) (w n : Nat) : Prop :=
  (∀ i, i < n → B.wordSt (w + i) = { written := true }) ∧
  ∀ e ∈ B.baSt, w < e.1 → e.1 < w + n → e.2 = { written := true }

/-- The sequencer of block b runs, and its next word can be fetched and is instruction i. -/
def SeqAt (s : State) (b : Nat) (i : SeqIns) : Prop :=
  b < 96 ∧ s.blockLive b = true ∧ (s.blk b).seq.st = .run ∧ (s.blk b).seq.pc ≤ 0xFFFC ∧
  (0xC000 ≤ (s.blk b).seq.pc → (s.blk b).seq.overlay ≠ 0xFFFF) ∧
  SMap.get .good (s.blk b).seq.imemChk ((s.blk b).seq.pc / 4) ≠ .bad ∧ seqDecode (s.blk b).seq.word = i

/-- Every row that executes an instruction of block b's sequencer. -/
def seqRows (b : Nat) : List Instr :=
  [.seqAlu b, .seqAddi b, .seqAndi b, .seqOri b, .seqXori b, .seqSlli b, .seqSrli b, .seqSrai b, .seqSlti b, .seqSltiu b,
   .seqLui b, .seqLw b, .seqSw b, .seqBeq b, .seqBne b, .seqBlt b, .seqBge b, .seqBltu b, .seqBgeu b, .seqJal b,
   .seqJalr b, .seqCissue b, .seqLaunch b, .seqWaitc b, .seqWaitk b, .seqWaitx b, .seqSempost b, .seqSemwait b,
   .seqLoadi b, .seqCsrr b, .seqCsrw b, .seqTrap b, .seqEop b, .seqIllegalInstruction b]

/-- The sequencer of block b goes on at pc in run state st; of the block only its pc, run state, registers and the
corrected fetch differ, and of the device only who is served. -/
def SeqDoes (s t : State) (b pc : Nat) (st : SeqSt) : Prop :=
  t.blk b = { s.blk b with seq := { (s.blk b).seq with
    pc := pc, st := st, regs := (t.blk b).seq.regs, imemChk := (t.blk b).seq.imemChk } } ∧
  (∀ c, c ≠ b → t.blk c = s.blk c) ∧
  t = { s with blocks := t.blocks, qos := { s.qos with who := some ((s.blk b).seq.bwclass, b) } }

/-- Register rd of block b's sequencer reads v, unless it is s0, and the others are as before. -/
def SetsReg (s t : State) (b rd : Nat) (v : W32) : Prop :=
  ∀ r, t.seqReg b r = if r = rd ∧ r ≠ 0 then v else s.seqReg b r

/-- The registers of block b's sequencer are as before. -/
def RegsSame (s t : State) (b : Nat) : Prop := ∀ r, t.seqReg b r = s.seqReg b r

/-- The sequencer of block b traps (R92): it halts where it stands, with the cause and a UC record at block level. -/
def SeqTraps (s t : State) (b cause : Nat) : Prop :=
  (t.blk b).seq.st = .trapped ∧ (t.blk b).seq.trapCause = BitVec.ofNat 32 cause ∧
  (t.blk b).seq.pc = (s.blk b).seq.pc ∧ RegsSame s t b ∧ (∀ c, c ≠ b → t.blk c = s.blk c) ∧
  NewRecord s t 3 1 0x01 cause ∧ MemorySame s t ∧ t.dev = s.dev

/-- Results of the ALU functions (Table 3.11), as numbers. -/
def aluSpec (f : AluFn) (x y : W32) : W32 :=
  match f with
  | .add => BitVec.ofNat 32 (x.toNat + y.toNat)
  | .sub => BitVec.ofInt 32 (x.toInt - y.toInt)
  | .and => x &&& y
  | .or => x ||| y
  | .xor => x ^^^ y
  | .sll => BitVec.ofNat 32 (x.toNat * 2 ^ (y.toNat % 32))
  | .srl => BitVec.ofNat 32 (x.toNat / 2 ^ (y.toNat % 32))
  | .sra => BitVec.ofInt 32 (x.toInt / 2 ^ (y.toNat % 32))
  | .slt => if x.toInt < y.toInt then 1 else 0
  | .sltu => if x.toNat < y.toNat then 1 else 0
  | .mul => BitVec.ofNat 32 (x.toNat * y.toNat)
  | .mulhu => BitVec.ofNat 32 (x.toNat * y.toNat / 2 ^ 32)
  | .min => BitVec.ofInt 32 (min x.toInt y.toInt)
  | .max => BitVec.ofInt 32 (max x.toInt y.toInt)
  | .minu => BitVec.ofNat 32 (min x.toNat y.toNat)
  | .maxu => BitVec.ofNat 32 (max x.toNat y.toNat)

/-- An 18-bit two's complement immediate. -/
def imm18 (i : Nat) : Int := if i % 2 ^ 18 < 2 ^ 17 then (i % 2 ^ 18 : Nat) else (i % 2 ^ 18 : Nat) - 2 ^ 18

/-- Results of the immediate operations (Table 3.11), as numbers. -/
def immSpec (f : ImmOp) (x : W32) (i : Nat) : W32 :=
  match f with
  | .addi => BitVec.ofInt 32 (x.toInt + imm18 i)
  | .andi => x &&& BitVec.ofNat 32 (i % 2 ^ 18)
  | .ori => x ||| BitVec.ofNat 32 (i % 2 ^ 18)
  | .xori => x ^^^ BitVec.ofNat 32 (i % 2 ^ 18)
  | .slli => BitVec.ofNat 32 (x.toNat * 2 ^ (i % 32))
  | .srli => BitVec.ofNat 32 (x.toNat / 2 ^ (i % 32))
  | .srai => BitVec.ofInt 32 (x.toInt / 2 ^ (i % 32))
  | .slti => if x.toInt < imm18 i then 1 else 0
  | .sltiu => if x.toNat < (BitVec.ofInt 32 (imm18 i)).toNat then 1 else 0

/-- Branch conditions. -/
def brSpec (f : BrOp) (x y : W32) : Prop :=
  match f with
  | .beq => x = y
  | .bne => x ≠ y
  | .blt => x.toInt < y.toInt
  | .bge => y.toInt ≤ x.toInt
  | .bltu => x.toNat < y.toNat
  | .bgeu => y.toNat ≤ x.toNat

/-- The address that ra and an 18-bit immediate give. -/
def seqAddr (s : State) (b ra i : Nat) : Nat := (BitVec.ofInt 32 ((s.seqReg b ra).toInt + imm18 i)).toNat

/-! ### Matrix cells and DMA channels -/

/-- Command word w of class cls is the oldest in the queue of target g of block b, which runs. -/
def Queued (s : State) (b g : Nat) (w : W64) (cls : Nat) : Prop :=
  b < 96 ∧ s.blockLive b = true ∧ (SMap.get [] (s.blk b).seq.queues g).head? = some (w, cls)

/-- The oldest command of target g of block b left its queue, and n commands of the target completed; the sequencer is
otherwise as before. -/
def Took (s t : State) (b g n : Nat) : Prop :=
  SMap.get [] (t.blk b).seq.queues g = (SMap.get [] (s.blk b).seq.queues g).tail ∧
  (∀ k, k ≠ g → SMap.get [] (t.blk b).seq.queues k = SMap.get [] (s.blk b).seq.queues k) ∧
  (∀ k, SMap.get 0 (t.blk b).seq.completed k = SMap.get 0 (s.blk b).seq.completed k + if k = g then n else 0) ∧
  (t.blk b).seq = { (s.blk b).seq with queues := (t.blk b).seq.queues, completed := (t.blk b).seq.completed }

/-- Nothing changed but block b and who is served. -/
def OnlyBlock (s t : State) (b : Nat) : Prop :=
  (∀ c, c ≠ b → t.blk c = s.blk c) ∧ t = { s with blocks := t.blocks, qos := { s.qos with who := t.qos.who } }

/-- Block b keeps everything but its sequencer and its matrix cells, and the other cell is as before. -/
def OnlyCell (s t : State) (b k : Nat) : Prop :=
  t.blk b = { s.blk b with seq := (t.blk b).seq, mc := (t.blk b).mc } ∧ ∀ j, j ≠ k → t.mcAt b j = s.mcAt b j

/-- Bits hi to lo of a command word. -/
def wordField (w : W64) (hi lo : Nat) : Nat := w.toNat / 2 ^ lo % 2 ^ (hi + 1 - lo)

/-- n bytes from address a of a space lie in installed memory, or in the scratchpad below a resident kernel's L1 range
(R117, R181). -/
def RangeInside (s : State) (b : Nat) (dev : Bool) (a n : Nat) : Prop :=
  if dev then a + n ≤ memBytes else a + n ≤ s.unitTop b

/-- STREAM word w passes the checks of R117 under the cell's configuration and bases: its accumulator mode, the
combinations of Table 5.4, its rows when it accumulates, and its ranges. -/
def StreamLegal (s : State) (b : Nat) (m : Mc) (w : W64) : Prop :=
  wordField w 8 7 < 3 ∧
  (5 ≤ m.cfg.mode → m.cfg.ofmt < 2) ∧ (6 ≤ m.cfg.mode → wordField w 8 7 = 0 ∧ m.cfg.topk = 0) ∧
  (m.cfg.topk ≠ 0 → wordField w 8 7 = 0 ∧ m.cfg.ofmt = 0) ∧
  (wordField w 8 7 ≠ 0 → wordField w 39 16 < 128) ∧
  RangeInside s b (w.getLsbD 40) (wordField w 52 42 * 1024 + if w.getLsbD 40 then m.baseSrc else 0)
    (imageBytes m.cfg.ifmt m.cfg.kq (wordField w 39 16 + 1)) ∧
  ((m.cfg.topk ≠ 0 ∨ wordField w 8 7 ≠ 1) →
    RangeInside s b (w.getLsbD 41) (wordField w 63 53 * 1024 + if w.getLsbD 41 then m.baseDst else 0)
      (if m.cfg.topk ≠ 0 then (m.cfg.nq + 1) * 32 * m.cfg.topk * 8
       else (wordField w 39 16 + 1) * outRowBytes m.cfg))

/-- r is the oldest row in the pipeline of cell k of block b, which lives, and belongs to its stream of index j, x. -/
def RowDue (s : State) (b k j : Nat) (x : McStream) (r : McRow) (more : List McRow) : Prop :=
  b < 96 ∧ k < 2 ∧ s.blockLive b = true ∧ (s.mcAt b k).streams[j]? = some x ∧ x.inFlight = r :: more ∧
  ∀ i y, i < j → (s.mcAt b k).streams[i]? = some y → y.inFlight = []

/-- The values, winners' indices and poison that stream x writes for row r with results v: its own, or with acc 2 those
of the accumulator entry after the row is added (R108, R109). -/
def rowOut (m : Mc) (x : McStream) (r : McRow) (v : SMap W32) : SMap W32 × SMap Nat × Bool :=
  if x.acc = 0 then (v, r.idx, r.poisoned)
  else
    let z := (SMap.get {} m.acc ((x.abase + r.i) % 128)).combine x.cfg.mode v r.poisoned
    (z.vals, [], z.poisoned)

/-- A cell stops with an error code (R117): it halts, its queue is discarded, a UC record names it. -/
def CellStops (s t : State) (b k code : Nat) : Prop :=
  (t.mcAt b k).err = code ∧ (t.mcAt b k).halted = true ∧ SMap.get [] (t.blk b).seq.queues k = [] ∧
  NewRecord s t 3 0 0x02 code ∧ (∀ c, c ≠ b → t.blk c = s.blk c) ∧ MemorySame s t ∧ (t.blk b).ba = (s.blk b).ba

/-- A channel stops with a status (R194). -/
def ChannelStops (s t : State) (b c status : Nat) : Prop :=
  (t.dmaAt b c).status = status ∧ (t.dmaAt b c).halted = true ∧ (t.dmaAt b c).busy = none ∧
  SMap.get [] (t.blk b).seq.queues (c + 2) = [] ∧ NewRecord s t 3 0 0x04 status ∧ (∀ d, d ≠ b → t.blk d = s.blk d)

/-- The next command of a free channel is w. -/
def ChannelReady (s : State) (b c : Nat) (w : W64) (cls : Nat) : Prop :=
  c < 4 ∧ Queued s b (c + 2) w cls ∧ (s.dmaAt b c).halted = false ∧ (s.dmaAt b c).busy = none

/-- Channel c of block b runs w; its bases, counters and the other channels are as before. -/
def ChannelRuns (s t : State) (b c : Nat) (w : W64) : Prop :=
  t.dmaAt b c = { s.dmaAt b c with busy := some w } ∧ ∀ d, d ≠ c → t.dmaAt b d = s.dmaAt b d

/-- The array of block b holds byte f i at A + i for every i below n, and every other byte as before. -/
def ArrayAt (s t : State) (b A n : Nat) (f : Nat → Byte) : Prop :=
  ∀ a, Mem.get (t.blk b).ba a = if A ≤ a ∧ a < A + n then f (a - A) else Mem.get (s.blk b).ba a

/-! ### Thread groups -/

/-- The group's threads at pc whose guard holds for word w (R152). -/
def acting (s : State) (b g : Nat) (grp : Group) (pc w : Nat) : List Nat :=
  (grp.atPc pc).filter fun i => (s.thread b g i).guard w

/-- Group g of block b issues the legal word w at pc next (R147, R152, R153, R157). -/
def TgIssues (s : State) (b g : Nat) (grp : Group) (pc w : Nat) : Prop :=
  b < 96 ∧ s.blockLive b = true ∧ (s.blk b).tg.trapped = false ∧ (s.blk b).tg.wdFall = false ∧
  s.tgGroup b g = some grp ∧ grp.nextPc = some pc ∧ pc + 8 ≤ 0x8000000 ∧
  SMap.get .good (s.blk b).tg.icChk (pc / 4) ≠ .bad ∧ SMap.get .good (s.blk b).tg.icChk (pc / 4 + 1) ≠ .bad ∧
  SMap.get .good s.ccd.plyChk ((s.blobBase + pc) / 8) ≠ .bad ∧
  Mem.rd s.ccd.plyCode (s.blobBase + pc) 8 = w ∧ ∃ k, (s.blk b).tg.kernel = some k ∧ tgCheck k.regs w = 0

/-- No thread at pc has a poisoned guard, and no acting thread a source with an error or a load on its way to a register
that w names (R156, R161). -/
def TgClear (s : State) (b g : Nat) (grp : Group) (pc w : Nat) : Prop :=
  (∀ i ∈ grp.atPc pc, (s.thread b g i).flagPsn (tgGf w) = false) ∧
  ∀ i ∈ acting s b g grp pc w,
    (∀ r ∈ regList (tgSrcs w), ((s.thread b g i).reg r).chk = .good) ∧
    ∀ p ∈ (s.thread b g i).pend, ∀ r ∈ regList (tgSrcs w ++ tgDst w),
      r < p.rd ∨ p.rd + (if p.size = 3 then 2 else if p.size = 4 then 4 else 1) ≤ r

/-- Of the device only the thread group g of block b changed, and who is served. -/
def OnlyGroup (s t : State) (b g : Nat) : Prop :=
  t.blk b = { s.blk b with tg := { (s.blk b).tg with kernel := (t.blk b).tg.kernel } } ∧
  (∀ h, h ≠ g → t.tgGroup b h = s.tgGroup b h) ∧ OnlyBlock s t b

/-- The threads at pc go on to the next word, the acting ones after f; the other threads are as before. -/
def Advances (s t : State) (b g : Nat) (grp : Group) (pc w : Nat) (f : Nat → Thread → Thread) : Prop :=
  ∀ i, t.thread b g i =
    if i ∈ grp.atPc pc then
      { (if i ∈ acting s b g grp pc w then f i (s.thread b g i) else s.thread b g i) with pc := (pc + 8) % 2 ^ 32 }
    else s.thread b g i

/-- The second operand of word w: rb, or imm32 in format I. -/
def tgSecond (w : Nat) (th : Thread) : W32 :=
  if tgIsI (w % 256) then BitVec.ofNat 32 (w / 2 ^ 32) else th.val (w / 2 ^ 28 % 256)

/-- Results of the register instructions (Table 6.4) as numbers, those of FP32 by the exact value rounded once; op is the
format R opcode, f its func. -/
def tgSpec (op f : Nat) (x y z : W32) : W32 :=
  match op with
  | 0x01 => BitVec.ofNat 32 (x.toNat + y.toNat)
  | 0x02 => BitVec.ofInt 32 (x.toInt - y.toInt)
  | 0x03 => BitVec.ofNat 32 (x.toNat * y.toNat)
  | 0x04 => if f = 0 then BitVec.ofNat 32 (x.toNat * y.toNat / 2 ^ 32) else BitVec.ofInt 32 (x.toInt * y.toInt / 2 ^ 32)
  | 0x05 => BitVec.ofNat 32 (x.toNat * y.toNat + z.toNat)
  | 0x06 => (match f with
    | 0 => BitVec.ofInt 32 (min x.toInt y.toInt)
    | 1 => BitVec.ofInt 32 (max x.toInt y.toInt)
    | 2 => BitVec.ofNat 32 (min x.toNat y.toNat)
    | _ => BitVec.ofNat 32 (max x.toNat y.toNat))
  | 0x07 => x &&& y
  | 0x08 => x ||| y
  | 0x09 => x ^^^ y
  | 0x0A => BitVec.ofNat 32 (x.toNat * 2 ^ (y.toNat % 32))
  | 0x0B => if f = 0 then BitVec.ofNat 32 (x.toNat / 2 ^ (y.toNat % 32)) else BitVec.ofInt 32 (x.toInt / 2 ^ (y.toNat % 32))
  | 0x0C => BitVec.ofNat 32 ((List.range 32).map fun i => b2n (x.getLsbD i)).sum
  | 0x0D => BitVec.ofNat 32 (if x = 0 then 32 else 31 - Nat.log2 x.toNat)
  | 0x0F => x
  | 0x1F => y
  | 0x20 => (match (dec32 x).add (dec32 y) with | .fin _ 0 _ => 0 | v => enc32 v)
  | 0x21 => enc32 ((dec32 x).mul (dec32 y))
  | 0x22 => (match ((dec32 x).mul (dec32 y)).add (dec32 z) with | .fin _ 0 _ => 0 | v => enc32 v)
  | 0x23 => if f = 0 then fmin32 x y else fmax32 x y
  | 0x24 => if (dec32 x).isNan then 0x7FC00000
            else if f = 0 then BitVec.ofNat 32 (x.toNat % 2 ^ 31) else BitVec.ofNat 32 (x.toNat + 2 ^ 31)
  | 0x28 => trans f x
  | _ => BitVec.ofNat 32 (y.toNat % 2 ^ 16 * 2 ^ 16 + x.toNat % 2 ^ 16)

/-- The register rows with the format R opcode whose value they write. -/
def tgValueRows (b g : Nat) : List (Nat × Nat × Instr) :=
  [(0x01, 0x01, .tgAdd b g), (0x11, 0x01, .tgAddI b g), (0x02, 0x02, .tgSub b g), (0x12, 0x02, .tgSubI b g),
   (0x03, 0x03, .tgMullo b g), (0x13, 0x03, .tgMulloI b g), (0x04, 0x04, .tgMulhi b g), (0x14, 0x04, .tgMulhiI b g),
   (0x05, 0x05, .tgMuladd b g), (0x06, 0x06, .tgMinmax b g), (0x16, 0x06, .tgMinmaxI b g), (0x07, 0x07, .tgAnd b g),
   (0x17, 0x07, .tgAndI b g), (0x08, 0x08, .tgOr b g), (0x18, 0x08, .tgOrI b g), (0x09, 0x09, .tgXor b g),
   (0x19, 0x09, .tgXorI b g), (0x0A, 0x0A, .tgShl b g), (0x1A, 0x0A, .tgShlI b g), (0x0B, 0x0B, .tgShr b g),
   (0x1B, 0x0B, .tgShrI b g), (0x0C, 0x0C, .tgBitcnt b g), (0x0D, 0x0D, .tgLeadz b g), (0x0F, 0x0F, .tgMovr b g),
   (0x1F, 0x1F, .tgMovk b g), (0x20, 0x20, .tgAddf b g), (0x30, 0x20, .tgAddfI b g), (0x21, 0x21, .tgMulf b g),
   (0x31, 0x21, .tgMulfI b g), (0x22, 0x22, .tgMadf b g), (0x23, 0x23, .tgMinmaxf b g), (0x33, 0x23, .tgMinmaxfI b g),
   (0x24, 0x24, .tgSignf b g), (0x28, 0x28, .tgTrans b g), (0x39, 0x39, .tgPack b g)]

/-- Relations of CMPI: 0 eq, 1 ne, 2 lt, 3 le, 4 gt, 5 ge. -/
def relSpec (f : Nat) (x y : Int) : Bool :=
  match f with
  | 0 => decide (x = y) | 1 => decide (x ≠ y) | 2 => decide (x < y) | 3 => decide (x ≤ y) | 4 => decide (y < x)
  | _ => decide (y ≤ x)

/-- The whole kernel of block b stops on a trap of thread i of group g (R176): the cause and thread are recorded, and no
thread has changed. -/
def TgTraps (s t : State) (b g i cause : Nat) : Prop :=
  (t.blk b).tg.trapped = true ∧ (t.blk b).tg.cause = cause ∧ (t.blk b).tg.trapThread = i ∧
  (t.blk b).tg.trapGroup = g ∧ (t.blk b).tg.kernel = (s.blk b).tg.kernel ∧ (t.blk b).ba = (s.blk b).ba ∧
  NewRecord s t 3 1 0x03 cause ∧ (∀ c, c ≠ b → t.blk c = s.blk c) ∧ MemorySame s t

/-- Scratchpad offset that thread i of a group gives with word w. -/
def spOf (s : State) (b g i w : Nat) : Nat := spAddr w (s.thread b g i)

/-- Device address that thread i of a group gives with word w. -/
def dvOf (s : State) (b g i w : Nat) : Nat := dvAddr w (s.thread b g i)

/-! ### Fabric ports -/

/-- A frame holds nothing that its bytes do not carry (Table 11.5): a payload of at most 512 bytes in canonical form, none
in a READ, and in a V frame only the fields of its operation. -/
def FrameFits (f : Frame) : Prop :=
  Mem.ofBytes 0 (Mem.span (framePayload f) 0 512) = framePayload f ∧
  match f with
  | .v x =>
    (x.op = .read → x.payload = []) ∧
    (match x.op with
     | .read | .write => x.pmask = 0 ∧ x.reason = 0
     | .response => x.addr = 0 ∧ x.reason = 0 ∧ (x.len512 = false → x.pmask.toNat < 256)
     | .nak => x.addr = 0 ∧ x.pmask = 0)
  | _ => True

/-- Port p takes a good frame with header h at this device: up, no reserved bit, its credit fields in order, not relayed. -/
def Hears (s : State) (p : Nat) (h : FrameHdr) : Prop :=
  p < 20 ∧ s.fabricOn = true ∧ (s.port p).isUp = true ∧ (s.port p).realigning = false ∧ h.reservedSet = false ∧
  h.relay = 0 ∧ s.standby.relaying = false ∧ s.standby.place = none ∧
  ((s.port p).sent0 - h.freed0).toNat ≤ 64 ∧ ((s.port p).sent1 - h.freed1).toNat ≤ 64

/-- The state after the credit work of such a frame (R301). -/
def heard (s : State) (p : Nat) (h : FrameHdr) : State :=
  s.updPort p fun k => { k with
    lastValid := s.tick, badSync := 0, got0 := h.sent0, got1 := h.sent1
    freed0 := k.freed0 + (h.sent0 - k.got0), freed1 := k.freed1 + (h.sent1 - k.got1)
    theirFreed0 := h.freed0, theirFreed1 := h.freed1 }

/-- Port p is up and the fabric acts. -/
def PortUp (s : State) (p : Nat) : Prop := p < 20 ∧ s.fabricOn = true ∧ (s.port p).isUp = true

/-- Every port but p is as before. -/
def OtherPorts (s t : State) (p : Nat) : Prop := ∀ q, q ≠ p → t.port q = s.port q

/-- A port has gone down: it retrains, and its due and link frames are lost. -/
def WentDown (s t : State) (p : Nat) : Prop :=
  (t.port p).state = 4 ∧ (t.port p).due = [] ∧ (t.port p).linkQ = [] ∧ (t.port p).wait = [] ∧
  (t.port p).sched = (s.port p).sched ∧ (t.port p).vQ = (s.port p).vQ ∧ OtherPorts s t p

/-! ### Management port -/

/-- The port, or the responder, has given one more answer, r; everything else is as in s0. -/
def Answers (s0 t : State) (r : MgmtResp) : Prop :=
  t = { s0 with mgmt := { s0.mgmt with resp := some r, answers := s0.mgmt.answers + 1, ibi := s0.mgmt.ibi || r.onPort } }

/-- The SPDM responder has answered q with r; everything else is as in s0. -/
def SpdmAnswers (s0 t : State) (doe : Bool) (q : SpdmReq) (r : SpdmResp) : Prop :=
  t = { s0 with mgmt := { s0.mgmt with
    resp := some (.spdm doe r), answers := s0.mgmt.answers + 1, ibi := s0.mgmt.ibi || !doe
    spdm := spdmHeard s0.mgmt.spdm q r } }

/-- A vendor request that comes now is served at once: no salvage runs, and none waits before it (R478). -/
def VendorTurn (s : State) : Prop := s.mgmt.salvage = none ∧ s.mgmt.waiting = []

/-- The header of a vendor request is in order (R476, R477). -/
def HeaderOk (h : VendorHdr) : Prop := h.pad = 0 ∧ h.badLen = false ∧ h.badParam = false ∧ h.reach = true

/-- The management firmware runs, and the port has its address. -/
def Served (s : State) : Prop := s.dev ≠ .off ∧ s.mgmt.addr.isSome = true ∧ s.mgmt.fwRuns = true

/-- The SPDM responder is reached: over DOE from the end of BOOT step 0x01, over the served port otherwise (R408). -/
def SpdmReached (doe : Bool) (s : State) : Prop :=
  if doe = true then s.dev ≠ .off ∧ s.dev ≠ .standby ∧ 1 ∈ s.sec.stepsDone else Served s

/-- READY, JOINED, RUNNING or DRAINED, with a valid identity: the identity key signs (R408). -/
def Signs (s : State) : Prop :=
  s.dev ∈ [DevState.ready, .joined, .running, .drained] ∧ s.sec.idValid = true

/-- Nothing outside the host interface changed. -/
def OnlyHif (s t : State) : Prop := t = { s with hif := t.hif }

end Sys2Proof.Machine
end

