-- ==== Sys2Proof/Certificates/Slice0/Obligations.lean ====
section
/-! DEFINITION. The statements about the model, for the provers. -/

open Sys2Proof Sys2Proof.Machine

/-! ### The machine as a whole -/

/-- Commands are served first in, first out: a step with command c in front of the queue is c's meaning on the state
with the queue's rest. -/
def Obligations.StepRunsFrontCommand : Prop :=
  ∀ (s : State) (c : Instr) (rest : List Instr),
    s.pending = c :: rest → step s = exec c { s with pending := rest }

/-- The model's choice (log entry 1): on an empty queue one tick of 10 ns passes and nothing else happens. -/
def Obligations.EmptyQueuePassesOneTick : Prop :=
  ∀ s : State, s.pending = [] → step s = .next { s with tick := s.tick + 1 }

/-- A command is refused exactly when it names a unit that the device does not have; every other command answers a next
state, whatever the state. That such a command is refused, where the manual names no such unit, is the model's choice
(log entry 32). -/
def Obligations.OnlyMissingUnitsAreRefused : Prop :=
  ∀ (i : Instr) (s : State),
    (i.wf = true → ∃ t, exec i s = .next t) ∧ (i.wf = false → exec i s = .refused .noSuchUnit)

/-! ### Supplies and power -/

/-- The sides' start (R9, R411, R475): OFF to STANDBY with a fresh management domain; 10 ms of input enables the
converters; valid supplies enter BOOT; a start that is not valid after 20 ms is recorded by the management port alone,
tried once more after 1 s, and then locked off. The loss of a side (R412, R413, R508): the 48 V side's loss holds the
main side in reset and saves nothing, keeping flash, but for a store that was being written; the auxiliary side's loss
is OFF; a converter that fails is recorded by class CE, then UC, then by the management port alone. What holds of the
rest of the state after a start or a loss is the model's choice (log entries 2 and 28). -/
def Obligations.SupplySidesStartAndLoss : Prop :=
  (∀ (s : State) (h r : Bool), s.dev = .off → Runs (.auxSupplyValid h r) s fun t =>
      t.dev = .standby ∧ t.supply.aux = true ∧ t.supply.hold = h ∧ t.supply.convEnabled = false ∧
      t.mgmt = Mgmt.boot (mgmtImage s.flash.store r) ∧
      (r = false → t.mgmt.verified = none ∧ t.mgmt.fwRuns = false) ∧ t.mgmt.store = [] ∧ t.flash = s.flash ∧
      t.tick = s.tick) ∧
  (∀ s : State, s.dev = .standby → s.supply.hold = false → s.supply.lockedOff = false → s.supply.retryFrom = none →
      s.supply.convEnabled = false → Runs .inputValidHold s fun t =>
      t = { s with supply := { s.supply with convEnabled := true, enabledAt := s.tick, bcGood := 0xF } }) ∧
  (∀ s : State, s.dev = .standby → s.supply.convEnabled = true → s.tick ≤ s.supply.enabledAt + 2000000 →
      Runs .suppliesValid s fun t =>
      t.dev = .boot ∧ t.sec.stepsDone = [] ∧ t.sec.bootAt = s.tick ∧ t.supply.v48 = true ∧ t.supply.startFails = 0 ∧
      t.flash = s.flash ∧ t.pwr = State.reset.pwr ∧ t.blocks = [] ∧ t.err = State.reset.err) ∧
  (∀ s : State, s.dev = .standby → s.supply.convEnabled = true → s.supply.enabledAt + 2000000 ≤ s.tick →
      Runs .supplyStartTimeout s fun t =>
      t.dev = .standby ∧ t.supply.convEnabled = false ∧ t.supply.bcGood = 0 ∧
      t.supply.startFails = s.supply.startFails + 1 ∧
      (s.supply.startFails = 0 → t.supply.retryFrom = some s.tick ∧ t.supply.lockedOff = false) ∧
      (0 < s.supply.startFails → t.supply.retryFrom = none ∧ t.supply.lockedOff = true) ∧
      NewStored t 4 3 0x27 2 ∧ t.err = s.err ∧ t.flash = s.flash) ∧
  (∀ (s : State) (f : Nat), s.supply.retryFrom = some f → f + 100000000 ≤ s.tick → Runs .startRetry s fun t =>
      t = { s with supply := { s.supply with retryFrom := none } }) ∧
  (∀ (s : State) (c : LossCause), s.supply.convEnabled = true →
      (c = .fewConverters → goodCount s.supply.bcGood ≤ 1) → Runs (.input48vLoss c) s fun t =>
      t.dev = .standby ∧ t.supply.v48 = false ∧ t.supply.convEnabled = false ∧ t.supply.aux = s.supply.aux ∧
      t.flash = (if s.sec.staging.isSome && s.dev != .standby then { s.flash with store := none } else s.flash) ∧
      (s.dev = .standby → t.sec.staging = s.sec.staging) ∧ t.mgmt.store = s.mgmt.store ∧
      t.mgmt.addr = s.mgmt.addr ∧ t.blocks = [] ∧ t.image = none ∧
      t.err = State.reset.err) ∧
  (∀ s : State, s.dev ≠ .off → Runs .auxSupplyLost s fun t =>
      t.dev = .off ∧ t.supply.aux = false ∧ t.supply.convEnabled = false ∧ t.mgmt.addr = none ∧ t.mgmt.store = [] ∧
      t.flash = (if s.sec.staging.isSome then { s.flash with store := none } else s.flash)) ∧
  (∀ (s : State) (k : Nat), k < 4 → s.supply.convEnabled = true → s.supply.bcGood.getLsbD k = true →
      Runs (.busConverterFault k) s fun t =>
      (∀ j : Nat, t.supply.bcGood.getLsbD j = (s.supply.bcGood.getLsbD j && decide (j ≠ k))) ∧
      t.dev = s.dev ∧ t.flash = s.flash ∧
      (s.mainOn = true → goodCount s.supply.bcGood = 4 → t.err.ce = satAdd s.err.ce 1 ∧
        (s.err.recent = [] → 0 < s.err.ceLimit → NewRecord s t 1 3 0x27 1)) ∧
      (s.mainOn = true → goodCount s.supply.bcGood = 3 → NewRecord s t 3 3 0x27 1) ∧
      (goodCount s.supply.bcGood = 2 → NewStored t 3 3 0x27 1 ∧ t.err = s.err))

/-- Under-voltage (R418, R419). A first event on a block in service is recorded as CE; it halts the block in RUNNING, where
the lowered cap holds once the halt ends, and elsewhere the cap holds at once (the model's choice, log entry 62); one on
the capped slot, or a second one in the attempt of the first, powers the slot off and fails the block; one on an unused
spare is recorded as CE and takes the spare out of use. On an uncore domain that is powered the first event is recorded as
CE and spends the redundancy, and the second is an FA error. -/
def Obligations.UnderVoltageEvents : Prop :=
  (∀ (s : State) (r n b : Nat), r < 8 → n < 13 → s.alive = true → s.dev ≠ .boot → s.dev ≠ .recovery →
      (s.slotPwr r n).poweredOff = false → s.blockAt r n = some b → (s.slotPwr r n).capped = false →
      (s.slotPwr r n).capDue = false → Runs (.blockUnderVoltage r n) s fun t =>
      t.err.ce = satAdd s.err.ce 1 ∧ (s.err.recent = [] → 0 < s.err.ceLimit → NewRecord s t 1 1 0x06 1) ∧
      (t.slotPwr r n).capped = !s.running ∧ (t.unhalt.slotPwr r n).capped = true ∧
      (t.blk b).uv = satAdd (s.blk b).uv 1 ∧
      (t.blk b).halted = (s.running || (s.blk b).halted) ∧ t.regions = s.regions ∧ t.dev = s.dev ∧
      ∀ c, c ≠ b → t.blk c = s.blk c) ∧
  (∀ (s : State) (r n b : Nat), r < 8 → n < 13 → s.running = true → s.err.phase = 0 →
      (s.slotPwr r n).poweredOff = false → s.blockAt r n = some b →
      ((s.slotPwr r n).capped = true ∨ (s.slotPwr r n).capDue = true) →
      Runs (.blockUnderVoltage r n) s fun t =>
      (t.slotPwr r n).poweredOff = true ∧ (t.slotPwr r n).vset = 0 ∧ (t.blk b).failed = some 7 ∧
      (t.blk b).halted = true ∧ (t.blk b).uv = satAdd (s.blk b).uv 1 ∧ NewRecord s t 3 1 0x06 2) ∧
  (∀ (s : State) (r n : Nat), r < 8 → n < 13 → s.alive = true → s.dev ≠ .boot → s.dev ≠ .recovery →
      (s.slotPwr r n).poweredOff = false → s.blockAt r n = none → slotEntry (s.region r).slotState n = 0xC →
      Runs (.blockUnderVoltage r n) s fun t =>
      slotEntry (t.region r).slotState n = 0xD ∧ (t.slotPwr r n).poweredOff = true ∧ t.blocks = s.blocks ∧
      t.err.ce = satAdd s.err.ce 1 ∧ (s.err.recent = [] → 0 < s.err.ceLimit → NewRecord s t 1 2 0x06 3) ∧
      (t.region r).mapGen = (s.region r).mapGen + 1) ∧
  (∀ (s : State) (d : Nat), d < 30 → s.alive = true → s.uncorePowered d = true →
      SMap.get false s.pwr.uncoreSpent d = false → Runs (.uncoreUnderVoltage d) s fun t =>
      t.err.ce = satAdd s.err.ce 1 ∧ (s.err.recent = [] → 0 < s.err.ceLimit → NewRecord s t 1 3 0x27 6) ∧
      SMap.get false t.pwr.uncoreSpent d = true ∧ t.dev = s.dev ∧
      ∀ e, e ≠ d → SMap.get false t.pwr.uncoreSpent e = SMap.get false s.pwr.uncoreSpent e) ∧
  (∀ (s : State) (d : Nat), d < 30 → s.alive = true → s.uncorePowered d = true →
      SMap.get false s.pwr.uncoreSpent d = true → Runs (.uncoreUnderVoltage d) s fun t => t.dev = .fault ∧ NewRecord s t 4 3 0x27 6)

/-- A sample of the input monitor (R427, R428): power and voltage are reported, also while the main side is off or in
FAULT; tp moves by half of (P - T) / cap, held between 1/4 and 1, and g_p is floor of 64 tp; the peak allowance falls by
one in a sample above the cap and rises by one in every 20th sample at or below it, between 0 and 2,500; the 500th
sample in succession above T with tp at 1/4 makes a member in RUNNING a culprit (R429). That a sample also tells of a
region's crossbar or arbiter fault (R458), which is an FA error, is the model's choice (log entry 90). -/
def Obligations.PowerSampleMovesGateAndAllowance : Prop :=
  (∀ (s : State) (p v : Nat) (faults : List Nat), s.dev ≠ .off → s.alive = false → Runs (.powerSample p v faults) s fun t =>
    t = { s with pwr := { s.pwr with pIn := min 4095 p, vIn := min 1023 v } }) ∧
  ∀ (s : State) (p v : Nat) (faults : List Nat), s.alive = true → Runs (.powerSample p v faults) s fun t =>
    t.pwr.tp = min 1 (max (1 / 4) (s.pwr.tp - 1 / 2 * (((p : Rat) - s.powerTarget) / s.effCap.1))) ∧
    1 / 4 ≤ t.pwr.tp ∧ t.pwr.tp ≤ 1 ∧ t.pwr.gP = (64 * t.pwr.tp).floor.toNat ∧
    (s.powerTarget < p → 1 / 4 ≤ s.pwr.tp → t.pwr.tp ≤ s.pwr.tp ∨ t.pwr.tp = 1 / 4) ∧
    (p ≤ s.powerTarget → s.pwr.tp ≤ 1 → s.pwr.tp ≤ t.pwr.tp ∨ t.pwr.tp = 1 / 4 ∨ t.pwr.tp = 1) ∧
    (s.running = true → s.err.phase = 0 → s.pwr.overrun = 499 → s.powerTarget < p → t.pwr.tp = 1 / 4 →
      t.sch.drainCause.isSome = true ∨ t.dev = .fault) ∧
    ((∃ r ∈ faults, r < 8) → s.pwr.regionsOff = false → t.dev = .fault) ∧
    (s.effCap.1 < p → t.pwr.allowance = s.pwr.allowance - 1) ∧
    (p ≤ s.effCap.1 → s.pwr.refill < 19 → t.pwr.allowance = s.pwr.allowance ∧ t.pwr.refill = s.pwr.refill + 1) ∧
    (p ≤ s.effCap.1 → s.pwr.refill = 19 → t.pwr.allowance = min 2500 (s.pwr.allowance + 1) ∧ t.pwr.refill = 0) ∧
    t.pwr.pIn = min 4095 p ∧ t.pwr.vIn = min 1023 v ∧ t.blocks = s.blocks ∧ t.flash = s.flash

/-- Block estimates and ramps (R421, R422, R426): an estimate above the block's cap lowers g_b by 4 but not below 16,
one below 90 % of it raises g_b by 1 up to 64; a ramp ends after 32 µs and gives its token back; a deferred ramp starts
when no neighbour is at peak. The reference clock (R432): its loss lets the PLLs run free and posts a UC record; its
return ends free running; a PLL that loses lock while REFCLK is valid is an FA error. -/
def Obligations.EstimatesRampsAndClock : Prop :=
  (∀ (s : State) (b est r n : Nat), b < 96 → s.slotOf b = some (r, n) → s.alive = true →
      Runs (.currentEstimateFrame b est) s fun t =>
      (t.blk b).est = est ∧
      (s.capOf r n < est → (t.blk b).gB = max 16 ((s.blk b).gB - 4)) ∧
      (10 * est < 9 * s.capOf r n → (t.blk b).gB = min 64 ((s.blk b).gB + 1)) ∧
      (9 * s.capOf r n ≤ 10 * est → est ≤ s.capOf r n → (t.blk b).gB = (s.blk b).gB) ∧
      (s.capOf r n = if (s.slotPwr r n).capped then 24000 else 27000) ∧
      t = { s with blocks := t.blocks } ∧ ∀ c, c ≠ b → t.blk c = s.blk c) ∧
  (∀ (s : State) (r n : Nat), r < 8 → n < 13 → s.alive = true → s.dev ≠ .boot → (s.slotPwr r n).ramping = true →
      (s.slotPwr r n).rampAt + 3200 ≤ s.tick → Runs (.rampComplete r n) s fun t =>
      (t.slotPwr r n).ramping = false ∧ SMap.get 0 t.pwr.tokens r = SMap.get 0 s.pwr.tokens r - 1 ∧
      t = { s with pwr := t.pwr }) ∧
  (∀ (s : State) (r n : Nat), r < 8 → n < 12 → s.dev = .boot → SMap.get 0 s.pwr.slotNext r = n + 1 →
      SMap.get 0 s.pwr.tokens r ≤ 2 → (s.slotPwr r n).ramping = true → (s.slotPwr r n).rampAt + 3200 ≤ s.tick →
      Runs (.rampComplete r n) s fun t =>
      (t.slotPwr r n).ramping = false ∧ (t.slotPwr r (n + 1)).ramping = true ∧
      (t.slotPwr r (n + 1)).rampAt = s.tick ∧ SMap.get 0 t.pwr.slotNext r = n + 2 ∧ t = { s with pwr := t.pwr }) ∧
  (∀ (s : State) (a : Nat), s.dev = .boot → s.pwr.uncoreRamp = [(6, a), (7, a)] → s.pwr.uncoreNext = 8 →
      s.pwr.uncoreUp = 6 → a + 3200 ≤ s.tick → Runs (.rampComplete 6 13) s fun t =>
      t.pwr.uncoreRamp = [(7, a)] ∧ t.pwr.uncoreUp = 7 ∧ t.pwr.slots = s.pwr.slots ∧ t = { s with pwr := t.pwr }) ∧
  (∀ (s : State) (a r : Nat), s.dev = .boot → s.pwr.uncoreRamp = [(7, a)] → s.pwr.uncoreNext = 8 →
      s.pwr.uncoreUp = 7 → s.pwr.slotNext = [] → s.pwr.tokens = [] → a + 3200 ≤ s.tick → r < 8 →
      Runs (.rampComplete 7 13) s fun t =>
      t.pwr.uncoreUp = 8 ∧ t.pwr.uncoreRamp = [] ∧ SMap.get 0 t.pwr.slotNext r = 2 ∧ SMap.get 0 t.pwr.tokens r = 2 ∧
      (t.slotPwr r 0).ramping = true ∧ (t.slotPwr r 1).ramping = true ∧ t = { s with pwr := t.pwr }) ∧
  (∀ (s : State) (r n d : Nat), r < 8 → n < 13 → s.alive = true → (s.slotPwr r n).deferredAt = some d →
      s.neighbourAtPeak r n = false → Runs (.rampDeferralEnd r n) s fun t =>
      (t.slotPwr r n).ramping = true ∧ (t.slotPwr r n).rampAt = s.tick ∧ (t.slotPwr r n).deferredAt = none ∧
      SMap.get 0 t.pwr.tokens r = SMap.get 0 s.pwr.tokens r + 1 ∧ t = { s with pwr := t.pwr }) ∧
  (∀ s : State, s.alive = true → s.pwr.refOk = true → Runs .refclkLoss s fun t =>
      t.pwr.refOk = false ∧ t.pwr.freeRun = true ∧ t.pwr.refLoss = satAdd s.pwr.refLoss 1 ∧ t.dev = s.dev ∧
      NewRecord s t 3 3 0x27 3) ∧
  (∀ s : State, s.alive = true → Runs .refclkRestore s fun t =>
      t = { s with pwr := { s.pwr with refOk := true, freeRun := false } }) ∧
  (∀ (s : State) (upper : Bool), s.alive = true → s.pwr.refOk = true →
      (if upper then s.pwr.lockUpper else s.pwr.lockLower) = true → Runs (.pllLockLoss upper) s fun t =>
      t.dev = .fault ∧ NewRecord s t 4 3 0x27 4)

/-! ### Start-up, temperature and bundles -/

/-- BOOT (R385, R386, R390, R396, R25, R26, R393, R394, R423): a step that is due ends and leaves what Table 15.1 gives
it; step 0x02 runs the stored image when it passes the checks, which the first two uncore ramps follow, and ends in
RECOVERY when it fails them; step 0x03 starts the ports' training; step 0x08 derives the identity key from the array's
power-up state, and zeroes the array; the last step maps a region whose slots all passed with its spare in slot 12, lets
the spare take the number of one bad slot, leaves the error counters at zero, and fails with FAULT where two slots are
bad; 5 s without an end of BOOT is FAULT, recorded by the management port. A held main-side reset is made when nothing
holds it, and keeps flash. A firmware store write that ends (R393) leaves the new image, or none when it failed; the
host descriptor that asked for it finishes with status 0x00, or 0x0C and reason 0x07; an update of the management port
is answered there. The model's choice, not the manual's: what HIF_LINK shows once training has begun (log entry 75),
that a step which is not due changes nothing (log entry 4), which counters stand at zero at READY (log entry 52), and
that memory reads as zero after a main-side reset (log entries 2 and 28). -/
def Obligations.BootStepsAndStoreWrites : Prop :=
  (∀ (s : State) (k : Nat), 1 ≤ k → k ≤ 10 → s.dev = .boot → s.bootReady k = false →
      Runs (.bootStepComplete k []) s fun t => t = s) ∧
  (∀ s : State, s.dev = .boot → s.sec.stepsDone = [] → Runs (.bootStepComplete 1 []) s fun t =>
      t.dev = .boot ∧ t.sec.stepsDone = [1] ∧ t.pwr.lockUpper = true ∧ t.pwr.lockLower = true ∧
      (s.hif.linkWidth = 0 → s.supply.perst = false → t.hif.linkWidth ∈ [1, 2, 4])) ∧
  (∀ (s : State) (f g : FwInfo), s.dev = .boot → s.bootReady 2 = true → s.flash.store = some f →
      fwCheck f.bytes f.len s.flash.floor = .inr g → s.sec.strapRcv = false → Runs (.bootStepComplete 2 []) s fun t =>
      t.dev = .boot ∧ t.sec.running = some g ∧ t.flash = s.flash ∧
      (s.pwr.uncoreRamp = [] → s.pwr.uncoreNext = 0 → t.pwr.uncoreRamp = [(0, s.tick), (1, s.tick)])) ∧
  (∀ (s : State) (f : FwInfo), s.dev = .boot → s.bootReady 2 = true → s.flash.store = some f →
      ((∃ r, fwCheck f.bytes f.len s.flash.floor = .inl r) ∨ s.sec.strapRcv = true) →
      Runs (.bootStepComplete 2 []) s fun t =>
      t.dev = .recovery ∧ t.sec.failStep = 2 ∧ t.sec.running = s.sec.running ∧ t.flash = s.flash) ∧
  (∀ (s : State) (p : Nat), s.dev = .boot → s.bootReady 3 = true → p < 20 → (s.port p).state = 0 →
      (s.port p).failedBoot = false → Runs (.bootStepComplete 3 []) s fun t =>
      t.dev = .boot ∧ (t.port p).state = 1 ∧ t.ccd.bundleBand = s.thm.stackBand) ∧
  (∀ (s : State) (m : Mem) (p q : Nat), s.dev = .boot → s.bootReady 8 = true → keyOf (Mem.take m arrayBytes) = some (p, q) →
      s.flash.idHash = some (keyHash (p * q) 65537) → Runs (.bootStepComplete 8 [.sramState m]) s fun t =>
      t.dev = .boot ∧ t.sec.idValid = true ∧ t.sec.idKey = some (p, q) ∧ t.sec.array = [] ∧ t.sec.arrayOn = false ∧
      t.sec.arrayOffAt = s.tick ∧ t.err = s.err) ∧
  (∀ (s : State) (o : List BootObs), s.dev = .boot → s.bootReady 8 = true → .helperAbsent ∈ o →
      Runs (.bootStepComplete 8 o) s fun t =>
      t.dev = .boot ∧ t.sec.idValid = false ∧ t.sec.helper = false ∧ t.sec.idKey = none ∧ t.sec.array = [] ∧
      NewRecord s t 3 3 0x2A 3) ∧
  (∀ s : State, s.dev = .boot → s.bootReady 10 = true → (∀ r, r < 8 → ∀ n, n < 13 → s.slotGood r n = true) →
      Runs (.bootStepComplete 10 []) s fun t =>
      t.dev = .ready ∧ t.sec.safeMode = false ∧ t.sec.failStep = 0 ∧ t.dom = 0 ∧ t.flash = s.flash ∧
      t.err.ce = 0 ∧ t.err.de = 0 ∧ t.err.uc = 0 ∧ t.err.fa = 0 ∧ t.qos.winSeq = 0 ∧
      ∀ r, r < 8 → (t.region r).slotState = 0xCBA9876543210#52) ∧
  (∀ (s : State) (r n : Nat), s.dev = .boot → s.bootReady 10 = true → r < 8 → n < 12 → s.slotGood r n = false →
      (∀ q m, q < 8 → m < 13 → (q, m) ≠ (r, n) → s.slotGood q m = true) → Runs (.bootStepComplete 10 []) s fun t =>
      t.dev = .ready ∧ slotEntry (t.region r).slotState n = 0xD ∧ slotEntry (t.region r).slotState 12 = n) ∧
  (∀ (s : State) (r n m : Nat), s.dev = .boot → s.bootReady 10 = true → r < 8 → n < 12 → m < 13 → n ≠ m →
      s.slotGood r n = false → s.slotGood r m = false → Runs (.bootStepComplete 10 []) s fun t =>
      t.dev = .fault ∧ NewRecord s t 4 3 0x2A 1) ∧
  (∀ s : State, s.dev = .boot → s.sec.bootAt + 500000000 ≤ s.tick → Runs .bootWatchdog s fun t =>
      t.dev = .fault ∧ NewStored t 4 3 0x2A 2 ∧ t.err = s.err) ∧
  (∀ s : State, s.mainOn = true → s.sec.heldReset = true → s.sec.staging = none → s.inEndgame = false →
      Runs .heldMainReset s fun t =>
      t.dev = .boot ∧ t.sec.stepsDone = [] ∧ t.sec.heldReset = false ∧ t.flash = s.flash ∧ t.err = State.reset.err ∧
      t.image = none ∧ t.hbm = []) ∧
  (∀ (s : State) (f : FwInfo) (uid : Nat) (ok : Bool), s.sec.staging = some (f, some uid) →
      Runs (.fwStoreWriteComplete ok) s fun t =>
      t.flash = { s.flash with store := if ok then some f else none } ∧ t.sec.staging = none ∧
      (∀ a ∈ s.hif.active, a.uid = uid → a.st = .running →
        { a with st := if ok then .done 0 0 0 0 else .done 0xC 7 0 0 } ∈ t.hif.active) ∧
      ∀ a ∈ s.hif.active, a.uid ≠ uid → a ∈ t.hif.active) ∧
  (∀ (s : State) (f : FwInfo) (ok : Bool), s.sec.staging = some (f, none) → Runs (.fwStoreWriteComplete ok) s fun t =>
      t.flash = { s.flash with store := if ok then some f else none } ∧ t.sec.staging = none ∧ t.hif = s.hif ∧
      t.mgmt.resp = some (.pldmApply (if ok then 0 else 0x87)))

/-- A housekeeping round (R439, R440, R442, R257): it is counted and kept; readings outside -40 °C to 150 °C count as
invalid; every region's gate stays between 16 and 64, and where no estimate governs it is floor of 64 tt_r with tt_r from
the region's excess; the estimate of each lower-die group is the sum of R444, and governs after three rounds more than 8 K
above the group's own diodes, or at once where they are all invalid, until ten rounds at 4 K or less (R445); a stack's
refresh band is 2 for an invalid reading or one above 95 °C (from band 0 too: the model's choice, log entry 55), and 1 for
one above 85 °C from band 0. A trip makes a member in RUNNING a persistent culprit with its gates held, starts endgame in
JOINED and is an FA error before (R446); two critical rounds turn the main side off, with an FA record in the management
domain's store (R447). In STANDBY the management domain reads EXT0, EXT1 and TH0 to TH3. -/
def Obligations.HousekeepingRound : Prop :=
  (∀ (s : State) (r : Readings), s.mainOn = true → 1 ∈ s.sec.stepsDone → s.thm.wasCrit = false →
      Runs (.housekeepingRound r) s fun t =>
      t.thm.round = s.thm.round + 1 ∧ t.thm.roundTick = s.dom ∧ t.thm.last = rdChecked r ∧
      (∀ g, g < 8 → 16 ≤ (t.region g).gTh ∧ (t.region g).gTh ≤ 64) ∧
      (∀ k, k < 8 → (rdChecked r).hbm.getD k none = none → (t.stack k).band = 2) ∧
      (∀ k x, k < 8 → (rdChecked r).hbm.getD k none = some x → 1520 < x → (s.stack k).band ≤ 2 →
        (t.stack k).band = 2) ∧
      (∀ k x, k < 8 → (rdChecked r).hbm.getD k none = some x → 1360 < x → x ≤ 1520 → (s.stack k).band = 0 →
        (t.stack k).band = 1) ∧
      (∀ (g : Nat) (e : Rat), g < 8 →
        (4 ≤ g → ∀ j, j < 2 → (SMap.get {} t.thm.groups (2 * (g % 4) + j)).governs = false) →
        ((∃ i ∈ regionDiodes g, ∃ x : Int, rdD (rdChecked r) i = some x ∧ e = x - (16 : Rat) * s.thm.tComp) ∨
          ∃ x ∈ rdHbm (rdChecked r), e = x - (16 : Rat) * s.thm.tHbm) →
        (∀ i ∈ regionDiodes g, ∀ x : Int, rdD (rdChecked r) i = some x → (x : Rat) - (16 : Rat) * s.thm.tComp ≤ e) →
        (∀ x ∈ rdHbm (rdChecked r), x - (16 : Rat) * s.thm.tHbm ≤ e) →
        (t.region g).gTh =
          (64 * min 1 (max (1 / 4) (1 - (s.thm.slope : Rat) / 200 * (e / 16)))).floor.toNat) ∧
      (∀ j, j < 8 → rdD (rdChecked r) (72 + j) = none → (SMap.get {} t.thm.groups j).est = none) ∧
      (∀ (j : Nat) (o c : Int) (u : Rat), j < 8 → rdD (rdChecked r) (72 + j) = some o →
        hottest (rdValids (rdChecked r) ((List.range 4).map fun k => 4 * j + k)) = some u →
        rdD (rdChecked r) (80 + 2 * (4 + j / 2) + j % 2) = some c →
        (SMap.get {} t.thm.groups j).est = some ((o : Rat) + share (Config.kU j) * max 0 (u - o) +
          share (Config.kC j) * max 0 ((c : Rat) - o) + 16 * Config.kI j * s.groupCurrent j)) ∧
      (∀ (j : Nat) (e : Rat), j < 8 → (SMap.get {} t.thm.groups j).est = some e →
        (hottest (rdValids (rdChecked r) (ownDiodes j)) = none → (SMap.get {} t.thm.groups j).governs = true) ∧
        ∀ o, hottest (rdValids (rdChecked r) (ownDiodes j)) = some o →
          (128 < e - o → (SMap.get {} t.thm.groups j).overRounds = (SMap.get {} s.thm.groups j).overRounds + 1 ∧
            (2 ≤ (SMap.get {} s.thm.groups j).overRounds → (SMap.get {} t.thm.groups j).governs = true)) ∧
          (e - o ≤ 64 → (SMap.get {} s.thm.groups j).governs = true → 9 ≤ (SMap.get {} s.thm.groups j).underRounds →
            (SMap.get {} t.thm.groups j).governs = false))) ∧
  (∀ (s : State) (r : Readings) (i : Nat) (x : Int), s.mainOn = true → 1 ∈ s.sec.stepsDone → s.thm.wasCrit = false →
      i < 40 → rdD (rdChecked r) i = some x → (1840 ≤ x ∧ s.thm.wasTrip = true ∨ 2000 ≤ x) →
      (s.dev = .running → Runs (.housekeepingRound r) s fun t =>
        t.thm.gateHeld = true ∧ t.sch.persistent = some (s.sch.persistent.getD 3) ∧ t.err.uc = satAdd s.err.uc 1) ∧
      (s.dev = .joined → s.err.phase = 0 → Runs (.housekeepingRound r) s fun t =>
        t.dev = .joined ∧ t.err.phase = 2 ∧ t.err.cause = 3) ∧
      (s.dev = .ready ∨ s.dev = .boot ∨ s.dev = .recovery → Runs (.housekeepingRound r) s fun t =>
        t.dev = .fault ∧ NewStored t 4 3 0x28 3)) ∧
  (∀ (s : State) (r : Readings) (i : Nat) (x : Int), s.mainOn = true → 1 ∈ s.sec.stepsDone → s.thm.wasCrit = true →
      i < 40 → rdD (rdChecked r) i = some x → 2000 ≤ x → Runs (.housekeepingRound r) s fun t =>
      t.dev = .standby ∧ t.supply.lockedOff = true ∧ t.supply.convEnabled = false ∧ NewStored t 4 3 0x28 4 ∧
      t.flash = (if s.sec.staging.isSome then { s.flash with store := none } else s.flash)) ∧
  (∀ (l : List (Option Int)) (n i : Nat) (x : Int), i < n → l[i]? = some (some x) →
      (readList l n)[i]? = some (if -640 ≤ x ∧ x ≤ 2400 then some x else none)) ∧
  (∀ (s : State) (e th : List (Option Int)), s.dev = .standby → Runs (.standbySensorRead e th) s fun t =>
      t = { s with mgmt := { s.mgmt with ext := readList e 2, therm := readList th 4 } })

/-- Vertical bundles (R233, R234): a connection counts as failed when it mismatches in two successive idle patterns, or
when three corrected errors point to it within 10 ms;
the first one lost moves to the spare, is recorded as CE, and in RUNNING waits for the next ply; a retune sets a connection
to the centre of its passing window, has a bundle with a window below 24 taps sweep again, counts a connection that is still
below 24 taps after that sweep as failed, and ends in the stack band in force. -/
def Obligations.BundleSparing : Prop :=
  (∀ (s : State) (k c : Nat) (l : BundleLink), k < 131200 → okLink l = true → s.bundlesUp = true → c < 32 →
      (SMap.get {} s.ccd.bundles k) = {} → Runs (.bundleIdlePattern k l [c]) s fun t =>
      (SMap.get {} t.ccd.bundles k).failed = [] ∧ (SMap.get {} t.ccd.bundles k).suspect = [c] ∧
      t = { s with ccd := t.ccd }) ∧
  (∀ (s : State) (k c : Nat) (l : BundleLink), k < 131200 → okLink l = true → s.bundlesUp = true → c < 32 →
      (SMap.get {} s.ccd.bundles k) = { suspect := [c] } → Runs (.bundleIdlePattern k l [c]) s fun t =>
      (SMap.get {} t.ccd.bundles k).failed = [c] ∧ (SMap.get {} t.ccd.bundles k).half = false ∧
      (SMap.get {} t.ccd.bundles k).dead = false ∧ (SMap.get {} t.ccd.bundles k).moveDue = s.running ∧
      t.err.ce = satAdd s.err.ce 1 ∧ t.dev = s.dev) ∧
  (∀ (s : State) (k c : Nat) (l : BundleLink) (x y : Nat), k < 131200 → okLink l = true → s.bundlesUp = true → c < 32 →
      (SMap.get {} s.ccd.bundles k) = { errs := [(c, x), (c, y)] } → Runs (.bundleIdlePattern k l [33 + c]) s fun t =>
      (if s.tick < x + 1000000 ∧ s.tick < y + 1000000
        then (SMap.get {} t.ccd.bundles k).failed = [c] ∧ (SMap.get {} t.ccd.bundles k).moveDue = s.running ∧
          t.err.ce = satAdd s.err.ce 1
        else (SMap.get {} t.ccd.bundles k).failed = [] ∧ t = { s with ccd := t.ccd })) ∧
  (∀ (s : State) (w : TapWindow), s.bundlesUp = true → s.ccd.retuning = true → w.bundle < 131200 → w.conn < 33 →
      w.lo ≤ w.hi → w.hi < 128 →
      (24 ≤ w.hi + 1 - w.lo → Runs (.bundleRetuneComplete [] [w]) s fun t =>
        SMap.get 0 t.ccd.taps (33 * w.bundle + w.conn) = (w.lo + w.hi) / 2 ∧ t.ccd.retuning = false ∧
        t.ccd.bundles = s.ccd.bundles ∧ t = { s with ccd := t.ccd }) ∧
      (w.hi + 1 - w.lo < 24 → (∀ e ∈ s.ccd.sweeping, e.1 ≠ w.bundle) → Runs (.bundleRetuneComplete [] [w]) s fun t =>
        t = { s with ccd := { s.ccd with sweeping := [(w.bundle, w.link)] } }) ∧
      (w.hi + 1 - w.lo < 24 → (w.bundle, w.link) ∈ s.ccd.sweeping → w.conn < 32 →
        (SMap.get {} s.ccd.bundles w.bundle) = {} → Runs (.bundleRetuneComplete [] [w]) s fun t =>
        (SMap.get {} t.ccd.bundles w.bundle).failed = [w.conn] ∧ t.err.ce = satAdd s.err.ce 1 ∧
        t.ccd.retuning = false ∧ t.ccd.sweeping = [])) ∧
  (∀ s : State, s.bundlesUp = true → s.ccd.retuning = true →
      (Runs (.bundleRetuneComplete []) s fun t =>
        t = { s with ccd := { s.ccd with retuning := false, sweeping := [], bundleBand := s.thm.stackBand } }) ∧
      ∀ l, l ≠ [] → Runs (.bundleRetuneComplete l) s fun t => t = { s with ccd := { s.ccd with sweeping := l } })

/-! ### The host interface -/

/-- Set-up registers PWR_CFG, THM_CFG, ERR_CFG, FAB_CE_CFG and SCH_JOURNAL_CFG take a write only in READY (R435, R451,
R470, R346, R67), each field stored as its table says; in any other state the write is ignored and logged. After reset
they hold their Reset columns, and in the serving states a read returns the fields with the reserved bits zero. -/
def Obligations.SetupRegistersAreReadyOnly : Prop :=
  (∀ (s : State) (v : W32), s.dev = .ready → s.setupHeld = false →
      Runs (.registerWrite 0x2000000 4 (v.setWidth 64)) s (fun t =>
        t = { s with pwr := { s.pwr with
          capW := max 1000 (min 2600 (field v 11 0)), peakEn := v.getLsbD 12 } }) ∧
      Runs (.registerWrite 0x2000100 4 (v.setWidth 64)) s (fun t =>
        t = { s with thm := { s.thm with
          tComp := max 70 (min 110 (field v 7 0)), tHbm := max 70 (min 100 (field v 15 8))
          slope := max 2 (min 30 (field v 20 16)) } }) ∧
      Runs (.registerWrite 0x2100000 4 (v.setWidth 64)) s (fun t =>
        t = { s with err := { s.err with ceLimit := max 1 (field v 3 0) } }) ∧
      Runs (.registerWrite 0x408100 4 (v.setWidth 64)) s (fun t =>
        t = { s with ce := { s.ce with resTol := max 4 (min 20 (field v 4 0)) } }) ∧
      Runs (.schJournalCfgWrite v) s (fun t => t.sch.journalSize = v.setWidth 2)) ∧
  (∀ (s : State) (v : W32), s.mainOn = true → s.dev ≠ .ready →
      (∀ o ∈ [0x2000000, 0x2000100, 0x2100000, 0x408100],
        Runs (.registerWrite o 4 (v.setWidth 64)) s fun t => t = logged s 2 o) ∧
      Runs (.schJournalCfgWrite v) s fun t => t = logged s 2 0x200040) ∧
  (State.reset.pwr.capW = 0xA28 ∧ State.reset.pwr.peakEn = true ∧ State.reset.thm.tComp = 0x64 ∧
    State.reset.thm.tHbm = 0x5F ∧ State.reset.thm.slope = 0x0C ∧ State.reset.err.ceLimit = 1 ∧
    State.reset.ce.resTol = 0x0A ∧ State.reset.sch.journalSize = 2) ∧
  (∀ s : State, s.dev ∈ [DevState.ready, .joined, .running, .drained] →
      (s.pwr.capW < 4096 → s.readBar0 0x2000000 4 = some (s.pwr.capW + (if s.pwr.peakEn = true then 4096 else 0))) ∧
      (s.thm.tComp < 256 → s.thm.tHbm < 256 → s.thm.slope < 32 →
        s.readBar0 0x2000100 4 = some (s.thm.tComp + 256 * s.thm.tHbm + 65536 * s.thm.slope)) ∧
      (s.err.ceLimit < 16 → s.readBar0 0x2100000 4 = some s.err.ceLimit) ∧
      (s.ce.resTol < 32 → s.readBar0 0x408100 4 = some s.ce.resTol) ∧
      s.readBar0 0x200040 4 = some s.sch.journalSize.toNat)

/-- The other writes that rules single out: HIF_RESET resets the main side for its key alone, held while a store write
or an endgame runs (R374, R393, R466); CCD_CFG refuses a pin_max below a way that holds a pinned line (R238, Table
8.14); QOS_CFG discards the window in progress (R383); QOS_MIN keeps a group's sum within 1,024 (R380); an unmasked
vector sends its pending message (R360); opening granules changes no stored word (R247); a size change of an enabled
ring is ignored and logged (R372). -/
def Obligations.SpecialRegisterWrites : Prop :=
  (∀ s : State, s.mainOn = true → s.sec.staging = none → s.inEndgame = false → Runs (.hifResetWrite 0xA55A) s fun t =>
      t.dev = .boot ∧ t.sec.stepsDone = [] ∧ t.flash = s.flash ∧ t.image = none ∧ t.err = State.reset.err) ∧
  (∀ s : State, s.mainOn = true → (s.sec.staging.isSome = true ∨ s.inEndgame = true) →
      Runs (.hifResetWrite 0xA55A) s fun t => t = { s with sec := { s.sec with heldReset := true } }) ∧
  (∀ (s : State) (v : W32), s.mainOn = true → v ≠ 0xA55A → Runs (.hifResetWrite v) s fun t => t = s) ∧
  (∀ (s : State) (v : W32), s.dev = .ready → s.setupHeld = false →
      Runs (.ccdCfgWrite v) s fun t =>
      t = if (∃ e ∈ s.ccd.lines, e.2.pinned = true ∧ min 33 (field v 5 0) ≤ e.2.way) then logged s 2 0xC00000
        else { s with ccd := { s.ccd with
          pinMax := min 33 (field v 5 0), strict := v.getLsbD 6, scrubEn := v.getLsbD 7
          scrubGap := max 2 (min 10 (field v 11 8)) } }) ∧
  (∀ (s : State) (v : W32), s.dev = .ready → s.setupHeld = false → Runs (.qosCfgWrite v) s fun t =>
      t = { s with qos := { s.qos with win := max 1 (min 1000 (field v 9 0)), discard := true } }) ∧
  (∀ (s : State) (g m : Nat) (v : W32), g < 3 → m < 100 → s.dev = .ready → s.setupHeld = false →
      field v 10 0 ≤ 1024 → s.qos.sumWith g m (field v 10 0) ≤ 1024 → Runs (.qosMinWrite g m v) s fun t =>
      t.qos.min g m = field v 10 0 ∧ (∀ h n, n < 100 → (h, n) ≠ (g, m) → t.qos.min h n = s.qos.min h n) ∧
      t = { s with qos := t.qos }) ∧
  (∀ (s : State) (g m : Nat) (v : W32), g < 3 → m < 100 → s.dev = .ready → s.setupHeld = false →
      1024 < s.qos.sumWith g m (field v 10 0) → Runs (.qosMinWrite g m v) s fun t =>
      t = logged s 2 (0x2201000 + 0x200 * g + 4 * m)) ∧
  (∀ (s : State) (n : Nat), s.mainOn = true → n < 128 → (SMap.get {} s.hif.msix n).mask = true →
      Runs (.msixVectorUnmask n) s fun t =>
      (SMap.get {} t.hif.msix n).mask = false ∧ (SMap.get {} t.hif.msix n).pending = false ∧
      t.hif.messages = (if (SMap.get {} s.hif.msix n).pending then n :: s.hif.messages else s.hif.messages) ∧
      ∀ k, k ≠ n → SMap.get {} t.hif.msix k = SMap.get {} s.hif.msix k) ∧
  (∀ (s : State) (k : Nat) (v : W64), k < 8 → s.dev = .ready → s.setupHeld = false → s.pim.heldGran = [] →
      (∀ i, i < 64 → (s.stack k).openGran.getLsbD i = true → v.getLsbD i = true) →
      Runs (.hbmGranWrite k false v) s fun t =>
      (∀ i, i < 64 → (t.stack k).openGran.getLsbD i = v.getLsbD i) ∧
      (∀ i, 64 ≤ i → (t.stack k).openGran.getLsbD i = (s.stack k).openGran.getLsbD i) ∧
      t = { s with hbmStacks := t.hbmStacks }) ∧
  (∀ (s : State) (q : Nat) (v : W32), q < 32 → s.mainOn = true → (s.sq q).en = true → v.getLsbD 0 = true →
      max 6 (field v 4 1) ≠ (s.sq q).size → Runs (.ringCfgWrite (.sq q) v) s fun t =>
      t.sq q = s.sq q ∧ t.hif.accKind = 2 ∧ t.hif.accCount = satAdd s.hif.accCount 1) ∧
  (∀ (s : State) (q : Nat) (v : W32), q < 32 → s.mainOn = true → (s.sq q).en = false → v.getLsbD 0 = true →
      Runs (.ringCfgWrite (.sq q) v) s fun t =>
      (t.sq q).en = true ∧ (t.sq q).size = max 6 (field v 4 1) ∧ (t.sq q).head = 0 ∧ (t.sq q).tail = 0 ∧
      (t.sq q).base = (s.sq q).base ∧ ∀ c, c ≠ q → t.sq c = s.sq c)

/-- Set-up writes that a control descriptor held (R489): once none holds them each is made in READY, and is ignored and
logged in another state; a register write that is made while one holds them, or before the held ones are made, waits. -/
def Obligations.HeldRegisterWrites : Prop :=
  (∀ (s : State) (o n : Nat) (v : W64), s.ctrlHolds = false → s.dev = .ready → o < 0x4000000 →
      s.hif.heldWrites = [(o, n, v)] →
      exec .heldRegisterWriteApply s =
        exec (.registerWrite o n v) { s with hif := { s.hif with heldWrites := [] } }) ∧
  (∀ (s : State) (o n : Nat) (v : W64), s.ctrlHolds = false → s.dev ≠ .ready → s.hif.heldWrites = [(o, n, v)] →
      Runs .heldRegisterWriteApply s fun t =>
      t = logged { s with hif := { s.hif with heldWrites := [] } } 2 o) ∧
  (∀ s : State, s.ctrlHolds = true → Runs .heldRegisterWriteApply s fun t => t = s) ∧
  (∀ s : State, s.ctrlHolds = false → Runs .heldRegisterWriteApply s fun t => t.hif.heldWrites = []) ∧
  (∀ (s : State) (v : W32), s.ctrlHolds = false → s.dev = .ready →
      s.hif.heldWrites = [(0x2000000, 4, v.setWidth 64)] → Runs .heldRegisterWriteApply s fun t =>
      t = { s with hif := { s.hif with heldWrites := [] }
                   pwr := { s.pwr with capW := max 1000 (min 2600 (field v 11 0)), peakEn := v.getLsbD 12 } }) ∧
  (∀ (s : State) (o n : Nat) (v : W64) (rest : List (Nat × Nat × W64)), s.ctrlHolds = false → s.dev = .ready →
      o < 0x4000000 → s.hif.heldWrites = (o, n, v) :: rest →
      Runs (.registerWrite o n v) { s with hif := { s.hif with heldWrites := [] } } fun u =>
        (u.dev = .ready → u.ctrlHolds = false →
          exec .heldRegisterWriteApply s =
            exec .heldRegisterWriteApply { u with hif := { u.hif with heldWrites := rest } })) ∧
  (∀ (s : State) (v : W32), s.dev = .ready → s.ctrlHolds = true →
      Runs (.registerWrite 0x2000000 4 (v.setWidth 64)) s fun t =>
      t = { s with hif := { s.hif with heldWrites := s.hif.heldWrites ++ [(0x2000000, 4, v.setWidth 64)] } }) ∧
  (∀ (s : State) (v : W32), s.dev = .ready → s.hif.heldWrites ≠ [] →
      Runs (.registerWrite 0x2000000 4 (v.setWidth 64)) s fun t =>
      t = { s with hif := { s.hif with heldWrites := s.hif.heldWrites ++ [(0x2000000, 4, v.setWidth 64)] } })

/-- A host interface reset (R351): the rings are disabled, every started descriptor is gone without a completion, the
vectors are masked with nothing pending, and memory, blocks, image and the device state stay as they were. PERST# is a
level (R498): its release lets the link train once BOOT step 0x01 has ended, and entry to D3hot resets nothing (R350);
what the link then shows, and that a command of the row says which event it is, is the model's choice (log entries 67,
75). Descriptors in and completions out (R348, R355, R358, R360): a settled link is reported by event 0x08; a fetched
slot moves the ring's head and joins the descriptors not started; a finished descriptor leaves the device with its
entry; the coalescing delay of a ring raises its vector. -/
def Obligations.HostInterfaceResetAndFetches : Prop :=
  (∀ (s : State) (c : HifCause), s.mainOn = true → c ≠ .perstRelease → c ≠ .d3Enter →
    Runs (.hostInterfaceReset c) s fun t =>
    t.supply.perst = (if c = .perstAssert then true else s.supply.perst) ∧
    t.hif.sq = [] ∧ t.hif.cq = [] ∧ t.hif.eq = {} ∧ t.hif.active = [] ∧ t.hif.waitingD2h = [] ∧
    t.hif.messages = s.hif.messages ∧ t.hif.hostOut = s.hif.hostOut ∧
    (∀ n, (SMap.get {} t.hif.msix n).mask = true ∧ (SMap.get {} t.hif.msix n).pending = false) ∧
    t.hif.linkRate = s.hif.linkRate ∧ t.hif.pendTimeLost = s.hif.pendTimeLost ∧
    t.hif.pendUnrecoverable = s.hif.pendUnrecoverable ∧ t.dev = s.dev ∧ t.image = s.image ∧ t.blocks = s.blocks ∧
    t.ccd = s.ccd ∧ t.hbm = s.hbm ∧ t.hbmWords = s.hbmWords ∧ t.flash = s.flash ∧ t.err = s.err) ∧
  (∀ s : State, s.mainOn = true →
    (1 ∈ s.sec.stepsDone → Runs (.hostInterfaceReset .perstRelease) s fun t =>
      t.supply.perst = false ∧ t.hif.linkWidth ∈ [1, 2, 4] ∧ t.hif.sq = s.hif.sq ∧ t.hif.active = s.hif.active) ∧
    (1 ∉ s.sec.stepsDone → Runs (.hostInterfaceReset .perstRelease) s fun t =>
      t = { s with supply := { s.supply with perst := false } }) ∧
    Runs (.hostInterfaceReset .d3Enter) s fun t =>
      t = { s with hif := { s.hif with cfg := { s.hif.cfg with d3hot := true } } }) ∧
  (∀ (s : State) (c : HifCause), s.mainOn = false → Runs (.hostInterfaceReset c) s fun t =>
    t = { s with supply := t.supply } ∧ t.supply = { s.supply with perst := t.supply.perst }) ∧
  (∀ (s : State) (r w : Nat) (f : Bool), r < 4 → (w = 1 ∨ w = 2 ∨ w = 4) → s.mainOn = true →
      s.supply.perst = false → Runs (.linkChange r w f) s fun t =>
      t.hif.linkRate = r ∧ t.hif.linkWidth = w ∧ t.hif.linkFlit = f ∧ t.hif.eventSeq = s.hif.eventSeq + 1 ∧
      t = { s with hif := t.hif }) ∧
  (∀ (s : State) (q : Nat) (d : List W32), q < 32 → s.served = true → (s.sq q).en = true →
      (s.sq q).head ≠ (s.sq q).tail → (s.sq q).fetched.length < 16 → d.length = 16 →
      Runs (.descriptorFetch q d) s fun t =>
      t.sq q = { s.sq q with head := ((s.sq q).head + 1) % 2 ^ (s.sq q).size, fetched := (s.sq q).fetched ++ [d] } ∧
      (∀ c, c ≠ q → t.sq c = s.sq c) ∧ t = { s with hif := { s.hif with sq := t.hif.sq } }) ∧
  (∀ (s : State) (a : Active) (st r q v : Nat), s.desc a.uid = some a → a.st = .done st r q v →
      bitN (dwN a.dws 0) 12 = false → (s.cq (bitsN (dwN a.dws 0) 11 8)).en = true →
      (s.cq (bitsN (dwN a.dws 0) 11 8)).room = true → (s.cq (bitsN (dwN a.dws 0) 11 8)).waiting = [] →
      Runs (.descriptorComplete a.uid) s fun t =>
      (∀ x ∈ t.hif.active, x.uid ≠ a.uid) ∧ (∀ x ∈ s.hif.active, x.uid ≠ a.uid → x ∈ t.hif.active) ∧
      (∃ w, t.hif.hostOut = w :: s.hif.hostOut ∧ w.len = 16 ∧
        w.addr = (s.cq (bitsN (dwN a.dws 0) 11 8)).base.toNat + 16 * (s.cq (bitsN (dwN a.dws 0) 11 8)).tail ∧
        Mem.rd32 w.bytes 0 = a.dws.getD 1 0 ∧ Mem.rd w.bytes 8 1 = st % 256) ∧
      t = { s with hif := t.hif }) ∧
  (∀ (s : State) (c : Nat), c < 16 → s.mainOn = true → (s.cq c).ien = true → 0 < (s.cq c).unsignalled →
      (s.cq c).firstAt + 100 * (s.cq c).delay ≤ s.tick → Runs (.cqInterruptDelay c) s fun t =>
      (t.cq c).unsignalled = 0 ∧
      (if (SMap.get {} s.hif.msix (s.cq c).vec).mask then (SMap.get {} t.hif.msix (s.cq c).vec).pending = true
       else t.hif.messages = (s.cq c).vec :: s.hif.messages))

/-- Doorbells (R354): an index of an enabled ring is taken; a value at or above the ring's size, or any value for a
disabled ring, and a write to any other offset of BAR4, is ignored and logged with kind 3. BAR2 (R353): outside
installed memory a read returns all ones and is logged with kind 4; in RUNNING a write is discarded and logged with kind
5; otherwise an access inside one 256-byte sector becomes one request of class 3 at the slice of its address, where a
read beyond 32 being served waits. How BAR2 is served at its edges, and the kind that an access outside a ring's
doorbells is logged with, are the model's reading (log entries 56 and 59). -/
def Obligations.DoorbellsAndBar2 : Prop :=
  (∀ (s : State) (q : Nat) (v : W32), q < 32 → s.mainOn = true → Runs (.sqTailDoorbell (64 * q) v) s fun t =>
      if (s.sq q).en = true ∧ v.toNat < 2 ^ (s.sq q).size then
        t.sq q = { s.sq q with tail := v.toNat } ∧ (∀ c, c ≠ q → t.sq c = s.sq c) ∧
        t = { s with hif := { s.hif with sq := t.hif.sq } }
      else t = logged s 3 (64 * q)) ∧
  (∀ (s : State) (c : Nat) (v : W32), c < 16 → s.mainOn = true → Runs (.cqHeadDoorbell (0x800 + 64 * c) v) s fun t =>
      if (s.cq c).en = true ∧ v.toNat < 2 ^ (s.cq c).size then
        (t.cq c).head = v.toNat ∧ ((s.cq c).waiting = [] → t.cq c = { s.cq c with head := v.toNat }) ∧
        t = { s with hif := t.hif }
      else t = logged s 3 (0x800 + 64 * c)) ∧
  (∀ (s : State) (v : W32), s.mainOn = true → Runs (.eqHeadDoorbell v) s fun t =>
      if s.hif.eq.en = true ∧ v.toNat < 2 ^ s.hif.eq.size then
        t.hif.eq.head = v.toNat ∧ t = { s with hif := t.hif }
      else t = logged s 3 0xC00) ∧
  (∀ (s : State) (o : Nat) (v : W32), o < 0x10000 → s.mainOn = true → (o % 64 ≠ 0 ∨ 0xC00 < o) →
      Runs (.sqTailDoorbell o v) s (· = logged s 3 o) ∧ Runs (.cqHeadDoorbell o v) s (· = logged s 3 o)) ∧
  (∀ (s : State) (o n : Nat), okTlp o n = true → s.mainOn = true → memBytes ≤ o → Runs (.bar2Read o n) s fun t =>
      t.hif.bar2Out.head? = some { off := o, len := n, bytes := [], ep := false, allOnes := true } ∧
      t.hif.accKind = 4 ∧ t.hif.accOffset = BitVec.ofNat 32 o ∧ t = { s with hif := t.hif }) ∧
  (∀ (s : State) (o n : Nat), okTlp o n = true → s.served = true → o + n ≤ memBytes → 0 < n → o % 256 + n ≤ 256 →
      (s.hif.bar2Open.length < 32 → s.hif.bar2Wait = [] → Runs (.bar2Read o n) s fun t =>
        (t.slice (lineSlice (o / 1024))).reads = (s.slice (lineSlice (o / 1024))).reads ++
          [{ addr := o, len := n, write := false, bytes := [], poison := false, who := .bar2 s.hif.bar2Next, cls := 3 }] ∧
        SMap.get 0 t.hif.bar2Open s.hif.bar2Next = 1 ∧
        t = { s with ccd := { s.ccd with slices := t.ccd.slices }, hif := t.hif }) ∧
      (32 ≤ s.hif.bar2Open.length → Runs (.bar2Read o n) s fun t =>
        t = { s with hif := { s.hif with bar2Wait := s.hif.bar2Wait ++ [(o, n)] } })) ∧
  (∀ (s : State) (o n : Nat) (d : Mem), okTlp o n = true → s.running = true → Runs (.bar2Write o n d) s fun t =>
      t = logged s 5 o) ∧
  (∀ (s : State) (o n : Nat) (d : Mem), okTlp o n = true → s.served = true → s.running = false → o + n ≤ memBytes →
      0 < n → o % 256 + n ≤ 256 → Runs (.bar2Write o n d) s fun t =>
      (∃ r : CReq, (t.slice (lineSlice (o / 1024))).writes = (s.slice (lineSlice (o / 1024))).writes ++ [r] ∧
        r.addr = o ∧ r.len = n ∧ r.write = true ∧ r.cls = 3 ∧ ∀ a, a < n → Mem.get r.bytes a = Mem.get (Mem.take d n) a) ∧
      t = { s with ccd := { s.ccd with slices := t.ccd.slices } })

/-! ### Descriptors -/

/-- The order of checks (R364): a malformed descriptor ends with status 0x01; then a PROMOTE or DRAIN without expert
mode with 0x10; then an opcode that the state does not permit with 0x02. Nothing outside the host interface changes
(R12). -/
def Obligations.FailingChecksEndDescriptors : Prop :=
  ∀ (s : State) (q : Nat) (d : List W32) (rd : HostRead) (ok : Bool),
    q < 32 → s.pickRing = some q → s.startable q = some d →
    (dwWellFormed d = false → Runs (rowFor q d rd ok) s fun t => Ended s t 0x01 0 0 ∧ OnlyHif s t) ∧
    (dwWellFormed d = true → (dwOp d = 0x20 ∨ dwOp d = 0x21) → s.hif.expert = false →
      Runs (rowFor q d rd ok) s fun t => Ended s t 0x10 0 0 ∧ OnlyHif s t) ∧
    (dwWellFormed d = true → (dwOp d = 0x20 ∨ dwOp d = 0x21 → s.hif.expert = true) → s.dwPermitted d = false →
      Runs (rowFor q d rd ok) s fun t => Ended s t 0x02 0 0 ∧ OnlyHif s t)

/-- Data movers (R366, R367): COPY_H2D stores what the host read returned, COPY_D2H sends what the range holds, COPY_D2D
moves a range, FILL stores its pattern, in one block array or in all; each touches no other byte and completes with the KiB
moved. They are stated on lines that the cache die holds whole and free of errors, and on one line that it does not hold,
which a read fetches and a write of the whole line does not. COPY_D2D to a peer sends WRITE requests with the data read
here, from a peer READ requests, and ends with their answers; one request is written out. How a mover waits for its lines and
grants, and the size of a peer copy's requests, are the model's choice (log entries 22, 44, 59). -/
def Obligations.DataMovers : Prop :=
  (∀ (s : State) (q : Nat) (d : List W32) (m : Mem), Starts s q d → dwOp d = 0x02 → s.running = false →
      dwQ d 4 + dwLen d ≤ memBytes → HeldRange s (dwQ d 4) (dwLen d) → Runs (.copyH2d q (.data m)) s fun t =>
      StoredAt s t (dwQ d 4) (dwLen d) (fun i => Mem.get (Mem.take m (dwLen d)) i) ∧
      Ended s t 0 0 ((dwLen d + 1023) / 1024) ∧ t.blocks = s.blocks ∧ t.dev = s.dev) ∧
  (∀ (s : State) (q : Nat) (d : List W32), Starts s q d → dwOp d = 0x02 → dwQ d 4 + dwLen d ≤ memBytes →
      Runs (.copyH2d q .failed) s fun t => Ended s t 8 0 0 ∧ OnlyHif s t) ∧
  (∀ (s : State) (q : Nat) (d : List W32) (m : Mem), Starts s q d → dwOp d = 0x02 → s.running = true →
      dwQ d 4 + dwLen d ≤ memBytes → Runs (.copyH2d q (.data m)) s fun t =>
      (∃ c ∈ t.hif.heldCopies, c.uid = s.hif.nextUid ∧ c.dev = dwQ d 4 ∧ c.len = dwLen d ∧ c.applied = none) ∧
      Waits s t ∧ OnlyHif s t) ∧
  (∀ (s : State) (q : Nat) (d : List W32), Starts s q d → dwOp d = 0x03 → dwQ d 4 + dwLen d ≤ memBytes →
      (s.running = true → s.meetsOutput (dwQ d 4) (dwLen d) = false) → HeldRange s (dwQ d 4) (dwLen d) →
      (∀ e ∈ s.ccd.words, e.2.poison = false) → Runs (.copyD2h q) s fun t =>
      (∃ w, t.hif.hostOut = w :: s.hif.hostOut ∧ w.addr = dwQ d 2 ∧ w.len = dwLen d ∧ w.ep = [] ∧
        ∀ i, i < dwLen d → Mem.get w.bytes i = Mem.get s.ccd.mem (dwQ d 4 + i)) ∧
      Ended s t 0 0 ((dwLen d + 1023) / 1024) ∧ MemorySame s t ∧ t.blocks = s.blocks) ∧
  (∀ (s : State) (q : Nat) (d : List W32), Starts s q d → dwOp d = 0x03 → dwQ d 4 + dwLen d ≤ memBytes →
      s.running = true → s.meetsOutput (dwQ d 4) (dwLen d) = true → Runs (.copyD2h q) s fun t =>
      s.hif.nextUid ∈ t.hif.waitingD2h ∧ Waits s t ∧ OnlyHif s t) ∧
  (∀ (s : State) (q : Nat) (d : List W32), Starts s q d → dwOp d = 0x04 → dwDir d = 0 →
      dwQ d 2 + dwLen d ≤ memBytes → dwQ d 4 + dwLen d ≤ memBytes →
      HeldRange s (dwQ d 2) (dwLen d) → HeldRange s (dwQ d 4) (dwLen d) → (∀ e ∈ s.ccd.words, e.2.poison = false) →
      s.running = false → Runs (.copyD2d q) s fun t =>
      StoredAt s t (dwQ d 4) (dwLen d) (fun i => Mem.get s.ccd.mem (dwQ d 2 + i)) ∧
      Ended s t 0 0 ((dwLen d + 1023) / 1024) ∧ t.blocks = s.blocks) ∧
  (∀ (s : State) (q : Nat) (d : List W32), Starts s q d → dwOp d = 0x05 → bitN (dwN d 2) 0 = false →
      dwQ d 4 + dwLen d ≤ memBytes → HeldRange s (dwQ d 4) (dwLen d) → Runs (.hostFill q) s fun t =>
      StoredAt s t (dwQ d 4) (dwLen d) (fun i => BitVec.ofNat 8 (dwN d 3 / 2 ^ (8 * (i % 4)))) ∧
      Ended s t 0 0 ((dwLen d + 1023) / 1024) ∧ t.blocks = s.blocks) ∧
  (∀ (s : State) (q L : Nat) (d : List W32), Starts s q d → dwLen d = 1024 → L * 1024 + 1024 ≤ memBytes → Absent s L →
      (∀ m, dwOp d = 0x02 → dwQ d 4 = L * 1024 → s.running = false → Runs (.copyH2d q (.data m)) s fun t =>
        StoredAt s t (L * 1024) 1024 (fun i => Mem.get (Mem.take m 1024) i) ∧ Ended s t 0 0 1 ∧
        ∃ l, t.line L = some l ∧ l.valid = 0xF ∧ l.dirty = 0xF) ∧
      (dwOp d = 0x05 → bitN (dwN d 2) 0 = false → dwQ d 4 = L * 1024 → Runs (.hostFill q) s fun t =>
        StoredAt s t (L * 1024) 1024 (fun i => BitVec.ofNat 8 (dwN d 3 / 2 ^ (8 * (i % 4)))) ∧ Ended s t 0 0 1 ∧
        ∃ l, t.line L = some l ∧ l.valid = 0xF ∧ l.dirty = 0xF) ∧
      (dwOp d = 0x03 → dwQ d 4 = L * 1024 → (s.running = true → s.meetsOutput (dwQ d 4) (dwLen d) = false) →
        Runs (.copyD2h q) s fun t => Fetched s t L ∧ Ended s t 0 0 1 ∧
        ∃ w, t.hif.hostOut.head? = some w ∧ w.addr = dwQ d 2 ∧ w.len = 1024 ∧ w.ep = [] ∧
          ∀ i, i < 1024 → Mem.get w.bytes i = Mem.get s.hbm ((place L).store * 1024 + i)) ∧
      (dwOp d = 0x04 → dwDir d = 0 → dwQ d 2 = L * 1024 → dwQ d 4 + 1024 ≤ memBytes → HeldRange s (dwQ d 4) 1024 →
        Runs (.copyD2d q) s fun t => Ended s t 0 0 1 ∧
        ∀ i, i < 1024 → Mem.get t.ccd.mem (dwQ d 4 + i) = Mem.get s.hbm ((place L).store * 1024 + i))) ∧
  (∀ (s : State) (q p r tg : Nat) (vc : Bool) (d : List W32), Starts s q d → dwOp d = 0x04 → dwLen d = 256 →
      dwQ d 2 + 256 ≤ memBytes → dwQ d 4 + 256 ≤ memBytes → s.isMe (dwPeer d) = false → s.fab.waiting = [] →
      s.freeTag = some tg → s.route (dwPeer d) tg none = some (p, r, vc) →
      (dwDir d = 2 → Runs (.copyD2d q) s fun t => ∃ f : VFrame,
        f.op = .read ∧ f.dst.toNat = dwPeer d ∧ 256 * f.addr.toNat = dwQ d 2 ∧ f.len512 = false ∧ f.tag.toNat = tg ∧
        (t.tag tg).st = .out f 1 s.tick (.copy s.hif.nextUid 0) s.sch.ply ∧ (t.tag tg).gen = (s.tag tg).gen + 1 ∧
        (t.port p).vQ = (s.port p).vQ ++ [(.v { f with vc := vc }, r, none)] ∧ OtherPorts s t p ∧ Waits s t ∧
        MemorySame s t) ∧
      (dwDir d = 1 → HeldRange s (dwQ d 2) 256 → (∀ e ∈ s.ccd.words, e.2.poison = false) →
        Runs (.copyD2d q) s fun t => ∃ f : VFrame,
        f.op = .write ∧ f.dst.toNat = dwPeer d ∧ 256 * f.addr.toNat = dwQ d 4 ∧ f.len512 = false ∧ f.tag.toNat = tg ∧
        f.pmask = 0 ∧ (∀ i, i < 256 → Mem.get f.payload i = Mem.get s.ccd.mem (dwQ d 2 + i)) ∧
        (t.tag tg).st = .out f 1 s.tick (.copy s.hif.nextUid 0) s.sch.ply ∧
        (t.port p).vQ = (s.port p).vQ ++ [(.v { f with vc := vc }, r, none)] ∧ OtherPorts s t p ∧ Waits s t ∧
        MemorySame s t)) ∧
  (∀ (s : State) (q : Nat) (d : List W32), Starts s q d → dwOp d = 0x05 → bitN (dwN d 2) 0 = true →
      bitsN (dwN d 2) 15 8 = 0xFF → dwQ d 4 + dwLen d ≤ baBytes → Runs (.hostFill q) s fun t =>
      (∀ b, if b < 96 ∧ (s.slotOf b).isSome = true then
          ∀ a, Mem.get (t.blk b).ba a = if dwQ d 4 ≤ a ∧ a < dwQ d 4 + dwLen d
            then BitVec.ofNat 8 (dwN d 3 / 2 ^ (8 * ((a - dwQ d 4) % 4))) else Mem.get (s.blk b).ba a
        else t.blk b = s.blk b) ∧
      MemorySame s t ∧ Ended s t 0 0 ((dwLen d + 1023) / 1024)) ∧
  (∀ (s : State) (q b : Nat) (d : List W32), Starts s q d → dwOp d = 0x05 → bitN (dwN d 2) 0 = true →
      bitsN (dwN d 2) 15 8 = b → b < 96 → (s.slotOf b).isSome = true → dwQ d 4 + dwLen d ≤ baBytes →
      Runs (.hostFill q) s fun t =>
      (∀ a, Mem.get (t.blk b).ba a = if dwQ d 4 ≤ a ∧ a < dwQ d 4 + dwLen d
        then BitVec.ofNat 8 (dwN d 3 / 2 ^ (8 * ((a - dwQ d 4) % 4))) else Mem.get (s.blk b).ba a) ∧
      (∀ c, c ≠ b → t.blk c = s.blk c) ∧ MemorySame s t ∧ Ended s t 0 0 ((dwLen d + 1023) / 1024)) ∧
  (∀ (s : State) (q : Nat) (d : List W32), Starts s q d → dwOp d = 0x01 → Runs (.hostNop q) s fun t =>
      Ended s t 0 0 0 ∧ OnlyHif s t)

/-- CACHE_RANGE (R219, R222, Table 8.6), line by line: a flush leaves its lines clean with their bytes in the cache
and, in a free channel in service, in HBM; an invalidate, a clean-invalidate and a dead mark drop them; a dead mark is
recorded in the line's set; a prefetch leaves what it finds held; pins of lines that lie below pin_max are set and
cleared. The three that reach HBM are stated on one line: a prefetch of an absent line brings it in clean, and a flush and a
clean-invalidate of a dirty line write its dirty sectors. That each acts in one step, when its descriptor starts, is the
model's choice (log entry 43). -/
def Obligations.CacheRangeOperations : Prop :=
  (∀ (s : State) (q : Nat) (d : List W32), Starts s q d → dwOp d = 0x10 → dwQ d 4 + dwLen d ≤ memBytes →
      (bitsN (dwN d 2) 2 0 = 0 →
        (∀ L, dwQ d 4 / 1024 ≤ L → L * 1024 < dwQ d 4 + dwLen d → (s.line L).isSome = true) →
        Runs (.cacheRangePrefetch q) s fun t =>
          t.ccd = s.ccd ∧ t.hbm = s.hbm ∧ Ended s t 0 0 ((dwLen d + 1023) / 1024)) ∧
      (bitsN (dwN d 2) 2 0 = 1 → Runs (.cacheRangeFlush q) s fun t =>
          (∀ L l, dwQ d 4 / 1024 ≤ L → L * 1024 < dwQ d 4 + dwLen d → t.line L = some l → l.dirty = 0) ∧
          t.ccd.mem = s.ccd.mem ∧ (∀ L, (t.line L).isSome = (s.line L).isSome) ∧
          Ended s t 0 0 ((dwLen d + 1023) / 1024)) ∧
      (bitsN (dwN d 2) 2 0 = 2 → Runs (.cacheRangeInvalidate q) s fun t =>
          (∀ L, dwQ d 4 / 1024 ≤ L → L * 1024 < dwQ d 4 + dwLen d → t.line L = none) ∧
          Ended s t 0 0 ((dwLen d + 1023) / 1024)) ∧
      (bitsN (dwN d 2) 2 0 = 3 → Runs (.cacheRangeCleanInvalidate q) s fun t =>
          (∀ L, dwQ d 4 / 1024 ≤ L → L * 1024 < dwQ d 4 + dwLen d → t.line L = none) ∧
          Ended s t 0 0 ((dwLen d + 1023) / 1024)) ∧
      (bitsN (dwN d 2) 2 0 = 4 → Runs (.cacheRangeDead q) s fun t =>
          (∀ L, dwQ d 4 / 1024 ≤ L → L * 1024 < dwQ d 4 + dwLen d → t.line L = none) ∧
          Ended s t 0 0 ((dwLen d + 1023) / 1024)) ∧
      (bitsN (dwN d 2) 2 0 = 5 →
        (∀ L, dwQ d 4 / 1024 ≤ L → L * 1024 < dwQ d 4 + dwLen d → ∃ l, s.line L = some l ∧ l.way < s.ccd.pinMax) →
        Runs (.cacheRangePin q) s fun t =>
          (∀ L, dwQ d 4 / 1024 ≤ L → L * 1024 < dwQ d 4 + dwLen d → ∃ l, t.line L = some l ∧ l.pinned = true) ∧
          MemorySame s t ∧ Ended s t 0 0 ((dwLen d + 1023) / 1024)) ∧
      (bitsN (dwN d 2) 2 0 = 6 → Runs (.cacheRangeUnpin q) s fun t =>
          (∀ L l, dwQ d 4 / 1024 ≤ L → L * 1024 < dwQ d 4 + dwLen d → t.line L = some l → l.pinned = false) ∧
          MemorySame s t ∧ Ended s t 0 0 ((dwLen d + 1023) / 1024))) ∧
  (∀ (s : State) (q L : Nat) (d : List W32), Starts s q d → dwOp d = 0x10 → bitsN (dwN d 2) 2 0 = 0 →
      dwQ d 4 = L * 1024 → dwLen d = 1024 → L * 1024 + 1024 ≤ memBytes → Absent s L →
      Runs (.cacheRangePrefetch q) s fun t => Fetched s t L ∧ Ended s t 0 0 1 ∧ t.blocks = s.blocks) ∧
  (∀ (s : State) (q L i k : Nat) (l : Line) (d : List W32) (row : Instr), Starts s q d → dwOp d = 0x10 →
      (k, row) ∈ [(1, Instr.cacheRangeFlush q), (3, .cacheRangeCleanInvalidate q)] → bitsN (dwN d 2) 2 0 = k →
      dwQ d 4 = L * 1024 → dwLen d = 1024 → L * 1024 + 1024 ≤ memBytes → s.line L = some l →
      (s.chan (place L).stk (place L).ch).state ≠ 2 → (s.serveHost d).placeFree (place L) true = true →
      (s.chan (place L).stk (place L).ch).crcDue = 0 → i < 1024 → l.dirty.getLsbD (i / 256) = true →
      Runs row s fun t => Mem.get t.hbm ((place L).store * 1024 + i) = Mem.get s.ccd.mem (L * 1024 + i)) ∧
  (∀ (s : State) (q L : Nat) (d : List W32), Starts s q d → dwOp d = 0x10 → bitsN (dwN d 2) 2 0 = 4 →
      dwQ d 4 = L * 1024 → dwLen d = 1024 → L * 1024 + 1024 ≤ memBytes →
      Runs (.cacheRangeDead q) s fun t =>
      L ∈ SMap.get [] (t.slice (lineSlice L)).dead (lineSet L))

/-- Image and domain descriptors (R78-R82, R44, R46, R363). IMAGE_LOAD of an image that fails a check ends with status
0x03 and its reason and leaves no image; one that passes is loaded, with its own code blob at the start of the ply-code
area, unless a pin of its load list is refused or a target lies in a dead channel; a read that fails ends with 0x08.
DOMAIN_JOIN takes every port's function from the image; DOMAIN_JOIN with leave enters READY and keeps image and memory;
PLY_RUN arms, or ends with 0x0E while an event waits for its acknowledgement; PLY_STOP is latched; EVENT_ACK clears the
bit of its event. The model's choice: where the code blobs lie in the ply-code area (log entries 10, 93), that a leave
unmaps the ports (log entry 16), what stops a load list (log entries 57, 77), and that loading keeps the sequencers'
registers (log entry 60). -/
def Obligations.DomainDescriptors : Prop :=
  (∀ (s : State) (q r : Nat) (d : List W32) (m : Mem), Starts s q d → dwOp d = 0x08 →
      imgCheck (s.loadEnv (bitsN (dwN d 6) 14 0)) (Mem.take m (dwQ d 4)) (dwQ d 4) = .inl r →
      Runs (.imageLoad q (.data m)) s fun t => t.image = none ∧ Ended s t 3 r 0 ∧ MemorySame s t ∧ t.blocks = s.blocks) ∧
  (∀ (s : State) (q : Nat) (d : List W32), Starts s q d → dwOp d = 0x08 →
      Runs (.imageLoad q .failed) s fun t => t.image = none ∧ Ended s t 8 0 0) ∧
  (∀ (s : State) (q n : Nat) (d : List W32) (m : Mem) (im : Image), Starts s q d → dwOp d = 0x08 →
      imgCheck (s.loadEnv (bitsN (dwN d 6) 14 0)) (Mem.take m (dwQ d 4)) (dwQ d 4) = .inr im →
      (∀ x ∈ im.own :: im.served, ∀ l ∈ x.loads, l.kind ≠ 1) → (∀ k c, (s.chan k c).state ≠ 2) →
      s.imageWaits d (.cut m n) = false → Runs (.imageLoad q (.cut m n)) s fun t => t.image = none ∧ Ended s t 8 0 0) ∧
  (∀ (s : State) (q : Nat) (d : List W32) (m : Mem) (im : Image), Starts s q d → dwOp d = 0x08 →
      imgCheck (s.loadEnv (bitsN (dwN d 6) 14 0)) (Mem.take m (dwQ d 4)) (dwQ d 4) = .inr im →
      (∀ x ∈ im.own :: im.served, ∀ l ∈ x.loads, l.kind ≠ 1) → (∀ k c, (s.chan k c).state ≠ 2) →
      s.imageWaits d (.data m) = false → Runs (.imageLoad q (.data m)) s fun t =>
      t.image = some im ∧ Ended s t 0 0 0 ∧
      (∀ i, i < im.own.blobLen → Mem.get t.ccd.plyCode i = Mem.get im.own.blob i) ∧
      ∀ b, b < 96 → (s.slotOf b).isSome = true → (t.blk b).seq.overlay = 0xFFFF) ∧
  (∀ (s : State) (q : Nat) (d : List W32) (im : Image), Starts s q d → dwOp d = 0x09 → bitN (dwN d 2) 0 = false →
      s.image = some im → im.own.needsMirror = false → Runs (.domainJoin q) s fun t =>
      t.dev = .ready ∧ (∃ j, t.sch.join = some j ∧ j.uid = s.hif.nextUid ∧ j.startTick = s.tick ∧ j.heard = []) ∧
      (∀ p, p < 20 → (t.port p).fn = im.own.portFn.getD p 0xFF) ∧
      (∀ p, p < 20 → im.own.portPartner.getD p 0xFFFFFFFF ≠ 0xFFFFFFFF → (t.port p).joinOwn = true ∧
        (t.port p).remeasure = true ∧
        ((s.port p).isUp = true → ∃ w, (t.port p).linkQ = (s.port p).linkQ ++ [(.link .echoReq 0 false w, 0)] ∧
          (t.port p).echo = some w)) ∧
      t.sch.locked = false ∧ Waits s t) ∧
  (∀ (s : State) (q : Nat) (d : List W32), Starts s q d → dwOp d = 0x09 → bitN (dwN d 2) 0 = true →
      Runs (.domainLeave q) s fun t =>
      t.dev = .ready ∧ t.image = s.image ∧ MemorySame s t ∧ t.blocks = s.blocks ∧ t.standby.place = none ∧
      (∀ p, p < 20 → (t.port p).fn = 0xFF ∧ (t.port p).sched = [] ∧ (t.port p).due = []) ∧ Ended s t 0 0 0) ∧
  (∀ (s : State) (q : Nat) (d : List W32), Starts s q d → dwOp d = 0x0A → s.hif.pendTimeLost = false →
      s.hif.pendUnrecoverable = false → Runs (.plyRun q) s fun t =>
      t.sch.arming = some { uid := s.hif.nextUid, ply := BitVec.ofNat 64 (dwQ d 2), tick := dwQ d 4 } ∧
      t.dev = s.dev ∧ Waits s t) ∧
  (∀ (s : State) (q : Nat) (d : List W32), Starts s q d → dwOp d = 0x0A →
      (s.hif.pendTimeLost = true ∨ s.hif.pendUnrecoverable = true) → Runs (.plyRun q) s fun t =>
      Ended s t 0x0E 0 0 ∧ OnlyHif s t) ∧
  (∀ (s : State) (q : Nat) (d : List W32), Starts s q d → dwOp d = 0x0B → s.sch.arming = none →
      Runs (.plyStop q) s fun t => t.sch.stopLatch = some (some s.hif.nextUid) ∧ Waits s t ∧ t.dev = s.dev) ∧
  (∀ (s : State) (q : Nat) (d : List W32), Starts s q d → dwOp d = 0x1A → Runs (.eventAck q) s fun t =>
      t.hif.pendTimeLost = (s.hif.pendTimeLost && bitsN (dwN d 2) 7 0 != 1) ∧
      t.hif.pendUnrecoverable = (s.hif.pendUnrecoverable && bitsN (dwN d 2) 7 0 != 3) ∧
      Ended s t 0 0 0 ∧ OnlyHif s t)

/-- QUERY (R369): whole records of the item from the index on, as many as fit, go to host memory one after another, and
the completion gives their length. -/
def Obligations.QueryWritesWholeRecords : Prop :=
  ∀ (s : State) (q k : Nat) (d : List W32) (i : Instr), Starts s q d → dwOp d = 0x19 → bitsN (dwN d 2) 7 0 = k →
    (k, i) ∈ [(1, Instr.queryIdentity q), (2, .queryErrorLog q), (3, .querySlotMap q), (4, .queryMeasurements q),
      (5, .queryLicences q), (6, .queryThermal q), (7, .queryReplace q)] →
    Runs i s fun t =>
      (∀ rs, rs = (s.itemRecs k (dwN d 3)).take (dwN d 6 / itemSize k) → rs ≠ [] →
        ∃ w, t.hif.hostOut = w :: s.hif.hostOut ∧ w.addr = dwQ d 4 ∧ w.len = itemSize k * rs.length ∧
          (∀ j a, j < rs.length → a < itemSize k →
            Mem.get w.bytes (itemSize k * j + a) = Mem.get (rs.getD j []) a) ∧
          Ended s t 0 0 (itemSize k * rs.length)) ∧
      OnlyHif s t

/-- Waiting and expert descriptors (R368, R282, R402, R403, R392): a FENCE ends at once when nothing
before it is left, else it waits, and ends when the last descriptor that it waits for has completed;
a near-bank command that passes its checks joins the host queue of its stack; an installed licence is stored in a free
slot and raises the floor to its min_fw, and in READY discards a loaded image; one that fails a check changes no flash;
a firmware image that passes goes to staging, one that fails leaves the store; a PROMOTE gives the block the region's
spare, or ends with 0x11; a DRAIN starts endgame in JOINED and makes the member culprit in RUNNING. -/
def Obligations.ControlDescriptors : Prop :=
  (∀ (s : State) (q : Nat) (d : List W32), Starts s q d → dwOp d = 0x11 → s.hif.active = [] → s.pim.compat = false →
      Runs (.hostFence q) s fun t => Ended s t 0 0 0 ∧ OnlyHif s t) ∧
  (∀ (s : State) (q : Nat) (d : List W32) (x : Active), Starts s q d → dwOp d = 0x11 → x ∈ s.hif.active →
      x.uid < s.hif.nextUid → (bitN (dwN d 2) 0 = true ∨ x.sq = q) →
      Runs (.hostFence q) s fun t => Waits s t ∧ OnlyHif s t) ∧
  (∀ (s : State) (a x : Active), s.desc a.uid = some a → a.st = .running → dwOp a.dws = 0x11 → x ∈ s.hif.active →
      x.uid < a.uid → (bitN (dwN a.dws 2) 0 = true ∨ x.sq = a.sq) → Runs (.descriptorComplete a.uid) s (· = s)) ∧
  (∀ (s : State) (a : Active), s.desc a.uid = some a → a.st = .running → dwOp a.dws = 0x11 →
      (∀ x ∈ s.hif.active, x.uid < a.uid → bitN (dwN a.dws 2) 0 = false ∧ x.sq ≠ a.sq) →
      (s.pim.compat = false ∨ s.nbHostBefore a.uid = false) →
      bitN (dwN a.dws 0) 12 = false → (s.cq (bitsN (dwN a.dws 0) 11 8)).en = true →
      (s.cq (bitsN (dwN a.dws 0) 11 8)).room = true → (s.cq (bitsN (dwN a.dws 0) 11 8)).waiting = [] →
      Runs (.descriptorComplete a.uid) s fun t =>
      (∀ x ∈ t.hif.active, x.uid ≠ a.uid) ∧
      (∃ w, t.hif.hostOut = w :: s.hif.hostOut ∧ w.len = 16 ∧ Mem.rd32 w.bytes 0 = a.dws.getD 1 0 ∧
        Mem.rd w.bytes 8 1 = 0) ∧ OnlyHif s t) ∧
  (∀ (s : State) (q : Nat) (d : List W32) (m : Mem) (c : NbCmd), Starts s q d → dwOp d = 0x14 → s.nbLicensed = true →
      s.sec.nbFailed = false → s.pim.compat = false →
      nbBuild (.host s.hif.nextUid) false (dwClass d) d
        ((List.range (bitsN (dwN d 3) 5 0 + 1)).map fun i => Mem.rd32 m (4 * i)) = .inr c →
      Runs (.pimSubmit q (.data m)) s fun t =>
      (t.nbStack (bitsN (dwN d 2) 2 0)).hostQ = (s.nbStack (bitsN (dwN d 2) 2 0)).hostQ ++ [c] ∧
      Waits s t ∧ MemorySame s t) ∧
  (∀ (s : State) (q k : Nat) (d : List W32) (m : Mem) (f : FwInfo), Starts s q d → dwOp d = 0x18 →
      s.sec.running = some f → s.sec.licAt ≠ some (licId (Mem.take m (dwN d 4)), s.tick, true) →
      licCheck (Mem.take m (dwN d 4)) (dwN d 4) s.validId f.trustModulus f.trustExponent f.version = none →
      s.flash.licSlot (Mem.take m (dwN d 4)) = .inr k → s.dev = .ready →
      Runs (.licenceInstall q (.data m) true) s fun t =>
      t.flash.licence k = some (Mem.take m (dwN d 4)) ∧
      (∀ j, j ≠ k → t.flash.licence j = s.flash.licence j) ∧
      t.flash.floor.toNat = max s.flash.floor.toNat (Mem.rd32 (Mem.take m (dwN d 4)) 0x34).toNat ∧
      t.flash.store = s.flash.store ∧ t.image = none ∧ Ended s t 0 0 0) ∧
  (∀ (s : State) (q r : Nat) (d : List W32) (m : Mem) (f : FwInfo), Starts s q d → dwOp d = 0x18 →
      s.sec.running = some f →
      licCheck (Mem.take m (dwN d 4)) (dwN d 4) s.validId f.trustModulus f.trustExponent f.version = some r →
      Runs (.licenceInstall q (.data m) true) s fun t => Ended s t 0xB r 0 ∧ OnlyHif s t) ∧
  (∀ (s : State) (q : Nat) (d : List W32) (m : Mem) (f : FwInfo), Starts s q d → dwOp d = 0x1C →
      fwCheck (Mem.take m (dwQ d 4)) (dwQ d 4) s.flash.floor = .inr f → s.sec.staging = none →
      Runs (.fwStage q (.data m)) s fun t =>
      t.sec.staging = some (f, some s.hif.nextUid) ∧ t.flash = { s.flash with store := none } ∧ Waits s t) ∧
  (∀ (s : State) (q r : Nat) (d : List W32) (m : Mem), Starts s q d → dwOp d = 0x1C →
      fwCheck (Mem.take m (dwQ d 4)) (dwQ d 4) s.flash.floor = .inl r →
      Runs (.fwStage q (.data m)) s fun t => Ended s t 0xC r 0 ∧ OnlyHif s t) ∧
  (∀ (s : State) (q b old new : Nat) (d : List W32), Starts s q d → dwOp d = 0x20 → bitsN (dwN d 2) 6 0 = b →
      s.slotOfLocal (b / 12) (b % 12) = some old → s.spareOf (b / 12) = some new →
      Runs (.promote q) s fun t =>
      slotEntry (t.region (b / 12)).slotState new = b % 12 ∧ slotEntry (t.region (b / 12)).slotState old = 0xD ∧
      (∀ n, n < 13 → n ≠ old → n ≠ new →
        slotEntry (t.region (b / 12)).slotState n = slotEntry (s.region (b / 12)).slotState n) ∧
      (t.blk b).ba = [] ∧ (t.blk b).baSt = [] ∧
      t.flash.replace.exclude.getLsbD (13 * (b / 12) + old) = true) ∧
  (∀ (s : State) (q : Nat) (d : List W32), Starts s q d → dwOp d = 0x20 →
      s.spareOf (bitsN (dwN d 2) 6 0 / 12) = none → Runs (.promote q) s fun t =>
      Ended s t 0x11 0 0 ∧ OnlyHif s t) ∧
  (∀ (s : State) (q : Nat) (d : List W32), Starts s q d → dwOp d = 0x21 → s.running = true → s.sch.drainCause = none →
      Runs (.drain q) s fun t => t.sch.drainCause = some 4 ∧ t.dev = s.dev ∧ Waits s t) ∧
  (∀ (s : State) (q : Nat) (d : List W32), Starts s q d → dwOp d = 0x21 → s.dev = .joined → s.err.phase = 0 →
      Runs (.drain q) s fun t => t.err.phase = 2 ∧ t.err.cause = 4 ∧ t.dev = .joined)

/-! ### Plies -/

/-- Domain time (R39-R43, R501): the time master's beacons leave at multiples of 256 ticks, holdover beacons likewise;
1,024 ticks without a beacon are a time flag fall blamed on the upstream partner and begin holdover; 100 ms of holdover
post the time-lost event once; TICK_OUT falls 10 ticks after the ply start. The model's choice: which ports are
downstream (log entry 11), that locked stays 1 in holdover (log entry 64), and at which moment a member posts its
time-lost event (log entry 30). -/
def Obligations.DomainTime : Prop :=
  (∀ (s : State) (im : Image), s.inDomain = true → s.err.phase = 0 → s.image = some im → im.timeMaster = s.ldevSeen →
      s.dom % 256 = 0 → Runs .timeBeaconEmit s fun t => SendsBeacons s t im false) ∧
  (∀ (s : State) (p : Nat) (h : FrameHdr) (tick : W64) (m : BitVec 15) (ho : Bool) (im : Image), Hears s p h →
      (s.port p).joinDue = false → s.image = some im → (s.inDomain = true ∨ s.sch.join.isSome = true) →
      (im.own.timeUp = p → im.timeMaster = m.toNat → Runs (.tBeacon p h tick m ho) s fun t =>
        t.sch.timeOff = (tick.toNat + im.hopBudget : Int) - s.tick ∧ t.dom = tick.toNat + im.hopBudget ∧
        t.sch.lastBeacon = s.tick ∧ (ho = false → t.sch.holdover = false ∧ t.sch.timeLost = false) ∧
        (ho = true → t.sch.holdover = s.sch.holdover ∧ t.sch.timeLost = s.sch.timeLost) ∧
        (∀ j, s.sch.join = some j → j.firstBeacon = none → t.qos.discard = true ∧
          t.sch.join = some { j with firstBeacon := some s.tick }) ∧
        t.blocks = s.blocks ∧ t.ccd = s.ccd ∧ t.dev = s.dev ∧
        ∀ q, ∃ l, t.port q = { (heard s p h).port q with due := (s.port q).due ++ l } ∧
          (∀ e ∈ l, e.1 = .tBeacon (BitVec.ofNat 64 (tick.toNat + im.hopBudget + 1)) m ho) ∧
          l.length = if q < 20 ∧ Config.downstream im.imageId im.ldev q = true ∧ q ≠ p ∧ (s.port q).fn ≠ 0xFF ∧
            (s.port q).isUp = true then 1 else 0) ∧
      ((im.own.timeUp ≠ p ∨ im.timeMaster ≠ m.toNat) → Runs (.tBeacon p h tick m ho) s fun t =>
        (t.port p).viol = satAdd (s.port p).viol 1 ∧ t.sch.timeOff = s.sch.timeOff ∧ t.sch.lastBeacon = s.sch.lastBeacon ∧
        OtherPorts s t p)) ∧
  (∀ (s : State) (im : Image), s.inDomain = true → s.image = some im → s.sch.holdover = true → s.dom % 256 = 0 →
      Runs .holdoverBeacon s fun t => SendsBeacons s t im true) ∧
  (∀ (s : State) (im : Image), s.inDomain = true → s.image = some im → im.timeMaster ≠ s.ldevSeen →
      s.sch.holdover = false → s.sch.lastBeacon + 1024 ≤ s.tick → Runs .timeWatchdogExpiry s fun t =>
      t.sch.holdover = true ∧ t.sch.holdoverAt = s.tick ∧ NewRecord s t 3 3 0x29 3 ∧
      (s.inPly = true → t.sch.cur.clean = false ∧ im.own.timeUp ∈ t.sch.cur.blame ∧ t.sch.causes.getLsbD 4 = true) ∧
      t.dev = s.dev ∧ t.blocks = s.blocks ∧ t.ccd = s.ccd ∧ t.fab = s.fab) ∧
  (∀ s : State, s.inDomain = true → s.sch.holdover = true → s.sch.holdoverAt + 10000000 ≤ s.tick →
      s.sch.timeLost = false → Runs .holdoverLimit s fun t =>
      t.hif.pendTimeLost = true ∧ t.hif.eventSeq = s.hif.eventSeq + 1 ∧
      t = { s with sch := { s.sch with timeLost := true }, hif := t.hif }) ∧
  (∀ s : State, s.sch.tickOut = true → s.sch.tickOutAt + 10 ≤ s.dom → Runs .tickOutFall s fun t =>
      t = { s with sch := { s.sch with tickOut := false } })

/-- Joining (R41, R81, R82; the port that a timeout names is the model's choice, log entry 20): the join descriptor ends
with success when every mapped port has heard its partner and the device is locked, with status 0x05 when no lock comes
in 100 ms of the first beacon or no beacon in 1 s, and with 0x04 and reason 0x21 when a mapped port has heard nothing in
1 s; a failed join leaves every port unmapped; JOIN is sent again every 1 ms where no answer has come. That a failed
join unmaps the ports is the model's choice too (log entry 16), as is which JOIN is an answer (log entry 17). -/
def Obligations.JoiningTheDomain : Prop :=
  (∀ (s : State) (j : JoinSt), s.dev = .ready → s.sch.join = some j →
      (∀ p, p < 20 → (s.port p).fn ≠ 0xFF → p ∈ j.heard) →
      (s.isMaster = true ∨ j.firstBeacon.isSome = true) → Runs .timeLockAchieved s fun t =>
      t.dev = .joined ∧ Finishes s t j.uid 0 0 0 0 ∧
      t = { s with dev := .joined, hif := t.hif, qos := { s.qos with discard := true }
                   sch := { s.sch with join := none, locked := true, lastBeacon := s.tick } }) ∧
  (∀ (s : State) (j : JoinSt), s.sch.join = some j →
      (match j.firstBeacon with
       | some x => x + 10000000 ≤ s.tick
       | none => s.isMaster = false ∧ j.startTick + 100000000 ≤ s.tick) → Runs .timeLockTimeout s fun t =>
      Finishes s t j.uid 5 0 0 0 ∧ (∀ p, p < 20 → (t.port p).fn = 0xFF) ∧
      t = { s with hif := t.hif, fab := t.fab, pwr := { s.pwr with steer := 0 }
                   sch := { s.sch with join := none, locked := false, timeOff := s.sch.localOff } }) ∧
  (∀ (s : State) (j : JoinSt) (p : Nat), s.sch.join = some j → j.startTick + 100000000 ≤ s.tick → p < 20 →
      (s.port p).fn ≠ 0xFF → p ∉ j.heard → (∀ q, q < p → (s.port q).fn ≠ 0xFF → q ∈ j.heard) →
      Runs .joinFrameTimeout s fun t =>
      Finishes s t j.uid 4 0x21 p 0 ∧ (∀ p, p < 20 → (t.port p).fn = 0xFF) ∧
      t = { s with hif := t.hif, fab := t.fab, pwr := { s.pwr with steer := 0 }
                   sch := { s.sch with join := none, locked := false, timeOff := s.sch.localOff } }) ∧
  (∀ (s : State) (j : JoinSt) (im : Image), s.sch.join = some j → j.lastSent + 100000 ≤ s.tick → s.image = some im →
      Runs .joinResend s fun t =>
      t.sch.join = some { j with lastSent := s.tick } ∧
      (∀ p, t.port p =
        if p < 20 ∧ s.partnerOf p ≠ 0xFFFFFFFF ∧ p ∉ j.heard ∧ (s.port p).joinOwn = false ∧ (s.port p).isUp = true then
          { s.port p with linkQ := (s.port p).linkQ ++ [(.join im.imageId (BitVec.ofNat 15 im.ldev), 0)] }
        else s.port p) ∧
      t = { s with sch := t.sch, fab := t.fab })

/-- Arming (R44, R47, R87): an arm epoch begins a flood with this member's fields, beside one still in progress if there
is one; its verdict fixes the start tick of the first ply when all are armed, and lets a withdrawn PLY_RUN go with status
0x0D when they are not; a verdict that comes once the start tick is fixed leaves it (the model's choice, log entry 65);
the first ply starts every block that has a slot and code, and PLY_RUN completes. -/
def Obligations.StartingPlies : Prop :=
  (∀ s : State, s.dev = .joined → s.standby.relaying = false → s.sch.live = false → s.dom % 4096 = 0 →
      s.sch.flood = none → s.sch.laterArms = [] → Runs .armEpoch s fun t =>
      (∃ f, t.sch.flood = some f ∧ f.kind = .arm ∧ f.t0 = s.dom ∧ f.round = 0 ∧ f.received = [] ∧
        (s.sch.arming = none → f.acc.armed = false) ∧
        ∀ a, s.sch.arming = some a → f.acc.start = a.tick ∧
          (f.acc.armed = true ↔ a.withdrawn = none ∧
            ¬ (s.sch.holdover = true ∧ s.sch.holdoverAt + 10000000 ≤ s.tick))) ∧
      t = { s with sch := { s.sch with flood := t.sch.flood } }) ∧
  (∀ (s : State) (f : Flood), s.dev = .joined → s.standby.relaying = false → s.sch.live = false → s.dom % 4096 = 0 →
      s.sch.flood = some f → f.t0 ≠ s.dom → (∀ g ∈ s.sch.laterArms, g.t0 ≠ s.dom) → Runs .armEpoch s fun t =>
      t = { s with sch := { s.sch with laterArms := s.sch.laterArms ++
              [{ kind := .arm, t0 := s.dom, ply := 0, acc := s.armFields }] } }) ∧
  (∀ (s : State) (f : Flood), VerdictDue s f → f.kind = .arm → f.acc.armed = true → s.sch.firstStart = none →
      Runs .armVerdict s fun t =>
      t.sch.firstStart = some (max f.acc.start ((((f.t0 + 150 + s.diam * s.hop) / 4096) + 1) * 4096)) ∧
      t.sch.flood = s.sch.laterArms.head? ∧ t = { s with sch := t.sch }) ∧
  (∀ (s : State) (f : Flood), VerdictDue s f → f.kind = .arm →
      (s.sch.firstStart.isSome = true ∨
        (f.acc.armed = false ∧ ∀ a, s.sch.arming = some a → a.withdrawn = none)) → Runs .armVerdict s fun t =>
      t = { s with sch := { s.sch with flood := s.sch.laterArms.head?, laterArms := s.sch.laterArms.tail } }) ∧
  (∀ (s : State) (f : Flood) (a : Arming) (x : Nat), VerdictDue s f → f.kind = .arm → f.acc.armed = false →
      s.sch.firstStart = none → s.sch.arming = some a → a.withdrawn = some (none, x) → x ≤ f.t0 →
      Runs .armVerdict s fun t =>
      t.sch.arming = none ∧ t.sch.flood = s.sch.laterArms.head? ∧ Finishes s t a.uid 0xD 0 0 0 ∧ t.dev = s.dev) ∧
  (∀ (s : State) (a : Arming) (x : Nat), s.dev = .joined → s.standby.tracking = false → s.sch.live = false →
      s.sch.firstStart = some x → x ≤ s.dom → s.sch.arming = some a → Runs .firstPlyStart s fun t =>
      t.dev = .running ∧ t.sch.live = true ∧ t.sch.ply = a.ply ∧ t.sch.attempt = 0 ∧ t.sch.start = x ∧
      t.sch.len = s.plyLen ∧ t.sch.arming = none ∧ t.sch.firstStart = none ∧ t.sch.tickOut = true ∧ t.sch.sems = [] ∧
      Finishes s t a.uid 0 0 0 0 ∧ MemorySame s t ∧
      (∀ (b : Nat) (c : CodeEntry), b < 96 → (s.slotOf b).isSome = true → (s.blk b).lost = false →
        (s.region (b / 12)).promo = none → s.codeOf b = some c →
        StartsAt t b c ∧ (t.blk b).seq.regs = (s.blk b).seq.regs ∧
        (t.blk b).seq.recRegs = (s.blk b).seq.regs ∧ (t.blk b).seq.recOverlay = (s.blk b).seq.overlay))

/-- The boundary (R37, R38, R49, R55, R63): the next ply starts at once and the check of the one that ended begins; a
block that is not at its end-of-ply point falls its watchdog and is halted in the next ply, and the member names itself
culprit. -/
def Obligations.PlyBoundary : Prop :=
  ∀ s : State, Executes s → s.sch.restartAt = none → s.sch.flood = none → s.sch.start + s.sch.len ≤ s.dom →
    Runs .plyBoundary s fun t =>
    t.sch.ply = s.sch.ply + 1 ∧ t.sch.start = s.sch.start + s.sch.len ∧ t.sch.len = s.plyLen ∧ t.sch.attempt = 0 ∧
    t.sch.prevAttempt = s.sch.attempt ∧ t.sch.gen = !s.sch.gen ∧ t.sch.stretch = 0 ∧ t.sch.sems = [] ∧
    t.dev = .running ∧ t.sch.committed = s.sch.committed ∧
    (∃ f, t.sch.flood = some f ∧ f.kind = .check ∧ f.t0 = s.sch.start + s.sch.len ∧ f.ply = s.sch.ply ∧ f.round = 0 ∧
      f.received = [] ∧
      (f.acc.stop = true ↔ s.sch.stopLatch.isSome = true ∨
        (s.sch.holdover = true ∧ s.sch.holdoverAt + 10000000 ≤ s.tick)) ∧
      (s.sch.cur.clean = false → f.acc.clean = false) ∧
      ((∃ b, b < 96 ∧ ((s.blk b).seq.st ≠ .eop ∨ (s.blk b).halted = true)) →
        f.acc.clean = false ∧ t.sch.prev.selfCulprit = true ∧ t.sch.causes.getLsbD 4 = true)) ∧
    (∀ b, b < 96 → ((s.blk b).seq.st ≠ .eop ∨ (s.blk b).halted = true) →
      (t.blk b).halted = true ∧ ((s.slotOf b).isSome = true → (t.blk b).seq.st = .idle)) ∧
    (∀ (b : Nat) (c : CodeEntry), b < 96 → (s.slotOf b).isSome = true → (s.blk b).seq.st = .eop →
      (s.blk b).halted = false → (s.region (b / 12)).promo = none → s.codeOf b = some c →
      StartsAt t b c ∧ (t.blk b).seq.regs = (s.blk b).seq.regs ∧ (t.blk b).seq.recRegs = (s.blk b).seq.regs)

/-- A round of a flood (R44, R50, R51): it leaves 20 + i h ticks after the flood's start, with the combined fields, on
every flood port that is up, with the blame bit toward a culprit; a flood port from which the round before is missing
makes the ply in flight not clean. To which round a received word belongs is the model's reading (log entry 15). -/
def Obligations.CheckFloodRounds : Prop :=
  (∀ (s : State) (f : Flood) (i : Nat), s.sch.flood = some f → f.round = i → i < s.diam →
      f.t0 + 20 + i * s.hop ≤ s.dom → (i = 0 ∨ f.kind = .arm ∨ ∀ p ∈ s.floodPorts, (p, i - 1) ∈ f.received) →
      Runs (.checkFloodRound i) s fun t =>
      (∀ p, t.port p =
        if p ∈ s.floodPorts ∧ (s.port p).isUp = true then
          { s.port p with due := (s.port p).due ++
              [(if f.kind = .arm then .sArm f.acc.armed (BitVec.ofNat 64 f.acc.start) else
                .sCheck { clean := f.acc.clean, replayable := f.acc.replayable, stop := f.acc.stop
                          stretch := BitVec.ofNat 8 f.acc.stretch, blame := s.sch.prev.blame.contains p
                          round := BitVec.ofNat 8 i, plyLo := BitVec.ofNat 32 f.ply.toNat }, 0)] }
        else s.port p) ∧
      t = { s with sch := { s.sch with flood := some { f with round := i + 1 } }, fab := t.fab }) ∧
  (∀ (s : State) (f : Flood) (i p : Nat), s.sch.flood = some f → f.round = i + 1 → i + 1 < s.diam →
      f.t0 + 20 + (i + 1) * s.hop ≤ s.dom → f.kind ≠ .arm → p ∈ s.floodPorts → (p, i) ∉ f.received →
      s.inPly = true → Runs (.checkFloodRound (i + 1)) s fun t =>
      t.sch.cur.clean = false ∧ p ∈ t.sch.cur.blame ∧ t.sch.causes.getLsbD 3 = true ∧
      t.sch.flood = some { f with round := i + 2 })

/-- The verdict (R46, R53, R54, R59-R63, R66, R68, Table 2.4): a clean ply commits and frees its generation, or with
stop also ends in JOINED; a ply that is not clean is replayed from R_a ticks later, in at most attempt 3, with both
generations restored, by line and by logical block, and under its own number; one that is not replayable ends in JOINED
with the unrecoverable event; after attempt 3 the culprit starts its endgame and the others, where the domain has no
standby, stop; where no member is a culprit the ply is unrecoverable (R341). The restart of a replay (R59): the blocks
start again at the restart tick with the stretch that the verdict gave; a member that has not finished rolling back
falls its rollback watchdog, halts its blocks and is a persistent culprit. The model's choice: which event a stop posts
(log entry 30), blame where no member is a culprit (log entry 34), and when the count of replays is cleared (log entry
66). -/
def Obligations.PlyVerdictsAndRestart : Prop :=
  (∀ (s : State) (f : Flood) (lost orphan : Bool), Executes s → VerdictDue s f → f.kind = .check → f.acc.clean = true →
      (f.acc.stop = false → Runs (.plyVerdict lost orphan) s fun t =>
        t.dev = .running ∧ t.sch.committed = f.ply ∧ t.sch.flood = none ∧ t.sch.ply = s.sch.ply ∧
        t.sch.len = s.sch.len + stretchBy f.acc.stretch s.plyLen ∧ t.sch.start = s.sch.start ∧
        (if s.sch.gen then t.sch.gen0 else t.sch.gen1) = [] ∧
        (∀ c ∈ t.hif.heldCopies, c ∈ s.hif.heldCopies ∧ ∀ m, c.applied = some m → f.ply < m) ∧
        t.hif.waitingD2h = [] ∧ ∀ b, (t.blk b).strikes = []) ∧
      (f.acc.stop = true → Runs (.plyVerdict lost orphan) s fun t =>
        t.dev = .joined ∧ t.sch.live = false ∧ t.sch.committed = f.ply ∧ t.sch.flood = none ∧ t.sch.stopLatch = none ∧
        t.hif.heldCopies = [] ∧ t.hif.waitingD2h = [] ∧
        (lost = true → s.sch.timeLost = false → t.hif.pendTimeLost = true))) ∧
  (∀ (s : State) (f : Flood) (lost orphan : Bool), Executes s → VerdictDue s f → f.kind = .check → f.acc.clean = false →
      f.acc.replayable = true → s.sch.persistent = none → s.sch.prevAttempt < 3 → Runs (.plyVerdict lost orphan) s fun t =>
      t.dev = .running ∧ t.sch.ply = f.ply ∧ t.sch.attempt = s.sch.prevAttempt + 1 ∧
      t.sch.restartAt = some (f.t0 + 150 + s.diam * s.hop + s.rollbackAllow) ∧ t.sch.stretch = f.acc.stretch ∧
      t.sch.flood = none ∧ t.sch.gen0 = [] ∧ t.sch.gen1 = [] ∧ t.sch.sems = [] ∧
      t.sch.replays = satAdd s.sch.replays 1 ∧ t.sch.committed = s.sch.committed ∧
      ((∀ b, (s.blk b).failed = none ∧ (s.blk b).strikes = []) → ∀ (e : JEntry) (b g : Nat),
        (if s.sch.gen then s.sch.gen1 else s.sch.gen0) = [] → (if s.sch.gen then s.sch.gen0 else s.sch.gen1) = [e] →
        e.key = .granule b g → ∀ i, i < 1024 → Mem.get (t.blk b).ba (1024 * g + i) = Mem.get e.data i)) ∧
  (∀ (s : State) (f : Flood) (lost orphan : Bool), Executes s → VerdictDue s f → f.kind = .check → f.acc.clean = false →
      f.acc.replayable = false → Runs (.plyVerdict lost orphan) s fun t =>
      t.dev = .joined ∧ t.sch.live = false ∧ t.hif.pendUnrecoverable = true ∧ t.hif.heldCopies = [] ∧
      t.sch.committed = s.sch.committed ∧ t.sch.replays = satAdd s.sch.replays 1) ∧
  (∀ (s : State) (f : Flood) (lost orphan : Bool), Executes s → VerdictDue s f → f.kind = .check → f.acc.clean = false →
      f.acc.replayable = true → s.sch.persistent = none → 3 ≤ s.sch.prevAttempt →
      ((s.sch.prev.selfCulprit = true ∨ f.blamed = true) → Runs (.plyVerdict lost orphan) s fun t =>
        t.dev = .running ∧ t.err.phase = 1 ∧ t.err.cause = s.sch.drainCause.getD 1 ∧ t.sch.live = false) ∧
      (s.sch.prev.selfCulprit = false → f.blamed = false → (orphan = true ∨ s.members = 1) →
        Runs (.plyVerdict lost orphan) s fun t =>
        t.dev = .joined ∧ t.sch.live = false ∧ t.hif.pendUnrecoverable = true ∧ t.hif.heldCopies = []) ∧
      (s.sch.prev.selfCulprit = false → f.blamed = false → orphan = false → s.members ≠ 1 → s.nStandby = 0 →
        Runs (.plyVerdict lost orphan) s fun t => t.dev = .joined ∧ t.sch.live = false ∧ t.hif.heldCopies = []) ∧
      (s.sch.prev.selfCulprit = false → f.blamed = false → orphan = false → s.members ≠ 1 → 0 < s.nStandby →
        Runs (.plyVerdict lost orphan) s fun t =>
        t.dev = .running ∧ t.err.phase = 0 ∧ t.sch.attempt = 0 ∧ t.sch.ply = f.ply ∧
        t.sch.restartAt = some (f.t0 + 150 + s.diam * s.hop + s.rollbackAllow + s.takeoverAllow))) ∧
  (∀ (s : State) (x : Nat), Executes s → s.sch.restartAt = some x → x ≤ s.dom → Runs (.plyRestart true) s fun t =>
      t.sch.restartAt = none ∧ t.sch.start = x ∧ t.sch.len = s.plyLen + stretchBy s.sch.stretch s.plyLen ∧
      t.sch.ply = s.sch.ply ∧ t.sch.attempt = s.sch.attempt ∧ t.dev = .running ∧ t.sch.sems = [] ∧
      (∀ (b : Nat) (c : CodeEntry), b < 96 → (s.slotOf b).isSome = true → (s.blk b).halted = false →
        (s.region (b / 12)).promo = none → s.codeOf b = some c → StartsAt t b c)) ∧
  (∀ (s : State) (x : Nat), Executes s → s.sch.restartAt = some x → x ≤ s.dom → s.hif.heldCopies = [] →
      Runs (.plyRestart false) s fun t =>
      t.sch.restartAt = none ∧ NewRecord s t 3 3 0x29 2 ∧ t.sch.cur.selfCulprit = true ∧ t.sch.cur.clean = false ∧
      t.sch.persistent = some (s.sch.persistent.getD 6) ∧ ∀ b, b < 96 → (t.blk b).halted = true ∧
        ((s.slotOf b).isSome = true → (t.blk b).seq.st = .idle))

/-- Takeover (R340-R342): 200 ticks after the persistent verdict, or 400 as the second one asked, a standby that serves no place grants the lowest
requester and refuses the rest; once prepared it holds the place with zero registers and no dirty line; the takeover
flood says stop for a member without a grant, a standby that serves no place excepted, and for a standby that is not
prepared; its verdict stops the domain, or
lets the standby go on and the failed member relay. Endgame and promotion (R463, R465, R469): phases 1 to 4 follow one
another, phase 3 leaves no line dirty, and after phase 4 the replace record holds what fixed the endgame and the device
is DRAINED; a promoted block that is ready has its sequencer from the boundary record, and the failed slot is dark. -/
def Obligations.TakeoverAndEndgame : Prop :=
  (∀ (s : State) (V : Nat) (r : VFrame × Nat), s.dev = .running → s.err.phase = 0 → s.isStandby = true →
      s.standby.place = none → s.standby.granted = none → s.standby.verdictAt = some V →
      (∀ x ∈ s.standby.requests, V + s.grantDelay x.1.src.toNat ≤ s.dom) → r ∈ s.standby.requests → (∀ x ∈ s.standby.requests, r.1.src.toNat ≤ x.1.src.toNat) →
      Runs .takeoverGrant s fun t =>
      t.standby = { s.standby with requests := [], granted := some r.1.src.toNat } ∧
      t = { s with standby := t.standby, fab := t.fab }) ∧
  (∀ (s : State) (V : Nat), s.isStandby = true → (s.standby.place ≠ none ∨ s.standby.granted ≠ none) →
      s.standby.verdictAt = some V → V + 200 ≤ s.dom → s.standby.requests ≠ [] → Runs .takeoverGrant s fun t =>
      t.standby = { s.standby with requests := [] } ∧ t = { s with standby := t.standby, fab := t.fab }) ∧
  (∀ (s : State) (f : Nat), s.dev = .running → s.err.phase = 0 → s.standby.granted = some f →
      s.standby.verdictAt.isSome = true → s.standby.prepared = false → Runs .standbyPreparationComplete s fun t =>
      t.standby = { s.standby with place := some f, prepared := true } ∧
      (∀ b, b < 96 → (s.slotOf b).isSome = true → (t.blk b).seq.regs = [] ∧ (t.blk b).seq.recRegs = []) ∧
      (∀ L l, t.line L = some l → l.dirty = 0) ∧ t.dev = .running) ∧
  (∀ (s : State) (V : Nat), s.attends = true → s.standby.verdictAt = some V → V + 2500 ≤ s.dom →
      s.sch.flood = none → Runs .takeoverFlood s fun t =>
      (∃ f, t.sch.flood = some f ∧ f.kind = .takeover ∧ f.t0 = V + 2500 ∧ f.ply = s.sch.ply ∧
        (f.acc.stop = true ↔ s.standby.tracking = false ∧
          ((s.err.phase ≠ 0 ∧ s.standby.gotGrant = false ∧ ¬(s.isStandby = true ∧ s.standby.place = none)) ∨
           (s.standby.granted.isSome = true ∧ s.standby.prepared = false)))) ∧
      t = { s with sch := { s.sch with flood := t.sch.flood } }) ∧
  (∀ (s : State) (f : Flood) (V : Nat) (serving : List Nat), s.attends = true → s.standby.verdictAt = some V →
      VerdictDue s f → f.kind = .takeover →
      (f.acc.stop = true → Executes s → Runs (.takeoverVerdict serving) s fun t =>
        t.dev = .joined ∧ t.sch.live = false ∧ t.sch.flood = none ∧ t.standby.verdictAt = none ∧
        t.hif.heldCopies = [] ∧
        (s.standby.granted.isSome = true → s.standby.prepared = true → t.standby.place = none ∧
          ∀ b, b < 96 → (s.slotOf b).isSome = true → (t.blk b).seq.regs = (s.blk b).seq.recPrevRegs)) ∧
      (f.acc.stop = false → s.err.phase = 0 → ∀ x, s.standby.granted = some x →
        Runs (.takeoverVerdict serving) s fun t =>
        t.hif.eventSeq = s.hif.eventSeq + 1 ∧
        t = { s with sch := { s.sch with flood := none }, hif := t.hif
                     standby := { s.standby with granted := none, prepared := false, gone := t.standby.gone } } ∧
        ∀ d, d ∈ t.standby.gone ↔ d ∈ s.standby.gone ∨ d ∈ serving) ∧
      (f.acc.stop = false → s.err.phase ≠ 0 → s.standby.tracking = false → Runs (.takeoverVerdict serving) s fun t =>
        t.sch.live = t.standby.tracking ∧ t.standby.verdictAt = none ∧ t.dev = s.dev ∧ t.blocks = s.blocks ∧
        (t.standby.tracking = true ↔ s.standby.gotGrant = true ∨ (s.isStandby = true ∧ s.standby.place = none)) ∧
        (s.standby.gotGrant = true → 2 ≤ s.err.phase → t.standby.relaying = true))) ∧
  (∀ s : State, s.inDomain = true → s.err.phase = 1 → Runs .endgamePhaseComplete s fun t => t.err.phase = 2 ∧ t.dev = s.dev) ∧
  (∀ s : State, s.inDomain = true → s.err.phase = 2 → Runs .endgamePhaseComplete s fun t =>
      t = { s with err := { s.err with phase := 3 } }) ∧
  (∀ s : State, s.inDomain = true → s.err.phase = 3 → s.restorePending = false → Runs .endgamePhaseComplete s fun t =>
      t.err.phase = 4 ∧ (∀ L l, t.line L = some l → l.dirty = 0) ∧ t.dev = s.dev ∧ t.flash = s.flash) ∧
  (∀ s : State, s.inDomain = true → s.err.phase = 4 → s.backPending = true → Runs .endgamePhaseComplete s (· = s)) ∧
  (∀ s : State, s.inDomain = true → s.err.phase = 4 → s.backPending = false → Runs .endgamePhaseComplete s fun t =>
      t.dev = .drained ∧ t.err.phase = 5 ∧ t.hif.heldCopies = [] ∧ t.sch.stopLatch = none ∧
      t.flash.store = s.flash.store ∧ t.flash.floor = s.flash.floor ∧ t.flash.licences = s.flash.licences ∧
      (s.err.pendRec = none → t.flash = s.flash) ∧
      ∀ p, s.err.pendRec = some p →
        t.flash.replace.replace = 1 ∧ t.flash.replace.cause = p.cause ∧ t.flash.replace.ply = p.ply ∧
        t.flash.replace.errIndex = p.errIndex ∧ t.flash.replace.exclude = s.flash.replace.exclude ||| p.exclude ∧
        t.flash.replace.endgames = satAdd s.flash.replace.endgames 1 ∧
        t.flash.replace.seq = s.flash.replace.seq + 1) ∧
  (∀ (s : State) (r l old : Nat) (c : Bool), r < 8 → l < 12 → (s.region r).promo = some (l, old, c) →
      (∀ p, s.slotOf (12 * r + l) = some p → (s.slotPwr p.1 p.2).ramping = false) → Runs (.promotionReady r) s fun t =>
      (t.region r).promo = none ∧ (t.region r).heldEntries = [] ∧ (∀ q, q ≠ r → t.region q = s.region q) ∧
      (t.slotPwr r old).poweredOff = true ∧ (t.slotPwr r old).vset = 0 ∧
      (t.blk (12 * r + l)).seq.regs = (s.blk (12 * r + l)).seq.recRegs ∧
      (s.inPly = true → (s.blk (12 * r + l)).halted = false → ∀ e, s.codeOf (12 * r + l) = some e →
        (t.blk (12 * r + l)).seq.st = .run ∧ (t.blk (12 * r + l)).seq.pc = e.entry) ∧
      t.dev = s.dev)

/-! ### Sequencers -/

/-- Sequencer arithmetic (R88, R89, Tables 3.10, 3.11): each register and immediate operation and LUI writes its result
to rd, unless rd is s0, and goes on to the next word; nothing else changes. That SLTIU extends the sign of its immediate
is the model's reading (log entry 9). -/
def Obligations.SequencerArithmetic : Prop :=
  (∀ (s : State) (b : Nat) (f : AluFn) (rd ra rb : Nat), SeqAt s b (.alu f rd ra rb) → Runs (.seqAlu b) s fun t =>
      SeqDoes s t b ((s.blk b).seq.pc + 4) .run ∧ SetsReg s t b rd (aluSpec f (s.seqReg b ra) (s.seqReg b rb))) ∧
  (∀ (s : State) (b : Nat) (f : ImmOp) (i : Instr) (rd ra imm : Nat), SeqAt s b (.immOp f rd ra imm) →
      (f, i) ∈ [(ImmOp.addi, Instr.seqAddi b), (.andi, .seqAndi b), (.ori, .seqOri b), (.xori, .seqXori b),
        (.slli, .seqSlli b), (.srli, .seqSrli b), (.srai, .seqSrai b), (.slti, .seqSlti b), (.sltiu, .seqSltiu b)] →
      Runs i s fun t =>
      SeqDoes s t b ((s.blk b).seq.pc + 4) .run ∧ SetsReg s t b rd (immSpec f (s.seqReg b ra) imm)) ∧
  (∀ (s : State) (b rd imm : Nat), SeqAt s b (.lui rd imm) → Runs (.seqLui b) s fun t =>
      SeqDoes s t b ((s.blk b).seq.pc + 4) .run ∧ SetsReg s t b rd (BitVec.ofNat 32 (imm * 1024)))

/-- Sequencer control flow (R88, R89, R92, Tables 3.11, 3.13): a branch that holds goes off18 words from its own address, or
traps with cause 0x007 outside 0x0000-0xFFFF; JAL and JALR also leave the return address; TRAP, an illegal word and EOP;
a fetch that fails traps with 0x007, 0x005 or 0x004; a block that does not run executes nothing. -/
def Obligations.SequencerControlFlow : Prop :=
  (∀ (s : State) (b : Nat) (f : BrOp) (i : Instr) (ra rb off : Nat), SeqAt s b (.br f ra rb off) →
      (f, i) ∈ [(BrOp.beq, Instr.seqBeq b), (.bne, .seqBne b), (.blt, .seqBlt b), (.bge, .seqBge b),
        (.bltu, .seqBltu b), (.bgeu, .seqBgeu b)] →
      (¬ brSpec f (s.seqReg b ra) (s.seqReg b rb) → Runs i s fun t =>
        SeqDoes s t b ((s.blk b).seq.pc + 4) .run ∧ RegsSame s t b) ∧
      (brSpec f (s.seqReg b ra) (s.seqReg b rb) → ∀ n : Nat, ((s.blk b).seq.pc : Int) + 4 * imm18 off = n → n ≤ 0xFFFF →
        Runs i s fun t => SeqDoes s t b n .run ∧ RegsSame s t b) ∧
      (brSpec f (s.seqReg b ra) (s.seqReg b rb) →
        (((s.blk b).seq.pc : Int) + 4 * imm18 off < 0 ∨ 0xFFFF < ((s.blk b).seq.pc : Int) + 4 * imm18 off) →
        Runs i s fun t => SeqTraps s t b 7)) ∧
  (∀ (s : State) (b rd off : Nat), SeqAt s b (.jal rd off) →
      (∀ n : Nat, ((s.blk b).seq.pc : Int) + 4 * (if off < 2 ^ 21 then (off : Int) else off - 2 ^ 22) = n → off < 2 ^ 22 →
        n ≤ 0xFFFF → Runs (.seqJal b) s fun t =>
        SeqDoes s t b n .run ∧ SetsReg s t b rd (BitVec.ofNat 32 ((s.blk b).seq.pc + 4))) ∧
      (off < 2 ^ 22 → (((s.blk b).seq.pc : Int) + 4 * (if off < 2 ^ 21 then (off : Int) else off - 2 ^ 22) < 0 ∨
          0xFFFF < ((s.blk b).seq.pc : Int) + 4 * (if off < 2 ^ 21 then (off : Int) else off - 2 ^ 22)) →
        Runs (.seqJal b) s fun t => SeqTraps s t b 7)) ∧
  (∀ (s : State) (b rd ra imm : Nat), SeqAt s b (.jalr rd ra imm) →
      (seqAddr s b ra imm ≤ 0xFFFF → Runs (.seqJalr b) s fun t =>
        SeqDoes s t b (4 * (seqAddr s b ra imm / 4)) .run ∧
        SetsReg s t b rd (BitVec.ofNat 32 ((s.blk b).seq.pc + 4))) ∧
      (0xFFFF < seqAddr s b ra imm → Runs (.seqJalr b) s fun t => SeqTraps s t b 7)) ∧
  (∀ (s : State) (b imm : Nat), SeqAt s b (.trap imm) → Runs (.seqTrap b) s fun t =>
      SeqTraps s t b (0x100 + imm % 256)) ∧
  (∀ (s : State) (b : Nat), SeqAt s b .illegal → Runs (.seqIllegalInstruction b) s fun t => SeqTraps s t b 1) ∧
  (∀ (s : State) (b : Nat), SeqAt s b .eop → Runs (.seqEop b) s fun t =>
      SeqDoes s t b (s.blk b).seq.pc .eopHold ∧ RegsSame s t b) ∧
  (∀ (s : State) (b : Nat) (i : Instr), b < 96 → i ∈ seqRows b → s.blockLive b = true → (s.blk b).seq.st = .run →
      (0xFFFC < (s.blk b).seq.pc → Runs i s fun t => SeqTraps s t b 7) ∧
      (0xC000 ≤ (s.blk b).seq.pc → (s.blk b).seq.pc ≤ 0xFFFC → (s.blk b).seq.overlay = 0xFFFF →
        Runs i s fun t => SeqTraps s t b 5) ∧
      ((s.blk b).seq.pc ≤ 0xFFFC → ((s.blk b).seq.pc < 0xC000 ∨ (s.blk b).seq.overlay ≠ 0xFFFF) →
        SMap.get .good (s.blk b).seq.imemChk ((s.blk b).seq.pc / 4) = .bad →
        Runs i s fun t => SeqTraps s t b 4)) ∧
  (∀ (s : State) (b : Nat) (i : Instr), b < 96 → i ∈ seqRows b →
      (s.blockLive b = false ∨ (s.blk b).seq.st ≠ .run) → Runs i s fun t => t = s)

/-- LW and SW (R56, R92, R196, R199, Tables 3.11, 3.13, 7.10): a misaligned address traps with 0x002, one outside the
scratchpad with 0x003; LW reads a good word, or a corrected one; a dark word stops the sequencer with a UC record; SW
writes its word after its granule's first write in the ply was journalled. -/
def Obligations.SequencerMemory : Prop :=
  (∀ (s : State) (b rd ra imm : Nat) (i : Instr),
      (SeqAt s b (.lw rd ra imm) ∧ i = .seqLw b ∨ SeqAt s b (.sw rd ra imm) ∧ i = .seqSw b) →
      (seqAddr s b ra imm % 4 ≠ 0 → Runs i s fun t => SeqTraps s t b 2) ∧
      (seqAddr s b ra imm % 4 = 0 → s.scratchTop b ≤ seqAddr s b ra imm → Runs i s fun t => SeqTraps s t b 3)) ∧
  (∀ (s : State) (b rd ra imm a : Nat), SeqAt s b (.lw rd ra imm) → seqAddr s b ra imm = a → a % 4 = 0 →
      a < s.scratchTop b →
      ((s.blk b).wordSt (a / 4) = { written := true } → Runs (.seqLw b) s fun t =>
        SeqDoes s t b ((s.blk b).seq.pc + 4) .run ∧ SetsReg s t b rd (Mem.rd32 (s.blk b).ba a)) ∧
      ((s.blk b).wordSt (a / 4) = { written := true, chk := .single } → Runs (.seqLw b) s fun t =>
        (t.blk b).seq.pc = (s.blk b).seq.pc + 4 ∧ (t.blk b).seq.st = .run ∧
        SetsReg s t b rd (Mem.rd32 (s.blk b).ba a) ∧ (t.blk b).wordSt (a / 4) = { written := true } ∧
        (t.blk b).baCe = satAdd (s.blk b).baCe 1 ∧ (t.blk b).ba = (s.blk b).ba ∧ ∀ c, c ≠ b → t.blk c = s.blk c) ∧
      (((s.blk b).wordSt (a / 4)).chk ≠ .single → ((s.blk b).wordSt (a / 4)).dark = true → Runs (.seqLw b) s fun t =>
        (t.blk b).seq.st = .stopped ∧ (t.blk b).seq.pc = (s.blk b).seq.pc ∧ RegsSame s t b ∧
        NewRecord s t 3 1 0x01 0x200 ∧ ∀ c, c ≠ b → t.blk c = s.blk c)) ∧
  (∀ (s : State) (b rd ra imm a : Nat), SeqAt s b (.sw rd ra imm) → seqAddr s b ra imm = a → a % 4 = 0 →
      a < s.scratchTop b → Runs (.seqSw b) s fun t =>
      (t.blk b).seq.pc = (s.blk b).seq.pc + 4 ∧ (t.blk b).seq.st = .run ∧ RegsSame s t b ∧
      (∀ x, Mem.get (t.blk b).ba x = if a ≤ x ∧ x < a + 4
        then BitVec.ofNat 8 ((s.seqReg b rd).toNat / 2 ^ (8 * (x - a))) else Mem.get (s.blk b).ba x) ∧
      (t.blk b).wordSt (a / 4) = { written := true } ∧
      (∀ c, c ≠ b → t.blk c = s.blk c) ∧ t = { s with blocks := t.blocks, sch := t.sch, qos := t.qos } ∧
      ((∀ e ∈ s.genNow, e.key ≠ .granule b (a / 1024)) → s.genNow.length < s.journalCap →
        ∃ e, t.genNow = e :: s.genNow ∧ e.key = .granule b (a / 1024) ∧
          ∀ j, j < 1024 → Mem.get e.data j = Mem.get (s.blk b).ba (1024 * (a / 1024) + j)) ∧
      ((∃ e ∈ s.genNow, e.key = .granule b (a / 1024)) → t.genNow = s.genNow))

/-- Sequencer CSRs (R86, Table 3.9): CSRR gives the listed values, tick as ticks since the ply start and cycle as 13
cycles a tick; an unlisted number traps as illegal; CSRW writes bwclass with 0-7 and traps for anything else, and leaves
the CSR. ldev is the served member's number in a place that a standby has taken, role tells a standby; the class is
attached to every command that CISSUE issues, and is 0 at a ply start. -/
def Obligations.SequencerCsrs : Prop :=
  (∀ (s : State) (b rd n : Nat) (v : W32), SeqAt s b (.csrr rd n) →
      (n, v) ∈ [(0, s.sch.ply.setWidth 32), (1, (s.sch.ply >>> 32).setWidth 32), (2, BitVec.ofNat 32 s.sch.attempt),
        (3, BitVec.ofNat 32 b), (4, BitVec.ofNat 32 s.ldevSeen), (5, BitVec.ofNat 32 (s.dom - s.sch.start)),
        (7, (s.blk b).seq.trapCause), (8, BitVec.ofNat 32 (s.blk b).seq.bwclass),
        (9, BitVec.ofNat 32 (s.blk b).seq.overlay), (10, if s.isStandby then 1 else 0)] →
      Runs (.seqCsrr b) s fun t => SeqDoes s t b ((s.blk b).seq.pc + 4) .run ∧ SetsReg s t b rd v) ∧
  (∀ (s : State) (b rd : Nat), SeqAt s b (.csrr rd 6) → Runs (.seqCsrr b) s fun t =>
      ∃ c, c < 13 ∧ (s.sch.cycleAt = s.tick → s.sch.cycleSub < 13 → s.sch.cycleSub ≤ c) ∧
        SetsReg s t b rd (BitVec.ofNat 32 (13 * (s.dom - s.sch.start) + c)) ∧
        (t.blk b).seq.pc = (s.blk b).seq.pc + 4 ∧ (t.blk b).seq.st = .run) ∧
  (∀ (s : State) (b rd n : Nat), SeqAt s b (.csrr rd n) → 10 < n → Runs (.seqCsrr b) s fun t => SeqTraps s t b 1) ∧
  (∀ (s : State) (b ra : Nat), SeqAt s b (.csrw 8 ra) → (s.seqReg b ra).toNat < 8 → Runs (.seqCsrw b) s fun t =>
      (t.blk b).seq.bwclass = (s.seqReg b ra).toNat ∧ (t.blk b).seq.pc = (s.blk b).seq.pc + 4 ∧
      (t.blk b).seq.st = .run ∧ RegsSame s t b ∧ ∀ c, c ≠ b → t.blk c = s.blk c) ∧
  (∀ (s : State) (b n ra : Nat), SeqAt s b (.csrw n ra) → (n ≠ 8 ∨ 8 ≤ (s.seqReg b ra).toNat) →
      Runs (.seqCsrw b) s fun t => SeqTraps s t b 1 ∧ (t.blk b).seq.bwclass = (s.blk b).seq.bwclass) ∧
  (∀ s : State, s.ldevSeen = (match s.standby.place, s.image with | some n, _ => n | none, some im => im.ldev | none, none => 0) ∧
      s.isStandby = (match s.image with | some im => im.own.standby | none => false)) ∧
  (∀ (s : State) (b g ra rb : Nat), SeqAt s b (.cissue g ra rb) → s.targetHalted b g = false →
      (SMap.get [] (s.blk b).seq.queues g).length < 4 → Runs (.seqCissue b) s fun t =>
      ∃ w, SMap.get [] (t.blk b).seq.queues g = SMap.get [] (s.blk b).seq.queues g ++ [(w, (s.blk b).seq.bwclass)]) ∧
  (∀ (s : State) (a : Arming) (x b : Nat) (c : CodeEntry), s.dev = .joined → s.standby.tracking = false →
      s.sch.live = false → s.sch.firstStart = some x → x ≤ s.dom → s.sch.arming = some a → b < 96 →
      (s.slotOf b).isSome = true → (s.blk b).lost = false → (s.region (b / 12)).promo = none → s.codeOf b = some c →
      Runs .firstPlyStart s fun t => (t.blk b).seq.bwclass = 0) ∧
  (∀ (s : State) (b : Nat) (c : CodeEntry), Executes s → s.sch.restartAt = none → s.sch.flood = none →
      s.sch.start + s.sch.len ≤ s.dom → b < 96 → (s.slotOf b).isSome = true → (s.blk b).seq.st = .eop →
      (s.blk b).halted = false → (s.region (b / 12)).promo = none → s.codeOf b = some c →
      Runs .plyBoundary s fun t => (t.blk b).seq.bwclass = 0) ∧
  (∀ (s : State) (x b : Nat) (c : CodeEntry), Executes s → s.sch.restartAt = some x → x ≤ s.dom → b < 96 →
      (s.slotOf b).isSome = true → (s.blk b).halted = false → (s.region (b / 12)).promo = none → s.codeOf b = some c →
      Runs (.plyRestart true) s fun t => (t.blk b).seq.bwclass = 0)

/-- CISSUE, LAUNCH and LOADI (R83, R91, R93, R94, Tables 3.11, 3.13, 3.14): a command enters its target's queue of four
with the class in force, is dropped by a halted target, or stalls; a valid launch record makes its kernel resident with
its L1 range unwritten, an invalid one traps with 0x006, and while a kernel is resident LAUNCH stalls; LOADI puts its
segment in the overlay slot, or traps with 0x005. -/
def Obligations.SequencerCommands : Prop :=
  (∀ (s : State) (b g ra rb : Nat) (q : List (W64 × Nat)), SeqAt s b (.cissue g ra rb) →
      SMap.get [] (s.blk b).seq.queues g = q →
      (s.targetHalted b g = false → q.length < 4 → Runs (.seqCissue b) s fun t =>
        SMap.get [] (t.blk b).seq.queues g =
          q ++ [((s.seqReg b rb ++ s.seqReg b ra : BitVec 64), (s.blk b).seq.bwclass)] ∧
        SMap.get 0 (t.blk b).seq.issued g = SMap.get 0 (s.blk b).seq.issued g + 1 ∧
        (∀ k, k ≠ g → SMap.get [] (t.blk b).seq.queues k = SMap.get [] (s.blk b).seq.queues k) ∧
        (t.blk b).seq.pc = (s.blk b).seq.pc + 4 ∧ (t.blk b).seq.st = .run ∧ RegsSame s t b ∧
        ∀ c, c ≠ b → t.blk c = s.blk c) ∧
      (s.targetHalted b g = true → Runs (.seqCissue b) s fun t =>
        (t.blk b).seq.queues = (s.blk b).seq.queues ∧ (t.blk b).seq.pc = (s.blk b).seq.pc + 4 ∧
        (t.blk b).seq.st = .run ∧ ∀ c, c ≠ b → t.blk c = s.blk c) ∧
      (s.targetHalted b g = false → 4 ≤ q.length → Runs (.seqCissue b) s fun t =>
        SeqDoes s t b (s.blk b).seq.pc (.wait (.queue g)) ∧ RegsSame s t b)) ∧
  (∀ (s : State) (b ra a : Nat) (w : Nat → Nat), SeqAt s b (.launch ra) → (s.seqReg b ra).toNat = a →
      (w = fun i => Mem.rd (s.blk b).ba (a + 4 * i) 4) → (s.blk b).tg.kernel = none →
      (a % 32 = 0 → a + 32 ≤ 0x200000 → GoodWords (s.blk b) (a / 4) 8 →
        w 0 % 8 = 0 → w 0 < 0x8000000 → w 1 = 0 → w 2 % 4 = 0 → w 3 = 0 → w 5 / 2 ^ 10 % 16 ≤ 8 →
        w 2 < (8 - w 5 / 2 ^ 10 % 16) * 0x40000 → 0 < w 4 → w 4 ≤ 16777216 → 16 ≤ w 5 / 4 % 256 → w 5 < 2 ^ 17 →
        w 6 = 0 → w 7 = 0 → Runs (.seqLaunch b) s fun t =>
        (∃ k, (t.blk b).tg.kernel = some k ∧ k.entry = w 0 ∧ k.args = w 2 ∧ k.groups = w 4 ∧
          k.width = 8 * 2 ^ (w 5 % 4) ∧ k.regs = w 5 / 4 % 256 ∧ k.l1 = w 5 / 2 ^ 10 % 16 ∧ k.cls = w 5 / 2 ^ 14 ∧
          k.started = false ∧ k.next = 0 ∧ k.live = []) ∧
        (t.blk b).seq.pc = (s.blk b).seq.pc + 4 ∧ (t.blk b).seq.st = .run ∧ RegsSame s t b ∧
        (t.blk b).ba = (s.blk b).ba ∧
        (∀ x, (8 - w 5 / 2 ^ 10 % 16) * 0x10000 ≤ x → x < 0x80000 → ((t.blk b).wordSt x).written = false) ∧
        ∀ c, c ≠ b → t.blk c = s.blk c) ∧
      ((a % 32 ≠ 0 ∨ 0x200000 < a + 32) → Runs (.seqLaunch b) s fun t =>
        SeqTraps s t b 6 ∧ (t.blk b).tg.kernel = none) ∧
      (a % 32 = 0 → a + 32 ≤ 0x200000 → (∀ e ∈ (s.blk b).baSt, e.2.chk ≠ .single) →
        (∃ i, i < 8 ∧ ((s.blk b).wordSt (a / 4 + i)).dark = true) →
        Runs (.seqLaunch b) s fun t => SeqTraps s t b 6 ∧ (t.blk b).tg.kernel = none) ∧
      ((w 0 % 8 ≠ 0 ∨ 0x8000000 ≤ w 0 ∨ w 1 ≠ 0 ∨ w 2 % 4 ≠ 0 ∨ w 3 ≠ 0 ∨ (8 - w 5 / 2 ^ 10 % 16) * 0x40000 ≤ w 2 ∨
          8 < w 5 / 2 ^ 10 % 16 ∨ w 4 = 0 ∨ 16777216 < w 4 ∨ w 5 / 4 % 256 < 16 ∨ 2 ^ 17 ≤ w 5 ∨ w 6 ≠ 0 ∨ w 7 ≠ 0) →
          Runs (.seqLaunch b) s fun t => SeqTraps s t b 6 ∧ (t.blk b).tg.kernel = none)) ∧
  (∀ (s : State) (b ra : Nat), SeqAt s b (.launch ra) → (s.blk b).tg.kernel.isSome = true →
      Runs (.seqLaunch b) s fun t => SeqDoes s t b (s.blk b).seq.pc (.wait .kernel) ∧ RegsSame s t b) ∧
  (∀ (s : State) (b ra n : Nat) (c : CodeEntry), SeqAt s b (.loadi ra) → (s.seqReg b ra).toNat = n →
      s.codeOf b = some c →
      (n < c.ovlCount → (s.blk b).seq.pc < 0xC000 → Runs (.seqLoadi b) s fun t =>
        (t.blk b).seq.overlay = n ∧ (t.blk b).seq.pc = (s.blk b).seq.pc + 4 ∧ (t.blk b).seq.st = .run ∧
        RegsSame s t b ∧
        (∀ x, Mem.get (t.blk b).seq.imem x = if 0xC000 ≤ x ∧ x < 0x10000
          then Mem.get s.ccd.plyCode (s.blobBase + c.ovlOff + 0x4000 * n + (x - 0xC000))
          else Mem.get (s.blk b).seq.imem x) ∧
        ∀ d, d ≠ b → t.blk d = s.blk d) ∧
      ((c.ovlCount ≤ n ∨ 0xC000 ≤ (s.blk b).seq.pc) → Runs (.seqLoadi b) s fun t =>
        SeqTraps s t b 5 ∧ (t.blk b).seq.overlay = (s.blk b).seq.overlay))

/-- Waits and semaphores (R36, R90, R91, R117, R194, Table 3.11): WAITC, WAITK and WAITX go on when their condition
holds and wait otherwise; SEMPOST adds up to 0x0FFF_FFFF; SEMWAIT takes its count when it suffices and no waiter is
due; a grant serves waiters in block order; waits and stalls end when their condition holds; EOP becomes the end-of-ply
point when the block is idle. -/
def Obligations.SequencerWaits : Prop :=
  (∀ (s : State) (b m : Nat), SeqAt s b (.waitc m) → Runs (.seqWaitc b) s fun t =>
      RegsSame s t b ∧
      ((∀ u, u < 7 → m.testBit u = true → s.unitDone b u = true) → SeqDoes s t b ((s.blk b).seq.pc + 4) .run) ∧
      ((∃ u, u < 7 ∧ m.testBit u = true ∧ s.unitDone b u = false) →
        SeqDoes s t b (s.blk b).seq.pc (.wait (.units (BitVec.ofNat 8 m))))) ∧
  (∀ (s : State) (b ra imm : Nat), SeqAt s b (.waitk ra imm) → Runs (.seqWaitk b) s fun t =>
      RegsSame s t b ∧
      (if seqAddr s b ra imm ≤ s.dom - s.sch.start then SeqDoes s t b ((s.blk b).seq.pc + 4) .run
       else SeqDoes s t b (s.blk b).seq.pc (.wait (.tick (seqAddr s b ra imm))))) ∧
  (∀ (s : State) (b ra imm : Nat) (pl : Section), SeqAt s b (.waitx ra imm) → s.plan = some pl →
      (∀ x, pl.xfers[seqAddr s b ra imm]? = some x → x.expect = true → Runs (.seqWaitx b) s fun t =>
        RegsSame s t b ∧
        (if s.sch.ply.toNat % x.period ≠ x.phase ∨ x.frames ≤ (SMap.get [] s.fab.received (seqAddr s b ra imm)).length
         then SeqDoes s t b ((s.blk b).seq.pc + 4) .run
         else SeqDoes s t b (s.blk b).seq.pc (.wait (.xfer (seqAddr s b ra imm))))) ∧
      ((pl.xfers.length ≤ seqAddr s b ra imm ∨ ∃ x, pl.xfers[seqAddr s b ra imm]? = some x ∧ x.expect = false) →
        Runs (.seqWaitx b) s fun t => SeqTraps s t b 8)) ∧
  (∀ (s : State) (b n k : Nat), SeqAt s b (.sempost n k) → Runs (.seqSempost b) s fun t =>
      (∀ m, t.sem m = if m = n then min 0x0FFFFFFF (s.sem n + k) else s.sem m) ∧
      (t.blk b).seq.pc = (s.blk b).seq.pc + 4 ∧ (t.blk b).seq.st = .run ∧ RegsSame s t b ∧
      ∀ c, c ≠ b → t.blk c = s.blk c) ∧
  (∀ (s : State) (b n k : Nat), SeqAt s b (.semwait n k) →
      (k ≤ s.sem n → (∀ c m, c < 96 → s.semNeed c n = some m → s.sem n < m) → Runs (.seqSemwait b) s fun t =>
        (∀ m, t.sem m = if m = n then s.sem n - k else s.sem m) ∧
        (t.blk b).seq.pc = (s.blk b).seq.pc + 4 ∧ (t.blk b).seq.st = .run ∧ RegsSame s t b) ∧
      ((s.sem n < k ∨ ∃ c m, c < 96 ∧ s.semNeed c n = some m ∧ m ≤ s.sem n) → Runs (.seqSemwait b) s fun t =>
        SeqDoes s t b (s.blk b).seq.pc (.wait (.sem n k)) ∧ RegsSame s t b)) ∧
  (∀ (s : State) (n b k : Nat), n < 64 → b < 96 → s.semNeed b n = some k → k ≤ s.sem n →
      (∀ c, c < b → s.semNeed c n = none) → (∀ c m, c < 96 → b < c → s.semNeed c n = some m → s.sem n - k < m) →
      Runs (.semaphoreGrant n) s fun t =>
      (∀ m, t.sem m = if m = n then s.sem n - k else s.sem m) ∧
      t.blk b = { s.blk b with seq := { (s.blk b).seq with pc := (s.blk b).seq.pc + 4, st := .run } } ∧
      (∀ c, c ≠ b → t.blk c = s.blk c) ∧ t = { s with blocks := t.blocks, sch := t.sch }) ∧
  (∀ (s : State) (n : Nat), n < 64 → (∀ c k, c < 96 → s.semNeed c n = some k → s.sem n < k) →
      Runs (.semaphoreGrant n) s fun t => t = s) ∧
  (∀ (s : State) (b : Nat) (w : SeqWait), b < 96 → s.blockLive b = true → (s.blk b).seq.st = .wait w →
      (match w with
       | .units m => ∀ u, u < 7 → m.getLsbD u = true → s.unitDone b u = true
       | .tick x => x ≤ s.dom - s.sch.start
       | .xfer e => s.xferDone e = true
       | _ => False) → Runs (.seqWaitRelease b) s fun t =>
      t.blk b = { s.blk b with seq := { (s.blk b).seq with pc := (s.blk b).seq.pc + 4, st := .run } } ∧
      (∀ c, c ≠ b → t.blk c = s.blk c) ∧ t = { s with blocks := t.blocks }) ∧
  (∀ (s : State) (b g ra rb : Nat), b < 96 → s.blockLive b = true → (s.blk b).seq.st = .wait (.queue g) →
      seqDecode (s.blk b).seq.word = .cissue g ra rb → s.targetHalted b g = false →
      (SMap.get [] (s.blk b).seq.queues g).length < 4 → Runs (.seqStallRelease b) s fun t =>
      SMap.get [] (t.blk b).seq.queues g = SMap.get [] (s.blk b).seq.queues g ++
        [((s.seqReg b rb ++ s.seqReg b ra : BitVec 64), (s.blk b).seq.bwclass)] ∧
      (t.blk b).seq.pc = (s.blk b).seq.pc + 4 ∧ (t.blk b).seq.st = .run ∧ (∀ c, c ≠ b → t.blk c = s.blk c) ∧
      t = { s with blocks := t.blocks }) ∧
  (∀ (s : State) (b : Nat), b < 96 → s.blockLive b = true → (s.blk b).seq.st = .eopHold → Runs (.endOfPlyPoint b) s fun t =>
      (s.blockIdle b = true →
        t.blk b = { s.blk b with seq := { (s.blk b).seq with st := .eop } } ∧ (∀ c, c ≠ b → t.blk c = s.blk c) ∧
        t = { s with blocks := t.blocks }) ∧
      (s.blockIdle b = false → t = s))

/-- Decoding undoes encoding (R88, R89): every sequencer instruction whose fields fit has a 32-bit word that decodes to
it, and every word that decodes to a legal instruction is the word of that instruction. -/
def Obligations.SequencerWordsRoundTrip : Prop :=
  (∀ i : SeqIns, i.wf = true → i ≠ .illegal → seqEncode i < 2 ^ 32 ∧ seqDecode (seqEncode i) = i) ∧
  (∀ w : Nat, w < 2 ^ 32 → seqDecode w ≠ .illegal → (seqDecode w).wf = true ∧ seqEncode (seqDecode w) = w)

/-! ### Matrix cells -/

/-- Matrix-cell set-up commands (R105-R107, R109, R111, R112, R117, Tables 4.8 to 4.14): NOP, CFG, BASE, CASTLE and
CLRACC wait for the stream engine, have their effect and complete; a bad word, format, range or unlicensed mode stops
the cell with its code. Weight loads (R105, R107, R112, R132): LOADW reads its tile, from scratchpad
words that are good or from device memory that the cache die holds, and the shadow buffer holds it, with its checksum
columns, when the load completes; a castling that waited for it happens then. That a LOADW reads its whole operand when it
starts, and that the shadow shows what it held until the load completes, is the model's choice (log entries 40, 84). -/
def Obligations.MatrixSetupAndWeights : Prop :=
  (∀ (s : State) (b k : Nat) (w : W64) (cls : Nat), k < 2 → Queued s b k w cls → (s.mcAt b k).halted = false →
    (s.mcAt b k).engineFree = true →
    (w = 0 → Runs (.mcNop b k) s fun t =>
      Took s t b k 1 ∧ OnlyBlock s t b ∧ OnlyCell s t b k ∧ t.mcAt b k = s.mcAt b k) ∧
    ((wordField w 5 0 = 0 ∧ w ≠ 0 ∨ 7 ≤ wordField w 5 0) → Runs (.mcNop b k) s fun t => CellStops s t b k 1) ∧
    (wordField w 5 0 = 1 →
      (wordField w 63 33 = 0 → wordField w 12 9 ≤ 6 → wordField w 15 13 ≤ 3 → 8 ≤ wordField w 26 22 →
        wordField w 26 22 ≤ 24 → wordField w 31 27 ≤ 16 →
        (wordField w 8 6 = 0 ∨ s.sec.features.getLsbD 5 = true) → Runs (.mcCfg b k) s fun t =>
        Took s t b k 1 ∧ OnlyBlock s t b ∧ OnlyCell s t b k ∧
        t.mcAt b k = { s.mcAt b k with cfg := {
          mode := wordField w 8 6, ifmt := wordField w 12 9, ofmt := wordField w 15 13, stoch := w.getLsbD 16
          sat := w.getLsbD 17, kq := wordField w 19 18, nq := wordField w 21 20, tol := wordField w 26 22
          topk := wordField w 31 27, topkSmallest := w.getLsbD 32 } }) ∧
      (wordField w 63 33 ≠ 0 → Runs (.mcCfg b k) s fun t => CellStops s t b k 1) ∧
      (wordField w 63 33 = 0 → (6 < wordField w 12 9 ∨ 3 < wordField w 15 13 ∨ wordField w 26 22 < 8 ∨
          24 < wordField w 26 22 ∨ 16 < wordField w 31 27) → Runs (.mcCfg b k) s fun t => CellStops s t b k 5) ∧
      (wordField w 63 33 = 0 → wordField w 12 9 ≤ 6 → wordField w 15 13 ≤ 3 → 8 ≤ wordField w 26 22 →
        wordField w 26 22 ≤ 24 → wordField w 31 27 ≤ 16 → wordField w 8 6 ≠ 0 → s.sec.features.getLsbD 5 = false →
        Runs (.mcCfg b k) s fun t => CellStops s t b k 6)) ∧
    (wordField w 5 0 = 2 → wordField w 7 6 ≠ 2 ∨ (s.mcAt b k).loading = none →
      (wordField w 15 8 = 0 → wordField w 7 6 < 3 → Runs (.mcBase b k) s fun t =>
        Took s t b k 1 ∧ OnlyBlock s t b ∧ OnlyCell s t b k ∧
        t.mcAt b k =
          (if wordField w 7 6 = 0 then { s.mcAt b k with baseSrc := w.toNat / 2 ^ 16 * 1024 }
           else if wordField w 7 6 = 1 then { s.mcAt b k with baseDst := w.toNat / 2 ^ 16 * 1024 }
           else { s.mcAt b k with baseLoad := w.toNat / 2 ^ 16 * 1024 })) ∧
      (wordField w 15 8 ≠ 0 → Runs (.mcBase b k) s fun t => CellStops s t b k 1) ∧
      (wordField w 15 8 = 0 → wordField w 7 6 = 3 → Runs (.mcBase b k) s fun t => CellStops s t b k 5)) ∧
    (w = 4 → (s.mcAt b k).loading = none → Runs (.mcCastle b k) s fun t =>
      Took s t b k 1 ∧ OnlyBlock s t b ∧ OnlyCell s t b k ∧
      t.mcAt b k = { s.mcAt b k with
        active := (s.mcAt b k).shadow, shadow := (s.mcAt b k).active, shadowFull := false }) ∧
    (w = 4 → (s.mcAt b k).loading.isSome = true → Runs (.mcCastle b k) s fun t => t = s) ∧
    (wordField w 5 0 = 6 → (s.mcAt b k).addsDone = true →
      (wordField w 63 21 = 0 → 0 < wordField w 20 13 → wordField w 12 6 + wordField w 20 13 ≤ 128 →
        Runs (.mcClracc b k) s fun t =>
        Took s t b k 1 ∧ OnlyBlock s t b ∧ OnlyCell s t b k ∧
        (∀ e, SMap.get {} (t.mcAt b k).acc e =
          if wordField w 12 6 ≤ e ∧ e < wordField w 12 6 + wordField w 20 13 then ({} : AccEntry)
          else SMap.get {} (s.mcAt b k).acc e) ∧
        t.mcAt b k = { s.mcAt b k with acc := (t.mcAt b k).acc }) ∧
      (wordField w 63 21 = 0 → (wordField w 20 13 = 0 ∨ 128 < wordField w 12 6 + wordField w 20 13) →
        Runs (.mcClracc b k) s fun t => CellStops s t b k 5))) ∧
  (∀ (s : State) (b k a n : Nat) (w : W64) (cls : Nat), k < 2 → Queued s b k w cls → (s.mcAt b k).halted = false →
      wordField w 5 0 = 3 → (s.mcAt b k).loading = none → (s.mcAt b k).noCastlePending = true →
      wordField w 14 14 = 0 → wordField w 15 15 = 0 → wordField w 63 37 = 0 → wordField w 9 6 ≤ 6 →
      a = wordField w 36 16 * 64 →
      n = imageBytes (wordField w 9 6) (wordField w 11 10) (32 * (wordField w 13 12 + 1)) →
      a + n ≤ s.unitTop b → GoodWords (s.blk b) (a / 4) ((a + n + 3) / 4 - a / 4) → Runs (.mcLoadw b k) s fun t =>
      Took s t b k 0 ∧ OnlyBlock s t b ∧ OnlyCell s t b k ∧
      ∃ m, (∀ i, i < n → Mem.get m i = Mem.get (s.blk b).ba (a + i)) ∧
        t.mcAt b k = { s.mcAt b k with loading := some {
          buf := { loadBuf (wordField w 9 6) (wordField w 11 10) (wordField w 13 12) m with poisoned := false }
          space := false, addr := a, len := n } }) ∧
  (∀ (s : State) (b k a n : Nat) (w : W64) (cls : Nat), k < 2 → Queued s b k w cls → (s.mcAt b k).halted = false →
      wordField w 5 0 = 3 → (s.mcAt b k).loading = none → (s.mcAt b k).noCastlePending = true →
      wordField w 14 14 = 1 → wordField w 15 15 = 0 → wordField w 63 37 = 0 → wordField w 9 6 ≤ 6 →
      a = (s.mcAt b k).baseLoad + wordField w 36 16 * 64 →
      n = imageBytes (wordField w 9 6) (wordField w 11 10) (32 * (wordField w 13 12 + 1)) → a + n ≤ memBytes →
      s.unitWaits b cls true false a n = false → HeldRange s a n → (∀ e ∈ s.ccd.words, e.2.poison = false) →
      Runs (.mcLoadw b k) s fun t =>
      Took s t b k 0 ∧ OnlyCell s t b k ∧ MemorySame s t ∧ (∀ c, c ≠ b → t.blk c = s.blk c) ∧
      ∃ m, (∀ i, i < n → Mem.get m i = Mem.get s.ccd.mem (a + i)) ∧
        t.mcAt b k = { s.mcAt b k with loading := some {
          buf := { loadBuf (wordField w 9 6) (wordField w 11 10) (wordField w 13 12) m with poisoned := false }
          space := true, addr := a, len := n } }) ∧
  (∀ (s : State) (b k : Nat) (w : W64) (cls : Nat), k < 2 → Queued s b k w cls → (s.mcAt b k).halted = false →
      wordField w 5 0 = 3 → (s.mcAt b k).loading = none → (s.mcAt b k).noCastlePending = true → wordField w 14 14 = 0 →
      wordField w 15 15 = 0 → wordField w 63 37 = 0 →
      (6 < wordField w 9 6 → Runs (.mcLoadw b k) s fun t => CellStops s t b k 5) ∧
      (wordField w 9 6 ≤ 6 → s.unitTop b < wordField w 36 16 * 64 +
          imageBytes (wordField w 9 6) (wordField w 11 10) (32 * (wordField w 13 12 + 1)) →
        Runs (.mcLoadw b k) s fun t => CellStops s t b k 3)) ∧
  (∀ (s : State) (b k : Nat) (l : McLoad), b < 96 → k < 2 → s.blockLive b = true → (s.mcAt b k).loading = some l →
      Runs (.mcLoadwComplete b k) s fun t =>
      OnlyBlock s t b ∧ OnlyCell s t b k ∧ (t.blk b).seq.queues = (s.blk b).seq.queues ∧
      (∀ g, SMap.get 0 (t.blk b).seq.completed g = SMap.get 0 (s.blk b).seq.completed g + if g = k then 1 else 0) ∧
      (t.mcAt b k).loading = none ∧ (t.mcAt b k).acc = (s.mcAt b k).acc ∧
      ((s.mcAt b k).noCastlePending = true →
        (t.mcAt b k).shadow = l.buf ∧ (t.mcAt b k).shadowFull = true ∧ (t.mcAt b k).active = (s.mcAt b k).active ∧
        (t.mcAt b k).streams = (s.mcAt b k).streams) ∧
      ((s.mcAt b k).noCastlePending = false →
        (t.mcAt b k).active = l.buf ∧ (t.mcAt b k).shadow = (s.mcAt b k).active ∧ (t.mcAt b k).shadowFull = false ∧
        (t.mcAt b k).noCastlePending = true))

/-- Streams (R65, R95, R96, R99, R104, R108, R111, R117, R124, R130, R137, R142): STREAM counts its sequence number and starts
with its fields, castling first when asked and no load runs; a row of unscaled elements is read and its columns are the
exact sums of products rounded once; a result leaves for its destination, or is added to its accumulator entry, and a
failed checksum comparison is counted and, with action 0, makes the ply not clean; the last result handled, the stream
completes. Every row is issued and every result handled, whatever its mode, formats, accumulator use and spaces; what
they give depends on the ply, the logical cell, the stream and the data alone, not on slot, attempt or time. -/
def Obligations.MatrixStreams : Prop :=
  (∀ (s : State) (b k : Nat) (w : W64) (cls : Nat), k < 2 → Queued s b k w cls → (s.mcAt b k).halted = false →
      (s.mcAt b k).engineFree = true → (s.mcAt b k).noCastlePending = true → wordField w 5 0 = 5 →
      (StreamLegal s b (s.mcAt b k) w → Runs (.mcStream b k) s fun t =>
        Took s t b k 0 ∧ OnlyBlock s t b ∧ OnlyCell s t b k ∧
        (t.mcAt b k).seqNo = ((s.mcAt b k).seqNo + 1) % 65536 ∧
        (∃ x : McStream, (t.mcAt b k).streams = (s.mcAt b k).streams ++ [x] ∧ x.cfg = (s.mcAt b k).cfg ∧ x.acc = wordField w 8 7 ∧
          x.abase = wordField w 15 9 ∧ x.rows = wordField w 39 16 + 1 ∧ x.seq = (s.mcAt b k).seqNo ∧ x.cls = cls ∧
          x.next = 0 ∧ x.inFlight = [] ∧ x.sspace = w.getLsbD 40 ∧ x.dspace = w.getLsbD 41 ∧
          x.src = wordField w 52 42 * 1024 + (if w.getLsbD 40 then (s.mcAt b k).baseSrc else 0) ∧
          x.dst = wordField w 63 53 * 1024 + (if w.getLsbD 41 then (s.mcAt b k).baseDst else 0) ∧
          (x.castled = true ↔ w.getLsbD 6 = false ∨ (s.mcAt b k).loading = none)) ∧
        (if w.getLsbD 6 = true ∧ (s.mcAt b k).loading = none then
          (t.mcAt b k).active = (s.mcAt b k).shadow ∧ (t.mcAt b k).shadow = (s.mcAt b k).active ∧
          (t.mcAt b k).shadowFull = false
         else (t.mcAt b k).active = (s.mcAt b k).active ∧ (t.mcAt b k).shadow = (s.mcAt b k).shadow)) ∧
      (wordField w 8 7 = 3 → Runs (.mcStream b k) s fun t => CellStops s t b k 5) ∧
      (wordField w 8 7 < 3 → mcForbidden (s.mcAt b k).cfg (wordField w 8 7) = true →
        Runs (.mcStream b k) s fun t => CellStops s t b k 7) ∧
      (wordField w 8 7 ≠ 0 → wordField w 8 7 < 3 → mcForbidden (s.mcAt b k).cfg (wordField w 8 7) = false →
        128 ≤ wordField w 39 16 → Runs (.mcStream b k) s fun t => CellStops s t b k 4)) ∧
  (∀ (s : State) (b k a n d : Nat) (x : McStream), b < 96 → k < 2 → s.blockLive b = true →
      (s.mcAt b k).halted = false → (s.mcAt b k).streams.getLast? = some x → x.castled = true → x.next < x.rows →
      x.sspace = false → x.cfg.ifmt = 6 → pairOk x.cfg.mode 6 (s.mcAt b k).active.fmt = true → x.cfg.mode = 0 →
      d = (x.cfg.kq + 1) * 32 → n = 2 * d → a = x.src + x.next * n →
      GoodWords (s.blk b) (a / 4) ((a + n + 3) / 4 - a / 4) → Runs (.mcRowIssue b k) s fun t =>
      OnlyBlock s t b ∧ OnlyCell s t b k ∧
      ∃ r : McRow, (t.mcAt b k).streams = (s.mcAt b k).streams.dropLast ++
          [{ x with next := x.next + 1, inFlight := x.inFlight ++ [r] }] ∧
        r.i = x.next ∧ r.poisoned = (s.mcAt b k).active.poisoned ∧
        ∀ c, c < 128 → SMap.get 0 r.vals c = enc32 (sumFp ((List.range d).map fun j =>
          (bf16.dec (Mem.rd (s.blk b).ba (a + 2 * j) 2)).mul ((s.mcAt b k).active.val c j)))) ∧
  (∀ (s : State) (b k : Nat) (x : McStream), b < 96 → k < 2 → s.blockLive b = true → (s.mcAt b k).halted = false →
      (s.mcAt b k).streams.getLast? = some x → x.castled = true → x.next < x.rows →
      s.unitWaits b x.cls x.sspace false (x.rowAt x.next).1.1 (x.rowAt x.next).1.2 = false →
      s.unitWaits b x.cls x.sspace false (x.rowAt x.next).2.1 (x.rowAt x.next).2.2 = false →
      (x.next = 0 → pairOk x.cfg.mode x.cfg.ifmt (s.mcAt b k).active.fmt = true) → Runs (.mcRowIssue b k) s fun t =>
      let d := (s.serveAs x.cls b).mcReadRow b x x.next
      let v := mcRow x.cfg.mode ((x.cfg.kq + 1) * 32) d.2.1 (s.mcAt b k).active
      (t.mcAt b k).streams = (s.mcAt b k).streams.dropLast ++ [{ x with
        next := x.next + 1
        inFlight := x.inFlight ++ [{ i := x.next, vals := v.1, idx := v.2
                                     poisoned := d.2.2 || (s.mcAt b k).active.poisoned }] }] ∧
      (t.mcAt b k).acc = (s.mcAt b k).acc ∧ (t.mcAt b k).active = (s.mcAt b k).active ∧ (t.blk b).ba = (s.blk b).ba ∧
      ∀ c, c ≠ b → t.blk c = s.blk c) ∧
  (∀ (s u : State) (b k : Nat) (x : McStream), b < 96 → k < 2 → s.blockLive b = true → u.blockLive b = true →
      s.mcAt b k = u.mcAt b k → (s.blk b).ba = (u.blk b).ba → (s.blk b).baSt = (u.blk b).baSt →
      (s.mcAt b k).streams.getLast? = some x → x.sspace = false →
      Runs (.mcRowIssue b k) s fun t => Runs (.mcRowIssue b k) u fun t' => t.mcAt b k = t'.mcAt b k) ∧
  (∀ (s : State) (b k : Nat) (x : McStream), b < 96 → k < 2 → s.blockLive b = true → (s.mcAt b k).halted = false →
      (s.mcAt b k).streams.getLast? = some x → x.castled = true → x.next = 0 → 0 < x.rows →
      s.unitWaits b x.cls x.sspace false (x.rowAt 0).1.1 (x.rowAt 0).1.2 = false →
      s.unitWaits b x.cls x.sspace false (x.rowAt 0).2.1 (x.rowAt 0).2.2 = false →
      pairOk x.cfg.mode x.cfg.ifmt (s.mcAt b k).active.fmt = false → Runs (.mcRowIssue b k) s fun t =>
      CellStops s t b k 2 ∧ (t.mcAt b k).streams = (s.mcAt b k).streams.dropLast) ∧
  (∀ (s : State) (b k : Nat) (x : McStream) (rest : List McStream) (r : McRow) (more : List McRow), b < 96 → k < 2 →
      s.blockLive b = true → (s.mcAt b k).streams = x :: rest → x.inFlight = r :: more → x.cfg.topk = 0 →
      (x.acc = 0 → x.dspace = false → x.cfg.ofmt = 0 → x.cfg.mode < 6 → Runs (.mcRowResult b k []) s fun t =>
        (∃ y : McStream, (t.mcAt b k).streams = y :: rest ∧ y = { x with inFlight := more }) ∧
        (∀ c, c < (x.cfg.nq + 1) * 32 →
          Mem.rd (t.blk b).ba (x.dst + r.i * ((x.cfg.nq + 1) * 128) + 4 * c) 4 = (SMap.get 0 r.vals c).toNat) ∧
        ∀ i, (i < x.dst + r.i * ((x.cfg.nq + 1) * 128) ∨ x.dst + (r.i + 1) * ((x.cfg.nq + 1) * 128) ≤ i) →
          Mem.get (t.blk b).ba i = Mem.get (s.blk b).ba i) ∧
      (x.acc = 1 → Runs (.mcRowResult b k []) s fun t =>
        (∃ y : McStream, (t.mcAt b k).streams = y :: rest ∧ y = { x with inFlight := more }) ∧
        (t.blk b).ba = (s.blk b).ba ∧ MemorySame s t ∧
        (∀ c, c < 128 → SMap.get 0 (SMap.get {} (t.mcAt b k).acc ((x.abase + r.i) % 128)).vals c =
          mcCombine x.cfg.mode (SMap.get {} (s.mcAt b k).acc ((x.abase + r.i) % 128)).fresh
            (SMap.get 0 (SMap.get {} (s.mcAt b k).acc ((x.abase + r.i) % 128)).vals c) (SMap.get 0 r.vals c)) ∧
        ∀ e, e ≠ (x.abase + r.i) % 128 → SMap.get {} (t.mcAt b k).acc e = SMap.get {} (s.mcAt b k).acc e) ∧
      (∀ col, x.acc = 1 → x.cfg.mode = 0 → r.poisoned = false → mcCheck x.cfg.tol r.vals = .fail col →
        Runs (.mcRowResult b k []) s fun t =>
        (t.mcAt b k).fails = satAdd (s.mcAt b k).fails 1 ∧ (t.mcAt b k).lastCol = col ∧
        (t.mcAt b k).lastReadout = false ∧
        ((s.region (b / 12)).ckAction = false → t.sch.cur.clean = false ∧ t.sch.cur.selfCulprit = true) ∧
        ((s.region (b / 12)).ckAction = true → t.sch.cur = s.sch.cur))) ∧
  (∀ (s : State) (b k j : Nat) (up : SMap W32) (x : McStream) (r : McRow) (more : List McRow), RowDue s b k j x r more →
      let v := upsetVals up r.vals
      let n := outRowBytes x.cfg
      let A := x.dst + r.i * n
      let e := (x.abase + r.i) % 128
      let o := rowOut (s.mcAt b k) x r v
      let img := mcRowImage x.cfg (srhash s.sch.ply.toNat (2 * b + k) x.seq r.i) o.1 o.2.1
      (0 < x.cfg.topk → Runs (.mcRowResult b k up) s fun t =>
        (∃ y : McStream, (t.mcAt b k).streams = (s.mcAt b k).streams.set j y ∧
          y = { x with inFlight := more, lists := y.lists, anyPoison := x.anyPoison || r.poisoned } ∧
          ∀ c, c < (x.cfg.nq + 1) * 32 → SMap.get [] y.lists c =
            topkOffer x.cfg.topk x.cfg.topkSmallest (SMap.get 0 v c) r.i (SMap.get [] x.lists c)) ∧
        (t.mcAt b k).acc = (s.mcAt b k).acc ∧ (t.blk b).ba = (s.blk b).ba ∧ MemorySame s t) ∧
      (x.cfg.topk = 0 → x.acc = 1 → Runs (.mcRowResult b k up) s fun t =>
        (t.mcAt b k).streams = (s.mcAt b k).streams.set j { x with inFlight := more } ∧
        (∀ i, SMap.get {} (t.mcAt b k).acc i = if i = e then
            (SMap.get {} (s.mcAt b k).acc e).combine x.cfg.mode v r.poisoned else SMap.get {} (s.mcAt b k).acc i) ∧
        (t.blk b).ba = (s.blk b).ba ∧ MemorySame s t) ∧
      (x.cfg.topk = 0 → x.acc ≠ 1 → x.dspace = false → Runs (.mcRowResult b k up) s fun t =>
        (t.mcAt b k).streams = (s.mcAt b k).streams.set j { x with inFlight := more } ∧
        (∀ i, SMap.get {} (t.mcAt b k).acc i =
          if x.acc ≠ 0 ∧ i = e then {} else SMap.get {} (s.mcAt b k).acc i) ∧
        ArrayAt s t b A n (fun i => Mem.get img i) ∧ MemorySame s t ∧ ∀ c, c ≠ b → t.blk c = s.blk c) ∧
      (x.cfg.topk = 0 → x.acc ≠ 1 → x.dspace = true → x.dst % 1024 = 0 → s.unitWaits b x.cls true true A n = false →
        HeldRange s A n → Runs (.mcRowResult b k up) s fun t =>
        (t.mcAt b k).streams = (s.mcAt b k).streams.set j { x with inFlight := more } ∧
        (∀ i, SMap.get {} (t.mcAt b k).acc i =
          if x.acc ≠ 0 ∧ i = e then {} else SMap.get {} (s.mcAt b k).acc i) ∧
        StoredAt s t A n (fun i => Mem.get img i) ∧ (t.blk b).ba = (s.blk b).ba ∧ ∀ c, c ≠ b → t.blk c = s.blk c)) ∧
  (∀ (s u : State) (b k j : Nat) (up : SMap W32) (x : McStream) (r : McRow) (more : List McRow),
      RowDue s b k j x r more → u.blockLive b = true → s.mcAt b k = u.mcAt b k → s.sch.ply = u.sch.ply →
      (s.blk b).ba = (u.blk b).ba → x.dspace = false →
      Runs (.mcRowResult b k up) s fun t => Runs (.mcRowResult b k up) u fun t' =>
        (∀ a, Mem.get (t.blk b).ba a = Mem.get (t'.blk b).ba a) ∧ (t.mcAt b k).acc = (t'.mcAt b k).acc ∧
        (t.mcAt b k).streams = (t'.mcAt b k).streams) ∧
  (∀ (s : State) (b k : Nat) (x : McStream) (rest : List McStream), b < 96 → k < 2 → s.blockLive b = true →
      (s.mcAt b k).streams = x :: rest → x.rows ≤ x.next → x.inFlight = [] → 0 < x.cfg.topk → x.dspace = true →
      x.dst % 1024 = 0 → s.unitWaits b x.cls true true x.dst x.dstLen = false → HeldRange s x.dst x.dstLen →
      Runs (.mcStreamComplete b k) s fun t =>
      (t.mcAt b k).streams = rest ∧ StoredAt s t x.dst x.dstLen (fun i => Mem.get (topkImage x.cfg x.lists) i) ∧
      (t.blk b).ba = (s.blk b).ba ∧
      (∀ g, SMap.get 0 (t.blk b).seq.completed g = SMap.get 0 (s.blk b).seq.completed g + if g = k then 1 else 0) ∧
      ∀ c, c ≠ b → t.blk c = s.blk c) ∧
  (∀ (s : State) (b k : Nat) (x : McStream) (rest : List McStream), b < 96 → k < 2 → s.blockLive b = true →
      (s.mcAt b k).streams = x :: rest → x.rows ≤ x.next → x.inFlight = [] →
      (x.cfg.topk = 0 → Runs (.mcStreamComplete b k) s fun t =>
        OnlyBlock s t b ∧ OnlyCell s t b k ∧ t.mcAt b k = { s.mcAt b k with streams := rest } ∧
        ∀ g, SMap.get 0 (t.blk b).seq.completed g = SMap.get 0 (s.blk b).seq.completed g + if g = k then 1 else 0) ∧
      (0 < x.cfg.topk → x.dspace = false → Runs (.mcStreamComplete b k) s fun t =>
        (t.mcAt b k).streams = rest ∧ ArrayAt s t b x.dst x.dstLen (fun i => Mem.get (topkImage x.cfg x.lists) i) ∧
        (∀ g, SMap.get 0 (t.blk b).seq.completed g = SMap.get 0 (s.blk b).seq.completed g + if g = k then 1 else 0) ∧
        ∀ c i v, c < (x.cfg.nq + 1) * 32 → i < x.cfg.topk → (SMap.get [] x.lists c)[i]? = some v →
          Mem.rd (t.blk b).ba (x.dst + (c * x.cfg.topk + i) * 8) 4 = v.1.toNat ∧
          Mem.rd (t.blk b).ba (x.dst + (c * x.cfg.topk + i) * 8 + 4) 4 = v.2 % 2 ^ 32))

/-! ### DMA channels -/

/-- DMA commands (R191-R195, Tables 7.3 to 7.10): a command of a free channel starts, has its effect, and completes;
COPY moves its bytes between a device range whose lines are held and good scratchpad words, FILL and BASE set what they
name, RANGE acts at the block's L1 and, with level 1, at the cache die, where a prefetch brings in an absent line and a flush and
a clean-invalidate write the dirty sectors to HBM; a bad word or range halts the channel. That a command acts in one step,
when it starts, is the model's choice (log entry 43), and so is how it waits for lines and grants (log entry 44), and that a
halt names the first failing word (log entry 40). -/
def Obligations.DmaCommands : Prop :=
  (∀ (s : State) (b c : Nat) (w : W64) (cls : Nat), ChannelReady s b c w cls →
      (w = 0 → Runs (.dmaNop b c) s fun t => Took s t b (c + 2) 0 ∧ OnlyBlock s t b ∧ ChannelRuns s t b c w) ∧
      (wordField w 5 0 ∉ [0x02, 0x08, 0x09, 0x0A] → w ≠ 0 → Runs (.dmaNop b c) s fun t => ChannelStops s t b c 1) ∧
      (wordField w 5 0 = 0x02 → wordField w 15 8 = 0 → wordField w 7 6 < 2 → Runs (.dmaBase b c) s fun t =>
        Took s t b (c + 2) 0 ∧ OnlyBlock s t b ∧ (∀ d, d ≠ c → t.dmaAt b d = s.dmaAt b d) ∧
        t.dmaAt b c = (if wordField w 7 6 = 0
          then { s.dmaAt b c with busy := some w, baseSrc := w.toNat / 2 ^ 16 * 1024 }
          else { s.dmaAt b c with busy := some w, baseDst := w.toNat / 2 ^ 16 * 1024 })) ∧
      (wordField w 5 0 = 0x02 → wordField w 15 8 = 0 → 2 ≤ wordField w 7 6 → Runs (.dmaBase b c) s fun t =>
        ChannelStops s t b c 2)) ∧
  (∀ (s : State) (b c n so dn : Nat) (w : W64) (cls : Nat), ChannelReady s b c w cls → wordField w 5 0 = 0x08 →
      n = (wordField w 63 46 + 1) * 64 → so = wordField w 22 8 * 64 → dn = wordField w 45 23 * 64 →
      (wordField w 7 6 = 0 → (s.dmaAt b c).baseSrc + dn + n ≤ memBytes → so + n ≤ s.unitTop b →
        s.dmaWaits b c w = false → HeldRange s ((s.dmaAt b c).baseSrc + dn) n →
        (∀ e ∈ s.ccd.words, e.2.poison = false) → Runs (.dmaCopy b c) s fun t =>
        ArrayAt s t b so n (fun i => Mem.get s.ccd.mem ((s.dmaAt b c).baseSrc + dn + i)) ∧ ChannelRuns s t b c w ∧
        MemorySame s t ∧ ∀ d, d ≠ b → t.blk d = s.blk d) ∧
      (wordField w 7 6 = 1 → (s.dmaAt b c).baseDst + dn + n ≤ memBytes → so + n ≤ s.unitTop b →
        s.dmaWaits b c w = false → HeldRange s ((s.dmaAt b c).baseDst + dn) n →
        GoodWords (s.blk b) (so / 4) (n / 4) → Runs (.dmaCopy b c) s fun t =>
        StoredAt s t ((s.dmaAt b c).baseDst + dn) n (fun i => Mem.get (s.blk b).ba (so + i)) ∧
        ChannelRuns s t b c w ∧ (t.blk b).ba = (s.blk b).ba ∧ ∀ d, d ≠ b → t.blk d = s.blk d) ∧
      (wordField w 7 6 = 2 → so + n ≤ s.unitTop b → dn + n ≤ s.unitTop b → GoodWords (s.blk b) (so / 4) (n / 4) →
        Runs (.dmaCopy b c) s fun t =>
        ArrayAt s t b dn n (fun i => Mem.get (s.blk b).ba (so + i)) ∧ ChannelRuns s t b c w ∧
        t = { s with blocks := t.blocks, sch := t.sch, qos := t.qos } ∧ ∀ d, d ≠ b → t.blk d = s.blk d) ∧
      (wordField w 7 6 = 2 → (s.unitTop b < so + n ∨ s.unitTop b < dn + n) → Runs (.dmaCopy b c) s fun t =>
        ChannelStops s t b c 3) ∧
      (wordField w 7 6 = 3 → Runs (.dmaCopy b c) s fun t => ChannelStops s t b c 2)) ∧
  (∀ (s : State) (b c : Nat) (w : W64) (cls : Nat), ChannelReady s b c w cls → wordField w 5 0 = 0x09 →
      wordField w 7 6 = 0 → wordField w 63 62 = 0 →
      wordField w 50 40 * 1024 + (wordField w 61 51 + 1) * 1024 ≤ s.unitTop b → Runs (.dmaFill b c) s fun t =>
      ArrayAt s t b (wordField w 50 40 * 1024) ((wordField w 61 51 + 1) * 1024)
        (fun i => BitVec.ofNat 8 (wordField w 39 8 / 2 ^ (8 * (i % 4)))) ∧ ChannelRuns s t b c w ∧
      t = { s with blocks := t.blocks, sch := t.sch, qos := t.qos } ∧ ∀ d, d ≠ b → t.blk d = s.blk d) ∧
  (∀ (s : State) (b c A n : Nat) (w : W64) (cls : Nat), ChannelReady s b c w cls → wordField w 5 0 = 0x0A →
      wordField w 63 54 = 0 → A = (s.dmaAt b c).baseDst + wordField w 31 10 * 1024 →
      n = (wordField w 53 32 + 1) * 1024 → A % 1024 = 0 → A + n ≤ memBytes → s.dmaWaits b c w = false →
      (wordField w 9 6 = 0 → n = 1024 → 0 < s.l1Units b → HeldRange s A n → Runs (.dmaRangePrefetch b c) s fun t =>
        (∀ i, i < 4 → ∃ l ∈ (t.blk b).tg.l1, l.sector = A / 256 + i ∧
          match s.l1Line b (A / 256 + i) with
          | some x => l.data = x.data ∧ l.words = x.words
          | none => ∀ j, j < 256 → Mem.get l.data j = Mem.get s.ccd.mem (A + 256 * i + j)) ∧
        ChannelRuns s t b c w ∧ MemorySame s t) ∧
      (wordField w 9 6 = 9 → Runs (.dmaRangeFlush b c) s fun t =>
        (∀ L l, A / 1024 ≤ L → L * 1024 < A + n → t.line L = some l → l.dirty = 0) ∧ ChannelRuns s t b c w) ∧
      (∀ L, A = L * 1024 → n = 1024 → wordField w 9 6 = 8 → Absent s L → Runs (.dmaRangePrefetch b c) s fun t =>
        Fetched s t L ∧ ChannelRuns s t b c w) ∧
      (∀ (L i r : Nat) (l : Line) (row : Instr), A = L * 1024 → n = 1024 → s.line L = some l →
        (r, row) ∈ [(9, Instr.dmaRangeFlush b c), (11, .dmaRangeCleanInvalidate b c)] → wordField w 9 6 = r →
        (s.chan (place L).stk (place L).ch).state ≠ 2 → (s.serveAs cls b).placeFree (place L) true = true →
        (s.chan (place L).stk (place L).ch).crcDue = 0 → i < 1024 → l.dirty.getLsbD (i / 256) = true →
        Runs row s fun t => Mem.get t.hbm ((place L).store * 1024 + i) = Mem.get s.ccd.mem (L * 1024 + i)) ∧
      (wordField w 9 6 = 1 → Runs (.dmaRangeFlush b c) s fun t =>
        Took s t b (c + 2) 0 ∧ OnlyBlock s t b ∧ ChannelRuns s t b c w ∧ (t.blk b).tg = (s.blk b).tg) ∧
      ((wordField w 9 6 = 2 ∨ wordField w 9 6 = 10) → Runs (.dmaRangeInvalidate b c) s fun t =>
        (∀ l ∈ (t.blk b).tg.l1, l ∈ (s.blk b).tg.l1 ∧ ¬ (A / 256 ≤ l.sector ∧ 256 * l.sector < A + n)) ∧
        (wordField w 9 6 = 10 → ∀ L, A / 1024 ≤ L → L * 1024 < A + n → t.line L = none) ∧ ChannelRuns s t b c w) ∧
      ((wordField w 9 6 = 3 ∨ wordField w 9 6 = 11) → Runs (.dmaRangeCleanInvalidate b c) s fun t =>
        (∀ l ∈ (t.blk b).tg.l1, l ∈ (s.blk b).tg.l1 ∧ ¬ (A / 256 ≤ l.sector ∧ 256 * l.sector < A + n)) ∧
        (wordField w 9 6 = 11 → ∀ L, A / 1024 ≤ L → L * 1024 < A + n → t.line L = none) ∧ ChannelRuns s t b c w) ∧
      (wordField w 9 6 = 12 → Runs (.dmaRangeDead b c) s fun t =>
        (∀ L, A / 1024 ≤ L → L * 1024 < A + n → t.line L = none) ∧
        (n = 1024 → A / 1024 ∈ SMap.get [] (t.slice (lineSlice (A / 1024))).dead (lineSet (A / 1024))) ∧
        ChannelRuns s t b c w) ∧
      ((wordField w 8 6 = 4 ∧ wordField w 9 9 = 0 ∨ 5 ≤ wordField w 8 6) → Runs (.dmaRangeDead b c) s fun t =>
        ChannelStops s t b c 2)) ∧
  (∀ (s : State) (b c : Nat) (w : W64), b < 96 → c < 4 → s.blockLive b = true → (s.dmaAt b c).busy = some w →
      Runs (.dmaCommandComplete b c) s fun t =>
      t.dmaAt b c = { s.dmaAt b c with busy := none, done := (s.dmaAt b c).done + 1 } ∧
      (∀ g, SMap.get 0 (t.blk b).seq.completed g = SMap.get 0 (s.blk b).seq.completed g + if g = c + 2 then 1 else 0) ∧
      t.blk b = { s.blk b with seq := (t.blk b).seq, dma := (t.blk b).dma } ∧
      (∀ d, d ≠ c → t.dmaAt b d = s.dmaAt b d) ∧ OnlyBlock s t b)

/-! ### Thread groups -/

/-- Thread-group register instructions (R148-R155, R161, Table 6.4): where group g issues one, each acting thread's rd
takes the value of its operands, poisoned when a source is, every thread at the counter goes on, and nothing else
changes; NOP, CONV and PICK likewise. A corrected error of a source is fixed in place and counted (R150). The model's
reading: the sign of a zero sum or product (log entries 24, 94), CONV to FP16 (log entry 26), and that a corrected
register posts no record (log entry 78). -/
def Obligations.ThreadRegisterInstructions : Prop :=
  (∀ (s : State) (b g pc w i : Nat) (grp : Group), TgIssues s b g grp pc w → tgOp w = 0x0F →
    (∀ j ∈ grp.atPc pc, (s.thread b g j).flagPsn (tgGf w) = false) → acting s b g grp pc w = [i] →
    (s.thread b g i).pend = [] → ((s.thread b g i).reg (tgRa w)).chk = .single → tgRd w ≠ tgRa w →
    Runs (.tgMovr b g) s fun t =>
      (t.thread b g i).reg (tgRa w) = { (s.thread b g i).reg (tgRa w) with chk := .good } ∧
      (t.thread b g i).reg (tgRd w) =
        { val := (s.thread b g i).val (tgRa w), poison := ((s.thread b g i).reg (tgRa w)).poison } ∧
      t.err.ce = satAdd s.err.ce 1 ∧ ∀ d, d ≠ b → t.blk d = s.blk d) ∧
  ∀ (s : State) (b g pc w : Nat) (grp : Group), TgIssues s b g grp pc w → TgClear s b g grp pc w →
    (∀ (op base : Nat) (i : Instr), (op, base, i) ∈ tgValueRows b g → tgOp w = op → Runs i s fun t =>
      OnlyGroup s t b g ∧ Advances s t b g grp pc w fun _ th =>
        th.setReg (tgRd w) (tgSpec base (tgFunc w) (th.val (tgRa w)) (tgSecond w th) (th.val (tgRc w))) (th.srcPsn w)) ∧
    (tgOp w = 0x00 → Runs (.tgNop b g) s fun t => OnlyGroup s t b g ∧ Advances s t b g grp pc w fun _ th => th) ∧
    (tgOp w = 0x38 → Runs (.tgConv b g) s fun t =>
      OnlyGroup s t b g ∧ Advances s t b g grp pc w fun _ th =>
        th.setReg (tgRd w) (convValue (tgFunc w) (th.val (tgRa w))) ((th.reg (tgRa w)).poison)) ∧
    (tgOp w = 0x0E → Runs (.tgPick b g) s fun t =>
      OnlyGroup s t b g ∧ Advances s t b g grp pc w fun _ th =>
        th.setReg (tgRd w) (if th.flag (tgFunc w) then th.val (tgRa w) else th.val (tgRb w))
          ((th.reg (tgRa w)).poison || (th.reg (tgRb w)).poison || th.flagPsn (tgFunc w)))

/-- Flags and lanes (R149, R153, R161, Table 6.4): CMPI, CMPF and FLAGOP write a flag, and flag 0 stays false; XLANE
reads another acting thread's register, or the thread's own; CENSUS and LANERED combine the acting threads; SYSR reads
what it names. -/
def Obligations.ThreadFlagAndLaneInstructions : Prop :=
  ∀ (s : State) (b g pc w : Nat) (grp : Group), TgIssues s b g grp pc w → TgClear s b g grp pc w →
    (tgOp w = 0x40 → Runs (.tgCmpi b g) s fun t =>
      OnlyGroup s t b g ∧ Advances s t b g grp pc w fun _ th =>
        th.setFlag (tgFd w)
          (if 8 ≤ tgFunc w then relSpec (tgFunc w % 8) (th.val (tgRa w)).toNat (th.val (tgRb w)).toNat
           else relSpec (tgFunc w) (th.val (tgRa w)).toInt (th.val (tgRb w)).toInt)
          ((th.reg (tgRa w)).poison || (th.reg (tgRb w)).poison)) ∧
    (tgOp w = 0x41 → Runs (.tgCmpf b g) s fun t =>
      OnlyGroup s t b g ∧ Advances s t b g grp pc w fun _ th =>
        th.setFlag (tgFd w) (cmpFp (tgFunc w) (th.val (tgRa w)) (th.val (tgRb w)))
          ((th.reg (tgRa w)).poison || (th.reg (tgRb w)).poison)) ∧
    (tgOp w = 0x42 → Runs (.tgFlagop b g) s fun t =>
      OnlyGroup s t b g ∧ Advances s t b g grp pc w fun _ th =>
        th.setFlag (tgFd w)
          (match tgFunc w with
           | 0 => th.flag (tgRa w % 8) && th.flag (tgRb w % 8)
           | 1 => th.flag (tgRa w % 8) || th.flag (tgRb w % 8)
           | 2 => th.flag (tgRa w % 8) != th.flag (tgRb w % 8)
           | _ => th.flag (tgRa w % 8) && !th.flag (tgRb w % 8))
          (th.flagPsn (tgRa w % 8) || th.flagPsn (tgRb w % 8))) ∧
    (∀ i, (s.thread b g i).flag 0 = false) ∧
    (tgOp w = 0x48 → (∀ i ∈ acting s b g grp pc w, ((s.thread b g i).reg (tgRb w)).poison = false) →
      Runs (.tgXlane b g) s fun t =>
      OnlyGroup s t b g ∧ Advances s t b g grp pc w fun i th =>
        let y := (th.val (tgRb w)).toNat
        let j := match tgFunc w with
          | 0 => y
          | 1 => (i % 2 ^ 32 + 2 ^ 32 - y) % 2 ^ 32
          | 2 => (i + y) % 2 ^ 32
          | _ => (i % 2 ^ 32) ^^^ y
        let r := (s.thread b g (if j ∈ acting s b g grp pc w then j else i)).reg (tgRa w)
        th.setReg (tgRd w) r.val r.poison) ∧
    (tgOp w = 0x49 → Runs (.tgCensus b g) s fun t =>
      OnlyGroup s t b g ∧ Advances s t b g grp pc w fun _ th =>
        let a := acting s b g grp pc w
        let fl (i : Nat) : Bool := (s.thread b g i).flag (tgRa w % 8)
        let psn := a.any fun i => (s.thread b g i).flagPsn (tgRa w % 8)
        match tgFunc w with
        | 0 => th.setFlag (tgFd w) (a.all fl) psn
        | 1 => th.setFlag (tgFd w) (a.any fl) psn
        | _ => th.setWide (tgRd w) 2 (a.map fun i => if fl i then 2 ^ i else 0).sum fun _ => psn) ∧
    (tgOp w = 0x4A → acting s b g grp pc w ≠ [] → Runs (.tgLanered b g) s fun t =>
      OnlyGroup s t b g ∧ ∃ v : W32,
        (Advances s t b g grp pc w fun _ th => th.setReg (tgRd w) v
          ((acting s b g grp pc w).any fun i => ((s.thread b g i).reg (tgRa w)).poison)) ∧
        (tgFunc w = 0 → v = BitVec.ofNat 32
          ((acting s b g grp pc w).map fun i => ((s.thread b g i).val (tgRa w)).toNat).sum) ∧
        (tgFunc w = 1 → (∃ i ∈ acting s b g grp pc w, v = (s.thread b g i).val (tgRa w)) ∧
          ∀ i ∈ acting s b g grp pc w, v.toInt ≤ ((s.thread b g i).val (tgRa w)).toInt) ∧
        (tgFunc w = 2 → (∃ i ∈ acting s b g grp pc w, v = (s.thread b g i).val (tgRa w)) ∧
          ∀ i ∈ acting s b g grp pc w, ((s.thread b g i).val (tgRa w)).toInt ≤ v.toInt) ∧
        (tgFunc w = 3 → ∀ i j, acting s b g grp pc w = [i, j] →
          v = tgSpec 0x20 0 ((s.thread b g i).val (tgRa w)) ((s.thread b g j).val (tgRa w)) 0)) ∧
    (∀ k, (s.blk b).tg.kernel = some k → tgOp w = 0x4C → tgFunc w < 8 → Runs (.tgSysr b g) s fun t =>
      OnlyGroup s t b g ∧ Advances s t b g grp pc w fun i th => th.setReg (tgRd w)
        (match tgFunc w with
         | 0 => BitVec.ofNat 32 i
         | 1 => BitVec.ofNat 32 g
         | 2 => BitVec.ofNat 32 k.width
         | 3 => BitVec.ofNat 32 b
         | 4 => BitVec.ofNat 32 s.ldevSeen
         | 5 => s.sch.ply.setWidth 32
         | 6 => (s.sch.ply >>> 32).setWidth 32
         | _ => BitVec.ofNat 32 k.args) false) ∧
    (tgOp w = 0x4C → tgFunc w = 8 → Runs (.tgSysr b g) s fun t =>
      ∃ c, c < 13 ∧ (s.sch.cycleAt = s.tick → s.sch.cycleSub < 13 → s.sch.cycleSub ≤ c) ∧
        Advances s t b g grp pc w fun _ th => th.setReg (tgRd w) (BitVec.ofNat 32 (13 * s.plyTick + c)) false)

/-- Scratchpad instructions (R160, R161, R163, R166, R198, Tables 6.5, 6.6), for relaxed accesses within the scratchpad
to good words: SPLD gives each acting thread its words or its extended part; SPST stores a thread's bytes where no
other thread stores; SPAT gives back the old value and leaves the new one. -/
def Obligations.ThreadScratchpadInstructions : Prop :=
  ∀ (s : State) (b g pc w : Nat) (grp : Group), TgIssues s b g grp pc w → TgClear s b g grp pc w → tgSem w = 0 →
    (∀ i ∈ acting s b g grp pc w,
      ((s.thread b g i).reg (tgRa w)).poison = false ∧ spOf s b g i w % 2 ^ tgSize w = 0 ∧
      spOf s b g i w < s.scratchTop b ∧ (s.thread b g i).pend = [] ∧
      ∀ j, j < tgWords w → (s.blk b).wordSt (spOf s b g i w / 4 + j) = { written := true }) →
    (tgOp w = 0x50 → Runs (.tgSpld b g) s fun t =>
      OnlyGroup s t b g ∧ Advances s t b g grp pc w fun i th =>
        th.setWide (tgRd w) (tgWords w)
          (if 2 ≤ tgSize w then Mem.rd (s.blk b).ba (spOf s b g i w) (2 ^ tgSize w)
           else if w / 2 ^ 39 % 2 = 1 then
             (BitVec.ofInt 32 (sgn (8 * 2 ^ tgSize w) (Mem.rd (s.blk b).ba (spOf s b g i w) (2 ^ tgSize w)))).toNat
           else Mem.rd (s.blk b).ba (spOf s b g i w) (2 ^ tgSize w)) fun _ => false) ∧
    (tgOp w = 0x51 → Runs (.tgSpst b g) s fun t =>
      (Advances s t b g grp pc w fun _ th => th) ∧
      (∀ i ∈ acting s b g grp pc w,
        (∀ j ∈ acting s b g grp pc w, j ≠ i → spOf s b g j w ≠ spOf s b g i w) →
        ∀ x, x < 2 ^ tgSize w → Mem.get (t.blk b).ba (spOf s b g i w + x) =
          BitVec.ofNat 8 ((s.thread b g i).wide (tgRb w) (tgWords w) / 2 ^ (8 * x))) ∧
      (∀ a, (∀ i ∈ acting s b g grp pc w, a < spOf s b g i w ∨ spOf s b g i w + 2 ^ tgSize w ≤ a) →
        Mem.get (t.blk b).ba a = Mem.get (s.blk b).ba a) ∧
      ∀ c, c ≠ b → t.blk c = s.blk c) ∧
    (∀ i, tgOp w = 0x54 → acting s b g grp pc w = [i] → tgSize w = 2 → Runs (.tgSpat b g) s fun t =>
      let a := spOf s b g i w
      let old := Mem.rd (s.blk b).ba a 4
      (Advances s t b g grp pc w fun _ th => th.setWide (tgRd w) 1 old fun _ =>
        (th.reg (tgRb w)).poison || tgAop w == 1 && (th.reg (tgRb w + 1)).poison) ∧
      Mem.rd (t.blk b).ba a 4 =
        atomicNew (tgAop w) 32 old ((s.thread b g i).val (tgRb w)).toNat ((s.thread b g i).val (tgRb w + 1)).toNat ∧
      (∀ x, (x < a ∨ a + 4 ≤ x) → Mem.get (t.blk b).ba x = Mem.get (s.blk b).ba x) ∧ ∀ c, c ≠ b → t.blk c = s.blk c)

/-- Device instructions (R160, R164, R168, R170, R188, R189), for one acting thread and a relaxed access: DVLD takes
its data from a good L1 line, or asks the cache die and leaves a pending load; DVST sends its bytes to the cache die
and updates a line in the L1; DVAT is performed at the home slice on a line held there, drops the L1 line and leaves
the old value to return; returned data reaches its register. -/
def Obligations.ThreadDeviceInstructions : Prop :=
  (∀ (s : State) (b g pc w i a : Nat) (grp : Group) (k : Kernel), TgIssues s b g grp pc w → TgClear s b g grp pc w →
      tgSem w = 0 → acting s b g grp pc w = [i] → (s.blk b).tg.kernel = some k → a = dvOf s b g i w →
      ((s.thread b g i).reg (tgRa w)).poison = false → ((s.thread b g i).reg (tgRa w + 1)).poison = false →
      a % 2 ^ tgSize w = 0 → a + 2 ^ tgSize w ≤ memBytes → (s.thread b g i).pend = [] →
      (tgOp w = 0x52 → s.storeOpen b a (2 ^ tgSize w) = false →
        (∀ l, s.l1Line b (a / 256) = some l → (∀ e ∈ l.words, e.2 = {}) → 2 ≤ tgSize w → Runs (.tgDvld b g) s fun t =>
          (Advances s t b g grp pc w fun _ th =>
            th.setWide (tgRd w) (tgWords w) (Mem.rd l.data (a % 256) (2 ^ tgSize w)) fun _ => false) ∧
          t.ccd = s.ccd) ∧
        (s.l1Line b (a / 256) = none → Runs (.tgDvld b g) s fun t =>
          (Advances s t b g grp pc w fun _ th => { th with pend := [{
            rd := tgRd w, addr := a, size := tgSize w, signed := bitN w 39, value := none, acq := 0 }] }) ∧
          (t.slice (lineSlice (a / 1024))).reads = (s.slice (lineSlice (a / 1024))).reads ++
            [{ addr := if s.l1Units b = 0 then a else a / 256 * 256, len := if s.l1Units b = 0 then 2 ^ tgSize w else 256
               write := false, bytes := [], poison := false, who := .thread b g i, cls := k.cls }] ∧
          MemorySame s t)) ∧
      (tgOp w = 0x53 → tgSize w < 4 → s.loadOpen b a (2 ^ tgSize w) = false → Runs (.tgDvst b g) s fun t =>
        (Advances s t b g grp pc w fun _ th => th) ∧
        (∃ r : CReq, (t.slice (lineSlice (a / 1024))).writes = (s.slice (lineSlice (a / 1024))).writes ++ [r] ∧ r.addr = a ∧
          r.len = 2 ^ tgSize w ∧ r.write = true ∧ r.who = .blockStore b ∧ r.cls = k.cls ∧
          ∀ x, x < 2 ^ tgSize w →
            Mem.get r.bytes x = BitVec.ofNat 8 ((s.thread b g i).wide (tgRb w) (tgWords w) / 2 ^ (8 * x))) ∧
        (∀ l ∈ (t.blk b).tg.l1, l.sector = a / 256 → ∀ x, x < 2 ^ tgSize w → Mem.get l.data (a % 256 + x) =
          BitVec.ofNat 8 ((s.thread b g i).wide (tgRb w) (tgWords w) / 2 ^ (8 * x))) ∧ MemorySame s t) ∧
      (tgOp w = 0x55 → tgSize w = 2 → s.storeOpen b a 4 = false → s.loadOpen b a 4 = false → s.atomicFree b k.cls a 4 = true →
        HeldRange s a 4 → (∀ e ∈ s.ccd.words, e.2.poison = false) → Runs (.tgDvat b g) s fun t =>
        StoredAt s t a 4 (fun x => BitVec.ofNat 8 (atomicNew (tgAop w) 32 (Mem.rd s.ccd.mem a 4)
          ((s.thread b g i).val (tgRb w)).toNat ((s.thread b g i).val (tgRb w + 1)).toNat / 2 ^ (8 * x))) ∧
        (Advances s t b g grp pc w fun _ th => { th with pend := [{
          rd := tgRd w, addr := a, size := 2, signed := false
          value := some (BitVec.ofNat 64 (Mem.rd s.ccd.mem a 4),
            (th.reg (tgRb w)).poison || tgAop w == 1 && (th.reg (tgRb w + 1)).poison), acq := 0 }] }) ∧
        ∀ l ∈ (t.blk b).tg.l1, l.sector ≠ a / 256)) ∧
  (∀ (s : State) (b g i : Nat) (p : PendLoad) (r : CResp), b < 96 → s.blockLive b = true →
      (s.blk b).tg.trapped = false → (s.blk b).tg.wdFall = false → (s.tgGroup b g).isSome = true →
      (s.thread b g i).pend = [p] → p.value = none → p.acq = 0 → p.size = 2 → s.ccd.responses = [r] →
      r.who = .thread b g i → r.addr ≤ p.addr → p.addr + 4 ≤ r.addr + r.len → (∀ e ∈ r.words, e.2.poison = false) →
      Runs (.tgLoadDataReturn b g i) s fun t =>
      t.thread b g i = { (s.thread b g i).setWide p.rd 1 (Mem.rd r.data (p.addr - r.addr) 4) (fun _ => false) with
        pend := [] } ∧
      t.ccd.responses = [] ∧ (∀ j, j ≠ i → t.thread b g j = s.thread b g j) ∧ MemorySame s t) ∧
  (∀ (s : State) (b g i : Nat) (p : PendLoad) (v : W64), b < 96 → s.blockLive b = true →
      (s.blk b).tg.trapped = false → (s.blk b).tg.wdFall = false → (s.tgGroup b g).isSome = true →
      (s.thread b g i).pend = [p] → p.value = some (v, false) → p.size = 2 → Runs (.tgLoadDataReturn b g i) s fun t =>
      t.thread b g i = { (s.thread b g i).setWide p.rd 1 v.toNat (fun _ => false) with pend := [] } ∧
      t.ccd = s.ccd ∧ ∀ j, j ≠ i → t.thread b g j = s.thread b g j)

/-- Control and barriers (R152, R156-R159, R165, R170, R172, Table 6.4): JUMP, CALL and JREG move the acting threads to
their target; DONE ends threads and the last one frees its group; MEET holds threads until all have met; FENCE waits
for earlier accesses and discards the L1 at device scope; UWAIT holds until its units are done. -/
def Obligations.ThreadControlInstructions : Prop :=
  (∀ (s : State) (b g pc w : Nat) (grp : Group), TgIssues s b g grp pc w → TgClear s b g grp pc w →
      (tgOp w = 0x60 → Runs (.tgJump b g) s fun t =>
        OnlyGroup s t b g ∧ ∀ i, t.thread b g i =
          if i ∈ acting s b g grp pc w then
            { s.thread b g i with pc := (BitVec.ofInt 32 ((pc : Int) + 8 * tgOff32 w)).toNat }
          else if i ∈ grp.atPc pc then { s.thread b g i with pc := (pc + 8) % 2 ^ 32 } else s.thread b g i) ∧
      (tgOp w = 0x61 → Runs (.tgCall b g) s fun t =>
        OnlyGroup s t b g ∧ ∀ i, t.thread b g i =
          if i ∈ acting s b g grp pc w then
            { (s.thread b g i).setReg (tgRd w) (BitVec.ofNat 32 (pc + 8)) false with
              pc := (BitVec.ofInt 32 ((pc : Int) + 8 * tgOff32 w)).toNat }
          else if i ∈ grp.atPc pc then { s.thread b g i with pc := (pc + 8) % 2 ^ 32 } else s.thread b g i) ∧
      (tgOp w = 0x62 → (∀ i ∈ acting s b g grp pc w, ((s.thread b g i).reg (tgRa w)).poison = false) →
        Runs (.tgJreg b g) s fun t =>
        OnlyGroup s t b g ∧ ∀ i, t.thread b g i =
          if i ∈ acting s b g grp pc w then
            { s.thread b g i with pc := ((s.thread b g i).val (tgRa w)).toNat / 8 * 8 }
          else if i ∈ grp.atPc pc then { s.thread b g i with pc := (pc + 8) % 2 ^ 32 } else s.thread b g i) ∧
      (tgOp w = 0x63 → (∀ e ∈ grp.threads, e.2.st = .exited ∨ e.1 ∈ acting s b g grp pc w) →
        Runs (.tgDone b g) s fun t => t.tgGroup b g = none ∧ ∀ h, h ≠ g → t.tgGroup b h = s.tgGroup b h) ∧
      (tgOp w = 0x63 → (∃ e ∈ grp.threads, e.2.st = .run ∧ e.1 ∉ acting s b g grp pc w) → Runs (.tgDone b g) s fun t =>
        OnlyGroup s t b g ∧ Advances s t b g grp pc w fun _ th => { th with st := .exited }) ∧
      (tgOp w = 0x68 → (∀ i ∈ acting s b g grp pc w, (s.thread b g i).pend = []) → acting s b g grp pc w ≠ [] →
        (∃ e ∈ grp.threads, e.2.st = .run ∧ e.1 ∉ acting s b g grp pc w) → Runs (.tgMeet b g) s fun t =>
        OnlyGroup s t b g ∧ (∀ i, t.thread b g i =
          if i ∈ acting s b g grp pc w then { s.thread b g i with st := .meet (tgImm16 w) }
          else if i ∈ grp.atPc pc then { s.thread b g i with pc := (pc + 8) % 2 ^ 32 } else s.thread b g i) ∧
        ∃ x, t.tgGroup b g = some x ∧ x.meetAt = some (grp.meetAt.getD s.tick)) ∧
      (tgOp w = 0x68 → (∀ i ∈ acting s b g grp pc w, (s.thread b g i).pend = []) → acting s b g grp pc w ≠ [] →
        (∀ e ∈ grp.threads, e.2.st = .exited ∧ e.1 ∉ grp.atPc pc ∨ e.2.st = .run ∧ e.1 ∈ acting s b g grp pc w) →
        Runs (.tgMeet b g) s fun t =>
        OnlyGroup s t b g ∧ (Advances s t b g grp pc w fun _ th => th) ∧
        ∃ x, t.tgGroup b g = some x ∧ x.meetAt = none) ∧
      (tgOp w = 0x69 → (∀ i ∈ acting s b g grp pc w, (s.thread b g i).pend = []) →
        (tgFunc w < 2 ∨ s.anyStoreOpen b = false) → Runs (.tgFence b g) s fun t =>
        (Advances s t b g grp pc w fun _ th => th) ∧
        (if 2 ≤ tgFunc w ∧ acting s b g grp pc w ≠ [] then
          (t.blk b).tg.l1 = [] ∧
          (∀ r ∈ t.ccd.responses, (∃ c i, r.who = .thread b c i) → r.fill = false) ∧
          (∀ x ∈ s.ccd.responses, ∃ y ∈ t.ccd.responses, { y with fill := x.fill } = x) ∧
          (∀ c, c ≠ b → t.blk c = s.blk c) ∧
          t = { s with blocks := t.blocks, qos := { s.qos with who := t.qos.who }
                       ccd := { s.ccd with responses := t.ccd.responses } }
         else (t.blk b).tg.l1 = (s.blk b).tg.l1 ∧ OnlyBlock s t b)) ∧
      (tgOp w = 0x69 → 2 ≤ tgFunc w → s.anyStoreOpen b = true → Runs (.tgFence b g) s fun t => t = s) ∧
      (tgOp w = 0x6A → s.uwaitDone b (tgImm16 w) = true → Runs (.tgUwait b g) s fun t =>
        OnlyGroup s t b g ∧ Advances s t b g grp pc w fun _ th => th) ∧
      (tgOp w = 0x6A → s.uwaitDone b (tgImm16 w) = false → Runs (.tgUwait b g) s fun t =>
        OnlyGroup s t b g ∧ ∀ i, t.thread b g i =
          if i ∈ acting s b g grp pc w then { s.thread b g i with st := .uwait (BitVec.ofNat 6 (tgImm16 w)) }
          else if i ∈ grp.atPc pc then { s.thread b g i with pc := (pc + 8) % 2 ^ 32 } else s.thread b g i)) ∧
  (∀ (s : State) (b g : Nat), b < 96 → s.blockLive b = true → (s.blk b).tg.trapped = false →
      (s.blk b).tg.wdFall = false → Runs (.tgUwaitRelease b g) s fun t =>
      ∀ i, t.thread b g i =
        match (s.thread b g i).st with
        | .uwait m => if s.uwaitDone b m.toNat then
            { s.thread b g i with st := .run, pc := ((s.thread b g i).pc + 8) % 2 ^ 32 } else s.thread b g i
        | _ => s.thread b g i)

/-- Traps of a kernel (R161, R176, Table 6.9): TRAPI; an illegal word; a misaligned, an outside and a poisoned address;
each stops the kernel with its cause, and no thread has changed. The watchdog of a barrier falls after 2^wd_exp cycles
(R159). The order among trap causes is the model's reading (log entry 42). -/
def Obligations.ThreadTraps : Prop :=
  (∀ (s : State) (b g pc w i : Nat) (grp : Group), TgIssues s b g grp pc w → TgClear s b g grp pc w →
      grp.atPc pc = [i] → acting s b g grp pc w = [i] →
      (tgOp w = 0x6F → Runs (.tgTrapi b g) s fun t => TgTraps s t b g i (0x80 + tgImm16 w % 128)) ∧
      (∀ r, (tgOp w, r) ∈ [(0x50, Instr.tgSpld b g), (0x51, .tgSpst b g), (0x54, .tgSpat b g)] →
        (((s.thread b g i).reg (tgRa w)).poison = true → Runs r s fun t => TgTraps s t b g i 6) ∧
        (((s.thread b g i).reg (tgRa w)).poison = false → spOf s b g i w % 2 ^ tgSize w ≠ 0 →
          Runs r s fun t => TgTraps s t b g i 2) ∧
        (((s.thread b g i).reg (tgRa w)).poison = false → spOf s b g i w % 2 ^ tgSize w = 0 →
          s.scratchTop b ≤ spOf s b g i w → Runs r s fun t => TgTraps s t b g i 3)) ∧
      (∀ r, (tgOp w, r) ∈ [(0x52, Instr.tgDvld b g), (0x53, .tgDvst b g), (0x55, .tgDvat b g)] →
        ((s.thread b g i).reg (tgRa w)).poison = false → ((s.thread b g i).reg (tgRa w + 1)).poison = false →
        (dvOf s b g i w % 2 ^ tgSize w ≠ 0 → Runs r s fun t => TgTraps s t b g i 2) ∧
        (dvOf s b g i w % 2 ^ tgSize w = 0 → memBytes < dvOf s b g i w + 2 ^ tgSize w →
          Runs r s fun t => TgTraps s t b g i 4)) ∧
      (tgOp w = 0x62 → ((s.thread b g i).reg (tgRa w)).poison = true → Runs (.tgJreg b g) s fun t =>
        TgTraps s t b g i 6)) ∧
  (∀ (s : State) (b g pc w i : Nat) (grp : Group) (k : Kernel), b < 96 → s.blockLive b = true →
      (s.blk b).tg.trapped = false → (s.blk b).tg.wdFall = false → (s.blk b).tg.kernel = some k →
      s.tgGroup b g = some grp → grp.nextPc = some pc → (grp.atPc pc).head? = some i → pc + 8 ≤ 0x8000000 →
      (s.blk b).tg.icChk = [] → s.ccd.plyChk = [] → Mem.rd s.ccd.plyCode (s.blobBase + pc) 8 = w → tgCheck k.regs w = 1 →
      Runs (.tgIllegalInstruction b g) s fun t => TgTraps s t b g i 1) ∧
  (∀ (s : State) (b g x : Nat) (grp : Group), b < 96 → s.blockLive b = true → (s.blk b).tg.wdFall = false →
      (s.blk b).tg.trapped = false → s.tgGroup b g = some grp → grp.meetAt = some x →
      2 ^ (s.region (b / 12)).wdExp ≤ (s.tick - x) * 13 → Runs (.blockWatchdogExpiry b g) s fun t =>
      (t.blk b).tg.wdFall = true ∧ (t.blk b).tg.trapped = false ∧ (t.blk b).tg.kernel = (s.blk b).tg.kernel ∧
      NewRecord s t 3 1 0x03 0x100 ∧ t.sch.cur.clean = false ∧ t.sch.cur.selfCulprit = true ∧
      ∀ c, c ≠ b → t.blk c = s.blk c)

/-- Kernels (R94, R144, R145, R147, R180): a dispatch gives the next group the lowest free place with its threads at the
entry, the first one once no command that has started reaches into the kernel's L1 range; a kernel whose groups have all
exited and whose stores are accepted leaves, and its L1 range is unwritten scratchpad. -/
def Obligations.KernelDispatchAndCompletion : Prop :=
  (∀ (s : State) (b : Nat) (k : Kernel) (p : Nat × Nat), b < 96 → s.blockLive b = true →
      (s.blk b).tg.trapped = false → (s.blk b).tg.wdFall = false → (s.blk b).tg.kernel = some k → k.next < k.groups →
      (k.started = true ∨ k.l1 = 0 ∨ ∀ r ∈ s.startedRanges b, r.2 = 0 ∨ r.1 + r.2 ≤ (8 - k.l1) * 0x40000) →
      k.place = some p → Runs (.groupDispatch b) s fun t =>
      ∃ x : Kernel, (t.blk b).tg.kernel = some { k with started := true, next := k.next + 1, live := x.live } ∧
        (∃ grp, x.live = k.live ++ [(k.next, grp)] ∧ grp.set = p.1 ∧ grp.ctx = p.2 ∧ grp.meetAt = none ∧
          grp.threads.length = k.width ∧ ∀ i, i < k.width → SMap.get { pc := 0 } grp.threads i = { pc := k.entry }) ∧
        t.blk b = { s.blk b with tg := (t.blk b).tg } ∧ OnlyBlock s t b) ∧
  (∀ (s : State) (b : Nat) (k : Kernel) (r : Nat × Nat), b < 96 → (s.blk b).tg.kernel = some k → k.started = false →
      k.l1 ≠ 0 → r ∈ s.startedRanges b → 0 < r.2 → (8 - k.l1) * 0x40000 < r.1 + r.2 →
      Runs (.groupDispatch b) s (· = s)) ∧
  (∀ (k : Kernel) (p : Nat × Nat), k.place = some p →
      p.1 < 64 / k.width ∧ p.2 < laneContexts k.regs ∧ (∀ e ∈ k.live, (e.2.set, e.2.ctx) ≠ p) ∧
      ∀ q : Nat × Nat, q.1 < 64 / k.width → q.2 < laneContexts k.regs →
        (q.1 < p.1 ∨ q.1 = p.1 ∧ q.2 < p.2) → ∃ e ∈ k.live, (e.2.set, e.2.ctx) = q) ∧
  (∀ (s : State) (b : Nat) (k : Kernel), b < 96 → s.blockLive b = true → (s.blk b).tg.trapped = false →
      (s.blk b).tg.wdFall = false → (s.blk b).tg.kernel = some k → k.groups ≤ k.next → k.live = [] →
      s.anyStoreOpen b = false → k.l1 ≤ 8 → Runs (.kernelComplete b) s fun t =>
      (t.blk b).tg.kernel = none ∧ (t.blk b).tg.l1 = [] ∧ (t.blk b).ba = (s.blk b).ba ∧
      (∀ x, (8 - k.l1) * 0x10000 ≤ x → x < 0x80000 → ((t.blk b).wordSt x).written = false) ∧
      (t.blk b).seq = (s.blk b).seq ∧ (∀ c, c ≠ b → t.blk c = s.blk c) ∧ MemorySame s t ∧ t.sch = s.sch)

/-! ### Cache die and HBM -/

/-- Requests at the cache die (R213, R214, R216, R378): a slice's only read or write request to a line that is there
whole is served at once; a read that misses, or a first write of a ply to an absent line, takes a free way, waits, and
has all four sectors fetched; what waits for a line is served when its fill completes; a full set gives up a line with
the dead mark before others, and of those the least recently used that has no pin. In FAULT nothing is done (R467). How
accesses without a queued request stand to the queues is the model's choice (log entry 44). -/
def Obligations.CacheDieRequests : Prop :=
  (∀ (s : State) (sl b g i : Nat) (r : CReq), sl < 8 → s.dev ≠ .fault → (s.slice sl).reads = [r] → r.write = false →
      r.who = .thread b g i → r.cls < 8 → 0 < r.len → r.addr % 1024 + r.len ≤ 1024 → s.qos.ceiling 0 b = false →
      s.reqHeld r = false → (∀ h ∈ s.ccd.waiting, HeldAccess.sched h = false) →
      (HeldRange s r.addr r.len → (∀ l, s.line (r.addr / 1024) = some l → l.fetching = false) →
        Runs (.cacheDieRead sl) s fun t =>
        (t.slice sl).reads = [] ∧ MemorySame s t ∧ t.blocks = s.blocks ∧
        ∃ x : CResp, t.ccd.responses = s.ccd.responses ++ [x] ∧ x.who = r.who ∧ x.addr = r.addr ∧ x.len = r.len ∧ x.fill = true ∧
          (∀ j, j < r.len → Mem.get x.data j = Mem.get s.ccd.mem (r.addr + j)) ∧
          ((∀ e ∈ s.ccd.words, e.2.poison = false) → ∀ e ∈ x.words, e.2.poison = false)) ∧
      (s.line (r.addr / 1024) = none → (∃ w < s.cacheWays, ∀ e ∈ s.setLines (r.addr / 1024), e.2.way ≠ w) →
        Runs (.cacheDieRead sl) s fun t =>
        (∃ l : Line, t.line (r.addr / 1024) = some l ∧ l.fetching = true ∧ l.valid = 0 ∧ l.dirty = 0) ∧
        (t.slice (lineSlice (r.addr / 1024))).merged = (s.slice (lineSlice (r.addr / 1024))).merged ++ [r] ∧
        (∃ q : HReq, q.line = r.addr / 1024 ∧ q.sectors = 0xF ∧ q.write = false ∧
          q ∈ (t.chan (place q.line).stk (place q.line).ch).queue ++ (t.chan (place q.line).stk (place q.line).ch).bypass) ∧
        MemorySame s t)) ∧
  (∀ (s : State) (sl b : Nat) (r : CReq), sl < 8 → s.dev ≠ .fault → (s.slice sl).writes = [r] → r.write = true →
      r.who = .blockStore b → r.cls < 8 → 0 < r.len → r.addr % 1024 + r.len ≤ 1024 → s.qos.ceiling 1 b = false →
      s.reqHeld r = false → (∀ h ∈ s.ccd.waiting, HeldAccess.sched h = false) →
      (HeldRange s r.addr r.len → (∀ l, s.line (r.addr / 1024) = some l → l.fetching = false) →
        Runs (.cacheDieWrite sl) s fun t =>
        (t.slice sl).writes = [] ∧ StoredAt s t r.addr r.len (Mem.get r.bytes) ∧ t.blocks = s.blocks ∧
        ∃ l : Line, t.line (r.addr / 1024) = some l ∧ l.valid = 0xF ∧
          ∀ q, q < 4 → r.addr % 1024 < 256 * (q + 1) → 256 * q < r.addr % 1024 + r.len → l.dirty.getLsbD q = true) ∧
      (s.line (r.addr / 1024) = none → s.firstWrite (.line (r.addr / 1024)) = true →
        (∃ w < s.cacheWays, ∀ e ∈ s.setLines (r.addr / 1024), e.2.way ≠ w) → Runs (.cacheDieWrite sl) s fun t =>
        (∃ l : Line, t.line (r.addr / 1024) = some l ∧ l.fetching = true ∧ l.valid = 0) ∧
        (t.slice (lineSlice (r.addr / 1024))).merged = (s.slice (lineSlice (r.addr / 1024))).merged ++ [r] ∧
        (∃ q : HReq, q.line = r.addr / 1024 ∧ q.sectors = 0xF ∧ q.write = false ∧
          q ∈ (t.chan (place q.line).stk (place q.line).ch).queue ++ (t.chan (place q.line).stk (place q.line).ch).bypass) ∧
        MemorySame s t)) ∧
  (∀ (s : State) (sl b g i L : Nat) (r : CReq), sl < 8 → s.dev ≠ .fault → (s.slice sl).fills.head? = some L →
      s.claimed L = false →
      s.evicting L = false → ((s.slice sl).merged.filter fun q => q.line == L) = [r] → r.write = false →
      r.who = .thread b g i → r.addr / 1024 = L → 0 < r.len → r.addr % 1024 + r.len ≤ 1024 → HeldRange s r.addr r.len →
      Runs (.cacheDieFill sl) s fun t =>
      (t.slice sl).fills = (s.slice sl).fills.tail ∧
      (t.slice sl).merged = ((s.slice sl).merged.filter fun q => q.line != L) ∧
      (∀ l, t.line L = some l → l.fetching = false) ∧ MemorySame s t ∧
      ∃ x : CResp, t.ccd.responses = s.ccd.responses ++ [x] ∧ x.who = r.who ∧ x.addr = r.addr ∧
        ∀ j, j < r.len → Mem.get x.data j = Mem.get s.ccd.mem (r.addr + j)) ∧
  (∀ (s : State) (sl : Nat), sl < 8 → s.dev = .fault →
      Runs (.cacheDieRead sl) s (· = s) ∧ Runs (.cacheDieWrite sl) s (· = s) ∧ Runs (.cacheDieFill sl) s (· = s) ∧
      Runs (.cacheDieReduction sl) s (· = s)) ∧
  (∀ (s : State) (L ways w v : Nat), s.victim L ways = some (w, some v) →
      (∀ x < ways, ∃ e ∈ s.setLines L, e.2.way = x) ∧
      ∃ l, (v, l) ∈ s.setLines L ∧ l.way = w ∧ w < ways ∧ l.pinned = false ∧ (∀ x ∈ l.tpins, x.1 ≤ s.tick) ∧
        ∀ e ∈ s.setLines L, e.2.way < ways → e.2.pinned = false → (∀ x ∈ e.2.tpins, x.1 ≤ s.tick) →
          (e.2.dead = true → l.dead = true) ∧ (e.2.dead = l.dead → l.use ≤ e.2.use))

/-- Reductions and scrubbing (R200, R201, R224-R226, R230, R231): the reduce unit replaces or combines its destination
elements, which are FP32; a scrubber corrects a singly wrong word in place and counts it, marks an uncorrectable word of
a dirty sector poisoned, and invalidates a clean sector; a block array's scrubber visits the next row of its bank. The
model's choice: NaN of a reduction's source (log entry 27), the scrubbers' order beyond the rules (log entries 47, 79),
and what a persistent fault leaves after a refetch (log entry 73). -/
def Obligations.ReductionsAndScrubbers : Prop :=
  (∀ (s : State) (sl n : Nat) (r : RedReq), sl < 8 → s.dev ≠ .fault → (s.slice sl).reds = [r] → n = redDest r.op 256 →
      r.dest % n = 0 →
      s.redWaits r = false → HeldRange s r.dest n → (∀ e ∈ s.ccd.words, e.2.poison = false) →
      Runs (.cacheDieReduction sl) s fun t =>
      (t.slice sl).reds = [] ∧ t.hbm = s.hbm ∧ t.hbmWords = s.hbmWords ∧ t.blocks = s.blocks ∧
      (∀ a, (a < r.dest ∨ r.dest + n ≤ a) → Mem.get t.ccd.mem a = Mem.get s.ccd.mem a) ∧
      ∀ i, i < n / 4 →
        let src := redConv r.op (Mem.rd r.src (i * (256 / (n / 4))) (256 / (n / 4)))
        let old := Mem.rd32 s.ccd.mem (r.dest + 4 * i)
        Mem.rd32 t.ccd.mem (r.dest + 4 * i) =
          if r.first then src else if r.op < 4 then enc32 ((dec32 old).add (dec32 src)) else fmax32 old src) ∧
  (∀ (s : State) (sl w : Nat) (e : Nat × Line), sl < 8 → s.served = true → s.ccd.scrubEn = true →
      (s.slice sl).scrubPos ≠ 0 → s.scrubFrom sl (s.slice sl).scrubPos = [e] → s.reservedKeys sl = [] → s.ccd.stuck = [] →
      (s.slice sl).bankIdle (lineSet e.1 % 32) = true → s.line e.1 = some e.2 → e.2.valid = 0xF →
      e.1 * 128 ≤ w → w < e.1 * 128 + 128 →
      (s.ccd.words = RMap.fill {} [] w 1 { chk := .single } → Runs (.cacheDieScrub sl) s fun t =>
        (∀ x, RMap.get {} t.ccd.words x = {}) ∧ MemorySame s t ∧ (t.slice sl).ce = satAdd (s.slice sl).ce 1 ∧
        (t.slice sl).scrubPos = 0 ∧ (t.slice sl).lap = s.lapUs (s.slice sl).lapStart ∧ t.ccd.lines = s.ccd.lines) ∧
      (s.ccd.words = RMap.fill {} [] w 1 { chk := .bad } → e.2.dirty.getLsbD (w % 128 / 32) = true →
        Runs (.cacheDieScrub sl) s fun t =>
        (∀ x, RMap.get {} t.ccd.words x = if x = w then { poison := true } else {}) ∧ MemorySame s t ∧
        (t.slice sl).ue = satAdd (s.slice sl).ue 1 ∧ (t.slice sl).scrubPos = 0) ∧
      (s.ccd.words = RMap.fill {} [] w 1 { chk := .bad } → e.2.dirty.getLsbD (w % 128 / 32) = false →
        Runs (.cacheDieScrub sl) s fun t =>
        (∀ x, RMap.get {} t.ccd.words x = {}) ∧ t.hbm = s.hbm ∧ (t.slice sl).refetch = satAdd (s.slice sl).refetch 1 ∧
        ∃ l : Line, t.line e.1 = some l ∧ ∀ q : Nat, l.valid.getLsbD q = (e.2.valid.getLsbD q && decide (q ≠ w % 128 / 32)))) ∧
  (∀ (s : State) (sl : Nat), sl < 8 → s.served = true → s.ccd.scrubEn = false → Runs (.cacheDieScrub sl) s fun t =>
      t = s) ∧
  (∀ (s : State) (b bank w r n : Nat) (c : Chk), b < 96 → bank < 32 → s.served = true →
      (s.region (b / 12)).scrubEn = true → s.slotOf b = some (r, n) → 0 < w → (s.blk b).tg.l1 = [] →
      w / 8 = SMap.get 0 (s.blk b).scrubRow bank % 2048 * 32 + bank →
      (s.blk b).baSt = [(0, { written := true }), (w, { written := true, chk := c }), (w + 1, { written := true })] →
      Runs (.blockArrayScrub b bank) s fun t =>
      (t.blk b).ba = (s.blk b).ba ∧ (∀ d, d ≠ b → t.blk d = s.blk d) ∧ MemorySame s t ∧
      (∀ k, SMap.get 0 (t.blk b).scrubRow k = SMap.get 0 (s.blk b).scrubRow k + if k = bank then 1 else 0) ∧
      (∀ x, (t.blk b).wordSt x = if x = w ∧ c = .bad then { written := true, poison := true } else { written := true }) ∧
      (c = .single → (t.blk b).baCe = satAdd (s.blk b).baCe 1)) ∧
  (∀ (s : State) (b bank r n q j : Nat) (k : Kernel) (l : L1Line) (c : Chk), b < 96 → bank < 32 → s.served = true →
      (s.region (b / 12)).scrubEn = true → s.slotOf b = some (r, n) → (s.blk b).baSt = [] → (s.blk b).tg.l1 = [l] →
      (s.blk b).tg.kernel = some k → 0 < k.l1 → k.l1 ≤ 8 → l.way < 8 → q < 8 → j < 8 →
      SMap.get 0 (s.blk b).scrubRow bank % 2048 * 1024 + bank * 32 =
        (8 - k.l1) * 0x40000 + (l.sector % (128 * k.l1) * 8 + l.way) * 256 + 32 * q →
      l.words = RMap.fill {} [] (8 * q + j) 1 { chk := c } → Runs (.blockArrayScrub b bank) s fun t =>
      (t.blk b).ba = (s.blk b).ba ∧ (t.blk b).baSt = [] ∧ (∀ d, d ≠ b → t.blk d = s.blk d) ∧ MemorySame s t ∧
      (c = .single → (t.blk b).baCe = satAdd (s.blk b).baCe 1 ∧
        ∃ x, (t.blk b).tg.l1 = [x] ∧ x.sector = l.sector ∧ x.data = l.data ∧ ∀ y, RMap.get {} x.words y = {}) ∧
      (c = .bad → (t.blk b).baCe = satAdd (s.blk b).baCe 1 ∧ (t.blk b).tg.l1 = []) ∧
      (c = .good → t.blk b = { s.blk b with
        baLap := (t.blk b).baLap, lapStart := (t.blk b).lapStart, scrubRow := (t.blk b).scrubRow }))

/-- HBM channels (R243, R246, R249, R254, R256-R264): a channel's only request is done with up to two CRC failures,
fetching the sectors a line lacks or storing whole words; with three it comes back after a retraining, and if it fails
again a read word is poisoned under a UC record. A refresh closes the rows; the scrubber writes a corrected word back;
retrainings take turns and the third failure in succession kills the channel; a remap window ends with its row in a
spare. The model's choice: retries and the queue's corners (log entry 45), the scrubber's counts and the copy of a remap
window (log entry 46), and the interface check of a band change (log entry 72). -/
def Obligations.HbmChannels : Prop :=
  (∀ (s : State) (stk ch n : Nat) (r : HReq) (p : Place), stk < 8 → ch < 32 → s.alive = true →
      (s.chan stk ch).state = 0 → (s.chan stk ch).retrainDue = false → (s.chan stk ch).bypass = [] →
      (s.chan stk ch).queue = [r] → r.cls < 8 → p = place r.line → p.stk = stk → p.ch = ch →
      (s.nbStack stk).run = none → (s.chan stk ch).window = none → s.sharedHolds = false →
      (n < 3 → r.retried = false → r.write = false → r.sectors = 0xF →
        (∀ w, w < 32 → RMap.get {} s.hbmWords (p.store * 32 + w) = { mark := .data }) →
        (∃ l, s.line r.line = some l ∧ l.valid = 0) → Runs (.hbmRequestService stk ch n) s fun t =>
        (∀ a, Mem.get t.ccd.mem a = if a / 1024 = r.line then Mem.get s.hbm (p.store * 1024 + a % 1024)
          else Mem.get s.ccd.mem a) ∧
        t.hbm = s.hbm ∧ t.hbmWords = s.hbmWords ∧ (∃ l : Line, t.line r.line = some l ∧ l.valid = 0xF ∧ l.dirty = 0) ∧
        r.line ∈ (t.slice (lineSlice r.line)).fills ∧ (t.chan stk ch).queue = [] ∧
        (t.chan stk ch).crc = satAdd (s.chan stk ch).crc n) ∧
      (n < 3 → r.retried = false → r.write = true → (∀ e ∈ r.words, e.2.poison = false ∧ e.2.chk = .good) →
        Runs (.hbmRequestService stk ch n) s fun t =>
        (∀ a, Mem.get t.hbm a =
          if a / 1024 = p.store ∧ r.sectors.getLsbD (a % 1024 / 256) = true then Mem.get r.data (a % 1024)
          else Mem.get s.hbm a) ∧
        (∀ w, w < 32 → r.sectors.getLsbD (w / 8) = true →
          RMap.get {} t.hbmWords (p.store * 32 + w) = { mark := .data }) ∧
        t.ccd = s.ccd ∧ (t.chan stk ch).queue = [] ∧ (t.chan stk ch).crc = satAdd (s.chan stk ch).crc n) ∧
      (3 ≤ n → r.retried = false → (∀ c, c < 32 → (s.chan stk c).state ≠ 1) → Runs (.hbmRequestService stk ch n) s fun t =>
        (t.chan stk ch).state = 1 ∧ (t.chan stk ch).queue = [{ r with retried := true }] ∧
        (t.chan stk ch).retrains = satAdd (s.chan stk ch).retrains 1 ∧
        (t.chan stk ch).crc = satAdd (s.chan stk ch).crc 3 ∧ MemorySame s t) ∧
      (0 < n → r.retried = true → r.write = false → r.sectors = 0xF →
        (∀ w, w < 32 → RMap.get {} s.hbmWords (p.store * 32 + w) = { mark := .data }) →
        (∃ l, s.line r.line = some l ∧ l.valid = 0) → Runs (.hbmRequestService stk ch n) s fun t =>
        (∃ e, t.err.log.head? = some e ∧ e.cls = 3 ∧ e.level = 3 ∧ e.unit = 0x22 ∧ e.code = 5) ∧
        t.hbm = s.hbm ∧ (t.chan stk ch).queue = [] ∧
        ∃ w, w < 32 ∧ RMap.get {} t.ccd.words (r.line * 128 + 4 * w) = { poison := true })) ∧
  (∀ (s : State) (stk ch : Nat), stk < 8 → ch < 32 → s.mainOn = true → s.refreshDue stk ch = true →
      (s.nbStack stk).run = none → Runs (.hbmRefresh stk ch) s fun t =>
      t.chan stk ch = { s.chan stk ch with refreshedAt := some s.tick, refBand := (s.stack stk).band, openRow := [] } ∧
      (∀ d, d ≠ ch → t.chan stk d = s.chan stk d) ∧ t = { s with hbmStacks := t.hbmStacks }) ∧
  (∀ (s : State) (stk ch m w : Nat) (p : Place), stk < 8 → ch < 32 → s.served = true → (s.stack stk).scrubEn = true →
      (s.chan stk ch).state = 0 → (s.chan stk ch).retrainDue = false → (s.chan stk ch).queue = [] →
      (s.chan stk ch).bypass = [] → m = s.scrubLine stk ch (s.chan stk ch).scrubPos → m < chanLines →
      p = place (lineAt stk ch m) → s.bankHeld stk ch p.b = false → (s.chan p.stk p.ch).crcDue = 0 → w < 32 →
      (∀ x, x < 32 → x ≠ w → RMap.get {} s.hbmWords (p.store * 32 + x) = { mark := .data }) →
      (RMap.get {} s.hbmWords (p.store * 32 + w) = { mark := .data, chk := .single } → Runs (.hbmScrub stk ch) s fun t =>
        RMap.get {} t.hbmWords (p.store * 32 + w) = { mark := .data } ∧ t.hbm = s.hbm ∧ t.ccd = s.ccd ∧
        (t.stack p.stk).ce = satAdd (s.stack p.stk).ce 1) ∧
      (RMap.get {} s.hbmWords (p.store * 32 + w) = { mark := .data, chk := .bad } →
        (s.nextSpare p.stk p.ch p.b).isSome = true → (s.chan p.stk p.ch).candidates = [] → (s.chan p.stk p.ch).window = none →
        (s.chan p.stk p.ch).refusedRows = [] → (s.chan p.stk p.ch).remapped = [] → s.flash.remaps = [] → Runs (.hbmScrub stk ch) s fun t =>
        (t.chan p.stk p.ch).candidates = [{ bank := p.b, row := p.row }] ∧ MemorySame s t)) ∧
  (∀ (s : State) (stk ch : Nat), stk < 8 → ch < 32 → s.alive = true → (s.chan stk ch).state = 1 →
      (∀ c, c < 32 → c ≠ ch → (s.chan stk c).state ≠ 1 ∧ (s.chan stk c).retrainDue = false) →
      (s.chan stk ch).retrainDue = false →
      (Runs (.hbmRetrainComplete stk ch true) s fun t =>
        t.chan stk ch = { s.chan stk ch with state := 0, failsInRow := 0 } ∧ MemorySame s t ∧
        ∀ c, c ≠ ch → t.chan stk c = s.chan stk c) ∧
      ((s.chan stk ch).failsInRow < 2 → Runs (.hbmRetrainComplete stk ch false) s fun t =>
        (t.chan stk ch).state = 1 ∧ (t.chan stk ch).failsInRow = (s.chan stk ch).failsInRow + 1 ∧
        (t.chan stk ch).retrains = satAdd (s.chan stk ch).retrains 1) ∧
      (2 ≤ (s.chan stk ch).failsInRow → s.dev = .running → s.err.phase = 0 → Runs (.hbmRetrainComplete stk ch false) s fun t =>
        (t.chan stk ch).state = 2 ∧ t.flash.replace.hbmDead = s.flash.replace.hbmDead ||| BitVec.ofNat 256 (2 ^ (32 * stk + ch)) ∧
        t.sch.persistent = some (s.sch.persistent.getD 7) ∧ MemorySame s t)) ∧
  (∀ (s : State) (stk ch : Nat) (w : Window) (rest : List Window), stk < 8 → ch < 32 → s.alive = true →
      (s.chan stk ch).candidates = w :: rest → (s.chan stk ch).state = 0 → (s.chan stk ch).window = none →
      (s.nextSpare stk ch w.bank).isSome = true →
      ((s.stack stk).liveRemap = false → Runs (.hbmRemapWindow stk ch) s fun t =>
        t.flash.remaps = s.flash.remaps ++ [{ stack := stk, channel := ch, bank := w.bank, row := w.row }] ∧
        (t.chan stk ch).candidates = rest ∧ (t.chan stk ch).window = none ∧ MemorySame s t) ∧
      ((s.stack stk).liveRemap = true → s.refreshDue stk ch = true → (s.nbStack stk).run = none →
        Runs (.hbmRemapWindow stk ch) s fun t =>
        (t.chan stk ch).window = some w ∧ (t.chan stk ch).candidates = rest ∧ t.flash = s.flash ∧ MemorySame s t)) ∧
  (∀ (s : State) (stk ch : Nat) (w : Window), stk < 8 → ch < 32 → s.alive = true → (s.chan stk ch).window = some w →
      Runs (.hbmRemapWindowEnd stk ch) s fun t =>
      (t.chan stk ch).window = none ∧ (t.chan stk ch).remapped = (s.chan stk ch).remapped ++ [w] ∧
      t.flash.remaps = s.flash.remaps ++ [{ stack := stk, channel := ch, bank := w.bank, row := w.row }] ∧
      t.hbm = s.hbm ∧ t.ccd = s.ccd)

/-! ### Near-bank processing and the collective engine -/

/-- Near-bank commands (R269, R271-R273, R279-R281, R283, R285, R288, R290): a ply-code command is read, checked and
queued; the device queue starts first; protected rows are refused; a segment runs its steps, of which one micro-op in
one unit is written out here; a completed command posts its semaphore or ends its descriptor. The reasons that two rules
could claim, and the micro-program's corners, are the model's reading (log entry 54). -/
def Obligations.NearBankCommands : Prop :=
  (∀ (s : State) (b ra rb n cls stk : Nat) (w : W64) (more : List (W64 × Nat)) (dws prog : List W32), b < 96 →
      s.inPly = true → (s.blk b).halted = false → SMap.get [] (s.blk b).seq.queues 6 = (w, cls) :: more →
      ra = w.toNat % 2 ^ 32 → rb = w.toNat / 2 ^ 32 → ra % 64 = 0 → ra + 64 ≤ s.scratchTop b →
      (s.nbLicensed = false ∨ s.sec.nbFailed = true → s.pim.heldGran = [] → Runs (.nbCommandAccept b) s fun t =>
        (t.nbStack 0).lastReason = 1 ∧ (t.nbStack 0).rejected = satAdd (s.nbStack 0).rejected 1 ∧
        NewRecord s t 3 1 0x23 1 ∧ SMap.get false (t.blk b).seq.tgtHalted 6 = true ∧
        SMap.get [] (t.blk b).seq.queues 6 = [] ∧ MemorySame s t) ∧
      (s.nbLicensed = true → s.sec.nbFailed = false → GoodWords (s.blk b) (ra / 4) 16 →
        dws = (List.range 16).map (fun i => (s.blk b).word (ra / 4 + i)) → dwN dws 7 = 0 →
        n = dwN dws 3 % 64 + 1 → dwN dws 6 % 4 = 0 → dwN dws 6 + 4 * n ≤ s.scratchTop b →
        GoodWords (s.blk b) (dwN dws 6 / 4) n →
        prog = (List.range n).map (fun i => (s.blk b).word (dwN dws 6 / 4 + i)) → rb < 64 → stk = dwN dws 2 % 8 →
        (s.nbStack stk).devQ.length < 16 → ∀ c, nbBuild (.block b rb s.sch.ply) true cls dws prog = .inr c →
        Runs (.nbCommandAccept b) s fun t =>
        (t.nbStack stk).devQ = (s.nbStack stk).devQ ++ [c] ∧ (∀ k, k ≠ stk → t.nbStack k = s.nbStack k) ∧
        Took s t b 6 1 ∧ MemorySame s t ∧ (∀ d, d ≠ b → t.blk d = s.blk d) ∧ (t.blk b).ba = (s.blk b).ba)) ∧
  (∀ (iss : NbIssuer) (ply : Bool) (cls : Nat) (dws prog : List W32) (c : NbCmd),
      nbBuild iss ply cls dws prog = .inr c →
      c.dieLo = dwN dws 2 / 2 ^ 4 % 16 ∧ c.dieHi = dwN dws 2 / 2 ^ 8 % 16 ∧ c.pairLo = dwN dws 2 / 2 ^ 12 % 32 ∧
      c.pairHi = dwN dws 2 / 2 ^ 17 % 32 ∧ c.fmt = dwN dws 2 / 2 ^ 22 % 4 ∧ c.colStart = dwN dws 3 / 2 ^ 6 % 64 ∧
      c.cols = dwN dws 3 / 2 ^ 12 % 64 + 1 ∧ c.steps = dwN dws 3 / 2 ^ 18 % 2048 + 1 ∧ c.rowE = dwN dws 4 % 2 ^ 16 ∧
      c.rowO = dwN dws 4 / 2 ^ 16 ∧ c.strideE = dwN dws 5 % 2 ^ 16 ∧ c.strideO = dwN dws 5 / 2 ^ 16 ∧ c.prog = prog ∧
      c.issuer = iss ∧ c.cls = cls ∧ c.dieLo ≤ c.dieHi ∧ c.pairLo ≤ c.pairHi ∧ c.colStart + c.cols ≤ 64 ∧
      (∀ r ∈ c.rows, r.2 ≤ 40959) ∧ c.stepNs ≤ 3900 ∧ c.steps * c.stepNs ≤ 32000 ∧ dwN dws 6 % 4 = 0) ∧
  (∀ (s : State) (stk : Nat) (c : NbCmd) (rest : List NbCmd), stk < 8 → (s.nbStack stk).run = none →
      s.mainOn = true → (∀ u ∈ c.units, (s.chan stk u.2).state ≠ 2) →
      ((s.nbStack stk).devQ = c :: rest → c.issuer.device = true →
        (∀ r ∈ c.rows, (s.stack stk).isOpen (r.2 * 64) = true) → s.nbStartWaits stk c = false →
        Runs (.nbCommandStart stk) s fun t =>
        (t.nbStack stk).run = some { cmd := c, phase := .journal } ∧ (t.nbStack stk).devQ = rest ∧
        (t.nbStack stk).hostQ = (s.nbStack stk).hostQ ∧ t.blocks = s.blocks) ∧
      ((s.nbStack stk).devQ = [] → (s.nbStack stk).hostQ = c :: rest → c.issuer.device = false → s.pim.compat = false →
        (∀ r ∈ c.rows, (s.stack stk).isOpen (r.2 * 64) = true) → Runs (.nbCommandStart stk) s fun t =>
        (∃ n, (t.nbStack stk).run = some { cmd := c, phase := .segment n } ∧
          n = min c.steps ((if (s.stack stk).band = 2 then 3900 else 4000) / c.stepNs)) ∧
        (t.nbStack stk).hostQ = rest ∧ MemorySame s t) ∧
      ((s.nbStack stk).devQ = c :: rest → (∃ r ∈ c.rows, (s.stack stk).isOpen (r.2 * 64) = false) →
        s.pim.heldGran = [] → Runs (.nbCommandStart stk) s fun t =>
        (t.nbStack stk).run = none ∧ (t.nbStack stk).devQ = rest ∧ (t.nbStack stk).lastReason = 5 ∧
        (t.nbStack stk).rejected = satAdd (s.nbStack stk).rejected 1 ∧
        (c.issuer.device = true → NewRecord s t 3 1 0x23 5) ∧ MemorySame s t)) ∧
  (∀ (s : State) (stk : Nat) (r : NbRun), stk < 8 → (s.nbStack stk).run = some r →
      (r.phase = .journal → Runs (.nbJournalPhaseEnd stk) s fun t =>
        t = s.updNb stk fun k => { k with run := some { r with phase := .segment (s.segSteps stk r) } }) ∧
      (r.phase = .window → r.winAt + s.pim.svcWin ≤ s.tick → Runs (.nbServiceWindowEnd stk) s fun t =>
        t = s.updNb stk fun k => { k with run := some { r with phase := .segment (s.segSteps stk r) } })) ∧
  (∀ (s : State) (stk die pair : Nat) (r : NbRun) (o : MicroOp) (addr : Nat → Nat) (x : Nat → BitVec 256) (v : BitVec 256),
      stk < 8 → (s.nbStack stk).run = some r → r.phase = .segment 1 → r.stopping = false → r.cmd.dieLo = die →
      r.cmd.dieHi = die → r.cmd.pairLo = pair → r.cmd.pairHi = pair → r.cmd.cols = 1 → r.cmd.ops = [o] → o.op ≠ 6 →
      o.dst < 6 →
      addr = (fun k => nbWordAddr stk die pair (k - 4) (r.cmd.row (k - 4) r.next) r.cmd.colStart) →
      x = (fun k => if k < 4 then SMap.get 0 r.regs k else BitVec.ofNat 256 (Mem.rd s.hbm (addr k) 32)) →
      v = o.value r.cmd.fmt (x o.a) (if o.op = 2 ∨ o.op = 3 then x o.b else 0) →
      Runs (.nbSegmentEnd stk false) s fun t =>
      (∃ y : NbRun, (t.nbStack stk).run = some y ∧ y.cmd = r.cmd ∧ y.next = r.next + 1 ∧
        y.winAt = s.tick ∧
        y.phase = (if r.cmd.steps ≤ r.next + 1 then .refresh
          else if s.pim.svcWin = 0 then .segment (s.segSteps stk y) else .window) ∧
        ∀ k, SMap.get 0 y.regs k = if o.dst < 4 ∧ k = o.dst then v else SMap.get 0 r.regs k) ∧
      (o.dst < 4 → MemorySame s t) ∧
      (4 ≤ o.dst → Mem.rd t.hbm (addr o.dst) 32 = v.toNat ∧ t.ccd = s.ccd ∧
        ∀ a, (a < addr o.dst ∨ addr o.dst + 32 ≤ a) → Mem.get t.hbm a = Mem.get s.hbm a) ∧
      (o.op = 1 → v = x o.a)) ∧
  (∀ (s : State) (stk n : Nat) (r : NbRun), stk < 8 → (s.nbStack stk).run = some r → r.phase = .segment n →
      Runs (.nbSegmentEnd stk true) s fun t =>
      (t.nbStack stk).run = none ∧ (t.nbStack stk).lastReason = 0x12 ∧
      (t.nbStack stk).aborted = satAdd (s.nbStack stk).aborted 1) ∧
  (∀ (s : State) (stk : Nat) (r : NbRun), stk < 8 → (s.nbStack stk).run = some r → r.phase = .refresh →
      s.pim.heldGran = [] → Runs (.nbCommandComplete stk) s fun t =>
      (t.nbStack stk).run = none ∧ (t.nbStack stk).done = (s.nbStack stk).done + 1 ∧ MemorySame s t ∧
      t.blocks = s.blocks ∧
      (∀ uid, r.cmd.issuer = .host uid → Finishes s t uid 0 0 0 0) ∧
      ∀ b sem ply, r.cmd.issuer = .block b sem ply → t.sem sem = min 0x0FFFFFFF (s.sem sem + 1))

/-- The collective engine (R319-R325, R328-R332, R335): a step record is read, checked and queued; SEND puts its data
frames and a digest in an output queue; RECV stores the next contribution; REDUCE hands sectors to the reduce units;
COMBINE merges triples; MIRROR notes a range; what arrives later is folded in order; a complete step posts its
semaphore; a malformed record or digest stops it. -/
def Obligations.CollectiveEngine : Prop :=
  (∀ (s : State) (b ra rb cls : Nat) (w : W64) (more : List (W64 × Nat)) (d : List W32), b < 96 → s.inPly = true →
      (s.blk b).halted = false → SMap.get [] (s.blk b).seq.queues 7 = (w, cls) :: more → s.ce.stepQ.length < 64 →
      ra = w.toNat % 2 ^ 32 → rb = w.toNat / 2 ^ 32 → ra % 64 = 0 → ra + 64 ≤ s.scratchTop b →
      GoodWords (s.blk b) (ra / 4) 16 → d = (List.range 16).map (fun i => (s.blk b).word (ra / 4 + i)) →
      (ceCheck s d (decide (64 ≤ rb)) (ceStepOf b cls s.sch.ply (rb % 64) d) = none → Runs (.ceStepAccept b) s fun t =>
        (∃ x : CeStep, t.ce.stepQ = s.ce.stepQ ++ [x] ∧ x.i = s.ce.nextStep ∧ x.block = b ∧ x.sem = rb ∧ x.cls = cls ∧
          x.kind = dwN d 0 % 256 ∧ x.etype = dwN d 0 / 2 ^ 8 % 256 ∧ x.rop = dwN d 0 / 2 ^ 16 % 256 ∧
          x.first = (d.getD 0 0).getLsbD 24 ∧ x.useLocal = (d.getD 0 0).getLsbD 25 ∧
          x.declare = (d.getD 0 0).getLsbD 26 ∧ x.addSlot = (d.getD 0 0).getLsbD 27 ∧ x.slot = dwN d 1 % 256 ∧
          x.nin = dwN d 1 / 2 ^ 8 % 256 ∧ x.d = dwN d 1 / 2 ^ 16 ∧ x.localAddr = dwN d 4 + 2 ^ 32 * dwN d 5 ∧
          x.dest = dwN d 6 + 2 ^ 32 * dwN d 7 ∧ x.bytes = dwN d 8 ∧ x.cid = d.getD 9 0) ∧
        t.ce.nextStep = s.ce.nextStep + 1 ∧ Took s t b 7 1 ∧ MemorySame s t ∧ ∀ c, c ≠ b → t.blk c = s.blk c) ∧
      ((dwN d 0 % 256 = 0 ∨ 5 < dwN d 0 % 256) → Runs (.ceStepAccept b) s fun t =>
        t.ce.lastStatus = 1 ∧ t.ce.stepQ = s.ce.stepQ ∧ NewRecord s t 3 1 0x25 0x101 ∧
        SMap.get false (t.blk b).seq.tgtHalted 7 = true ∧ MemorySame s t)) ∧
  (∀ (s : State) (i q : Nat) (c : CeStep) (rest : List CeStep), s.inPly = true → s.ce.running.length < 16 →
      s.ce.stepQ = c :: rest → c.i = i → (∀ e ∈ s.ce.running, e.1.i ≠ i) → q = c.queues.getD 0 0 → 0 < c.bytes →
      (c.kind = 1 → c.declare = false → (SMap.get [] s.ce.outQ q).length + c.frames + 1 ≤ 512 →
        HeldRange s c.localAddr c.bytes → s.localWaits c = false → Runs (.ceSend i) s fun t =>
        (∃ (fs : List CeFrame) (g : CeFrame), SMap.get [] t.ce.outQ q = SMap.get [] s.ce.outQ q ++ fs ++ [g] ∧
          fs.length = (c.bytes + 511) / 512 ∧
          (∀ (k j : Nat) (f : CeFrame), fs[k]? = some f → j < 512 → Mem.get f.payload j =
            if 512 * k + j < c.bytes then Mem.get s.ccd.mem (c.localAddr + 512 * k + j) else 0) ∧
          Mem.rd g.payload 0 4 = 0x44475354 ∧ Mem.rd g.payload 4 4 = fs.length % 2 ^ 32 ∧
          Mem.rd g.payload 8 4 = c.bytes % 2 ^ 32 ∧ Mem.rd g.payload 0xC 1 = c.etype % 256 ∧
          Mem.rd32 g.payload 0x30 = c.cid) ∧
        (∀ k, k ≠ q → SMap.get [] t.ce.outQ k = SMap.get [] s.ce.outQ k) ∧ t.ce.stepQ = rest ∧
        t.ce.running = s.ce.running ++ [(c, .finished)] ∧ MemorySame s t) ∧
      (∀ x, c.kind = 2 → s.contribution c q = some x → x.malformed c = false → HeldRange s c.dest c.bytes →
        s.destWaits c = false → Runs (.ceRecv i) s fun t =>
        StoredAt s t c.dest c.bytes (Mem.get x.data) ∧ t.ce.running = s.ce.running ++ [(c, .finished)] ∧
        SMap.get [] t.ce.inQ q = (SMap.get [] s.ce.inQ q).drop (c.frames + 1) ∧ t.ce.stepQ = rest ∧
        (crc64 (Mem.span x.data 0 (512 * c.frames)) ≠ Mem.rd64 x.digest 0x10 →
          t.ce.crcFail = satAdd s.ce.crcFail 1 ∧ t.sch.cur.clean = false)) ∧
      (∀ x, c.kind = 2 → s.contribution c q = some x → x.malformed c = true → s.destWaits c = false →
        Runs (.ceRecv i) s fun t =>
        t.ce.running = s.ce.running ∧ t.ce.lastStatus = 4 ∧ NewRecord s t 3 1 0x25 0x104 ∧ MemorySame s t) ∧
      (c.kind = 2 → s.contribution c q = none → Runs (.ceRecv i) s fun t =>
        t = { s with ce := { s.ce with stepQ := rest, running := s.ce.running ++ [(c, .waiting 0)] } }) ∧
      (c.kind = 3 → c.useLocal = true → c.nin = 0 → HeldRange s c.localAddr c.bytes → s.localWaits c = false →
        Runs (.ceReduce i) s fun t =>
        (∀ k, k < c.bytes / 256 → ∃ r : RedReq, r ∈ (t.slice (lineSlice ((c.dest + redDest c.rop 256 * k) / 1024))).reds ∧
          r.dest = c.dest + redDest c.rop 256 * k ∧ r.op = c.rop ∧ r.first = c.first ∧ r.step = i ∧
          ∀ j, j < 256 → Mem.get r.src j = Mem.get s.ccd.mem (c.localAddr + 256 * k + j)) ∧
        t.ce.running = s.ce.running ++ [(c, .finished)] ∧ MemorySame s t) ∧
      (c.kind = 4 → c.useLocal = true → c.nin = 0 → c.bytes % (16 + 4 * c.d) = 0 → HeldRange s c.localAddr c.bytes →
        HeldRange s c.dest c.bytes → s.localWaits c = false → s.destWaits c = false → Runs (.ceCombine i) s fun t =>
        (∀ j, j < c.bytes / (16 + 4 * c.d) → readTriple t.ccd.mem (c.dest + (16 + 4 * c.d) * j) c.d =
          (let new := readTriple s.ccd.mem (c.localAddr + (16 + 4 * c.d) * j) c.d
           if c.first then new else mergeTriple (readTriple s.ccd.mem (c.dest + (16 + 4 * c.d) * j) c.d) new)) ∧
        (∀ a, (a < c.dest ∨ c.dest + c.bytes ≤ a) → Mem.get t.ccd.mem a = Mem.get s.ccd.mem a) ∧
        t.ce.running = s.ce.running ++ [(c, .finished)] ∧ t.hbm = s.hbm) ∧
      (c.kind = 5 → Runs (.ceMirror i) s fun t =>
        t.standby.ranges = s.standby.ranges ++ [(c.ply, c.localAddr, c.dest, c.bytes, c.cls)] ∧
        t.ce.running = s.ce.running ++ [(c, .finished)] ∧ t.ce.stepQ = rest ∧ MemorySame s t ∧ t.blocks = s.blocks)) ∧
  (∀ (s : State) (i k q : Nat) (c : CeStep) (x : Contribution), s.inPly = true → s.ceRunning i = some (c, .waiting k) →
      s.redsOf i = false → q = c.queues.getD k 0 → s.contribution c q = some x → x.malformed c = false →
      s.destWaits c = false → Runs (.ceContributionReady i) s fun t =>
      t.ceRunning i = some (c, if c.kind ≠ 2 ∧ k + 1 < c.nin then .waiting (k + 1) else .finished) ∧
      SMap.get [] t.ce.inQ q = (SMap.get [] s.ce.inQ q).drop (c.frames + 1) ∧ t.ce.stepQ = s.ce.stepQ ∧
      ∀ p, p ≠ q → SMap.get [] t.ce.inQ p = SMap.get [] s.ce.inQ p) ∧
  (∀ (s : State) (i : Nat) (c : CeStep), s.inPly = true → s.ceRunning i = some (c, .finished) → s.redsOf i = false →
      Runs (.ceStepComplete i) s fun t =>
      t.ceRunning i = none ∧ t.sem c.sem = min 0x0FFFFFFF (s.sem c.sem + 1) ∧ MemorySame s t ∧ t.blocks = s.blocks ∧
      ∀ j, j ≠ i → t.ceRunning j = s.ceRunning j)

/-! ### The Melob fabric -/

/-- Scheduled, check, arm, join and link frames (R44, R50, R81, R296-R298, R301, R303, R305, R314): a good frame returns
the credits it carries; an expected S_DATA frame is stored at its entry's destination and counted once, and one that
does not fit its entry is counted as misbehaviour; S_CHECK and S_ARM combine into the flood; JOIN is heard or ends the
join; LINK frames move lanes, change widths and measure latency: ECHO_REQ is answered with its stamp. A member answers
each JOIN (R81; what that makes of two members' exchange is the model's choice, log entry 17), once its latency is
re-measured. The 544 bytes of a frame read back as the frame (R299, R300). The model's choice too: the numbering of
groups (log entry 12), barred ports and budgets (log entry 36), the spare after a move (log entry 69), and bits without
a meaning (log entry 70). -/
def Obligations.FabricFramesReceived : Prop :=
  (∀ (f : Frame) (h : FrameHdr), FrameFits f → h.reservedSet = false →
      (frameBytes f h).length = 544 ∧ readFrame (frameBytes f h) = .inr (h, f) ∧
      ∀ (s : State) (p trip i : Nat) (errs : List Nat),
        ((∀ c ∈ frameCodewords i, errs.getD c 0 ≤ 15) → s.arrive p trip i errs (frameBytes f h) = s.receive p trip h f) ∧
        ((∃ c ∈ frameCodewords i, 15 < errs.getD c 0) →
          s.arrive p trip i errs (frameBytes f h) = exec (.corruptFrame p (.fec (newlyLost errs i))) s)) ∧
  (∀ (s : State) (p : Nat) (h : FrameHdr), Hears s p h → Runs (.idleFrame p h) s fun t => t = heard s p h) ∧
  (∀ (s : State) (p : Nat) (h : FrameHdr), PortUp s p → (s.port p).realigning = false → h.reservedSet = true →
      ((s.port p).sent0 - h.freed0).toNat ≤ 64 → ((s.port p).sent1 - h.freed1).toNat ≤ 64 →
      Runs (.idleFrame p h) s fun t => (t.port p).viol = satAdd (s.port p).viol 1 ∧ OtherPorts s t p ∧ MemorySame s t) ∧
  (∀ (s : State) (p e : Nat) (h : FrameHdr) (f : SData) (pl : Section) (x : Xfer), Hears s p h →
      (s.port p).joinDue = false → s.running = true → s.inPly = true → s.plan = some pl → pl.xfers[e]? = some x →
      x.expect = true → x.port = p → s.xferApplies x = true → x.flow = f.flow.toNat →
      (∀ e' y, pl.xfers[e']? = some y → y.expect = true → y.port = p → s.xferApplies y = true → y.flow = f.flow.toNat →
        e' = e) →
      (f.plyLo.toNat = s.sch.ply.toNat % 2 ^ 32 → f.seq.toNat < x.frames →
        f.seq.toNat ∉ SMap.get [] s.fab.accepted e → s.plyTick ≤ x.tick →
        (x.kind ≠ 2 → x.kind ≠ 4 → HeldRange s (x.offset + 512 * f.seq.toNat) 512 →
          s.serveSched.waits true (x.offset + 512 * f.seq.toNat) 512 = false → Runs (.sDataFrame p h f) s fun t =>
          StoredAt s t (x.offset + 512 * f.seq.toNat) 512 (Mem.get (Mem.take f.payload 512)) ∧
          SMap.get [] t.fab.received e = f.seq.toNat :: SMap.get [] s.fab.received e ∧
          SMap.get [] t.fab.accepted e = f.seq.toNat :: SMap.get [] s.fab.accepted e ∧ t.blocks = s.blocks) ∧
        (x.kind ≠ 2 → x.kind ≠ 4 → s.serveSched.waits true (x.offset + 512 * f.seq.toNat) 512 = true →
          Runs (.sDataFrame p h f) s fun t =>
          SMap.get [] t.fab.received e = SMap.get [] s.fab.received e ∧
          SMap.get [] t.fab.accepted e = f.seq.toNat :: SMap.get [] s.fab.accepted e ∧ MemorySame s t ∧
          t.ccd.waiting = s.ccd.waiting ++ [.frame (x.offset + 512 * f.seq.toNat) (Mem.take f.payload 512) f.pmask e
            f.seq.toNat s.sch.start]) ∧
        (∀ b o, x.kind = 2 → b = x.offset / 2 ^ 48 % 256 → o = x.offset % 2 ^ 21 + 512 * f.seq.toNat →
          o + 512 ≤ s.unitTop b → Runs (.sDataFrame p h f) s fun t =>
          ArrayAt s t b o 512 (Mem.get (Mem.take f.payload 512)) ∧ MemorySame s t ∧
          SMap.get [] t.fab.received e = f.seq.toNat :: SMap.get [] s.fab.received e ∧ ∀ c, c ≠ b → t.blk c = s.blk c) ∧
        (∀ q g, x.kind = 4 → q = x.offset % 64 → (SMap.get [] s.ce.inQ q).length < 512 →
          g = { payload := Mem.take f.payload 512, pmask := f.pmask, port := p, entry := e, seq := f.seq.toNat,
                last := decide (f.seq.toNat + 1 = x.frames) : CeFrame } → Runs (.sDataFrame p h f) s fun t =>
          (∃ l r, SMap.get [] s.ce.inQ q = l ++ r ∧ SMap.get [] t.ce.inQ q = l ++ g :: r ∧
            ((∀ y ∈ l ++ r, y.entry = e → y.seq < f.seq.toNat) → ∀ y ∈ r, y.entry ≠ e) ∧
            ((∀ y ∈ l ++ r, y.entry ≠ e) → r = [])) ∧
          SMap.get [] t.fab.received e = f.seq.toNat :: SMap.get [] s.fab.received e ∧ MemorySame s t)) ∧
      ((f.plyLo.toNat ≠ s.sch.ply.toNat % 2 ^ 32 ∨ x.frames ≤ f.seq.toNat ∨ f.seq.toNat ∈ SMap.get [] s.fab.accepted e ∨
          x.tick < s.plyTick) → Runs (.sDataFrame p h f) s fun t =>
        (t.port p).viol = satAdd (s.port p).viol 1 ∧ t.fab.received = s.fab.received ∧ MemorySame s t ∧
        t.fab.accepted = s.fab.accepted ∧ t.blocks = s.blocks ∧ t.ce = s.ce)) ∧
  (∀ (s : State) (p : Nat) (h : FrameHdr) (f : SCheck) (fl : Flood), Hears s p h → (s.port p).joinDue = false →
      s.running = true → s.sch.flood = some fl → fl.kind ≠ .arm → p ∈ s.floodPorts →
      s.roundDue fl = some f.round.toNat → f.plyLo.toNat = fl.ply.toNat % 2 ^ 32 → Runs (.sCheckFrame p h f) s fun t =>
      ∃ g : Flood, t.sch.flood = some g ∧ g.acc.clean = (fl.acc.clean && f.clean) ∧
        g.acc.replayable = (fl.acc.replayable && f.replayable) ∧ g.acc.stop = (fl.acc.stop || f.stop) ∧
        g.acc.stretch = max fl.acc.stretch f.stretch.toNat ∧ (p, f.round.toNat) ∈ g.received ∧
        (∀ x ∈ fl.received, x ∈ g.received) ∧ g.blamed = (fl.blamed || f.blame) ∧ g.t0 = fl.t0) ∧
  (∀ (s : State) (p : Nat) (h : FrameHdr) (a : Bool) (start : W64) (fl : Flood), Hears s p h →
      (s.port p).joinDue = false → s.dev = .joined → s.sch.flood = some fl → fl.kind = .arm → p ∈ s.floodPorts →
      s.sch.laterArms = [] → Runs (.sArmFrame p h a start) s fun t =>
      ∃ g : Flood, t.sch.flood = some g ∧ g.acc.armed = (fl.acc.armed && a) ∧
        g.acc.start = max fl.acc.start start.toNat ∧ g.t0 = fl.t0) ∧
  (∀ (s : State) (p : Nat) (h : FrameHdr) (id : W64) (ldev : BitVec 15) (im : Image), Hears s p h → s.image = some im →
      (s.port p).fn ≠ 0xFF →
      (∀ j, s.sch.join = some j → id = im.imageId → ldev.toNat = s.partnerOf p → Runs (.joinFrame p h id ldev) s fun t =>
        (∃ g, t.sch.join = some g ∧ p ∈ g.heard ∧ (∀ q ∈ j.heard, q ∈ g.heard) ∧ g.uid = j.uid) ∧
        (t.port p).partner = ldev.toNat) ∧
      (∀ j, s.sch.join = some j → (id ≠ im.imageId ∨ ldev.toNat ≠ s.partnerOf p) → Runs (.joinFrame p h id ldev) s fun t =>
        t.sch.join = none ∧ Finishes s t j.uid 4 0x22 p 0 ∧ t.dev = s.dev) ∧
      (s.sch.join = none → s.inDomain = true → (s.port p).joinDue = true → id = im.imageId →
        ldev.toNat = s.partnerOf p → Runs (.joinFrame p h id ldev) s fun t =>
        (t.port p).joinDue = false ∧ (t.port p).partner = ldev.toNat ∧ OtherPorts s t p) ∧
      (s.sch.join = none → s.inDomain = true → id = im.imageId → ldev.toNat = s.partnerOf p →
        Runs (.joinFrame p h id ldev) s fun t =>
        ((s.port p).remeasure = false → (t.port p).linkQ = (s.port p).linkQ ++ [(s.joinOf, 0)]) ∧
        ((s.port p).remeasure = true →
          (t.port p).linkQ = (s.port p).linkQ ∧ (t.port p).joinOwed = (s.port p).joinOwed + 1)) ∧
      (s.sch.join = none → s.inDomain = true → (s.port p).joinDue = true →
        (id ≠ im.imageId ∨ ldev.toNat ≠ s.partnerOf p) → Runs (.joinFrame p h id ldev) s fun t =>
        WentDown s t p ∧ (t.port p).barred = true)) ∧
  (∀ (s : State) (p : Nat) (h : FrameHdr), Hears s p h →
      (∀ l g, l ≤ 16 → l ≠ (s.port p).txSpare → (s.port p).txUsed = false → (s.port p).mirror = none →
        Runs (.laneMove p h l g) s fun t =>
        t = (heard s p h).updPort p fun k => { k with
          mirror := some (l, groupNamed (s.txGroup p) g.toNat), txUsed := false }) ∧
      (∀ l g, (16 < l ∨ l = (s.port p).txSpare ∨ (s.port p).mirror.isSome = true) → Runs (.laneMove p h l g) s fun t =>
        (t.port p).viol = satAdd (s.port p).viol 1 ∧ (t.port p).mirror = (s.port p).mirror) ∧
      (∀ l sp pos g, (s.port p).wait = [.laneAck l sp pos g] → l ≠ sp → g ≤ s.rxGroup p → s.rxGroup p ≤ g + 1 →
        ((s.port p).lane l).position = pos → pos ≠ 0x1F → ((s.port p).lane sp).state ≠ 1 →
        Runs (.laneAck p h l) s fun t => t = heard s p h) ∧
      (∀ l sp pos g, (s.port p).wait = [.laneAck l sp pos g] → l ≠ sp → g ≤ s.rxGroup p → s.rxGroup p ≤ g + 1 →
        ((s.port p).lane l).position = pos → pos ≠ 0x1F → ((s.port p).lane sp).state = 1 →
        Runs (.laneAck p h l) s fun t =>
        ((t.port p).lane sp).position = pos ∧ ((t.port p).lane sp).state = 0 ∧
        ((t.port p).lane l).position = 0x1F ∧ (t.port p).wait = [] ∧ OtherPorts s t p ∧
        ∀ m, m ≠ l → m ≠ sp → (t.port p).lane m = (s.port p).lane m) ∧
      (∀ st ns, (s.port p).echo = some st → (s.port p).remeasure = false →
        ((s.port p).budget = 0 ∨ ns / 2 ≤ 10 * (s.port p).budget) → Runs (.echoResp p h st ns) s fun t =>
        t = (heard s p h).updPort p fun k => { k with
          echo := none, latency := min 0xFFE (ns / 2), equaliser := 10 * k.budget - ns / 2 }) ∧
      (∀ st ns, (s.port p).echo ≠ some st → Runs (.echoResp p h st ns) s fun t => t = heard s p h) ∧
      (∀ st ns, (s.port p).echo = some st → (s.port p).remeasure = true →
        ((s.port p).budget = 0 ∨ ns / 2 ≤ 10 * (s.port p).budget) → Runs (.echoResp p h st ns) s fun t =>
        (t.port p).linkQ = (s.port p).linkQ ++
          List.replicate ((if (s.port p).joinOwn then 1 else 0) + (s.port p).joinOwed) (s.joinOf, 0) ∧
        (t.port p).remeasure = false ∧ (t.port p).joinOwed = 0 ∧ OtherPorts s t p) ∧
      (∀ st, Runs (.echoReq p h st) s fun t =>
        t = (heard s p h).updPort p fun k => { k with linkQ := k.linkQ ++ [(.link .echoResp 0 false st, 0)] }) ∧
      (∀ st ns j, (s.port p).echo = some st → 0 < (s.port p).budget → 10 * (s.port p).budget < ns / 2 → s.sch.join = some j →
        Runs (.echoResp p h st ns) s fun t => t.sch.join = none ∧ Finishes s t j.uid 4 0x23 p 0) ∧
      (∀ w g, (s.port p).wait = [] → Runs (.widthFrame p h w g) s fun t =>
        t = (heard s p h).updPort p fun k => { k with
          txWidths := k.txWidths ++ [(w, groupNamed (s.txGroup p) g.toNat)] }) ∧
      (∀ w g x, (s.port p).wait = [.width w x] → x % 2 ^ 32 = g.toNat → x ≤ s.rxGroup p → s.rxGroup p ≤ x + 1 →
        Runs (.widthFrame p h w g) s fun t =>
        (t.port p).rxBase = x ∧ (t.port p).state = (if w then 3 else 2) ∧ (t.port p).wait = [] ∧ OtherPorts s t p))

/-- Service frames and tags (R309-R313): a READ that names this device is answered with the bytes held there and a
WRITE is stored and answered; a RESPONSE or NAK of an outstanding tag frees it and tells its user, and any other is
counted as late; an unanswered request is sent again, then abandoned into quarantine, which ends. -/
def Obligations.ServiceTraffic : Prop :=
  (∀ (s : State) (p q r a : Nat) (vc : Bool) (h : FrameHdr) (f : VFrame), Hears s p h → (s.port p).joinDue = false →
      ((if f.vc then (s.port p).got1 - (s.port p).freed1 else (s.port p).got0 - (s.port p).freed0) + 1).toNat ≤ 64 →
      s.isMe f.dst.toNat = true → s.inDomain = true → (s.running = true → s.inPly = true) → a = 256 * f.addr.toNat →
      a % vBytes f = 0 → a + vBytes f ≤ memBytes → HeldRange s a (vBytes f) →
      s.route f.src.toNat f.tag.toNat none = some (q, r, vc) →
      ((s.serveAs f.bwclass.toNat 99).waits false a (vBytes f) = false → Runs (.vRead p h f) s fun t =>
        (∃ x : VFrame, (t.port q).vQ = (s.port q).vQ ++ [(.v x, r, none)] ∧ x.op = .response ∧ x.dst = f.src ∧ x.src = f.dst ∧
          x.tag = f.tag ∧ x.gen = f.gen ∧ x.vc = vc ∧
          ∀ i, i < vBytes f → Mem.get x.payload i = Mem.get s.ccd.mem (a + i)) ∧ MemorySame s t) ∧
      (a ≠ 0xFFFFFFFF00 → (s.serveAs f.bwclass.toNat 99).waits true a (vBytes f) = false → Runs (.vWrite p h f) s fun t =>
        (∃ x : VFrame, (t.port q).vQ = (s.port q).vQ ++ [(.v x, r, none)] ∧ x.op = .response ∧ x.dst = f.src ∧ x.tag = f.tag ∧
          x.gen = f.gen) ∧
        StoredAt s t a (vBytes f) (Mem.get (Mem.take f.payload 512)))) ∧
  (∀ (s : State) (p sends last : Nat) (ply : W64) (h : FrameHdr) (f req : VFrame) (use : SvcUse), Hears s p h →
      (s.port p).joinDue = false →
      ((if f.vc then (s.port p).got1 - (s.port p).freed1 else (s.port p).got0 - (s.port p).freed0) + 1).toNat ≤ 64 →
      s.isMe f.dst.toNat = true → s.fab.waiting = [] → (s.tag f.tag.toNat).st = .out req sends last use ply →
      f.gen = (s.tag f.tag.toNat).gen → f.src = req.dst →
      (∀ uid off a, use = .copy uid off → req.op = .read → s.desc uid = some a →
        HeldRange s (dwQ a.dws 4 + off) (vBytes req) →
        (s.serveAs req.bwclass.toNat 96).waits true (dwQ a.dws 4 + off) (vBytes req) = false → Runs (.vResponse p h f) s fun t =>
        StoredAt s t (dwQ a.dws 4 + off) (vBytes req) (Mem.get (Mem.take f.payload 512)) ∧
        (t.tag f.tag.toNat).st = (if 1 < sends then .quarantine s.tick else .free) ∧
        SMap.get 0 t.fab.copies uid = SMap.get 0 s.fab.copies uid - vBytes req ∧
        (SMap.get 0 s.fab.copies uid = vBytes req → f.pmask = 0 → uid ∉ s.fab.copyPoison →
          Finishes s t uid 0 0 0 (ceilDiv (dwQ a.dws 6 % 2 ^ 40) 1024))) ∧
      (∀ uid off, use = .copy uid off → f.reason ≠ 6 → Runs (.vNak p h f) s fun t =>
        Finishes s t uid 0xF f.reason.toNat 0 0 ∧ MemorySame s t ∧
        (t.tag f.tag.toNat).st = (if 1 < sends then .quarantine s.tick else .free))) ∧
  (∀ (s : State) (p : Nat) (h : FrameHdr) (f : VFrame), Hears s p h → (s.port p).joinDue = false →
      ((if f.vc then (s.port p).got1 - (s.port p).freed1 else (s.port p).got0 - (s.port p).freed0) + 1).toNat ≤ 64 →
      s.isMe f.dst.toNat = true → (s.tag f.tag.toNat).st = .free →
      (Runs (.vResponse p h f) s fun t => t.fab.late = satAdd s.fab.late 1 ∧ t.fab.tags = s.fab.tags ∧
        t.hif.active = s.hif.active ∧ t.sch = s.sch ∧ t.blocks = s.blocks ∧ MemorySame s t) ∧
      (Runs (.vNak p h f) s fun t => t.fab.late = satAdd s.fab.late 1 ∧ t.fab.tags = s.fab.tags ∧
        t.hif.active = s.hif.active ∧ t.sch = s.sch ∧ t.blocks = s.blocks ∧ MemorySame s t)) ∧
  (∀ (s : State) (g sends last q r : Nat) (vc : Bool) (ply : W64) (req : VFrame) (use : SvcUse), g < 4096 →
      s.fabricOn = true → (s.tag g).st = .out req sends last use ply → last + 100 * s.fab.retry ≤ s.tick →
      (sends ≤ s.fab.retries → s.route req.dst.toNat req.tag.toNat none = some (q, r, vc) →
        Runs (.serviceRetryTimeout g) s fun t =>
        t.tag g = { s.tag g with st := .out req (sends + 1) s.tick use ply } ∧
        (t.port q).vQ = (s.port q).vQ ++ [(.v { req with vc := vc }, r, none)] ∧ MemorySame s t) ∧
      (∀ uid off, s.fab.retries < sends → use = .copy uid off → s.fab.waiting = [] → s.mainOn = true →
        Runs (.serviceRetryTimeout g) s fun t =>
        (t.tag g).st = .quarantine s.tick ∧ t.fab.abandoned = satAdd s.fab.abandoned 1 ∧
        Finishes s t uid 0xF 0xFF 0 0 ∧ MemorySame s t)) ∧
  (∀ (s : State) (g since : Nat), g < 4096 → (s.tag g).st = .quarantine since → s.fab.waiting = [] →
      since + 100 * s.fab.quarantine ≤ s.tick → Runs (.quarantineEnd g) s fun t =>
      t = s.updTag g fun x => { x with st := .free })

/-- Transmission (R296, R301, R302, R304, R306): a send entry's source is read ahead and its frames join its port's
queue at its tick; a slot sends what is due first, then link, scheduled and service frames, else IDLE; missing frames
of an expect entry make the ply not clean. -/
def Obligations.FabricTransmission : Prop :=
  (∀ (s : State) (e : Nat) (x : Xfer), s.xferNow e = some x → x.expect = false → s.sendTick x ≤ s.plyTick + 20 →
      s.fab.led.lookup e = none → x.kind ≠ 2 → x.kind ≠ 4 → HeldRange s x.offset (512 * x.frames) →
      s.serveSched.waits false x.offset (512 * x.frames) = false → Runs (.sendReadLead e) s fun t =>
      (∃ l : List CeFrame, t.fab.led.lookup e = some l ∧ l.length = x.frames ∧
        ∀ (i j : Nat) (f : CeFrame), l[i]? = some f → j < 512 →
          Mem.get f.payload j = Mem.get s.ccd.mem (x.offset + 512 * i + j)) ∧ MemorySame s t ∧ t.blocks = s.blocks) ∧
  (∀ (s : State) (e : Nat) (x : Xfer), s.xferNow e = some x → x.expect = false → s.sendTick x ≤ s.plyTick →
      e ∉ s.fab.released → s.standby.place = none → Runs (.sendEntryRelease e) s fun t =>
      t.fab.released = e :: ((s.sendsBefore e x).map Prod.fst).reverse ++ s.fab.released ∧ OtherPorts s t x.port ∧
      t.port x.port = (if (s.port x.port).isUp then { s.port x.port with
        sched := (s.port x.port).sched ++ (s.sendsBefore e x ++ [(e, x)]).flatMap fun y =>
          (List.range y.2.frames).map fun i => (.entry y.1 i, 0) } else s.port x.port)) ∧
  (∀ (s : State) (e : Nat) (x : Xfer), s.xferNow e = some x → x.expect = true → x.tick + s.relayShift ≤ s.plyTick →
      e ∉ s.fab.deadlines → Runs (.expectEntryDeadline e) s fun t =>
      t.fab.deadlines = e :: s.fab.deadlines ∧
      t.sch.cur.clean = (s.sch.cur.clean && s.xferDone e) ∧ t.sch.cur.selfCulprit = s.sch.cur.selfCulprit ∧
      t.fab.received = s.fab.received ∧ MemorySame s t) ∧
  (∀ (s : State) (p : Nat), PortUp s p → (s.port p).joinDue = false → (s.port p).joinOwn = false →
      (∀ f r rest, (s.port p).due = (f, r) :: rest → Runs (.frameSlot p) s fun t =>
        t = s.updPort p fun k => { k with
          due := rest, lastSent := some (f, r), lastHdr := k.hdr r, framesSent := k.framesSent + 1 }) ∧
      (∀ f r rest, (s.port p).due = [] → (s.port p).mirror = none → (s.port p).txWidths = [] →
        (s.port p).linkQ = (f, r) :: rest → Runs (.frameSlot p) s fun t =>
        t = s.updPort p fun k => { k with
          linkQ := rest, lastSent := some (f, r), lastHdr := k.hdr r, framesSent := k.framesSent + 1 }) ∧
      (∀ w g, (s.port p).due = [] → (s.port p).mirror = none → (s.port p).txWidths = [(w, g)] → g ≤ s.txGroup p →
        Runs (.frameSlot p) s fun t =>
        t = s.updPort p fun k => { k with
          txWidths := [], txEight := w, txBase := g, txAt := groupStart k.txBase k.txAt k.txEight g
          lastSent := some (.link .width 0 w (BitVec.ofNat 32 g), 0), lastHdr := k.hdr 0
          framesSent := k.framesSent + 1 }) ∧
      (∀ l g, (s.port p).due = [] → (s.port p).mirror = some (l, g) → g ≤ s.txGroup p → Runs (.frameSlot p) s fun t =>
        t = s.updPort p fun k => { k with
          mirror := none, txSpare := l, txUsed := true, lastSent := some (.link .laneAck (BitVec.ofNat 5 l) false 0, 0)
          lastHdr := k.hdr 0, framesSent := k.framesSent + 1 }) ∧
      (∀ e i r rest x f l, (s.port p).due = [] → (s.port p).mirror = none → (s.port p).txWidths = [] →
        (s.port p).linkQ = [] → (s.port p).sched = (.entry e i, r) :: rest →
        (s.plan.bind fun pl => pl.xfers[e]?) = some x → x.kind ≠ 4 → s.fab.led.lookup e = some l → l[i]? = some f →
        Runs (.frameSlot p) s fun t =>
        t = s.updPort p fun k => { k with
          sched := rest, framesSent := k.framesSent + 1, lastHdr := k.hdr r
          lastSent := some (.sData { flow := BitVec.ofNat 16 x.flow, seq := BitVec.ofNat 16 i,
                                     plyLo := BitVec.ofNat 32 s.sch.ply.toNat, pmask := f.pmask, payload := f.payload }, r) }) ∧
      (∀ f r buf, (s.port p).due = [] → (s.port p).mirror = none → (s.port p).txWidths = [] → (s.port p).linkQ = [] →
        (s.port p).sched = [] → (s.port p).vQ = [(.v f, r, buf)] → (∀ b, buf = some b → b.port = p) →
        ((if f.vc then (s.port p).sent1 - (s.port p).theirFreed1
          else (s.port p).sent0 - (s.port p).theirFreed0).toNat < 64) → Runs (.frameSlot p) s fun t =>
        (t.port p).vQ = [] ∧ (t.port p).lastSent = some (.v f, r) ∧
        (t.port p).sent0 = (if f.vc then (s.port p).sent0 else (s.port p).sent0 + 1) ∧
        (t.port p).sent1 = (if f.vc then (s.port p).sent1 + 1 else (s.port p).sent1) ∧ OtherPorts s t p) ∧
      ((s.port p).due = [] → (s.port p).mirror = none → (s.port p).txWidths = [] → (s.port p).linkQ = [] →
        (s.port p).sched = [] → (s.port p).vQ = [] → Runs (.frameSlot p) s fun t =>
        t = s.updPort p fun k => { k with
          lastSent := some (.idle, 0), lastHdr := k.hdr 0, framesSent := k.framesSent + 1 }))

/-- Ports and lanes (R296-R298, R303, R306, R314): failing frames are counted, and make the ply not clean while an
expect entry of the port is incomplete; three bad synchronisations realign the receiver; silence or a missing answer
takes the port down; a trained port comes up on 16 lanes with fresh counts; a lane retires onto the spare, retrains, and
is good again or counts a failure; the latency is measured again. The model's choice: which lanes carry a port (log
entry 13), when a missing answer acts (log entry 36), training after a main-side reset (log entry 61), and the spare
after a move (log entry 69). -/
def Obligations.PortsAndLanes : Prop :=
  (∀ (s : State) (p : Nat), PortUp s p → (s.port p).realigning = false →
      (Runs (.corruptFrame p .crc) s fun t => (t.port p).crcErr = satAdd (s.port p).crcErr 1 ∧ OtherPorts s t p ∧
        t.sch.cur.clean = (s.sch.cur.clean && !(s.inPly && s.expecting p && !s.sch.cur.fecPorts.contains p)) ∧
        MemorySame s t) ∧
      (∀ n, Runs (.corruptFrame p (.fec n)) s fun t => (t.port p).fecUncorr = satAdd (s.port p).fecUncorr n ∧
        OtherPorts s t p) ∧
      (Runs (.corruptFrame p .sync) s fun t => (t.port p).badSync = (s.port p).badSync + 1 ∧
        ((t.port p).realigning = true ↔ 2 ≤ (s.port p).badSync) ∧ OtherPorts s t p) ∧
      (∀ h : FrameHdr, ((s.port p).sent0 - h.freed0).toNat ≤ 64 → ((s.port p).sent1 - h.freed1).toNat ≤ 64 →
        Runs (.corruptFrame p (.unknownType h)) s fun t => (t.port p).viol = satAdd (s.port p).viol 1 ∧
        (t.port p).theirFreed0 = h.freed0 ∧ (t.port p).got1 = h.sent1 ∧ OtherPorts s t p)) ∧
  (∀ (s : State) (p : Nat), p < 20 → (s.port p).realigning = true → Runs (.receiverRealign p) s fun t =>
      t = s.updPort p fun k => { k with realigning := false, badSync := 0 }) ∧
  (∀ (s : State) (p : Nat), PortUp s p →
      ((s.port p).lastValid + 1000 ≤ s.tick → Runs (.noFrameTimeout p) s fun t => WentDown s t p) ∧
      (s.tick < (s.port p).lastValid + 1000 → Runs (.noFrameTimeout p) s fun t => t = s) ∧
      ((∃ w ∈ (s.port p).wait, w.group + 1 < s.rxGroup p) → Runs (.linkAnswerTimeout p) s fun t => WentDown s t p) ∧
      ((∀ w ∈ (s.port p).wait, s.rxGroup p ≤ w.group + 1) → Runs (.linkAnswerTimeout p) s fun t => t = s) ∧
      ((s.port p).echoAt + 100000 ≤ s.tick → Runs (.latencyRemeasure p) s fun t =>
        ∃ x, t.port p = { s.port p with
          linkQ := (s.port p).linkQ ++ [(.link .echoReq 0 false x, 0)], echo := some x, echoAt := s.tick } ∧
        OtherPorts s t p)) ∧
  (∀ (s : State) (p : Nat), p < 20 → s.fabricOn = true → s.portLicensed p = true → ((s.port p).state = 1 ∨ (s.port p).state = 4) →
      (s.port p).barred = false → (s.port p).failedBoot = false → (∀ l, l < 17 → ((s.port p).lane l).failedRetrains < 3) →
      Runs (.portUp p []) s fun t =>
      (t.port p).state = 2 ∧ (t.port p).upAt = s.tick ∧
      (∀ l, l < 16 → ((t.port p).lane l).position = l ∧ ((t.port p).lane l).state = 0) ∧
      ((t.port p).lane 16).state = 1 ∧ (t.port p).sent0 = 0 ∧ (t.port p).sent1 = 0 ∧ (t.port p).wait = [] ∧
      (t.port p).joinDue = (s.inDomain && decide ((s.port p).fn ≠ 0xFF)) ∧ OtherPorts s t p ∧
      (s.inDomain = true → (s.port p).fn ≠ 0xFF → (t.port p).joinOwn = true) ∧
      ∃ w, (t.port p).echo = some w ∧ (t.port p).linkQ = (s.port p).linkQ ++ [(.link .echoReq 0 false w, 0)]) ∧
  (∀ (s : State) (p l : Nat), p < 20 → s.fabricOn = true → s.portLicensed p = true → ((s.port p).state = 1 ∨ (s.port p).state = 4) →
      (s.port p).barred = false → (s.port p).failedBoot = false → (∀ m, m < 17 → ((s.port p).lane m).failedRetrains < 3) →
      l < 17 → Runs (.portUp p [l]) s fun t =>
      (t.port p).state = 2 ∧ (t.port p).upAt = s.tick ∧ ((t.port p).lane l).state = 2 ∧
      (∀ m, m < 17 → m ≠ l → ((t.port p).lane m).state = 0) ∧ OtherPorts s t p) ∧
  (∀ (s : State) (p : Nat) (bad : List Nat), p < 20 → s.fabricOn = true → s.portLicensed p = true →
      ((s.port p).state = 1 ∨ (s.port p).state = 4) → (s.port p).barred = false → (s.port p).failedBoot = false →
      ((s.port p).train bad).goodLanes.length < 8 → Runs (.portUp p bad) s fun t =>
      (t.port p).state = 4 ∧ (t.port p).lanes = ((s.port p).train bad).lanes ∧ OtherPorts s t p) ∧
  (∀ (s : State) (p l sp g : Nat), PortUp s p → l < 17 → (s.port p).state = 2 → ((s.port p).lane l).state = 0 →
      ((s.port p).lane l).position ≠ 0x1F → (∀ m, m < 17 → m ≠ l → ((s.port p).lane m).state < 2) →
      (s.port p).spare = some sp → (s.port p).wait = [] → g = s.moveGroup p → Runs (.laneLossOfLock p l) s fun t =>
      ((t.port p).lane l).state = 2 ∧ ((t.port p).lane l).lock = false ∧
      (t.port p).wait = [.laneAck l sp ((s.port p).lane l).position g] ∧
      (t.port p).linkQ = (s.port p).linkQ ++ [(.link .laneMove (BitVec.ofNat 5 l) false (BitVec.ofNat 32 g), 0)] ∧
      (t.port p).state = 2 ∧ OtherPorts s t p) ∧
  (∀ (s : State) (p l n c : Nat), PortUp s p → l < 17 → n ≤ s.fab.laneThresh → Runs (.laneSymbolWindow p l n c) s fun t =>
      (t.port p).fecCorr = satAdd (s.port p).fecCorr (min c n) ∧
      ((t.port p).lane l).sym = satAdd 0 n ∧ ((t.port p).lane l).state = ((s.port p).lane l).state ∧
      (t.port p).state = (s.port p).state ∧ OtherPorts s t p) ∧
  (∀ (s : State) (p l : Nat), p < 20 → l < 17 → s.fabricOn = true → ((s.port p).lane l).state = 2 →
      (s.port p).wait = [] →
      ((s.port p).state ≠ 3 → Runs (.laneRetrainComplete p l true) s fun t =>
        ((t.port p).lane l).state = 1 ∧ ((t.port p).lane l).failedRetrains = 0 ∧
        (∀ m, m ≠ l → (t.port p).lane m = (s.port p).lane m) ∧ OtherPorts s t p) ∧
      (Runs (.laneRetrainComplete p l false) s fun t =>
        ((t.port p).lane l).failedRetrains = ((s.port p).lane l).failedRetrains + 1 ∧
        ((t.port p).lane l).state = (if 2 ≤ ((s.port p).lane l).failedRetrains then 3 else 2) ∧
        (∀ m, m ≠ l → (t.port p).lane m = (s.port p).lane m) ∧ OtherPorts s t p))

/-! ### Bandwidth windows and the management port -/

/-- Epochs and counting windows (R377, R383): at a tick that is a multiple of 100 every byte count restarts, and
nothing else moves; bytes of a block's access that stand over count in the new epoch up to the ceiling (the model's choice,
log entry 44); at a window's end the 88 counters move together to the snapshot and the number goes up by one; a
window that a discard spoiled leaves no snapshot, and the number at 0 (Table 14.9). -/
def Obligations.BandwidthWindows : Prop :=
  (∀ s : State, s.mainOn = true → s.dev ≠ .fault → s.qosTick % 100 = 0 → s.qos.epochAt ≠ some s.tick →
      (∀ e ∈ s.qos.res, e.2.excess = []) → Runs .qosEpoch s fun t =>
      (∀ r m, t.qos.used r m = 0) ∧
      (∀ e ∈ t.qos.res, ∃ k : QosRes, (e.1, k) ∈ s.qos.res ∧ e.2 = { k with bytes := [] }) ∧
      (∀ e ∈ s.qos.res, { e.2 with bytes := [] } ≠ ({} : QosRes) → (e.1, { e.2 with bytes := [] }) ∈ t.qos.res) ∧
      t = { s with qos := { s.qos with res := t.qos.res, epochAt := some s.tick } }) ∧
  (∀ (s : State) (m n : Nat) (k : QosRes), s.mainOn = true → s.dev ≠ .fault → s.qosTick % 100 = 0 →
      s.qos.epochAt ≠ some s.tick → s.qos.res = [(0, k)] → k.excess = [(m, n)] → m < 96 → 0 < n → Runs .qosEpoch s fun t =>
      t.qos.used 0 m = min n 500000 ∧ SMap.get 0 (t.qos.resAt 0).excess m = n - 500000 ∧
      (500000 ≤ n ↔ t.qos.ceiling 0 m = true)) ∧
  (∀ s : State, s.mainOn = true → s.dev ≠ .fault → s.qosTick % (100 * s.qos.win) = 0 → s.qos.winAt ≠ some s.tick →
      Runs .qosWindowEnd s fun t =>
      t = { s with qos := { s.qos with
        counting := [], winAt := some s.tick, discard := false
        snapshot := if s.qos.discard then s.qos.snapshot else s.qos.counting
        winSeq := if s.qos.discard then 0 else s.qos.winSeq + 1 } })

/-- The port (R472-R475, R481): ENTDAA gives it its address, in answer to its provisioned ID; MCTP control sets and
tells its endpoint ID and types; an answer raises the in-band interrupt until the controller has read it; the bus owner
sets the transmission unit; a request is reassembled to at most 8,192 B, and a message that may not be is discarded and
counted; PLDM tells the types served, reads a sensor (die, HBM and power sensors only with the main side), and takes a
firmware image, whose checks answer 0x80 + reason, or begin its store write; a second update is refused. Where the ROM
responder runs, a sensor read is answered with status 0x02. The port's discipline beyond the rules, and the choice of
message types, are the model's (log entries 48 and 50). -/
def Obligations.ManagementTransport : Prop :=
  (∀ (s : State) (a : BitVec 7), s.dev ≠ .off → Runs (.i3cEntdaa a) s fun t =>
      t = { s with mgmt := { s.mgmt with addr := some a, pidSent := some (Config.provisionedId s.flash.serial) } }) ∧
  (∀ s : State, s.dev ≠ .off → s.mgmt.addr.isSome = true →
      (∀ e : Byte, Runs (.mctpControl (.setEid e)) s fun t =>
        t.mgmt.eid = e ∧ t.mgmt.resp = some (.mctp e) ∧ t = { s with mgmt := t.mgmt }) ∧
      Runs (.mctpControl .getEid) s (fun t => Answers s t (.mctp s.mgmt.eid)) ∧
      Runs (.mctpControl .getVersion) s (fun t => Answers s t .mctpVersion) ∧
      Runs (.mctpControl .getMessageTypes) s (fun t => Answers s t (.mctpTypes [0, 1, 5, 0x7F])) ∧
      Runs (.mctpControl .dropped) s (fun t =>
        t = { s with mgmt := { s.mgmt with assembly := none, discarded := s.mgmt.discarded + 1 } }) ∧
      (∀ n, Runs (.mctpControl (.setUnit n)) s fun t =>
        t = { s with mgmt := { s.mgmt with unit := if 64 ≤ n ∧ n ≤ 256 then n else s.mgmt.unit } }) ∧
      Runs (.mctpControl .privateRead) s (fun t => t = { s with mgmt := { s.mgmt with ibi := false } }) ∧
      (∀ (stop owner : Bool) (n k : Nat), s.mgmt.assembly = some n → k ≤ s.mgmt.unit →
        Runs (.mctpControl (.packet false stop owner k true)) s fun t => t = { s with mgmt :=
          if owner = true ∧ n + k ≤ 8192 then { s.mgmt with assembly := if stop = true then none else some (n + k) }
          else { s.mgmt with assembly := none, discarded := s.mgmt.discarded + 1 } }) ∧
      Runs .pldmDiscovery s (fun t => Answers s t (.pldmDiscovery (if s.mgmt.fwRuns = true then [0, 2, 5] else [0, 5]))) ∧
      (∀ (m : Mem) (n : Nat),
        (s.sec.staging.isSome = true → Runs (.pldmFirmwareUpdate m n) s fun t => Answers s t .pldmInUpdate) ∧
        (∀ r : Nat, s.sec.staging = none → fwCheck (Mem.take m n) n s.flash.floor = .inl r →
          Runs (.pldmFirmwareUpdate m n) s fun t => Answers s t (.pldmApply (0x80 + r))) ∧
        (∀ f : FwInfo, s.sec.staging = none → fwCheck (Mem.take m n) n s.flash.floor = .inr f →
          Runs (.pldmFirmwareUpdate m n) s fun t => t = { s with
            flash := { s.flash with store := none }, sec := { s.sec with staging := some (f, none) } }))) ∧
  (∀ s : State, Served s →
      (∀ k, k < 96 → Runs (.pldmSensorRead (.diode k)) s fun t =>
        Answers s t (.pldmSensor (if s.mainOn = true then s.thm.last.diode.getD k none else none))) ∧
      (∀ k, k < 8 → Runs (.pldmSensorRead (.hbm k)) s fun t =>
        Answers s t (.pldmSensor (if s.mainOn = true then s.thm.last.hbm.getD k none else none))) ∧
      (∀ k, k < 2 → Runs (.pldmSensorRead (.ext k)) s fun t =>
        Answers s t (.pldmSensor ((if s.mainOn = true then s.thm.last.ext else s.mgmt.ext).getD k none))) ∧
      (∀ k, k < 4 → Runs (.pldmSensorRead (.therm k)) s fun t =>
        Answers s t (.pldmSensor ((if s.mainOn = true then s.thm.last.therm else s.mgmt.therm).getD k none))) ∧
      Runs (.pldmSensorRead .inputPower) s (fun t =>
        Answers s t (.pldmSensor (if s.mainOn = true then some (s.pwr.pIn : Int) else none))) ∧
      Runs (.pldmSensorRead .inputVoltage) s (fun t =>
        Answers s t (.pldmSensor (if s.mainOn = true then some (s.pwr.vIn : Int) else none))) ∧
      Runs (.pldmSensorRead .deviceState) s (fun t => Answers s t (.pldmSensor (some (s.dev.code : Int))))) ∧
  (∀ (s : State) (x : Sensor), s.dev ≠ .off → s.mgmt.addr.isSome = true → s.mgmt.fwRuns = false →
      (Instr.pldmSensorRead x).wf = true →
      Runs (.pldmSensorRead x) s fun t => Answers s t (.vendor 0 2 s.dev.code []))

/-- The SPDM responder (R406-R408): the requests that need no key are answered whenever the responder is reached;
CHALLENGE and signed GET_MEASUREMENTS are answered, with a signature of the identity key over the exchanges, in READY,
JOINED, RUNNING and DRAINED with a valid identity, and with ERROR Busy in every other case. Keys, certificates and the
signature's bytes are opaque constants (log entry 6), and which exchanges a signature covers is the model's reading (log
entry 49). -/
def Obligations.SpdmResponder : Prop :=
  ∀ (s : State) (doe : Bool), SpdmReached doe s →
    Runs (.getVersion doe) s (fun t => SpdmAnswers s t doe .version .version) ∧
    Runs (.getCapabilities doe) s (fun t => SpdmAnswers s t doe .capabilities .capabilities) ∧
    Runs (.negotiateAlgorithms doe) s (fun t => SpdmAnswers s t doe .algorithms .algorithms) ∧
    Runs (.getDigests doe) s (fun t => SpdmAnswers s t doe .digests (.digests (sha256 s.flash.certChain))) ∧
    Runs (.getCertificate doe) s (fun t => SpdmAnswers s t doe .certificate (.certificate s.flash.certChain)) ∧
    (∀ c, s.flash.chain.get = some c → s.flash.certChain = c.root ++ c.product ++ c.device) ∧
    (∀ nonce : BitVec 256,
      (Signs s → Runs (.challenge doe nonce) s fun t => ∃ sig : Nat,
        SpdmAnswers { s with sec := { s.sec with spdmCount := s.sec.spdmCount + 1 } } t doe (.challenge nonce)
          (.challengeAuth (sha256 s.flash.certChain) sig) ∧
        ∀ p q, s.sec.idKey = some (p, q) → sig = pssSign p q (sha256 (spdmMessage
          (spdmCovered s.mgmt.spdm (.challenge nonce)) (.challenge nonce)
          (.challengeAuth (sha256 s.flash.certChain) 0))) (Config.salt s.sec.spdmCount)) ∧
      (¬ Signs s → Runs (.challenge doe nonce) s fun t => Answers s t (.spdm doe .busy))) ∧
    (∀ (nonce : BitVec 256) (i : Nat),
      Runs (.getMeasurements doe nonce i false) s (fun t =>
        SpdmAnswers s t doe (.measurements nonce i false) (.measurements (s.blocksOf i) none)) ∧
      (Signs s → Runs (.getMeasurements doe nonce i true) s fun t => ∃ sig : Nat,
        SpdmAnswers { s with sec := { s.sec with spdmCount := s.sec.spdmCount + 1 } } t doe (.measurements nonce i true)
          (.measurements (s.blocksOf i) (some sig)) ∧
        ∀ p q, s.sec.idKey = some (p, q) → sig = pssSign p q (sha256 (spdmMessage
          (spdmCovered s.mgmt.spdm (.measurements nonce i true)) (.measurements nonce i true)
          (.measurements (s.blocksOf i) none))) (Config.salt s.sec.spdmCount)) ∧
      (¬ Signs s → Runs (.getMeasurements doe nonce i true) s fun t => Answers s t (.spdm doe .busy)))

/-- The vendor commands (R476-R484): one is served at a time, and one that comes while a salvage runs waits; a header
with a reserved byte, length or parameter out of order is answered 0x01, and every answer repeats the instance number;
records of either store; the thermal and the replace record; clearing parts of the latter; the hold, force off, and
MAIN_RESET with their keys; a licence; and salvage, which sends one 4 KiB page of HBM after another with its poison map.
The corners of the vendor commands and of salvage are the model's reading (log entries 50 and 51). -/
def Obligations.ManagementCommands : Prop :=
  (∀ (s : State) (h : VendorHdr), Served s → VendorTurn s →
      (h.pad ≠ 0 ∨ h.badLen = true ∨ h.badParam = true →
        Runs (.getThermal h) s (fun t => Answers s t (.vendor 2 1 0 [] h.inst)) ∧
        Runs (.getReplace h) s (fun t => Answers s t (.vendor 3 1 0 [] h.inst)) ∧
        Runs (.powerHoldOff h) s (fun t => Answers s t (.vendor 5 1 0 [] h.inst)) ∧
        ∀ k, Runs (.mainReset k h) s (fun t => Answers s t (.vendor 6 1 0 [] h.inst))) ∧
      (HeaderOk h → Runs (.getReplace h) s fun t => Answers s t (.vendor 3 0 0 s.flash.replaceRec h.inst))) ∧
  (∀ (s : State) (h : VendorHdr), s.dev ≠ .off → s.mgmt.addr.isSome = true → s.mgmt.salvage.isSome = true →
      let Queued (i : Instr) (r : VendorReq) := Runs i s fun t =>
        t = { s with mgmt := { s.mgmt with waiting := s.mgmt.waiting ++ [(r, h)] } }
      Queued (.getThermal h) .thermal ∧ Queued (.getReplace h) .replaceRec ∧ Queued (.powerRelease h) .release ∧
      Queued (.powerHoldOff h) .holdOff ∧ (∀ k n c, Queued (.getRecords k n c h) (.records k n c)) ∧
      (∀ m, Queued (.clearReplace m h) (.clearReplace m)) ∧ (∀ k, Queued (.powerForceOff k h) (.forceOff k)) ∧
      ∀ m ok, Queued (.installLicence m ok h) (.licence m ok)) ∧
  (∀ (s : State) (i n : Nat), s.dev ≠ .off → s.mgmt.addr.isSome = true → VendorTurn s → 0 < n → n ≤ 64 →
      ((s.dev ∈ [DevState.ready, .joined, .running, .drained, .fault]) →
        Runs (.getRecords 0 i n) s fun t => Answers s t (.records ((s.err.from i).take n))) ∧
      ((s.dev ∉ [DevState.ready, .joined, .running, .drained, .fault]) →
        Runs (.getRecords 0 i n) s fun t => Answers s t (.vendor 1 2 s.dev.code [])) ∧
      Runs (.getRecords 1 i n) s fun t => Answers s t (.records ((s.mgmt.store.reverse.drop i).take n))) ∧
  (∀ s : State, Served s → VendorTurn s →
      (s.mainOn = true → Runs .getThermal s fun t => Answers s t (.vendor 2 0 0 s.thermalRec)) ∧
      (s.dev = .standby → Runs .getThermal s fun t => ∃ m : Mem, Answers s t (.vendor 2 0 0 m) ∧
        (∀ k, k < 96 → Mem.rd m (0x10 + 2 * k) 2 = 0x8000) ∧
        ∀ k, k < 4 → Mem.rd m (0xE4 + 2 * k) 2 = temp16 (s.mgmt.therm.getD k none)) ∧
      Runs .getReplace s fun t => Answers s t (.vendor 3 0 0 s.flash.replaceRec)) ∧
  (∀ (s : State) (mask : Byte), Served s → VendorTurn s → s.dev ≠ .boot → mask.toNat < 8 → Runs (.clearReplace mask) s fun t =>
      t.mgmt.resp = some (.vendor 4 0 0 t.flash.replaceRec) ∧
      t.flash.replace.replace = (if mask.getLsbD 0 then 0 else s.flash.replace.replace) ∧
      t.flash.replace.cause = (if mask.getLsbD 0 then 0 else s.flash.replace.cause) ∧
      t.flash.replace.imageId = (if mask.getLsbD 0 then 0 else s.flash.replace.imageId) ∧
      t.flash.replace.ply = (if mask.getLsbD 0 then 0 else s.flash.replace.ply) ∧
      t.flash.replace.tick = (if mask.getLsbD 0 then 0 else s.flash.replace.tick) ∧
      t.flash.replace.causes = (if mask.getLsbD 0 then 0 else s.flash.replace.causes) ∧
      t.flash.replace.errIndex = (if mask.getLsbD 0 then 0 else s.flash.replace.errIndex) ∧
      t.flash.replace.exclude = (if mask.getLsbD 1 then 0 else s.flash.replace.exclude) ∧
      t.flash.replace.hbmDead = (if mask.getLsbD 2 then 0 else s.flash.replace.hbmDead) ∧
      t.flash.replace.promotions = s.flash.replace.promotions ∧ t.flash.replace.endgames = s.flash.replace.endgames ∧
      t.dev = s.dev ∧ t.regions = s.regions) ∧
  (∀ s : State, s.dev ≠ .off → s.mgmt.addr.isSome = true → VendorTurn s →
      Runs .powerRelease s (fun t => t.supply.hold = false ∧ t.supply.lockedOff = false ∧ t.dev = s.dev ∧
        t.supply.convEnabled = s.supply.convEnabled ∧ t.mgmt.resp = some (.vendor 5 0 0 (Mem.wr [] 0 1 s.dev.code))) ∧
      Runs .powerHoldOff s (fun t => t.supply.hold = true ∧ t.dev = s.dev ∧
        t = { s with supply := t.supply, mgmt := t.mgmt } ∧
        t.mgmt.resp = some (.vendor 5 0 0 (Mem.wr [] 0 1 s.dev.code))) ∧
      (∀ k : Byte, s.mainOn = true → (s.dev ≠ .joined ∧ s.dev ≠ .running ∨ k = 0xA5) →
        Runs (.powerForceOff k) s fun t =>
        t.dev = .standby ∧ t.supply.hold = true ∧ t.supply.v48 = false ∧ t.supply.convEnabled = false ∧
        t.flash = (if s.sec.staging.isSome then { s.flash with store := none } else s.flash)) ∧
      (∀ k : Byte, s.mainOn = false → Runs (.powerForceOff k) s fun t =>
        t.dev = s.dev ∧ t.supply.hold = true ∧ t.supply.convEnabled = false ∧ t.flash = s.flash) ∧
      (∀ k : Byte, s.dev = .joined ∨ s.dev = .running → k ≠ 0xA5 →
        Runs (.powerForceOff k) s fun t => Answers s t (.vendor 5 2 s.dev.code []))) ∧
  (∀ (s : State) (k : Byte), Served s → s.mainOn = true →
      ((s.dev ≠ .joined ∧ s.dev ≠ .running ∧ s.standby.relaying = false ∨ k = 0xA5) → s.sec.staging = none →
        s.inEndgame = false → s.mgmt.salvage = none → Runs (.mainReset k) s fun t =>
        t.dev = .boot ∧ t.sec.stepsDone = [] ∧ t.flash = s.flash ∧ t.image = none ∧ t.err = State.reset.err ∧
        t.pending = s.pending ∧ t.mgmt.resp = some (.vendor 6 0 0 [])) ∧
      ((s.dev ≠ .joined ∧ s.dev ≠ .running ∧ s.standby.relaying = false ∨ k = 0xA5) →
        s.sec.staging.isSome = true ∨ s.inEndgame = true → s.mgmt.salvage = none → Runs (.mainReset k) s fun t =>
        t.sec.heldReset = true ∧ t.dev = s.dev ∧ t.image = s.image ∧ t.err = s.err) ∧
      ((s.dev = .joined ∨ s.dev = .running ∨ s.standby.relaying = true) → k ≠ 0xA5 →
        Runs (.mainReset k) s fun t => Answers s t (.vendor 6 2 s.dev.code []))) ∧
  (∀ (s : State) (f : FwInfo) (m : Mem), Served s → VendorTurn s → s.dev ≠ .boot → s.mgmt.verified = some f →
      (∀ r : Nat, licCheck (Mem.take m 512) 512 s.flash.idHash f.trustModulus f.trustExponent
          (match s.sec.running with | some w => w.version | none => f.version) = some r →
        Runs (.installLicence m true) s fun t => Answers s t (.vendor 7 4 r [])) ∧
      (∀ k : Nat, licCheck (Mem.take m 512) 512 s.flash.idHash f.trustModulus f.trustExponent
          (match s.sec.running with | some w => w.version | none => f.version) = none →
        s.licClash true (Mem.take m 512) = false → s.flash.licSlot (Mem.take m 512) = .inr k →
        Runs (.installLicence m true) s fun t =>
        t.flash.licence k = some (Mem.take m 512) ∧ (∀ j, j ≠ k → t.flash.licence j = s.flash.licence j) ∧
        t.flash.floor.toNat = max s.flash.floor.toNat (Mem.rd32 (Mem.take m 512) 0x34).toNat ∧
        t.flash.store = s.flash.store ∧ t.flash.replace = s.flash.replace ∧ t.dev = s.dev)) ∧
  (∀ (s : State) (a n : Nat), Served s → s.dev = .drained ∨ s.dev = .fault → s.mgmt.salvage = none →
      a % 4096 = 0 → 0 < n → n ≤ 256 →
      (a + 4096 * n ≤ memBytes → Runs (.salvageRead a n) s fun t =>
        t = { s with mgmt := { s.mgmt with salvage := some (a, n), salvageInst := 0 } }) ∧
      (memBytes < a + 4096 * n → Runs (.salvageRead a n) s fun t => Answers s t (.vendor 8 6 0 []))) ∧
  (∀ (s : State) (a n : Nat), s.dev ≠ .off → s.mgmt.addr.isSome = true → s.mgmt.salvage = some (a, n) →
      s.mgmt.resetAfterPage = false → s.mgmt.waiting = [] → a % 4096 = 0 →
      (∀ k c, (s.chan k c).bypass = [] ∧ (s.chan k c).queue = []) →
      Runs (.salvagePage true) s (fun t => ∃ (m : Mem) (map : BitVec 128),
        t = { s with mgmt := { s.mgmt with
          salvage := if n ≤ 1 then none else some (a + 4096, n - 1)
          resp := some (.salvage a m map s.mgmt.salvageInst), answers := s.mgmt.answers + 1, ibi := true }
                     hbmStacks := t.hbmStacks } ∧
        (∀ k c, t.chan k c = { s.chan k c with openRow := (t.chan k c).openRow }) ∧
        (∀ i, i < 4096 → Mem.get m i = Mem.get s.hbm ((place ((a + i) / 1024)).store * 1024 + i % 1024)) ∧
        ∀ k, k < 128 → map.getLsbD k = s.salvageDark ((a + 32 * k) / 1024) (k % 32)) ∧
      Runs (.salvagePage false) s (fun t => t.mgmt.salvage = none ∧ t.mgmt.resp = some (.vendor 8 5 0 [] s.mgmt.salvageInst) ∧
        t = { s with mgmt := t.mgmt }))

/-! ### Reset and flash -/

/-- What reset leaves (R6): no command waits, no memory byte is listed, the device is in BOOT with no step ended, and
the configuration registers read their Reset columns, both right after reset and after any later main-side reset. The
waiting queue's emptiness and the memory's zero bytes are the model's choice (log entries 1 and 2). -/
def Obligations.ResetValues : Prop :=
  State.reset.pending = [] ∧ State.reset.hbm = [] ∧ State.reset.ccd.mem = [] ∧ State.reset.dev = .boot ∧
  State.reset.sec.stepsDone = [] ∧ State.reset.image = none ∧
  ∀ s : State, s = State.reset ∨ (∃ s0 : State, s = s0.mainReset) →
    (∀ x ∈ ([(0x2000000, 0x1A28), (0x2000100, 0x0C5F64), (0x2100000, 1), (0x408000, 0x400C2828), (0x408100, 0x0A),
        (0x200040, 2), (0x2200000, 100), (0x2300000, 0x50), (0xC00000, 0x498), (0x800000, 0x12D),
        (0x1000020, 2), (0x1000030, 0x14), (0x1000040, 0x11), (0x4, 0), (0x3000008, 0)] : List (Nat × Nat)),
      s.readBar0 x.1 4 = some x.2) ∧
    s.readBar0 0x2200008 8 = some 0x0102040810102040 ∧ s.readBar0 0x2200010 8 = some 0 ∧
    ∀ m, m < 100 →
      s.readBar0 (0x2201000 + 4 * m) 4 = some (if m < 96 then 10 else if m = 97 then 8 else if m = 98 then 24 else 16) ∧
      s.readBar0 (0x2201200 + 4 * m) 4 = some (if m < 96 then 10 else if m = 97 then 8 else if m = 98 then 24 else 16) ∧
      s.readBar0 (0x2201400 + 4 * m) 4 = some (if m < 96 then 8 else 64)

/-- The firmware floor (R403): no step lowers it, whatever is commanded; SEC_FLOOR reports it; an installed licence,
from the host or the management port, raises it to its min_fw where that exceeds it; no image whose version lies below
it passes the checks that come before a store write, so FW_STAGE refuses it, and BOOT with such an image in the store
ends in RECOVERY. -/
def Obligations.FirmwareFloorNeverFalls : Prop :=
  (∀ (k : Nat) (s t : State), k ≤ s.flash.floor.toNat → step s = .next t → k ≤ t.flash.floor.toNat) ∧
  (∀ s : State, s.served = true → s.readBar0 0x100018 4 = some s.flash.floor.toNat) ∧
  (∀ (m : Mem) (n : Nat) (floor : W32), (Mem.rd32 m 0xC).toNat < floor.toNat → ∃ r, fwCheck m n floor = .inl r) ∧
  (∀ (s : State) (q k : Nat) (d : List W32) (m : Mem) (f : FwInfo), Starts s q d → dwOp d = 0x18 →
      s.sec.running = some f → s.sec.licAt ≠ some (licId (Mem.take m (dwN d 4)), s.tick, true) →
      licCheck (Mem.take m (dwN d 4)) (dwN d 4) s.validId f.trustModulus f.trustExponent f.version = none →
      s.flash.licSlot (Mem.take m (dwN d 4)) = .inr k → Runs (.licenceInstall q (.data m) true) s fun t =>
      t.flash.floor.toNat = max s.flash.floor.toNat (Mem.rd32 (Mem.take m (dwN d 4)) 0x34).toNat ∧ Ended s t 0 0 0) ∧
  (∀ (s : State) (k : Nat) (f : FwInfo) (m : Mem), Served s → VendorTurn s → s.dev ≠ .boot →
      s.mgmt.verified = some f →
      licCheck (Mem.take m 512) 512 s.flash.idHash f.trustModulus f.trustExponent
          (match s.sec.running with | some w => w.version | none => f.version) = none →
      s.licClash true (Mem.take m 512) = false → s.flash.licSlot (Mem.take m 512) = .inr k →
      Runs (.installLicence m true) s fun t =>
      t.flash.floor.toNat = max s.flash.floor.toNat (Mem.rd32 (Mem.take m 512) 0x34).toNat) ∧
  (∀ (s : State) (q : Nat) (d : List W32) (m : Mem), Starts s q d → dwOp d = 0x1C →
      (Mem.rd32 (Mem.take m (dwQ d 4)) 0xC).toNat < s.flash.floor.toNat → Runs (.fwStage q (.data m)) s fun t =>
      ∃ r, Ended s t 0xC r 0 ∧ OnlyHif s t) ∧
  ∀ (s : State) (f : FwInfo), s.dev = .boot → s.bootReady 2 = true → s.flash.store = some f →
      (Mem.rd32 f.bytes 0xC).toNat < s.flash.floor.toNat → Runs (.bootStepComplete 2 []) s fun t =>
      t.dev = .recovery ∧ t.flash = s.flash
end

