-- ==== Sys2Proof/Laws/Flash.lean ====
section
/-! SUPPORT. Laws of an area's two flash copies (R388), and of the byte order of frames (R299). -/

namespace Sys2Proof.Machine

variable {α : Type}

/-- What was written last is in force. -/
@[simp] theorem Two.get_put (t : Two α) (a : α) : (t.put a).get = some a := by
  rcases t with ⟨_ | ⟨m, x⟩, _ | ⟨n, y⟩⟩ <;> simp [Two.put, Two.get, Two.first, Two.seq]
  by_cases h : n ≤ m <;> simp [h]

/-- A write is under the number after the one in force. -/
@[simp] theorem Two.seq_put (t : Two α) (a : α) : (t.put a).seq = t.seq + 1 := by
  rcases t with ⟨_ | ⟨m, x⟩, _ | ⟨n, y⟩⟩ <;> simp [Two.put, Two.first, Two.seq]
  by_cases h : n ≤ m <;> simp [h]

/-- A torn write leaves the copy that was in force. -/
@[simp] theorem Two.get_torn (t : Two α) : t.torn.get = t.get := by
  rcases t with ⟨_ | ⟨m, x⟩, _ | ⟨n, y⟩⟩ <;> simp [Two.torn, Two.get, Two.first]
  by_cases h : n ≤ m <;> simp [h]

@[simp] theorem leSplit_length (k v : Nat) : (leSplit k v).length = k := by
  induction k generalizing v with
  | zero => rfl
  | succ k ih => simp [leSplit, ih]

/-- Bytes of a number that fits read back as the number. -/
theorem leValue_leSplit (k v : Nat) (h : v < 256 ^ k) : leValue (leSplit k v) = v := by
  induction k generalizing v with
  | zero => simp at h; simp [leSplit, leValue, h]
  | succ k ih =>
    have h2 : v / 256 < 256 ^ k := by rw [Nat.div_lt_iff_lt_mul (by decide)]; rwa [pow_succ] at h
    simp only [leSplit, leValue, ih _ h2, BitVec.toNat_ofNat]
    omega

end Sys2Proof.Machine
end

