-- ==== Sys2Proof/Laws/Maps.lean ====
section
/-! SUPPORT. Laws of the sparse containers: reading a group of things after a change of one of them, and the canonical
form of byte stores, which every operation on them keeps. -/

namespace Sys2Proof.Machine

/-! ### SMap -/

theorem SMap.get_del_self {α : Type} (d : α) (m : SMap α) (k : Nat) : SMap.get d (SMap.del m k) k = d := by
  induction m with
  | nil => rfl
  | cons e m ih =>
    by_cases h : e.1 = k <;> simp_all [SMap.del, SMap.get]

theorem SMap.get_del_other {α : Type} (d : α) (m : SMap α) {k j : Nat} (h : j ≠ k) :
    SMap.get d (SMap.del m k) j = SMap.get d m j := by
  induction m with
  | nil => rfl
  | cons e m ih =>
    by_cases h1 : e.1 = k <;> by_cases h2 : e.1 = j <;> simp_all [SMap.del, SMap.get]

theorem SMap.get_ins_other {α : Type} (d v : α) (m : SMap α) {k j : Nat} (h : j ≠ k) :
    SMap.get d (SMap.ins k v m) j = SMap.get d m j := by
  induction m with
  | nil => simp [SMap.ins, SMap.get, Ne.symm h]
  | cons e m ih =>
    obtain ⟨i, w⟩ := e
    unfold SMap.ins
    split
    · simp [SMap.get, Ne.symm h]
    · by_cases h2 : i = j <;> simp_all [SMap.get]

theorem SMap.get_ins_del {α : Type} (d v : α) (m : SMap α) (k : Nat) :
    SMap.get d (SMap.ins k v (SMap.del m k)) k = v := by
  induction m with
  | nil => simp [SMap.del, SMap.ins, SMap.get]
  | cons e m ih =>
    by_cases h1 : e.1 = k
    · simpa [SMap.del, h1] using ih
    · obtain ⟨i, w⟩ := e
      simp only [SMap.del, if_neg h1]
      unfold SMap.ins
      split
      · simp [SMap.get]
      · simpa [SMap.get, h1] using ih

/-- Reading the thing that was set. -/
@[simp] theorem SMap.get_set_self {α : Type} [DecidableEq α] (d : α) (m : SMap α) (k : Nat) (v : α) :
    SMap.get d (SMap.set d m k v) k = v := by
  unfold SMap.set
  split
  · rw [SMap.get_del_self]; exact Eq.symm ‹_›
  · exact SMap.get_ins_del d v m k

/-- Reading another thing than the one that was set. -/
theorem SMap.get_set_other {α : Type} [DecidableEq α] (d : α) (m : SMap α) {k j : Nat} (v : α) (h : j ≠ k) :
    SMap.get d (SMap.set d m k v) j = SMap.get d m j := by
  unfold SMap.set
  split
  · exact SMap.get_del_other d m h
  · rw [SMap.get_ins_other d v _ h, SMap.get_del_other d m h]

/-- Reading the thing that was changed. -/
@[simp] theorem SMap.get_upd_self {α : Type} [DecidableEq α] (d : α) (m : SMap α) (k : Nat) (f : α → α) :
    SMap.get d (SMap.upd d m k f) k = f (SMap.get d m k) := SMap.get_set_self d m k _

/-- Reading another thing than the one that was changed. -/
theorem SMap.get_upd_other {α : Type} [DecidableEq α] (d : α) (m : SMap α) {k j : Nat} (f : α → α) (h : j ≠ k) :
    SMap.get d (SMap.upd d m k f) j = SMap.get d m j := SMap.get_set_other d m _ h

/-- Reading any thing after one was changed. -/
theorem SMap.get_upd {α : Type} [DecidableEq α] (d : α) (m : SMap α) (k j : Nat) (f : α → α) :
    SMap.get d (SMap.upd d m k f) j = if j = k then f (SMap.get d m k) else SMap.get d m j := by
  split
  · subst ‹j = k›; exact SMap.get_upd_self d m j f
  · exact SMap.get_upd_other d m f ‹_›

/-- Changing every listed thing changes each by the function, where the function leaves the default alone. -/
theorem SMap.get_mapVals {α : Type} [DecidableEq α] (d : α) (m : SMap α) (f : α → α) (k : Nat) (hf : f d = d) :
    SMap.get d (SMap.mapVals d m f) k = f (SMap.get d m k) := by
  induction m with
  | nil => exact hf.symm
  | cons e m ih =>
    obtain ⟨j, v⟩ := e
    by_cases h : j = k
    · subst h; simp [SMap.mapVals, SMap.get]
    · rw [SMap.mapVals, SMap.get_set_other _ _ _ (Ne.symm h), ih]; simp [SMap.get, h]

/-! ### Mem: reads after writes -/

/-- Reading the byte that was written, in a canonical store. -/
theorem Mem.get_set_self (m : Mem) (a : Nat) (b : Byte) : ∀ lo, Mem.wfFrom lo m = true → Mem.get (Mem.set m a b) a = b := by
  induction m with
  | nil =>
    intro lo _
    unfold Mem.set
    split
    · exact Eq.symm ‹_›
    · simp [Mem.get]
  | cons e m ih =>
    obtain ⟨j, v⟩ := e
    intro lo h
    simp only [Mem.wfFrom, Bool.and_eq_true, decide_eq_true_eq] at h
    have gone : ∀ (n : Mem) (l : Nat), a < l → Mem.wfFrom l n = true → Mem.get n a = 0 := by
      intro n
      induction n with
      | nil => intro _ _ _; rfl
      | cons f n ihn =>
        intro l hl hn
        simp only [Mem.wfFrom, Bool.and_eq_true, decide_eq_true_eq] at hn
        have : f.1 ≠ a := by omega
        simp only [Mem.get, this, if_false]
        exact ihn (f.1 + 1) (by omega) hn.2
    unfold Mem.set
    split
    · split
      · have : j ≠ a := by omega
        simp only [Mem.get, this, if_false]
        subst b
        exact gone m (j + 1) (by omega) h.2
      · simp [Mem.get]
    · split
      · split
        · subst b; subst a; exact gone m (j + 1) (by omega) h.2
        · simp [Mem.get]
      · have : j ≠ a := by omega
        simp only [Mem.get, this, if_false]
        exact ih (j + 1) h.2

/-- Reading another byte than the one that was written. -/
theorem Mem.get_set_other (m : Mem) {a c : Nat} (b : Byte) (h : c ≠ a) : Mem.get (Mem.set m a b) c = Mem.get m c := by
  induction m with
  | nil =>
    unfold Mem.set
    split
    · rfl
    · simp [Mem.get, Ne.symm h]
  | cons e m ih =>
    obtain ⟨j, v⟩ := e
    unfold Mem.set
    split
    · split <;> simp [Mem.get, Ne.symm h]
    · split
      · subst a
        split <;> simp [Mem.get, Ne.symm h]
      · simp [Mem.get, ih]

/-! ### Mem: the canonical form -/

theorem Mem.wfFrom_mono {m : Mem} {lo hi : Nat} (h : hi ≤ lo) (w : Mem.wfFrom lo m = true) : Mem.wfFrom hi m = true := by
  cases m with
  | nil => rfl
  | cons e m =>
    simp only [Mem.wfFrom, Bool.and_eq_true, decide_eq_true_eq] at w ⊢
    exact ⟨⟨by omega, w.1.2⟩, w.2⟩

theorem Mem.wfFrom_set (m : Mem) (a : Nat) (b : Byte) :
    ∀ lo, Mem.wfFrom lo m = true → Mem.wfFrom (min lo a) (Mem.set m a b) = true := by
  induction m with
  | nil =>
    intro lo _
    unfold Mem.set
    split
    · rfl
    · simp only [Mem.wfFrom, Bool.and_eq_true, decide_eq_true_eq]
      exact ⟨⟨by omega, ‹_›⟩, trivial⟩
  | cons e m ih =>
    obtain ⟨j, v⟩ := e
    intro lo h
    have h0 := h
    simp only [Mem.wfFrom, Bool.and_eq_true, decide_eq_true_eq] at h
    unfold Mem.set
    split
    · split
      · exact Mem.wfFrom_mono (by omega) h0
      · simp only [Mem.wfFrom, Bool.and_eq_true, decide_eq_true_eq]
        exact ⟨⟨by omega, ‹_›⟩, ⟨by omega, h.1.2⟩, h.2⟩
    · split
      · split
        · exact Mem.wfFrom_mono (by omega) h.2
        · simp only [Mem.wfFrom, Bool.and_eq_true, decide_eq_true_eq]
          exact ⟨⟨by omega, ‹_›⟩, Mem.wfFrom_mono (by omega) h.2⟩
      · simp only [Mem.wfFrom, Bool.and_eq_true, decide_eq_true_eq]
        exact ⟨⟨by omega, h.1.2⟩, Mem.wfFrom_mono (by omega) (ih (j + 1) h.2)⟩

/-- Writing a byte keeps the canonical form. -/
theorem Mem.wf_set {m : Mem} (a : Nat) (b : Byte) (h : Mem.wf m = true) : Mem.wf (Mem.set m a b) = true := by
  have := Mem.wfFrom_set m a b 0 h
  simpa [Mem.wf] using this

/-- Writing a number keeps the canonical form. -/
theorem Mem.wf_wr (n : Nat) : ∀ (m : Mem) (a v : Nat), Mem.wf m = true → Mem.wf (Mem.wr m a n v) = true := by
  induction n with
  | zero => intro m a v h; exact h
  | succ n ih => intro m a v h; exact ih _ _ _ (Mem.wf_set a _ h)

/-- The store made of a list of bytes is canonical. -/
theorem Mem.wfFrom_ofBytes (bs : List Byte) : ∀ a, Mem.wfFrom a (Mem.ofBytes a bs) = true := by
  induction bs with
  | nil => intro a; rfl
  | cons b bs ih =>
    intro a
    unfold Mem.ofBytes
    split
    · exact Mem.wfFrom_mono (by omega) (ih (a + 1))
    · simp only [Mem.wfFrom, Bool.and_eq_true, decide_eq_true_eq]
      exact ⟨⟨by omega, ‹_›⟩, ih (a + 1)⟩

theorem Mem.wf_ofBytes (a : Nat) (bs : List Byte) : Mem.wf (Mem.ofBytes a bs) = true :=
  Mem.wfFrom_mono (Nat.zero_le a) (Mem.wfFrom_ofBytes bs a)

/-- A pattern is canonical. -/
theorem Mem.wf_pattern (p : W32) (n : Nat) : Mem.wf (Mem.pattern p n) = true := by
  unfold Mem.pattern
  split
  · rfl
  · exact Mem.wf_ofBytes 0 _

/-- Bytes from the outside are brought into canonical form. -/
theorem Mem.wf_take (m : Mem) (n : Nat) : Mem.wf (Mem.take m n) = true := by
  unfold Mem.take
  induction m with
  | nil => rfl
  | cons e m ih =>
    simp only [List.foldr_cons]
    split
    · exact Mem.wf_set _ _ ih
    · exact ih

theorem Mem.wfFrom_filter (p : Nat × Byte → Bool) (m : Mem) :
    ∀ lo, Mem.wfFrom lo m = true → Mem.wfFrom lo (m.filter p) = true := by
  induction m with
  | nil => intro lo _; rfl
  | cons e m ih =>
    intro lo h
    simp only [Mem.wfFrom, Bool.and_eq_true, decide_eq_true_eq] at h
    rw [List.filter_cons]
    split
    · simp only [Mem.wfFrom, Bool.and_eq_true, decide_eq_true_eq]
      exact ⟨h.1, ih _ h.2⟩
    · exact Mem.wfFrom_mono (by omega) (ih _ h.2)

/-- Every listed address of m lies in [lo, hi). -/
def Mem.within (lo hi : Nat) (m : Mem) : Prop := ∀ e ∈ m, lo ≤ e.1 ∧ e.1 < hi

theorem Mem.wfFrom_raise {m : Mem} {lo c : Nat} (h : Mem.wfFrom lo m = true) (hc : ∀ e ∈ m, c ≤ e.1) :
    Mem.wfFrom c m = true := by
  cases m with
  | nil => rfl
  | cons e m =>
    simp only [Mem.wfFrom, Bool.and_eq_true, decide_eq_true_eq] at h ⊢
    exact ⟨⟨hc e (by simp), h.1.2⟩, h.2⟩

theorem Mem.wfFrom_append (m n : Mem) : ∀ lo hi, Mem.wfFrom lo m = true → (∀ e ∈ m, e.1 < hi) → lo ≤ hi →
    Mem.wfFrom hi n = true → Mem.wfFrom lo (m ++ n) = true := by
  induction m with
  | nil => intro lo hi _ _ hl h; exact Mem.wfFrom_mono hl h
  | cons e m ih =>
    intro lo hi h hb hl hn
    simp only [Mem.wfFrom, Bool.and_eq_true, decide_eq_true_eq] at h
    simp only [List.cons_append, Mem.wfFrom, Bool.and_eq_true, decide_eq_true_eq]
    have he := hb e (by simp)
    exact ⟨h.1, ih (e.1 + 1) hi h.2 (fun x hx => hb x (by simp [hx])) (by omega) hn⟩

theorem Mem.wfFrom_shift (a : Nat) (m : Mem) :
    ∀ lo, Mem.wfFrom lo m = true → Mem.wfFrom (lo + a) (m.map fun e => (e.1 + a, e.2)) = true := by
  induction m with
  | nil => intro lo _; rfl
  | cons e m ih =>
    intro lo h
    simp only [Mem.wfFrom, Bool.and_eq_true, decide_eq_true_eq] at h
    simp only [List.map_cons, Mem.wfFrom, Bool.and_eq_true, decide_eq_true_eq]
    refine ⟨⟨by omega, h.1.2⟩, ?_⟩
    have := ih (e.1 + 1) h.2
    rwa [show e.1 + 1 + a = e.1 + a + 1 by omega] at this

theorem Mem.wfFrom_unshift (a : Nat) (m : Mem) : ∀ lo, (∀ e ∈ m, a ≤ e.1) → Mem.wfFrom (lo + a) m = true →
    Mem.wfFrom lo (m.map fun e => (e.1 - a, e.2)) = true := by
  induction m with
  | nil => intro lo _ _; rfl
  | cons e m ih =>
    intro lo hb h
    simp only [Mem.wfFrom, Bool.and_eq_true, decide_eq_true_eq] at h
    simp only [List.map_cons, Mem.wfFrom, Bool.and_eq_true, decide_eq_true_eq]
    have he := hb e (by simp)
    refine ⟨⟨by omega, h.1.2⟩, ih _ (fun x hx => hb x (by simp [hx])) ?_⟩
    have e1 : e.1 - a + 1 + a = e.1 + 1 := by omega
    rw [e1]
    exact h.2

/-- A slice is canonical. -/
theorem Mem.wf_slice {m : Mem} (a n : Nat) (h : Mem.wf m = true) : Mem.wf (Mem.slice m a n) = true := by
  unfold Mem.slice Mem.wf
  apply Mem.wfFrom_unshift
  · intro e he
    simp only [List.mem_filter, Bool.and_eq_true, decide_eq_true_eq] at he
    exact he.2.1
  · refine Mem.wfFrom_raise (Mem.wfFrom_filter _ m 0 h) ?_
    intro e he
    simp only [List.mem_filter, Bool.and_eq_true, decide_eq_true_eq] at he
    omega

/-- Replacing a range by canonical bytes keeps the canonical form. -/
theorem Mem.wf_splice {m sub : Mem} (a n : Nat) (h : Mem.wf m = true) (hs : Mem.wf sub = true) :
    Mem.wf (Mem.splice m a n sub) = true := by
  unfold Mem.splice Mem.wf
  refine Mem.wfFrom_append _ _ 0 (a + n) ?_ ?_ (Nat.zero_le _) ?_
  · refine Mem.wfFrom_append _ _ 0 a (Mem.wfFrom_filter _ m 0 h) ?_ (Nat.zero_le _) ?_
    · intro e he
      simp only [List.mem_filter, decide_eq_true_eq] at he
      exact he.2
    · have := Mem.wfFrom_shift a _ 0 (Mem.wfFrom_filter (fun e => decide (e.1 < n)) sub 0 hs)
      simpa using this
  · intro e he
    simp only [List.mem_append, List.mem_filter, List.mem_map, decide_eq_true_eq] at he
    rcases he with he | ⟨x, hx, rfl⟩
    · omega
    · simp only; omega
  · refine Mem.wfFrom_raise (Mem.wfFrom_filter _ m 0 h) ?_
    intro e he
    simp only [List.mem_filter, decide_eq_true_eq] at he
    exact he.2

/-- Zeroing a range keeps the canonical form. -/
theorem Mem.wf_clear {m : Mem} (a n : Nat) (h : Mem.wf m = true) : Mem.wf (Mem.clear m a n) = true :=
  Mem.wf_splice a n h rfl

end Sys2Proof.Machine
end

