-- ==== Sys2Proof/Laws/State.lean ====
section
/-! SUPPORT. The small lemmas of State: what each named update leaves unchanged, one lemma per field per update, and what
reading a unit gives after a unit was changed. -/

namespace Sys2Proof.Machine

variable (s : State)

/-! ### updBlk -/

@[simp] theorem State.updBlk_pending (b : Nat) (f : Block → Block) : (s.updBlk b f).pending = s.pending := rfl
@[simp] theorem State.updBlk_dev (b : Nat) (f : Block → Block) : (s.updBlk b f).dev = s.dev := rfl
@[simp] theorem State.updBlk_tick (b : Nat) (f : Block → Block) : (s.updBlk b f).tick = s.tick := rfl
@[simp] theorem State.updBlk_supply (b : Nat) (f : Block → Block) : (s.updBlk b f).supply = s.supply := rfl
@[simp] theorem State.updBlk_pwr (b : Nat) (f : Block → Block) : (s.updBlk b f).pwr = s.pwr := rfl
@[simp] theorem State.updBlk_flash (b : Nat) (f : Block → Block) : (s.updBlk b f).flash = s.flash := rfl
@[simp] theorem State.updBlk_sec (b : Nat) (f : Block → Block) : (s.updBlk b f).sec = s.sec := rfl
@[simp] theorem State.updBlk_image (b : Nat) (f : Block → Block) : (s.updBlk b f).image = s.image := rfl
@[simp] theorem State.updBlk_hif (b : Nat) (f : Block → Block) : (s.updBlk b f).hif = s.hif := rfl
@[simp] theorem State.updBlk_sch (b : Nat) (f : Block → Block) : (s.updBlk b f).sch = s.sch := rfl
@[simp] theorem State.updBlk_standby (b : Nat) (f : Block → Block) : (s.updBlk b f).standby = s.standby := rfl
@[simp] theorem State.updBlk_regions (b : Nat) (f : Block → Block) : (s.updBlk b f).regions = s.regions := rfl
@[simp] theorem State.updBlk_ccd (b : Nat) (f : Block → Block) : (s.updBlk b f).ccd = s.ccd := rfl
@[simp] theorem State.updBlk_hbm (b : Nat) (f : Block → Block) : (s.updBlk b f).hbm = s.hbm := rfl
@[simp] theorem State.updBlk_hbmWords (b : Nat) (f : Block → Block) : (s.updBlk b f).hbmWords = s.hbmWords := rfl
@[simp] theorem State.updBlk_hbmStacks (b : Nat) (f : Block → Block) : (s.updBlk b f).hbmStacks = s.hbmStacks := rfl
@[simp] theorem State.updBlk_pim (b : Nat) (f : Block → Block) : (s.updBlk b f).pim = s.pim := rfl
@[simp] theorem State.updBlk_ce (b : Nat) (f : Block → Block) : (s.updBlk b f).ce = s.ce := rfl
@[simp] theorem State.updBlk_fab (b : Nat) (f : Block → Block) : (s.updBlk b f).fab = s.fab := rfl
@[simp] theorem State.updBlk_qos (b : Nat) (f : Block → Block) : (s.updBlk b f).qos = s.qos := rfl
@[simp] theorem State.updBlk_thm (b : Nat) (f : Block → Block) : (s.updBlk b f).thm = s.thm := rfl
@[simp] theorem State.updBlk_err (b : Nat) (f : Block → Block) : (s.updBlk b f).err = s.err := rfl
@[simp] theorem State.updBlk_mgmt (b : Nat) (f : Block → Block) : (s.updBlk b f).mgmt = s.mgmt := rfl
@[simp] theorem State.updBlk_dbgScratch (b : Nat) (f : Block → Block) : (s.updBlk b f).dbgScratch = s.dbgScratch := rfl
@[simp] theorem State.updBlk_frozen (b : Nat) (f : Block → Block) : (s.updBlk b f).frozen = s.frozen := rfl

/-! ### updSeq -/

@[simp] theorem State.updSeq_pending (b : Nat) (f : Seq → Seq) : (s.updSeq b f).pending = s.pending := rfl
@[simp] theorem State.updSeq_dev (b : Nat) (f : Seq → Seq) : (s.updSeq b f).dev = s.dev := rfl
@[simp] theorem State.updSeq_tick (b : Nat) (f : Seq → Seq) : (s.updSeq b f).tick = s.tick := rfl
@[simp] theorem State.updSeq_supply (b : Nat) (f : Seq → Seq) : (s.updSeq b f).supply = s.supply := rfl
@[simp] theorem State.updSeq_pwr (b : Nat) (f : Seq → Seq) : (s.updSeq b f).pwr = s.pwr := rfl
@[simp] theorem State.updSeq_flash (b : Nat) (f : Seq → Seq) : (s.updSeq b f).flash = s.flash := rfl
@[simp] theorem State.updSeq_sec (b : Nat) (f : Seq → Seq) : (s.updSeq b f).sec = s.sec := rfl
@[simp] theorem State.updSeq_image (b : Nat) (f : Seq → Seq) : (s.updSeq b f).image = s.image := rfl
@[simp] theorem State.updSeq_hif (b : Nat) (f : Seq → Seq) : (s.updSeq b f).hif = s.hif := rfl
@[simp] theorem State.updSeq_sch (b : Nat) (f : Seq → Seq) : (s.updSeq b f).sch = s.sch := rfl
@[simp] theorem State.updSeq_standby (b : Nat) (f : Seq → Seq) : (s.updSeq b f).standby = s.standby := rfl
@[simp] theorem State.updSeq_regions (b : Nat) (f : Seq → Seq) : (s.updSeq b f).regions = s.regions := rfl
@[simp] theorem State.updSeq_ccd (b : Nat) (f : Seq → Seq) : (s.updSeq b f).ccd = s.ccd := rfl
@[simp] theorem State.updSeq_hbm (b : Nat) (f : Seq → Seq) : (s.updSeq b f).hbm = s.hbm := rfl
@[simp] theorem State.updSeq_hbmWords (b : Nat) (f : Seq → Seq) : (s.updSeq b f).hbmWords = s.hbmWords := rfl
@[simp] theorem State.updSeq_hbmStacks (b : Nat) (f : Seq → Seq) : (s.updSeq b f).hbmStacks = s.hbmStacks := rfl
@[simp] theorem State.updSeq_pim (b : Nat) (f : Seq → Seq) : (s.updSeq b f).pim = s.pim := rfl
@[simp] theorem State.updSeq_ce (b : Nat) (f : Seq → Seq) : (s.updSeq b f).ce = s.ce := rfl
@[simp] theorem State.updSeq_fab (b : Nat) (f : Seq → Seq) : (s.updSeq b f).fab = s.fab := rfl
@[simp] theorem State.updSeq_qos (b : Nat) (f : Seq → Seq) : (s.updSeq b f).qos = s.qos := rfl
@[simp] theorem State.updSeq_thm (b : Nat) (f : Seq → Seq) : (s.updSeq b f).thm = s.thm := rfl
@[simp] theorem State.updSeq_err (b : Nat) (f : Seq → Seq) : (s.updSeq b f).err = s.err := rfl
@[simp] theorem State.updSeq_mgmt (b : Nat) (f : Seq → Seq) : (s.updSeq b f).mgmt = s.mgmt := rfl
@[simp] theorem State.updSeq_dbgScratch (b : Nat) (f : Seq → Seq) : (s.updSeq b f).dbgScratch = s.dbgScratch := rfl
@[simp] theorem State.updSeq_frozen (b : Nat) (f : Seq → Seq) : (s.updSeq b f).frozen = s.frozen := rfl

/-! ### updTg -/

@[simp] theorem State.updTg_pending (b : Nat) (f : Tg → Tg) : (s.updTg b f).pending = s.pending := rfl
@[simp] theorem State.updTg_dev (b : Nat) (f : Tg → Tg) : (s.updTg b f).dev = s.dev := rfl
@[simp] theorem State.updTg_tick (b : Nat) (f : Tg → Tg) : (s.updTg b f).tick = s.tick := rfl
@[simp] theorem State.updTg_supply (b : Nat) (f : Tg → Tg) : (s.updTg b f).supply = s.supply := rfl
@[simp] theorem State.updTg_pwr (b : Nat) (f : Tg → Tg) : (s.updTg b f).pwr = s.pwr := rfl
@[simp] theorem State.updTg_flash (b : Nat) (f : Tg → Tg) : (s.updTg b f).flash = s.flash := rfl
@[simp] theorem State.updTg_sec (b : Nat) (f : Tg → Tg) : (s.updTg b f).sec = s.sec := rfl
@[simp] theorem State.updTg_image (b : Nat) (f : Tg → Tg) : (s.updTg b f).image = s.image := rfl
@[simp] theorem State.updTg_hif (b : Nat) (f : Tg → Tg) : (s.updTg b f).hif = s.hif := rfl
@[simp] theorem State.updTg_sch (b : Nat) (f : Tg → Tg) : (s.updTg b f).sch = s.sch := rfl
@[simp] theorem State.updTg_standby (b : Nat) (f : Tg → Tg) : (s.updTg b f).standby = s.standby := rfl
@[simp] theorem State.updTg_regions (b : Nat) (f : Tg → Tg) : (s.updTg b f).regions = s.regions := rfl
@[simp] theorem State.updTg_ccd (b : Nat) (f : Tg → Tg) : (s.updTg b f).ccd = s.ccd := rfl
@[simp] theorem State.updTg_hbm (b : Nat) (f : Tg → Tg) : (s.updTg b f).hbm = s.hbm := rfl
@[simp] theorem State.updTg_hbmWords (b : Nat) (f : Tg → Tg) : (s.updTg b f).hbmWords = s.hbmWords := rfl
@[simp] theorem State.updTg_hbmStacks (b : Nat) (f : Tg → Tg) : (s.updTg b f).hbmStacks = s.hbmStacks := rfl
@[simp] theorem State.updTg_pim (b : Nat) (f : Tg → Tg) : (s.updTg b f).pim = s.pim := rfl
@[simp] theorem State.updTg_ce (b : Nat) (f : Tg → Tg) : (s.updTg b f).ce = s.ce := rfl
@[simp] theorem State.updTg_fab (b : Nat) (f : Tg → Tg) : (s.updTg b f).fab = s.fab := rfl
@[simp] theorem State.updTg_qos (b : Nat) (f : Tg → Tg) : (s.updTg b f).qos = s.qos := rfl
@[simp] theorem State.updTg_thm (b : Nat) (f : Tg → Tg) : (s.updTg b f).thm = s.thm := rfl
@[simp] theorem State.updTg_err (b : Nat) (f : Tg → Tg) : (s.updTg b f).err = s.err := rfl
@[simp] theorem State.updTg_mgmt (b : Nat) (f : Tg → Tg) : (s.updTg b f).mgmt = s.mgmt := rfl
@[simp] theorem State.updTg_dbgScratch (b : Nat) (f : Tg → Tg) : (s.updTg b f).dbgScratch = s.dbgScratch := rfl
@[simp] theorem State.updTg_frozen (b : Nat) (f : Tg → Tg) : (s.updTg b f).frozen = s.frozen := rfl

/-! ### updMc -/

@[simp] theorem State.updMc_pending (b k : Nat) (f : Mc → Mc) : (s.updMc b k f).pending = s.pending := rfl
@[simp] theorem State.updMc_dev (b k : Nat) (f : Mc → Mc) : (s.updMc b k f).dev = s.dev := rfl
@[simp] theorem State.updMc_tick (b k : Nat) (f : Mc → Mc) : (s.updMc b k f).tick = s.tick := rfl
@[simp] theorem State.updMc_supply (b k : Nat) (f : Mc → Mc) : (s.updMc b k f).supply = s.supply := rfl
@[simp] theorem State.updMc_pwr (b k : Nat) (f : Mc → Mc) : (s.updMc b k f).pwr = s.pwr := rfl
@[simp] theorem State.updMc_flash (b k : Nat) (f : Mc → Mc) : (s.updMc b k f).flash = s.flash := rfl
@[simp] theorem State.updMc_sec (b k : Nat) (f : Mc → Mc) : (s.updMc b k f).sec = s.sec := rfl
@[simp] theorem State.updMc_image (b k : Nat) (f : Mc → Mc) : (s.updMc b k f).image = s.image := rfl
@[simp] theorem State.updMc_hif (b k : Nat) (f : Mc → Mc) : (s.updMc b k f).hif = s.hif := rfl
@[simp] theorem State.updMc_sch (b k : Nat) (f : Mc → Mc) : (s.updMc b k f).sch = s.sch := rfl
@[simp] theorem State.updMc_standby (b k : Nat) (f : Mc → Mc) : (s.updMc b k f).standby = s.standby := rfl
@[simp] theorem State.updMc_regions (b k : Nat) (f : Mc → Mc) : (s.updMc b k f).regions = s.regions := rfl
@[simp] theorem State.updMc_ccd (b k : Nat) (f : Mc → Mc) : (s.updMc b k f).ccd = s.ccd := rfl
@[simp] theorem State.updMc_hbm (b k : Nat) (f : Mc → Mc) : (s.updMc b k f).hbm = s.hbm := rfl
@[simp] theorem State.updMc_hbmWords (b k : Nat) (f : Mc → Mc) : (s.updMc b k f).hbmWords = s.hbmWords := rfl
@[simp] theorem State.updMc_hbmStacks (b k : Nat) (f : Mc → Mc) : (s.updMc b k f).hbmStacks = s.hbmStacks := rfl
@[simp] theorem State.updMc_pim (b k : Nat) (f : Mc → Mc) : (s.updMc b k f).pim = s.pim := rfl
@[simp] theorem State.updMc_ce (b k : Nat) (f : Mc → Mc) : (s.updMc b k f).ce = s.ce := rfl
@[simp] theorem State.updMc_fab (b k : Nat) (f : Mc → Mc) : (s.updMc b k f).fab = s.fab := rfl
@[simp] theorem State.updMc_qos (b k : Nat) (f : Mc → Mc) : (s.updMc b k f).qos = s.qos := rfl
@[simp] theorem State.updMc_thm (b k : Nat) (f : Mc → Mc) : (s.updMc b k f).thm = s.thm := rfl
@[simp] theorem State.updMc_err (b k : Nat) (f : Mc → Mc) : (s.updMc b k f).err = s.err := rfl
@[simp] theorem State.updMc_mgmt (b k : Nat) (f : Mc → Mc) : (s.updMc b k f).mgmt = s.mgmt := rfl
@[simp] theorem State.updMc_dbgScratch (b k : Nat) (f : Mc → Mc) : (s.updMc b k f).dbgScratch = s.dbgScratch := rfl
@[simp] theorem State.updMc_frozen (b k : Nat) (f : Mc → Mc) : (s.updMc b k f).frozen = s.frozen := rfl

/-! ### updDma -/

@[simp] theorem State.updDma_pending (b c : Nat) (f : Dma → Dma) : (s.updDma b c f).pending = s.pending := rfl
@[simp] theorem State.updDma_dev (b c : Nat) (f : Dma → Dma) : (s.updDma b c f).dev = s.dev := rfl
@[simp] theorem State.updDma_tick (b c : Nat) (f : Dma → Dma) : (s.updDma b c f).tick = s.tick := rfl
@[simp] theorem State.updDma_supply (b c : Nat) (f : Dma → Dma) : (s.updDma b c f).supply = s.supply := rfl
@[simp] theorem State.updDma_pwr (b c : Nat) (f : Dma → Dma) : (s.updDma b c f).pwr = s.pwr := rfl
@[simp] theorem State.updDma_flash (b c : Nat) (f : Dma → Dma) : (s.updDma b c f).flash = s.flash := rfl
@[simp] theorem State.updDma_sec (b c : Nat) (f : Dma → Dma) : (s.updDma b c f).sec = s.sec := rfl
@[simp] theorem State.updDma_image (b c : Nat) (f : Dma → Dma) : (s.updDma b c f).image = s.image := rfl
@[simp] theorem State.updDma_hif (b c : Nat) (f : Dma → Dma) : (s.updDma b c f).hif = s.hif := rfl
@[simp] theorem State.updDma_sch (b c : Nat) (f : Dma → Dma) : (s.updDma b c f).sch = s.sch := rfl
@[simp] theorem State.updDma_standby (b c : Nat) (f : Dma → Dma) : (s.updDma b c f).standby = s.standby := rfl
@[simp] theorem State.updDma_regions (b c : Nat) (f : Dma → Dma) : (s.updDma b c f).regions = s.regions := rfl
@[simp] theorem State.updDma_ccd (b c : Nat) (f : Dma → Dma) : (s.updDma b c f).ccd = s.ccd := rfl
@[simp] theorem State.updDma_hbm (b c : Nat) (f : Dma → Dma) : (s.updDma b c f).hbm = s.hbm := rfl
@[simp] theorem State.updDma_hbmWords (b c : Nat) (f : Dma → Dma) : (s.updDma b c f).hbmWords = s.hbmWords := rfl
@[simp] theorem State.updDma_hbmStacks (b c : Nat) (f : Dma → Dma) : (s.updDma b c f).hbmStacks = s.hbmStacks := rfl
@[simp] theorem State.updDma_pim (b c : Nat) (f : Dma → Dma) : (s.updDma b c f).pim = s.pim := rfl
@[simp] theorem State.updDma_ce (b c : Nat) (f : Dma → Dma) : (s.updDma b c f).ce = s.ce := rfl
@[simp] theorem State.updDma_fab (b c : Nat) (f : Dma → Dma) : (s.updDma b c f).fab = s.fab := rfl
@[simp] theorem State.updDma_qos (b c : Nat) (f : Dma → Dma) : (s.updDma b c f).qos = s.qos := rfl
@[simp] theorem State.updDma_thm (b c : Nat) (f : Dma → Dma) : (s.updDma b c f).thm = s.thm := rfl
@[simp] theorem State.updDma_err (b c : Nat) (f : Dma → Dma) : (s.updDma b c f).err = s.err := rfl
@[simp] theorem State.updDma_mgmt (b c : Nat) (f : Dma → Dma) : (s.updDma b c f).mgmt = s.mgmt := rfl
@[simp] theorem State.updDma_dbgScratch (b c : Nat) (f : Dma → Dma) : (s.updDma b c f).dbgScratch = s.dbgScratch := rfl
@[simp] theorem State.updDma_frozen (b c : Nat) (f : Dma → Dma) : (s.updDma b c f).frozen = s.frozen := rfl

/-! ### updRegion -/

@[simp] theorem State.updRegion_pending (r : Nat) (f : Region → Region) : (s.updRegion r f).pending = s.pending := rfl
@[simp] theorem State.updRegion_dev (r : Nat) (f : Region → Region) : (s.updRegion r f).dev = s.dev := rfl
@[simp] theorem State.updRegion_tick (r : Nat) (f : Region → Region) : (s.updRegion r f).tick = s.tick := rfl
@[simp] theorem State.updRegion_supply (r : Nat) (f : Region → Region) : (s.updRegion r f).supply = s.supply := rfl
@[simp] theorem State.updRegion_pwr (r : Nat) (f : Region → Region) : (s.updRegion r f).pwr = s.pwr := rfl
@[simp] theorem State.updRegion_flash (r : Nat) (f : Region → Region) : (s.updRegion r f).flash = s.flash := rfl
@[simp] theorem State.updRegion_sec (r : Nat) (f : Region → Region) : (s.updRegion r f).sec = s.sec := rfl
@[simp] theorem State.updRegion_image (r : Nat) (f : Region → Region) : (s.updRegion r f).image = s.image := rfl
@[simp] theorem State.updRegion_hif (r : Nat) (f : Region → Region) : (s.updRegion r f).hif = s.hif := rfl
@[simp] theorem State.updRegion_sch (r : Nat) (f : Region → Region) : (s.updRegion r f).sch = s.sch := rfl
@[simp] theorem State.updRegion_standby (r : Nat) (f : Region → Region) : (s.updRegion r f).standby = s.standby := rfl
@[simp] theorem State.updRegion_blocks (r : Nat) (f : Region → Region) : (s.updRegion r f).blocks = s.blocks := rfl
@[simp] theorem State.updRegion_ccd (r : Nat) (f : Region → Region) : (s.updRegion r f).ccd = s.ccd := rfl
@[simp] theorem State.updRegion_hbm (r : Nat) (f : Region → Region) : (s.updRegion r f).hbm = s.hbm := rfl
@[simp] theorem State.updRegion_hbmWords (r : Nat) (f : Region → Region) : (s.updRegion r f).hbmWords = s.hbmWords := rfl
@[simp] theorem State.updRegion_hbmStacks (r : Nat) (f : Region → Region) : (s.updRegion r f).hbmStacks = s.hbmStacks := rfl
@[simp] theorem State.updRegion_pim (r : Nat) (f : Region → Region) : (s.updRegion r f).pim = s.pim := rfl
@[simp] theorem State.updRegion_ce (r : Nat) (f : Region → Region) : (s.updRegion r f).ce = s.ce := rfl
@[simp] theorem State.updRegion_fab (r : Nat) (f : Region → Region) : (s.updRegion r f).fab = s.fab := rfl
@[simp] theorem State.updRegion_qos (r : Nat) (f : Region → Region) : (s.updRegion r f).qos = s.qos := rfl
@[simp] theorem State.updRegion_thm (r : Nat) (f : Region → Region) : (s.updRegion r f).thm = s.thm := rfl
@[simp] theorem State.updRegion_err (r : Nat) (f : Region → Region) : (s.updRegion r f).err = s.err := rfl
@[simp] theorem State.updRegion_mgmt (r : Nat) (f : Region → Region) : (s.updRegion r f).mgmt = s.mgmt := rfl
@[simp] theorem State.updRegion_dbgScratch (r : Nat) (f : Region → Region) : (s.updRegion r f).dbgScratch = s.dbgScratch := rfl
@[simp] theorem State.updRegion_frozen (r : Nat) (f : Region → Region) : (s.updRegion r f).frozen = s.frozen := rfl

/-! ### updSlice -/

@[simp] theorem State.updSlice_pending (n : Nat) (f : Slice → Slice) : (s.updSlice n f).pending = s.pending := rfl
@[simp] theorem State.updSlice_dev (n : Nat) (f : Slice → Slice) : (s.updSlice n f).dev = s.dev := rfl
@[simp] theorem State.updSlice_tick (n : Nat) (f : Slice → Slice) : (s.updSlice n f).tick = s.tick := rfl
@[simp] theorem State.updSlice_supply (n : Nat) (f : Slice → Slice) : (s.updSlice n f).supply = s.supply := rfl
@[simp] theorem State.updSlice_pwr (n : Nat) (f : Slice → Slice) : (s.updSlice n f).pwr = s.pwr := rfl
@[simp] theorem State.updSlice_flash (n : Nat) (f : Slice → Slice) : (s.updSlice n f).flash = s.flash := rfl
@[simp] theorem State.updSlice_sec (n : Nat) (f : Slice → Slice) : (s.updSlice n f).sec = s.sec := rfl
@[simp] theorem State.updSlice_image (n : Nat) (f : Slice → Slice) : (s.updSlice n f).image = s.image := rfl
@[simp] theorem State.updSlice_hif (n : Nat) (f : Slice → Slice) : (s.updSlice n f).hif = s.hif := rfl
@[simp] theorem State.updSlice_sch (n : Nat) (f : Slice → Slice) : (s.updSlice n f).sch = s.sch := rfl
@[simp] theorem State.updSlice_standby (n : Nat) (f : Slice → Slice) : (s.updSlice n f).standby = s.standby := rfl
@[simp] theorem State.updSlice_blocks (n : Nat) (f : Slice → Slice) : (s.updSlice n f).blocks = s.blocks := rfl
@[simp] theorem State.updSlice_regions (n : Nat) (f : Slice → Slice) : (s.updSlice n f).regions = s.regions := rfl
@[simp] theorem State.updSlice_hbm (n : Nat) (f : Slice → Slice) : (s.updSlice n f).hbm = s.hbm := rfl
@[simp] theorem State.updSlice_hbmWords (n : Nat) (f : Slice → Slice) : (s.updSlice n f).hbmWords = s.hbmWords := rfl
@[simp] theorem State.updSlice_hbmStacks (n : Nat) (f : Slice → Slice) : (s.updSlice n f).hbmStacks = s.hbmStacks := rfl
@[simp] theorem State.updSlice_pim (n : Nat) (f : Slice → Slice) : (s.updSlice n f).pim = s.pim := rfl
@[simp] theorem State.updSlice_ce (n : Nat) (f : Slice → Slice) : (s.updSlice n f).ce = s.ce := rfl
@[simp] theorem State.updSlice_fab (n : Nat) (f : Slice → Slice) : (s.updSlice n f).fab = s.fab := rfl
@[simp] theorem State.updSlice_qos (n : Nat) (f : Slice → Slice) : (s.updSlice n f).qos = s.qos := rfl
@[simp] theorem State.updSlice_thm (n : Nat) (f : Slice → Slice) : (s.updSlice n f).thm = s.thm := rfl
@[simp] theorem State.updSlice_err (n : Nat) (f : Slice → Slice) : (s.updSlice n f).err = s.err := rfl
@[simp] theorem State.updSlice_mgmt (n : Nat) (f : Slice → Slice) : (s.updSlice n f).mgmt = s.mgmt := rfl
@[simp] theorem State.updSlice_dbgScratch (n : Nat) (f : Slice → Slice) : (s.updSlice n f).dbgScratch = s.dbgScratch := rfl
@[simp] theorem State.updSlice_frozen (n : Nat) (f : Slice → Slice) : (s.updSlice n f).frozen = s.frozen := rfl

/-! ### updStack -/

@[simp] theorem State.updStack_pending (n : Nat) (f : Stack → Stack) : (s.updStack n f).pending = s.pending := rfl
@[simp] theorem State.updStack_dev (n : Nat) (f : Stack → Stack) : (s.updStack n f).dev = s.dev := rfl
@[simp] theorem State.updStack_tick (n : Nat) (f : Stack → Stack) : (s.updStack n f).tick = s.tick := rfl
@[simp] theorem State.updStack_supply (n : Nat) (f : Stack → Stack) : (s.updStack n f).supply = s.supply := rfl
@[simp] theorem State.updStack_pwr (n : Nat) (f : Stack → Stack) : (s.updStack n f).pwr = s.pwr := rfl
@[simp] theorem State.updStack_flash (n : Nat) (f : Stack → Stack) : (s.updStack n f).flash = s.flash := rfl
@[simp] theorem State.updStack_sec (n : Nat) (f : Stack → Stack) : (s.updStack n f).sec = s.sec := rfl
@[simp] theorem State.updStack_image (n : Nat) (f : Stack → Stack) : (s.updStack n f).image = s.image := rfl
@[simp] theorem State.updStack_hif (n : Nat) (f : Stack → Stack) : (s.updStack n f).hif = s.hif := rfl
@[simp] theorem State.updStack_sch (n : Nat) (f : Stack → Stack) : (s.updStack n f).sch = s.sch := rfl
@[simp] theorem State.updStack_standby (n : Nat) (f : Stack → Stack) : (s.updStack n f).standby = s.standby := rfl
@[simp] theorem State.updStack_blocks (n : Nat) (f : Stack → Stack) : (s.updStack n f).blocks = s.blocks := rfl
@[simp] theorem State.updStack_regions (n : Nat) (f : Stack → Stack) : (s.updStack n f).regions = s.regions := rfl
@[simp] theorem State.updStack_ccd (n : Nat) (f : Stack → Stack) : (s.updStack n f).ccd = s.ccd := rfl
@[simp] theorem State.updStack_hbm (n : Nat) (f : Stack → Stack) : (s.updStack n f).hbm = s.hbm := rfl
@[simp] theorem State.updStack_hbmWords (n : Nat) (f : Stack → Stack) : (s.updStack n f).hbmWords = s.hbmWords := rfl
@[simp] theorem State.updStack_pim (n : Nat) (f : Stack → Stack) : (s.updStack n f).pim = s.pim := rfl
@[simp] theorem State.updStack_ce (n : Nat) (f : Stack → Stack) : (s.updStack n f).ce = s.ce := rfl
@[simp] theorem State.updStack_fab (n : Nat) (f : Stack → Stack) : (s.updStack n f).fab = s.fab := rfl
@[simp] theorem State.updStack_qos (n : Nat) (f : Stack → Stack) : (s.updStack n f).qos = s.qos := rfl
@[simp] theorem State.updStack_thm (n : Nat) (f : Stack → Stack) : (s.updStack n f).thm = s.thm := rfl
@[simp] theorem State.updStack_err (n : Nat) (f : Stack → Stack) : (s.updStack n f).err = s.err := rfl
@[simp] theorem State.updStack_mgmt (n : Nat) (f : Stack → Stack) : (s.updStack n f).mgmt = s.mgmt := rfl
@[simp] theorem State.updStack_dbgScratch (n : Nat) (f : Stack → Stack) : (s.updStack n f).dbgScratch = s.dbgScratch := rfl
@[simp] theorem State.updStack_frozen (n : Nat) (f : Stack → Stack) : (s.updStack n f).frozen = s.frozen := rfl

/-! ### updChan -/

@[simp] theorem State.updChan_pending (n c : Nat) (f : Chan → Chan) : (s.updChan n c f).pending = s.pending := rfl
@[simp] theorem State.updChan_dev (n c : Nat) (f : Chan → Chan) : (s.updChan n c f).dev = s.dev := rfl
@[simp] theorem State.updChan_tick (n c : Nat) (f : Chan → Chan) : (s.updChan n c f).tick = s.tick := rfl
@[simp] theorem State.updChan_supply (n c : Nat) (f : Chan → Chan) : (s.updChan n c f).supply = s.supply := rfl
@[simp] theorem State.updChan_pwr (n c : Nat) (f : Chan → Chan) : (s.updChan n c f).pwr = s.pwr := rfl
@[simp] theorem State.updChan_flash (n c : Nat) (f : Chan → Chan) : (s.updChan n c f).flash = s.flash := rfl
@[simp] theorem State.updChan_sec (n c : Nat) (f : Chan → Chan) : (s.updChan n c f).sec = s.sec := rfl
@[simp] theorem State.updChan_image (n c : Nat) (f : Chan → Chan) : (s.updChan n c f).image = s.image := rfl
@[simp] theorem State.updChan_hif (n c : Nat) (f : Chan → Chan) : (s.updChan n c f).hif = s.hif := rfl
@[simp] theorem State.updChan_sch (n c : Nat) (f : Chan → Chan) : (s.updChan n c f).sch = s.sch := rfl
@[simp] theorem State.updChan_standby (n c : Nat) (f : Chan → Chan) : (s.updChan n c f).standby = s.standby := rfl
@[simp] theorem State.updChan_blocks (n c : Nat) (f : Chan → Chan) : (s.updChan n c f).blocks = s.blocks := rfl
@[simp] theorem State.updChan_regions (n c : Nat) (f : Chan → Chan) : (s.updChan n c f).regions = s.regions := rfl
@[simp] theorem State.updChan_ccd (n c : Nat) (f : Chan → Chan) : (s.updChan n c f).ccd = s.ccd := rfl
@[simp] theorem State.updChan_hbm (n c : Nat) (f : Chan → Chan) : (s.updChan n c f).hbm = s.hbm := rfl
@[simp] theorem State.updChan_hbmWords (n c : Nat) (f : Chan → Chan) : (s.updChan n c f).hbmWords = s.hbmWords := rfl
@[simp] theorem State.updChan_pim (n c : Nat) (f : Chan → Chan) : (s.updChan n c f).pim = s.pim := rfl
@[simp] theorem State.updChan_ce (n c : Nat) (f : Chan → Chan) : (s.updChan n c f).ce = s.ce := rfl
@[simp] theorem State.updChan_fab (n c : Nat) (f : Chan → Chan) : (s.updChan n c f).fab = s.fab := rfl
@[simp] theorem State.updChan_qos (n c : Nat) (f : Chan → Chan) : (s.updChan n c f).qos = s.qos := rfl
@[simp] theorem State.updChan_thm (n c : Nat) (f : Chan → Chan) : (s.updChan n c f).thm = s.thm := rfl
@[simp] theorem State.updChan_err (n c : Nat) (f : Chan → Chan) : (s.updChan n c f).err = s.err := rfl
@[simp] theorem State.updChan_mgmt (n c : Nat) (f : Chan → Chan) : (s.updChan n c f).mgmt = s.mgmt := rfl
@[simp] theorem State.updChan_dbgScratch (n c : Nat) (f : Chan → Chan) : (s.updChan n c f).dbgScratch = s.dbgScratch := rfl
@[simp] theorem State.updChan_frozen (n c : Nat) (f : Chan → Chan) : (s.updChan n c f).frozen = s.frozen := rfl

/-! ### updPort -/

@[simp] theorem State.updPort_pending (p : Nat) (f : Port → Port) : (s.updPort p f).pending = s.pending := rfl
@[simp] theorem State.updPort_dev (p : Nat) (f : Port → Port) : (s.updPort p f).dev = s.dev := rfl
@[simp] theorem State.updPort_tick (p : Nat) (f : Port → Port) : (s.updPort p f).tick = s.tick := rfl
@[simp] theorem State.updPort_supply (p : Nat) (f : Port → Port) : (s.updPort p f).supply = s.supply := rfl
@[simp] theorem State.updPort_pwr (p : Nat) (f : Port → Port) : (s.updPort p f).pwr = s.pwr := rfl
@[simp] theorem State.updPort_flash (p : Nat) (f : Port → Port) : (s.updPort p f).flash = s.flash := rfl
@[simp] theorem State.updPort_sec (p : Nat) (f : Port → Port) : (s.updPort p f).sec = s.sec := rfl
@[simp] theorem State.updPort_image (p : Nat) (f : Port → Port) : (s.updPort p f).image = s.image := rfl
@[simp] theorem State.updPort_hif (p : Nat) (f : Port → Port) : (s.updPort p f).hif = s.hif := rfl
@[simp] theorem State.updPort_sch (p : Nat) (f : Port → Port) : (s.updPort p f).sch = s.sch := rfl
@[simp] theorem State.updPort_standby (p : Nat) (f : Port → Port) : (s.updPort p f).standby = s.standby := rfl
@[simp] theorem State.updPort_blocks (p : Nat) (f : Port → Port) : (s.updPort p f).blocks = s.blocks := rfl
@[simp] theorem State.updPort_regions (p : Nat) (f : Port → Port) : (s.updPort p f).regions = s.regions := rfl
@[simp] theorem State.updPort_ccd (p : Nat) (f : Port → Port) : (s.updPort p f).ccd = s.ccd := rfl
@[simp] theorem State.updPort_hbm (p : Nat) (f : Port → Port) : (s.updPort p f).hbm = s.hbm := rfl
@[simp] theorem State.updPort_hbmWords (p : Nat) (f : Port → Port) : (s.updPort p f).hbmWords = s.hbmWords := rfl
@[simp] theorem State.updPort_hbmStacks (p : Nat) (f : Port → Port) : (s.updPort p f).hbmStacks = s.hbmStacks := rfl
@[simp] theorem State.updPort_pim (p : Nat) (f : Port → Port) : (s.updPort p f).pim = s.pim := rfl
@[simp] theorem State.updPort_ce (p : Nat) (f : Port → Port) : (s.updPort p f).ce = s.ce := rfl
@[simp] theorem State.updPort_qos (p : Nat) (f : Port → Port) : (s.updPort p f).qos = s.qos := rfl
@[simp] theorem State.updPort_thm (p : Nat) (f : Port → Port) : (s.updPort p f).thm = s.thm := rfl
@[simp] theorem State.updPort_err (p : Nat) (f : Port → Port) : (s.updPort p f).err = s.err := rfl
@[simp] theorem State.updPort_mgmt (p : Nat) (f : Port → Port) : (s.updPort p f).mgmt = s.mgmt := rfl
@[simp] theorem State.updPort_dbgScratch (p : Nat) (f : Port → Port) : (s.updPort p f).dbgScratch = s.dbgScratch := rfl
@[simp] theorem State.updPort_frozen (p : Nat) (f : Port → Port) : (s.updPort p f).frozen = s.frozen := rfl

/-! ### updTag -/

@[simp] theorem State.updTag_pending (t : Nat) (f : Tag → Tag) : (s.updTag t f).pending = s.pending := rfl
@[simp] theorem State.updTag_dev (t : Nat) (f : Tag → Tag) : (s.updTag t f).dev = s.dev := rfl
@[simp] theorem State.updTag_tick (t : Nat) (f : Tag → Tag) : (s.updTag t f).tick = s.tick := rfl
@[simp] theorem State.updTag_supply (t : Nat) (f : Tag → Tag) : (s.updTag t f).supply = s.supply := rfl
@[simp] theorem State.updTag_pwr (t : Nat) (f : Tag → Tag) : (s.updTag t f).pwr = s.pwr := rfl
@[simp] theorem State.updTag_flash (t : Nat) (f : Tag → Tag) : (s.updTag t f).flash = s.flash := rfl
@[simp] theorem State.updTag_sec (t : Nat) (f : Tag → Tag) : (s.updTag t f).sec = s.sec := rfl
@[simp] theorem State.updTag_image (t : Nat) (f : Tag → Tag) : (s.updTag t f).image = s.image := rfl
@[simp] theorem State.updTag_hif (t : Nat) (f : Tag → Tag) : (s.updTag t f).hif = s.hif := rfl
@[simp] theorem State.updTag_sch (t : Nat) (f : Tag → Tag) : (s.updTag t f).sch = s.sch := rfl
@[simp] theorem State.updTag_standby (t : Nat) (f : Tag → Tag) : (s.updTag t f).standby = s.standby := rfl
@[simp] theorem State.updTag_blocks (t : Nat) (f : Tag → Tag) : (s.updTag t f).blocks = s.blocks := rfl
@[simp] theorem State.updTag_regions (t : Nat) (f : Tag → Tag) : (s.updTag t f).regions = s.regions := rfl
@[simp] theorem State.updTag_ccd (t : Nat) (f : Tag → Tag) : (s.updTag t f).ccd = s.ccd := rfl
@[simp] theorem State.updTag_hbm (t : Nat) (f : Tag → Tag) : (s.updTag t f).hbm = s.hbm := rfl
@[simp] theorem State.updTag_hbmWords (t : Nat) (f : Tag → Tag) : (s.updTag t f).hbmWords = s.hbmWords := rfl
@[simp] theorem State.updTag_hbmStacks (t : Nat) (f : Tag → Tag) : (s.updTag t f).hbmStacks = s.hbmStacks := rfl
@[simp] theorem State.updTag_pim (t : Nat) (f : Tag → Tag) : (s.updTag t f).pim = s.pim := rfl
@[simp] theorem State.updTag_ce (t : Nat) (f : Tag → Tag) : (s.updTag t f).ce = s.ce := rfl
@[simp] theorem State.updTag_qos (t : Nat) (f : Tag → Tag) : (s.updTag t f).qos = s.qos := rfl
@[simp] theorem State.updTag_thm (t : Nat) (f : Tag → Tag) : (s.updTag t f).thm = s.thm := rfl
@[simp] theorem State.updTag_err (t : Nat) (f : Tag → Tag) : (s.updTag t f).err = s.err := rfl
@[simp] theorem State.updTag_mgmt (t : Nat) (f : Tag → Tag) : (s.updTag t f).mgmt = s.mgmt := rfl
@[simp] theorem State.updTag_dbgScratch (t : Nat) (f : Tag → Tag) : (s.updTag t f).dbgScratch = s.dbgScratch := rfl
@[simp] theorem State.updTag_frozen (t : Nat) (f : Tag → Tag) : (s.updTag t f).frozen = s.frozen := rfl

/-! ### updNb -/

@[simp] theorem State.updNb_pending (n : Nat) (f : NbStack → NbStack) : (s.updNb n f).pending = s.pending := rfl
@[simp] theorem State.updNb_dev (n : Nat) (f : NbStack → NbStack) : (s.updNb n f).dev = s.dev := rfl
@[simp] theorem State.updNb_tick (n : Nat) (f : NbStack → NbStack) : (s.updNb n f).tick = s.tick := rfl
@[simp] theorem State.updNb_supply (n : Nat) (f : NbStack → NbStack) : (s.updNb n f).supply = s.supply := rfl
@[simp] theorem State.updNb_pwr (n : Nat) (f : NbStack → NbStack) : (s.updNb n f).pwr = s.pwr := rfl
@[simp] theorem State.updNb_flash (n : Nat) (f : NbStack → NbStack) : (s.updNb n f).flash = s.flash := rfl
@[simp] theorem State.updNb_sec (n : Nat) (f : NbStack → NbStack) : (s.updNb n f).sec = s.sec := rfl
@[simp] theorem State.updNb_image (n : Nat) (f : NbStack → NbStack) : (s.updNb n f).image = s.image := rfl
@[simp] theorem State.updNb_hif (n : Nat) (f : NbStack → NbStack) : (s.updNb n f).hif = s.hif := rfl
@[simp] theorem State.updNb_sch (n : Nat) (f : NbStack → NbStack) : (s.updNb n f).sch = s.sch := rfl
@[simp] theorem State.updNb_standby (n : Nat) (f : NbStack → NbStack) : (s.updNb n f).standby = s.standby := rfl
@[simp] theorem State.updNb_blocks (n : Nat) (f : NbStack → NbStack) : (s.updNb n f).blocks = s.blocks := rfl
@[simp] theorem State.updNb_regions (n : Nat) (f : NbStack → NbStack) : (s.updNb n f).regions = s.regions := rfl
@[simp] theorem State.updNb_ccd (n : Nat) (f : NbStack → NbStack) : (s.updNb n f).ccd = s.ccd := rfl
@[simp] theorem State.updNb_hbm (n : Nat) (f : NbStack → NbStack) : (s.updNb n f).hbm = s.hbm := rfl
@[simp] theorem State.updNb_hbmWords (n : Nat) (f : NbStack → NbStack) : (s.updNb n f).hbmWords = s.hbmWords := rfl
@[simp] theorem State.updNb_hbmStacks (n : Nat) (f : NbStack → NbStack) : (s.updNb n f).hbmStacks = s.hbmStacks := rfl
@[simp] theorem State.updNb_ce (n : Nat) (f : NbStack → NbStack) : (s.updNb n f).ce = s.ce := rfl
@[simp] theorem State.updNb_fab (n : Nat) (f : NbStack → NbStack) : (s.updNb n f).fab = s.fab := rfl
@[simp] theorem State.updNb_qos (n : Nat) (f : NbStack → NbStack) : (s.updNb n f).qos = s.qos := rfl
@[simp] theorem State.updNb_thm (n : Nat) (f : NbStack → NbStack) : (s.updNb n f).thm = s.thm := rfl
@[simp] theorem State.updNb_err (n : Nat) (f : NbStack → NbStack) : (s.updNb n f).err = s.err := rfl
@[simp] theorem State.updNb_mgmt (n : Nat) (f : NbStack → NbStack) : (s.updNb n f).mgmt = s.mgmt := rfl
@[simp] theorem State.updNb_dbgScratch (n : Nat) (f : NbStack → NbStack) : (s.updNb n f).dbgScratch = s.dbgScratch := rfl
@[simp] theorem State.updNb_frozen (n : Nat) (f : NbStack → NbStack) : (s.updNb n f).frozen = s.frozen := rfl

/-! ### updSq -/

@[simp] theorem State.updSq_pending (q : Nat) (f : SqRing → SqRing) : (s.updSq q f).pending = s.pending := rfl
@[simp] theorem State.updSq_dev (q : Nat) (f : SqRing → SqRing) : (s.updSq q f).dev = s.dev := rfl
@[simp] theorem State.updSq_tick (q : Nat) (f : SqRing → SqRing) : (s.updSq q f).tick = s.tick := rfl
@[simp] theorem State.updSq_supply (q : Nat) (f : SqRing → SqRing) : (s.updSq q f).supply = s.supply := rfl
@[simp] theorem State.updSq_pwr (q : Nat) (f : SqRing → SqRing) : (s.updSq q f).pwr = s.pwr := rfl
@[simp] theorem State.updSq_flash (q : Nat) (f : SqRing → SqRing) : (s.updSq q f).flash = s.flash := rfl
@[simp] theorem State.updSq_sec (q : Nat) (f : SqRing → SqRing) : (s.updSq q f).sec = s.sec := rfl
@[simp] theorem State.updSq_image (q : Nat) (f : SqRing → SqRing) : (s.updSq q f).image = s.image := rfl
@[simp] theorem State.updSq_sch (q : Nat) (f : SqRing → SqRing) : (s.updSq q f).sch = s.sch := rfl
@[simp] theorem State.updSq_standby (q : Nat) (f : SqRing → SqRing) : (s.updSq q f).standby = s.standby := rfl
@[simp] theorem State.updSq_blocks (q : Nat) (f : SqRing → SqRing) : (s.updSq q f).blocks = s.blocks := rfl
@[simp] theorem State.updSq_regions (q : Nat) (f : SqRing → SqRing) : (s.updSq q f).regions = s.regions := rfl
@[simp] theorem State.updSq_ccd (q : Nat) (f : SqRing → SqRing) : (s.updSq q f).ccd = s.ccd := rfl
@[simp] theorem State.updSq_hbm (q : Nat) (f : SqRing → SqRing) : (s.updSq q f).hbm = s.hbm := rfl
@[simp] theorem State.updSq_hbmWords (q : Nat) (f : SqRing → SqRing) : (s.updSq q f).hbmWords = s.hbmWords := rfl
@[simp] theorem State.updSq_hbmStacks (q : Nat) (f : SqRing → SqRing) : (s.updSq q f).hbmStacks = s.hbmStacks := rfl
@[simp] theorem State.updSq_pim (q : Nat) (f : SqRing → SqRing) : (s.updSq q f).pim = s.pim := rfl
@[simp] theorem State.updSq_ce (q : Nat) (f : SqRing → SqRing) : (s.updSq q f).ce = s.ce := rfl
@[simp] theorem State.updSq_fab (q : Nat) (f : SqRing → SqRing) : (s.updSq q f).fab = s.fab := rfl
@[simp] theorem State.updSq_qos (q : Nat) (f : SqRing → SqRing) : (s.updSq q f).qos = s.qos := rfl
@[simp] theorem State.updSq_thm (q : Nat) (f : SqRing → SqRing) : (s.updSq q f).thm = s.thm := rfl
@[simp] theorem State.updSq_err (q : Nat) (f : SqRing → SqRing) : (s.updSq q f).err = s.err := rfl
@[simp] theorem State.updSq_mgmt (q : Nat) (f : SqRing → SqRing) : (s.updSq q f).mgmt = s.mgmt := rfl
@[simp] theorem State.updSq_dbgScratch (q : Nat) (f : SqRing → SqRing) : (s.updSq q f).dbgScratch = s.dbgScratch := rfl
@[simp] theorem State.updSq_frozen (q : Nat) (f : SqRing → SqRing) : (s.updSq q f).frozen = s.frozen := rfl

/-! ### updCq -/

@[simp] theorem State.updCq_pending (c : Nat) (f : CqRing → CqRing) : (s.updCq c f).pending = s.pending := rfl
@[simp] theorem State.updCq_dev (c : Nat) (f : CqRing → CqRing) : (s.updCq c f).dev = s.dev := rfl
@[simp] theorem State.updCq_tick (c : Nat) (f : CqRing → CqRing) : (s.updCq c f).tick = s.tick := rfl
@[simp] theorem State.updCq_supply (c : Nat) (f : CqRing → CqRing) : (s.updCq c f).supply = s.supply := rfl
@[simp] theorem State.updCq_pwr (c : Nat) (f : CqRing → CqRing) : (s.updCq c f).pwr = s.pwr := rfl
@[simp] theorem State.updCq_flash (c : Nat) (f : CqRing → CqRing) : (s.updCq c f).flash = s.flash := rfl
@[simp] theorem State.updCq_sec (c : Nat) (f : CqRing → CqRing) : (s.updCq c f).sec = s.sec := rfl
@[simp] theorem State.updCq_image (c : Nat) (f : CqRing → CqRing) : (s.updCq c f).image = s.image := rfl
@[simp] theorem State.updCq_sch (c : Nat) (f : CqRing → CqRing) : (s.updCq c f).sch = s.sch := rfl
@[simp] theorem State.updCq_standby (c : Nat) (f : CqRing → CqRing) : (s.updCq c f).standby = s.standby := rfl
@[simp] theorem State.updCq_blocks (c : Nat) (f : CqRing → CqRing) : (s.updCq c f).blocks = s.blocks := rfl
@[simp] theorem State.updCq_regions (c : Nat) (f : CqRing → CqRing) : (s.updCq c f).regions = s.regions := rfl
@[simp] theorem State.updCq_ccd (c : Nat) (f : CqRing → CqRing) : (s.updCq c f).ccd = s.ccd := rfl
@[simp] theorem State.updCq_hbm (c : Nat) (f : CqRing → CqRing) : (s.updCq c f).hbm = s.hbm := rfl
@[simp] theorem State.updCq_hbmWords (c : Nat) (f : CqRing → CqRing) : (s.updCq c f).hbmWords = s.hbmWords := rfl
@[simp] theorem State.updCq_hbmStacks (c : Nat) (f : CqRing → CqRing) : (s.updCq c f).hbmStacks = s.hbmStacks := rfl
@[simp] theorem State.updCq_pim (c : Nat) (f : CqRing → CqRing) : (s.updCq c f).pim = s.pim := rfl
@[simp] theorem State.updCq_ce (c : Nat) (f : CqRing → CqRing) : (s.updCq c f).ce = s.ce := rfl
@[simp] theorem State.updCq_fab (c : Nat) (f : CqRing → CqRing) : (s.updCq c f).fab = s.fab := rfl
@[simp] theorem State.updCq_qos (c : Nat) (f : CqRing → CqRing) : (s.updCq c f).qos = s.qos := rfl
@[simp] theorem State.updCq_thm (c : Nat) (f : CqRing → CqRing) : (s.updCq c f).thm = s.thm := rfl
@[simp] theorem State.updCq_err (c : Nat) (f : CqRing → CqRing) : (s.updCq c f).err = s.err := rfl
@[simp] theorem State.updCq_mgmt (c : Nat) (f : CqRing → CqRing) : (s.updCq c f).mgmt = s.mgmt := rfl
@[simp] theorem State.updCq_dbgScratch (c : Nat) (f : CqRing → CqRing) : (s.updCq c f).dbgScratch = s.dbgScratch := rfl
@[simp] theorem State.updCq_frozen (c : Nat) (f : CqRing → CqRing) : (s.updCq c f).frozen = s.frozen := rfl

/-! ### updSlotPwr -/

@[simp] theorem State.updSlotPwr_pending (r n : Nat) (f : SlotPwr → SlotPwr) : (s.updSlotPwr r n f).pending = s.pending := rfl
@[simp] theorem State.updSlotPwr_dev (r n : Nat) (f : SlotPwr → SlotPwr) : (s.updSlotPwr r n f).dev = s.dev := rfl
@[simp] theorem State.updSlotPwr_tick (r n : Nat) (f : SlotPwr → SlotPwr) : (s.updSlotPwr r n f).tick = s.tick := rfl
@[simp] theorem State.updSlotPwr_supply (r n : Nat) (f : SlotPwr → SlotPwr) : (s.updSlotPwr r n f).supply = s.supply := rfl
@[simp] theorem State.updSlotPwr_flash (r n : Nat) (f : SlotPwr → SlotPwr) : (s.updSlotPwr r n f).flash = s.flash := rfl
@[simp] theorem State.updSlotPwr_sec (r n : Nat) (f : SlotPwr → SlotPwr) : (s.updSlotPwr r n f).sec = s.sec := rfl
@[simp] theorem State.updSlotPwr_image (r n : Nat) (f : SlotPwr → SlotPwr) : (s.updSlotPwr r n f).image = s.image := rfl
@[simp] theorem State.updSlotPwr_hif (r n : Nat) (f : SlotPwr → SlotPwr) : (s.updSlotPwr r n f).hif = s.hif := rfl
@[simp] theorem State.updSlotPwr_sch (r n : Nat) (f : SlotPwr → SlotPwr) : (s.updSlotPwr r n f).sch = s.sch := rfl
@[simp] theorem State.updSlotPwr_standby (r n : Nat) (f : SlotPwr → SlotPwr) : (s.updSlotPwr r n f).standby = s.standby := rfl
@[simp] theorem State.updSlotPwr_blocks (r n : Nat) (f : SlotPwr → SlotPwr) : (s.updSlotPwr r n f).blocks = s.blocks := rfl
@[simp] theorem State.updSlotPwr_regions (r n : Nat) (f : SlotPwr → SlotPwr) : (s.updSlotPwr r n f).regions = s.regions := rfl
@[simp] theorem State.updSlotPwr_ccd (r n : Nat) (f : SlotPwr → SlotPwr) : (s.updSlotPwr r n f).ccd = s.ccd := rfl
@[simp] theorem State.updSlotPwr_hbm (r n : Nat) (f : SlotPwr → SlotPwr) : (s.updSlotPwr r n f).hbm = s.hbm := rfl
@[simp] theorem State.updSlotPwr_hbmWords (r n : Nat) (f : SlotPwr → SlotPwr) : (s.updSlotPwr r n f).hbmWords = s.hbmWords := rfl
@[simp] theorem State.updSlotPwr_hbmStacks (r n : Nat) (f : SlotPwr → SlotPwr) : (s.updSlotPwr r n f).hbmStacks = s.hbmStacks := rfl
@[simp] theorem State.updSlotPwr_pim (r n : Nat) (f : SlotPwr → SlotPwr) : (s.updSlotPwr r n f).pim = s.pim := rfl
@[simp] theorem State.updSlotPwr_ce (r n : Nat) (f : SlotPwr → SlotPwr) : (s.updSlotPwr r n f).ce = s.ce := rfl
@[simp] theorem State.updSlotPwr_fab (r n : Nat) (f : SlotPwr → SlotPwr) : (s.updSlotPwr r n f).fab = s.fab := rfl
@[simp] theorem State.updSlotPwr_qos (r n : Nat) (f : SlotPwr → SlotPwr) : (s.updSlotPwr r n f).qos = s.qos := rfl
@[simp] theorem State.updSlotPwr_thm (r n : Nat) (f : SlotPwr → SlotPwr) : (s.updSlotPwr r n f).thm = s.thm := rfl
@[simp] theorem State.updSlotPwr_err (r n : Nat) (f : SlotPwr → SlotPwr) : (s.updSlotPwr r n f).err = s.err := rfl
@[simp] theorem State.updSlotPwr_mgmt (r n : Nat) (f : SlotPwr → SlotPwr) : (s.updSlotPwr r n f).mgmt = s.mgmt := rfl
@[simp] theorem State.updSlotPwr_dbgScratch (r n : Nat) (f : SlotPwr → SlotPwr) : (s.updSlotPwr r n f).dbgScratch = s.dbgScratch := rfl
@[simp] theorem State.updSlotPwr_frozen (r n : Nat) (f : SlotPwr → SlotPwr) : (s.updSlotPwr r n f).frozen = s.frozen := rfl

/-! ### hostWrite -/

@[simp] theorem State.hostWrite_pending (w : HostWrite) : (s.hostWrite w).pending = s.pending := rfl
@[simp] theorem State.hostWrite_dev (w : HostWrite) : (s.hostWrite w).dev = s.dev := rfl
@[simp] theorem State.hostWrite_tick (w : HostWrite) : (s.hostWrite w).tick = s.tick := rfl
@[simp] theorem State.hostWrite_supply (w : HostWrite) : (s.hostWrite w).supply = s.supply := rfl
@[simp] theorem State.hostWrite_pwr (w : HostWrite) : (s.hostWrite w).pwr = s.pwr := rfl
@[simp] theorem State.hostWrite_flash (w : HostWrite) : (s.hostWrite w).flash = s.flash := rfl
@[simp] theorem State.hostWrite_sec (w : HostWrite) : (s.hostWrite w).sec = s.sec := rfl
@[simp] theorem State.hostWrite_image (w : HostWrite) : (s.hostWrite w).image = s.image := rfl
@[simp] theorem State.hostWrite_sch (w : HostWrite) : (s.hostWrite w).sch = s.sch := rfl
@[simp] theorem State.hostWrite_standby (w : HostWrite) : (s.hostWrite w).standby = s.standby := rfl
@[simp] theorem State.hostWrite_blocks (w : HostWrite) : (s.hostWrite w).blocks = s.blocks := rfl
@[simp] theorem State.hostWrite_regions (w : HostWrite) : (s.hostWrite w).regions = s.regions := rfl
@[simp] theorem State.hostWrite_ccd (w : HostWrite) : (s.hostWrite w).ccd = s.ccd := rfl
@[simp] theorem State.hostWrite_hbm (w : HostWrite) : (s.hostWrite w).hbm = s.hbm := rfl
@[simp] theorem State.hostWrite_hbmWords (w : HostWrite) : (s.hostWrite w).hbmWords = s.hbmWords := rfl
@[simp] theorem State.hostWrite_hbmStacks (w : HostWrite) : (s.hostWrite w).hbmStacks = s.hbmStacks := rfl
@[simp] theorem State.hostWrite_pim (w : HostWrite) : (s.hostWrite w).pim = s.pim := rfl
@[simp] theorem State.hostWrite_ce (w : HostWrite) : (s.hostWrite w).ce = s.ce := rfl
@[simp] theorem State.hostWrite_fab (w : HostWrite) : (s.hostWrite w).fab = s.fab := rfl
@[simp] theorem State.hostWrite_qos (w : HostWrite) : (s.hostWrite w).qos = s.qos := rfl
@[simp] theorem State.hostWrite_thm (w : HostWrite) : (s.hostWrite w).thm = s.thm := rfl
@[simp] theorem State.hostWrite_err (w : HostWrite) : (s.hostWrite w).err = s.err := rfl
@[simp] theorem State.hostWrite_mgmt (w : HostWrite) : (s.hostWrite w).mgmt = s.mgmt := rfl
@[simp] theorem State.hostWrite_dbgScratch (w : HostWrite) : (s.hostWrite w).dbgScratch = s.dbgScratch := rfl
@[simp] theorem State.hostWrite_frozen (w : HostWrite) : (s.hostWrite w).frozen = s.frozen := rfl

/-! ### serveAs -/

@[simp] theorem State.serveAs_pending (c m : Nat) : (s.serveAs c m).pending = s.pending := rfl
@[simp] theorem State.serveAs_dev (c m : Nat) : (s.serveAs c m).dev = s.dev := rfl
@[simp] theorem State.serveAs_tick (c m : Nat) : (s.serveAs c m).tick = s.tick := rfl
@[simp] theorem State.serveAs_supply (c m : Nat) : (s.serveAs c m).supply = s.supply := rfl
@[simp] theorem State.serveAs_pwr (c m : Nat) : (s.serveAs c m).pwr = s.pwr := rfl
@[simp] theorem State.serveAs_flash (c m : Nat) : (s.serveAs c m).flash = s.flash := rfl
@[simp] theorem State.serveAs_sec (c m : Nat) : (s.serveAs c m).sec = s.sec := rfl
@[simp] theorem State.serveAs_image (c m : Nat) : (s.serveAs c m).image = s.image := rfl
@[simp] theorem State.serveAs_hif (c m : Nat) : (s.serveAs c m).hif = s.hif := rfl
@[simp] theorem State.serveAs_sch (c m : Nat) : (s.serveAs c m).sch = s.sch := rfl
@[simp] theorem State.serveAs_standby (c m : Nat) : (s.serveAs c m).standby = s.standby := rfl
@[simp] theorem State.serveAs_blocks (c m : Nat) : (s.serveAs c m).blocks = s.blocks := rfl
@[simp] theorem State.serveAs_regions (c m : Nat) : (s.serveAs c m).regions = s.regions := rfl
@[simp] theorem State.serveAs_ccd (c m : Nat) : (s.serveAs c m).ccd = s.ccd := rfl
@[simp] theorem State.serveAs_hbm (c m : Nat) : (s.serveAs c m).hbm = s.hbm := rfl
@[simp] theorem State.serveAs_hbmWords (c m : Nat) : (s.serveAs c m).hbmWords = s.hbmWords := rfl
@[simp] theorem State.serveAs_hbmStacks (c m : Nat) : (s.serveAs c m).hbmStacks = s.hbmStacks := rfl
@[simp] theorem State.serveAs_pim (c m : Nat) : (s.serveAs c m).pim = s.pim := rfl
@[simp] theorem State.serveAs_ce (c m : Nat) : (s.serveAs c m).ce = s.ce := rfl
@[simp] theorem State.serveAs_fab (c m : Nat) : (s.serveAs c m).fab = s.fab := rfl
@[simp] theorem State.serveAs_thm (c m : Nat) : (s.serveAs c m).thm = s.thm := rfl
@[simp] theorem State.serveAs_err (c m : Nat) : (s.serveAs c m).err = s.err := rfl
@[simp] theorem State.serveAs_mgmt (c m : Nat) : (s.serveAs c m).mgmt = s.mgmt := rfl
@[simp] theorem State.serveAs_dbgScratch (c m : Nat) : (s.serveAs c m).dbgScratch = s.dbgScratch := rfl
@[simp] theorem State.serveAs_frozen (c m : Nat) : (s.serveAs c m).frozen = s.frozen := rfl

/-! ### answer -/

@[simp] theorem State.answer_pending (r : MgmtResp) : (s.answer r).pending = s.pending := rfl
@[simp] theorem State.answer_dev (r : MgmtResp) : (s.answer r).dev = s.dev := rfl
@[simp] theorem State.answer_tick (r : MgmtResp) : (s.answer r).tick = s.tick := rfl
@[simp] theorem State.answer_supply (r : MgmtResp) : (s.answer r).supply = s.supply := rfl
@[simp] theorem State.answer_pwr (r : MgmtResp) : (s.answer r).pwr = s.pwr := rfl
@[simp] theorem State.answer_flash (r : MgmtResp) : (s.answer r).flash = s.flash := rfl
@[simp] theorem State.answer_sec (r : MgmtResp) : (s.answer r).sec = s.sec := rfl
@[simp] theorem State.answer_image (r : MgmtResp) : (s.answer r).image = s.image := rfl
@[simp] theorem State.answer_hif (r : MgmtResp) : (s.answer r).hif = s.hif := rfl
@[simp] theorem State.answer_sch (r : MgmtResp) : (s.answer r).sch = s.sch := rfl
@[simp] theorem State.answer_standby (r : MgmtResp) : (s.answer r).standby = s.standby := rfl
@[simp] theorem State.answer_blocks (r : MgmtResp) : (s.answer r).blocks = s.blocks := rfl
@[simp] theorem State.answer_regions (r : MgmtResp) : (s.answer r).regions = s.regions := rfl
@[simp] theorem State.answer_ccd (r : MgmtResp) : (s.answer r).ccd = s.ccd := rfl
@[simp] theorem State.answer_hbm (r : MgmtResp) : (s.answer r).hbm = s.hbm := rfl
@[simp] theorem State.answer_hbmWords (r : MgmtResp) : (s.answer r).hbmWords = s.hbmWords := rfl
@[simp] theorem State.answer_hbmStacks (r : MgmtResp) : (s.answer r).hbmStacks = s.hbmStacks := rfl
@[simp] theorem State.answer_pim (r : MgmtResp) : (s.answer r).pim = s.pim := rfl
@[simp] theorem State.answer_ce (r : MgmtResp) : (s.answer r).ce = s.ce := rfl
@[simp] theorem State.answer_fab (r : MgmtResp) : (s.answer r).fab = s.fab := rfl
@[simp] theorem State.answer_qos (r : MgmtResp) : (s.answer r).qos = s.qos := rfl
@[simp] theorem State.answer_thm (r : MgmtResp) : (s.answer r).thm = s.thm := rfl
@[simp] theorem State.answer_err (r : MgmtResp) : (s.answer r).err = s.err := rfl
@[simp] theorem State.answer_dbgScratch (r : MgmtResp) : (s.answer r).dbgScratch = s.dbgScratch := rfl
@[simp] theorem State.answer_frozen (r : MgmtResp) : (s.answer r).frozen = s.frozen := rfl

/-! ### passTick -/

@[simp] theorem State.passTick_pending : (s.passTick).pending = s.pending := rfl
@[simp] theorem State.passTick_dev : (s.passTick).dev = s.dev := rfl
@[simp] theorem State.passTick_supply : (s.passTick).supply = s.supply := rfl
@[simp] theorem State.passTick_pwr : (s.passTick).pwr = s.pwr := rfl
@[simp] theorem State.passTick_flash : (s.passTick).flash = s.flash := rfl
@[simp] theorem State.passTick_sec : (s.passTick).sec = s.sec := rfl
@[simp] theorem State.passTick_image : (s.passTick).image = s.image := rfl
@[simp] theorem State.passTick_hif : (s.passTick).hif = s.hif := rfl
@[simp] theorem State.passTick_sch : (s.passTick).sch = s.sch := rfl
@[simp] theorem State.passTick_standby : (s.passTick).standby = s.standby := rfl
@[simp] theorem State.passTick_blocks : (s.passTick).blocks = s.blocks := rfl
@[simp] theorem State.passTick_regions : (s.passTick).regions = s.regions := rfl
@[simp] theorem State.passTick_ccd : (s.passTick).ccd = s.ccd := rfl
@[simp] theorem State.passTick_hbm : (s.passTick).hbm = s.hbm := rfl
@[simp] theorem State.passTick_hbmWords : (s.passTick).hbmWords = s.hbmWords := rfl
@[simp] theorem State.passTick_hbmStacks : (s.passTick).hbmStacks = s.hbmStacks := rfl
@[simp] theorem State.passTick_pim : (s.passTick).pim = s.pim := rfl
@[simp] theorem State.passTick_ce : (s.passTick).ce = s.ce := rfl
@[simp] theorem State.passTick_fab : (s.passTick).fab = s.fab := rfl
@[simp] theorem State.passTick_qos : (s.passTick).qos = s.qos := rfl
@[simp] theorem State.passTick_thm : (s.passTick).thm = s.thm := rfl
@[simp] theorem State.passTick_err : (s.passTick).err = s.err := rfl
@[simp] theorem State.passTick_mgmt : (s.passTick).mgmt = s.mgmt := rfl
@[simp] theorem State.passTick_dbgScratch : (s.passTick).dbgScratch = s.dbgScratch := rfl
@[simp] theorem State.passTick_frozen : (s.passTick).frozen = s.frozen := rfl

/-! ### tookFree -/

@[simp] theorem State.tookFree_pending : (s.tookFree).pending = s.pending := rfl
@[simp] theorem State.tookFree_dev : (s.tookFree).dev = s.dev := rfl
@[simp] theorem State.tookFree_tick : (s.tookFree).tick = s.tick := rfl
@[simp] theorem State.tookFree_supply : (s.tookFree).supply = s.supply := rfl
@[simp] theorem State.tookFree_pwr : (s.tookFree).pwr = s.pwr := rfl
@[simp] theorem State.tookFree_flash : (s.tookFree).flash = s.flash := rfl
@[simp] theorem State.tookFree_sec : (s.tookFree).sec = s.sec := rfl
@[simp] theorem State.tookFree_image : (s.tookFree).image = s.image := rfl
@[simp] theorem State.tookFree_hif : (s.tookFree).hif = s.hif := rfl
@[simp] theorem State.tookFree_standby : (s.tookFree).standby = s.standby := rfl
@[simp] theorem State.tookFree_blocks : (s.tookFree).blocks = s.blocks := rfl
@[simp] theorem State.tookFree_regions : (s.tookFree).regions = s.regions := rfl
@[simp] theorem State.tookFree_ccd : (s.tookFree).ccd = s.ccd := rfl
@[simp] theorem State.tookFree_hbm : (s.tookFree).hbm = s.hbm := rfl
@[simp] theorem State.tookFree_hbmWords : (s.tookFree).hbmWords = s.hbmWords := rfl
@[simp] theorem State.tookFree_hbmStacks : (s.tookFree).hbmStacks = s.hbmStacks := rfl
@[simp] theorem State.tookFree_pim : (s.tookFree).pim = s.pim := rfl
@[simp] theorem State.tookFree_ce : (s.tookFree).ce = s.ce := rfl
@[simp] theorem State.tookFree_fab : (s.tookFree).fab = s.fab := rfl
@[simp] theorem State.tookFree_qos : (s.tookFree).qos = s.qos := rfl
@[simp] theorem State.tookFree_thm : (s.tookFree).thm = s.thm := rfl
@[simp] theorem State.tookFree_err : (s.tookFree).err = s.err := rfl
@[simp] theorem State.tookFree_mgmt : (s.tookFree).mgmt = s.mgmt := rfl
@[simp] theorem State.tookFree_dbgScratch : (s.tookFree).dbgScratch = s.dbgScratch := rfl
@[simp] theorem State.tookFree_frozen : (s.tookFree).frozen = s.frozen := rfl

/-! ### Reading what was changed -/

/-- Reading blk after one was changed. -/
theorem State.blk_updBlk (b j : Nat) (f : Block → Block) :
    (s.updBlk b f).blk j = if j = b then f (s.blk b) else s.blk j := SMap.get_upd _ _ _ _ _

@[simp] theorem State.blk_updBlk_self (b : Nat) (f : Block → Block) : (s.updBlk b f).blk b = f (s.blk b) :=
  SMap.get_upd_self _ _ _ _

/-- Reading region after one was changed. -/
theorem State.region_updRegion (r j : Nat) (f : Region → Region) :
    (s.updRegion r f).region j = if j = r then f (s.region r) else s.region j := SMap.get_upd _ _ _ _ _

@[simp] theorem State.region_updRegion_self (r : Nat) (f : Region → Region) : (s.updRegion r f).region r = f (s.region r) :=
  SMap.get_upd_self _ _ _ _

/-- Reading slice after one was changed. -/
theorem State.slice_updSlice (n j : Nat) (f : Slice → Slice) :
    (s.updSlice n f).slice j = if j = n then f (s.slice n) else s.slice j := SMap.get_upd _ _ _ _ _

@[simp] theorem State.slice_updSlice_self (n : Nat) (f : Slice → Slice) : (s.updSlice n f).slice n = f (s.slice n) :=
  SMap.get_upd_self _ _ _ _

/-- Reading stack after one was changed. -/
theorem State.stack_updStack (n j : Nat) (f : Stack → Stack) :
    (s.updStack n f).stack j = if j = n then f (s.stack n) else s.stack j := SMap.get_upd _ _ _ _ _

@[simp] theorem State.stack_updStack_self (n : Nat) (f : Stack → Stack) : (s.updStack n f).stack n = f (s.stack n) :=
  SMap.get_upd_self _ _ _ _

/-- Reading port after one was changed. -/
theorem State.port_updPort (p j : Nat) (f : Port → Port) :
    (s.updPort p f).port j = if j = p then f (s.port p) else s.port j := SMap.get_upd _ _ _ _ _

@[simp] theorem State.port_updPort_self (p : Nat) (f : Port → Port) : (s.updPort p f).port p = f (s.port p) :=
  SMap.get_upd_self _ _ _ _

/-- Reading tag after one was changed. -/
theorem State.tag_updTag (t j : Nat) (f : Tag → Tag) :
    (s.updTag t f).tag j = if j = t then f (s.tag t) else s.tag j := SMap.get_upd _ _ _ _ _

@[simp] theorem State.tag_updTag_self (t : Nat) (f : Tag → Tag) : (s.updTag t f).tag t = f (s.tag t) :=
  SMap.get_upd_self _ _ _ _

/-- Reading nbStack after one was changed. -/
theorem State.nbStack_updNb (n j : Nat) (f : NbStack → NbStack) :
    (s.updNb n f).nbStack j = if j = n then f (s.nbStack n) else s.nbStack j := SMap.get_upd _ _ _ _ _

@[simp] theorem State.nbStack_updNb_self (n : Nat) (f : NbStack → NbStack) : (s.updNb n f).nbStack n = f (s.nbStack n) :=
  SMap.get_upd_self _ _ _ _

/-- Reading sq after one was changed. -/
theorem State.sq_updSq (q j : Nat) (f : SqRing → SqRing) :
    (s.updSq q f).sq j = if j = q then f (s.sq q) else s.sq j := SMap.get_upd _ _ _ _ _

@[simp] theorem State.sq_updSq_self (q : Nat) (f : SqRing → SqRing) : (s.updSq q f).sq q = f (s.sq q) :=
  SMap.get_upd_self _ _ _ _

/-- Reading cq after one was changed. -/
theorem State.cq_updCq (c j : Nat) (f : CqRing → CqRing) :
    (s.updCq c f).cq j = if j = c then f (s.cq c) else s.cq j := SMap.get_upd _ _ _ _ _

@[simp] theorem State.cq_updCq_self (c : Nat) (f : CqRing → CqRing) : (s.updCq c f).cq c = f (s.cq c) :=
  SMap.get_upd_self _ _ _ _

@[simp] theorem State.slotPwr_updSlotPwr_self (r n : Nat) (f : SlotPwr → SlotPwr) :
    (s.updSlotPwr r n f).slotPwr r n = f (s.slotPwr r n) := SMap.get_upd_self _ _ _ _

@[simp] theorem State.chan_updChan_self (n c : Nat) (f : Chan → Chan) : (s.updChan n c f).chan n c = f (s.chan n c) := by
  simp [State.chan, State.updChan]

@[simp] theorem State.mcAt_updMc_self (b k : Nat) (f : Mc → Mc) : (s.updMc b k f).mcAt b k = f (s.mcAt b k) := by
  simp [State.mcAt, State.updMc]

@[simp] theorem State.dmaAt_updDma_self (b c : Nat) (f : Dma → Dma) : (s.updDma b c f).dmaAt b c = f (s.dmaAt b c) := by
  simp [State.dmaAt, State.updDma]

/-- A step runs the command at the front of the queue. -/
theorem step_cons (c : Instr) (rest : List Instr) (h : s.pending = c :: rest) :
    step s = exec c { s with pending := rest } := by
  unfold step
  rw [h]

/-- On an empty queue one tick passes. -/
theorem step_nil (h : s.pending = []) : step s = .next s.passTick := by
  unfold step
  rw [h]

end Sys2Proof.Machine
end

