-- ==== Sys2Proof/Laws/Ops.lean ====
section
/-! SUPPORT. What the shared operations of Ops.lean leave unchanged, one lemma per field. -/

namespace Sys2Proof.Machine

variable (s : State)

/-! ### hostWrite -/


/-! ### raiseVec -/

@[simp] theorem State.raiseVec_pending (v : Nat) : (s.raiseVec v).pending = s.pending := by
  unfold State.raiseVec; try dsimp only
  (repeat' split) <;> simp
@[simp] theorem State.raiseVec_dev (v : Nat) : (s.raiseVec v).dev = s.dev := by
  unfold State.raiseVec; try dsimp only
  (repeat' split) <;> simp
@[simp] theorem State.raiseVec_tick (v : Nat) : (s.raiseVec v).tick = s.tick := by
  unfold State.raiseVec; try dsimp only
  (repeat' split) <;> simp
@[simp] theorem State.raiseVec_supply (v : Nat) : (s.raiseVec v).supply = s.supply := by
  unfold State.raiseVec; try dsimp only
  (repeat' split) <;> simp
@[simp] theorem State.raiseVec_pwr (v : Nat) : (s.raiseVec v).pwr = s.pwr := by
  unfold State.raiseVec; try dsimp only
  (repeat' split) <;> simp
@[simp] theorem State.raiseVec_flash (v : Nat) : (s.raiseVec v).flash = s.flash := by
  unfold State.raiseVec; try dsimp only
  (repeat' split) <;> simp
@[simp] theorem State.raiseVec_sec (v : Nat) : (s.raiseVec v).sec = s.sec := by
  unfold State.raiseVec; try dsimp only
  (repeat' split) <;> simp
@[simp] theorem State.raiseVec_image (v : Nat) : (s.raiseVec v).image = s.image := by
  unfold State.raiseVec; try dsimp only
  (repeat' split) <;> simp
@[simp] theorem State.raiseVec_sch (v : Nat) : (s.raiseVec v).sch = s.sch := by
  unfold State.raiseVec; try dsimp only
  (repeat' split) <;> simp
@[simp] theorem State.raiseVec_standby (v : Nat) : (s.raiseVec v).standby = s.standby := by
  unfold State.raiseVec; try dsimp only
  (repeat' split) <;> simp
@[simp] theorem State.raiseVec_blocks (v : Nat) : (s.raiseVec v).blocks = s.blocks := by
  unfold State.raiseVec; try dsimp only
  (repeat' split) <;> simp
@[simp] theorem State.raiseVec_regions (v : Nat) : (s.raiseVec v).regions = s.regions := by
  unfold State.raiseVec; try dsimp only
  (repeat' split) <;> simp
@[simp] theorem State.raiseVec_ccd (v : Nat) : (s.raiseVec v).ccd = s.ccd := by
  unfold State.raiseVec; try dsimp only
  (repeat' split) <;> simp
@[simp] theorem State.raiseVec_hbm (v : Nat) : (s.raiseVec v).hbm = s.hbm := by
  unfold State.raiseVec; try dsimp only
  (repeat' split) <;> simp
@[simp] theorem State.raiseVec_hbmWords (v : Nat) : (s.raiseVec v).hbmWords = s.hbmWords := by
  unfold State.raiseVec; try dsimp only
  (repeat' split) <;> simp
@[simp] theorem State.raiseVec_hbmStacks (v : Nat) : (s.raiseVec v).hbmStacks = s.hbmStacks := by
  unfold State.raiseVec; try dsimp only
  (repeat' split) <;> simp
@[simp] theorem State.raiseVec_pim (v : Nat) : (s.raiseVec v).pim = s.pim := by
  unfold State.raiseVec; try dsimp only
  (repeat' split) <;> simp
@[simp] theorem State.raiseVec_ce (v : Nat) : (s.raiseVec v).ce = s.ce := by
  unfold State.raiseVec; try dsimp only
  (repeat' split) <;> simp
@[simp] theorem State.raiseVec_fab (v : Nat) : (s.raiseVec v).fab = s.fab := by
  unfold State.raiseVec; try dsimp only
  (repeat' split) <;> simp
@[simp] theorem State.raiseVec_qos (v : Nat) : (s.raiseVec v).qos = s.qos := by
  unfold State.raiseVec; try dsimp only
  (repeat' split) <;> simp
@[simp] theorem State.raiseVec_thm (v : Nat) : (s.raiseVec v).thm = s.thm := by
  unfold State.raiseVec; try dsimp only
  (repeat' split) <;> simp
@[simp] theorem State.raiseVec_err (v : Nat) : (s.raiseVec v).err = s.err := by
  unfold State.raiseVec; try dsimp only
  (repeat' split) <;> simp
@[simp] theorem State.raiseVec_mgmt (v : Nat) : (s.raiseVec v).mgmt = s.mgmt := by
  unfold State.raiseVec; try dsimp only
  (repeat' split) <;> simp
@[simp] theorem State.raiseVec_dbgScratch (v : Nat) : (s.raiseVec v).dbgScratch = s.dbgScratch := by
  unfold State.raiseVec; try dsimp only
  (repeat' split) <;> simp
@[simp] theorem State.raiseVec_frozen (v : Nat) : (s.raiseVec v).frozen = s.frozen := by
  unfold State.raiseVec; try dsimp only
  (repeat' split) <;> simp

/-! ### accErr -/

@[simp] theorem State.accErr_pending (k o : Nat) : (s.accErr k o).pending = s.pending := rfl
@[simp] theorem State.accErr_dev (k o : Nat) : (s.accErr k o).dev = s.dev := rfl
@[simp] theorem State.accErr_tick (k o : Nat) : (s.accErr k o).tick = s.tick := rfl
@[simp] theorem State.accErr_supply (k o : Nat) : (s.accErr k o).supply = s.supply := rfl
@[simp] theorem State.accErr_pwr (k o : Nat) : (s.accErr k o).pwr = s.pwr := rfl
@[simp] theorem State.accErr_flash (k o : Nat) : (s.accErr k o).flash = s.flash := rfl
@[simp] theorem State.accErr_sec (k o : Nat) : (s.accErr k o).sec = s.sec := rfl
@[simp] theorem State.accErr_image (k o : Nat) : (s.accErr k o).image = s.image := rfl
@[simp] theorem State.accErr_sch (k o : Nat) : (s.accErr k o).sch = s.sch := rfl
@[simp] theorem State.accErr_standby (k o : Nat) : (s.accErr k o).standby = s.standby := rfl
@[simp] theorem State.accErr_blocks (k o : Nat) : (s.accErr k o).blocks = s.blocks := rfl
@[simp] theorem State.accErr_regions (k o : Nat) : (s.accErr k o).regions = s.regions := rfl
@[simp] theorem State.accErr_ccd (k o : Nat) : (s.accErr k o).ccd = s.ccd := rfl
@[simp] theorem State.accErr_hbm (k o : Nat) : (s.accErr k o).hbm = s.hbm := rfl
@[simp] theorem State.accErr_hbmWords (k o : Nat) : (s.accErr k o).hbmWords = s.hbmWords := rfl
@[simp] theorem State.accErr_hbmStacks (k o : Nat) : (s.accErr k o).hbmStacks = s.hbmStacks := rfl
@[simp] theorem State.accErr_pim (k o : Nat) : (s.accErr k o).pim = s.pim := rfl
@[simp] theorem State.accErr_ce (k o : Nat) : (s.accErr k o).ce = s.ce := rfl
@[simp] theorem State.accErr_fab (k o : Nat) : (s.accErr k o).fab = s.fab := rfl
@[simp] theorem State.accErr_qos (k o : Nat) : (s.accErr k o).qos = s.qos := rfl
@[simp] theorem State.accErr_thm (k o : Nat) : (s.accErr k o).thm = s.thm := rfl
@[simp] theorem State.accErr_err (k o : Nat) : (s.accErr k o).err = s.err := rfl
@[simp] theorem State.accErr_mgmt (k o : Nat) : (s.accErr k o).mgmt = s.mgmt := rfl
@[simp] theorem State.accErr_dbgScratch (k o : Nat) : (s.accErr k o).dbgScratch = s.dbgScratch := rfl
@[simp] theorem State.accErr_frozen (k o : Nat) : (s.accErr k o).frozen = s.frozen := rfl

/-! ### countEvent -/

@[simp] theorem State.countEvent_pending : (s.countEvent).pending = s.pending := rfl
@[simp] theorem State.countEvent_dev : (s.countEvent).dev = s.dev := rfl
@[simp] theorem State.countEvent_tick : (s.countEvent).tick = s.tick := rfl
@[simp] theorem State.countEvent_supply : (s.countEvent).supply = s.supply := rfl
@[simp] theorem State.countEvent_pwr : (s.countEvent).pwr = s.pwr := rfl
@[simp] theorem State.countEvent_flash : (s.countEvent).flash = s.flash := rfl
@[simp] theorem State.countEvent_sec : (s.countEvent).sec = s.sec := rfl
@[simp] theorem State.countEvent_image : (s.countEvent).image = s.image := rfl
@[simp] theorem State.countEvent_sch : (s.countEvent).sch = s.sch := rfl
@[simp] theorem State.countEvent_standby : (s.countEvent).standby = s.standby := rfl
@[simp] theorem State.countEvent_blocks : (s.countEvent).blocks = s.blocks := rfl
@[simp] theorem State.countEvent_regions : (s.countEvent).regions = s.regions := rfl
@[simp] theorem State.countEvent_ccd : (s.countEvent).ccd = s.ccd := rfl
@[simp] theorem State.countEvent_hbm : (s.countEvent).hbm = s.hbm := rfl
@[simp] theorem State.countEvent_hbmWords : (s.countEvent).hbmWords = s.hbmWords := rfl
@[simp] theorem State.countEvent_hbmStacks : (s.countEvent).hbmStacks = s.hbmStacks := rfl
@[simp] theorem State.countEvent_pim : (s.countEvent).pim = s.pim := rfl
@[simp] theorem State.countEvent_ce : (s.countEvent).ce = s.ce := rfl
@[simp] theorem State.countEvent_fab : (s.countEvent).fab = s.fab := rfl
@[simp] theorem State.countEvent_qos : (s.countEvent).qos = s.qos := rfl
@[simp] theorem State.countEvent_thm : (s.countEvent).thm = s.thm := rfl
@[simp] theorem State.countEvent_err : (s.countEvent).err = s.err := rfl
@[simp] theorem State.countEvent_mgmt : (s.countEvent).mgmt = s.mgmt := rfl
@[simp] theorem State.countEvent_dbgScratch : (s.countEvent).dbgScratch = s.dbgScratch := rfl
@[simp] theorem State.countEvent_frozen : (s.countEvent).frozen = s.frozen := rfl

/-! ### eqWrite -/

@[simp] theorem State.eqWrite_pending (e : EventRec) : (s.eqWrite e).pending = s.pending := by
  unfold State.eqWrite; try dsimp only
  (repeat' split) <;> simp
@[simp] theorem State.eqWrite_dev (e : EventRec) : (s.eqWrite e).dev = s.dev := by
  unfold State.eqWrite; try dsimp only
  (repeat' split) <;> simp
@[simp] theorem State.eqWrite_tick (e : EventRec) : (s.eqWrite e).tick = s.tick := by
  unfold State.eqWrite; try dsimp only
  (repeat' split) <;> simp
@[simp] theorem State.eqWrite_supply (e : EventRec) : (s.eqWrite e).supply = s.supply := by
  unfold State.eqWrite; try dsimp only
  (repeat' split) <;> simp
@[simp] theorem State.eqWrite_pwr (e : EventRec) : (s.eqWrite e).pwr = s.pwr := by
  unfold State.eqWrite; try dsimp only
  (repeat' split) <;> simp
@[simp] theorem State.eqWrite_flash (e : EventRec) : (s.eqWrite e).flash = s.flash := by
  unfold State.eqWrite; try dsimp only
  (repeat' split) <;> simp
@[simp] theorem State.eqWrite_sec (e : EventRec) : (s.eqWrite e).sec = s.sec := by
  unfold State.eqWrite; try dsimp only
  (repeat' split) <;> simp
@[simp] theorem State.eqWrite_image (e : EventRec) : (s.eqWrite e).image = s.image := by
  unfold State.eqWrite; try dsimp only
  (repeat' split) <;> simp
@[simp] theorem State.eqWrite_sch (e : EventRec) : (s.eqWrite e).sch = s.sch := by
  unfold State.eqWrite; try dsimp only
  (repeat' split) <;> simp
@[simp] theorem State.eqWrite_standby (e : EventRec) : (s.eqWrite e).standby = s.standby := by
  unfold State.eqWrite; try dsimp only
  (repeat' split) <;> simp
@[simp] theorem State.eqWrite_blocks (e : EventRec) : (s.eqWrite e).blocks = s.blocks := by
  unfold State.eqWrite; try dsimp only
  (repeat' split) <;> simp
@[simp] theorem State.eqWrite_regions (e : EventRec) : (s.eqWrite e).regions = s.regions := by
  unfold State.eqWrite; try dsimp only
  (repeat' split) <;> simp
@[simp] theorem State.eqWrite_ccd (e : EventRec) : (s.eqWrite e).ccd = s.ccd := by
  unfold State.eqWrite; try dsimp only
  (repeat' split) <;> simp
@[simp] theorem State.eqWrite_hbm (e : EventRec) : (s.eqWrite e).hbm = s.hbm := by
  unfold State.eqWrite; try dsimp only
  (repeat' split) <;> simp
@[simp] theorem State.eqWrite_hbmWords (e : EventRec) : (s.eqWrite e).hbmWords = s.hbmWords := by
  unfold State.eqWrite; try dsimp only
  (repeat' split) <;> simp
@[simp] theorem State.eqWrite_hbmStacks (e : EventRec) : (s.eqWrite e).hbmStacks = s.hbmStacks := by
  unfold State.eqWrite; try dsimp only
  (repeat' split) <;> simp
@[simp] theorem State.eqWrite_pim (e : EventRec) : (s.eqWrite e).pim = s.pim := by
  unfold State.eqWrite; try dsimp only
  (repeat' split) <;> simp
@[simp] theorem State.eqWrite_ce (e : EventRec) : (s.eqWrite e).ce = s.ce := by
  unfold State.eqWrite; try dsimp only
  (repeat' split) <;> simp
@[simp] theorem State.eqWrite_fab (e : EventRec) : (s.eqWrite e).fab = s.fab := by
  unfold State.eqWrite; try dsimp only
  (repeat' split) <;> simp
@[simp] theorem State.eqWrite_qos (e : EventRec) : (s.eqWrite e).qos = s.qos := by
  unfold State.eqWrite; try dsimp only
  (repeat' split) <;> simp
@[simp] theorem State.eqWrite_thm (e : EventRec) : (s.eqWrite e).thm = s.thm := by
  unfold State.eqWrite; try dsimp only
  (repeat' split) <;> simp
@[simp] theorem State.eqWrite_err (e : EventRec) : (s.eqWrite e).err = s.err := by
  unfold State.eqWrite; try dsimp only
  (repeat' split) <;> simp
@[simp] theorem State.eqWrite_mgmt (e : EventRec) : (s.eqWrite e).mgmt = s.mgmt := by
  unfold State.eqWrite; try dsimp only
  (repeat' split) <;> simp
@[simp] theorem State.eqWrite_dbgScratch (e : EventRec) : (s.eqWrite e).dbgScratch = s.dbgScratch := by
  unfold State.eqWrite; try dsimp only
  (repeat' split) <;> simp
@[simp] theorem State.eqWrite_frozen (e : EventRec) : (s.eqWrite e).frozen = s.frozen := by
  unfold State.eqWrite; try dsimp only
  (repeat' split) <;> simp

/-! ### eqPush -/

@[simp] theorem State.eqPush_pending (e : EventRec) : (s.eqPush e).pending = s.pending := by
  unfold State.eqPush; try dsimp only
  (repeat' split) <;> simp
@[simp] theorem State.eqPush_dev (e : EventRec) : (s.eqPush e).dev = s.dev := by
  unfold State.eqPush; try dsimp only
  (repeat' split) <;> simp
@[simp] theorem State.eqPush_tick (e : EventRec) : (s.eqPush e).tick = s.tick := by
  unfold State.eqPush; try dsimp only
  (repeat' split) <;> simp
@[simp] theorem State.eqPush_supply (e : EventRec) : (s.eqPush e).supply = s.supply := by
  unfold State.eqPush; try dsimp only
  (repeat' split) <;> simp
@[simp] theorem State.eqPush_pwr (e : EventRec) : (s.eqPush e).pwr = s.pwr := by
  unfold State.eqPush; try dsimp only
  (repeat' split) <;> simp
@[simp] theorem State.eqPush_flash (e : EventRec) : (s.eqPush e).flash = s.flash := by
  unfold State.eqPush; try dsimp only
  (repeat' split) <;> simp
@[simp] theorem State.eqPush_sec (e : EventRec) : (s.eqPush e).sec = s.sec := by
  unfold State.eqPush; try dsimp only
  (repeat' split) <;> simp
@[simp] theorem State.eqPush_image (e : EventRec) : (s.eqPush e).image = s.image := by
  unfold State.eqPush; try dsimp only
  (repeat' split) <;> simp
@[simp] theorem State.eqPush_sch (e : EventRec) : (s.eqPush e).sch = s.sch := by
  unfold State.eqPush; try dsimp only
  (repeat' split) <;> simp
@[simp] theorem State.eqPush_standby (e : EventRec) : (s.eqPush e).standby = s.standby := by
  unfold State.eqPush; try dsimp only
  (repeat' split) <;> simp
@[simp] theorem State.eqPush_blocks (e : EventRec) : (s.eqPush e).blocks = s.blocks := by
  unfold State.eqPush; try dsimp only
  (repeat' split) <;> simp
@[simp] theorem State.eqPush_regions (e : EventRec) : (s.eqPush e).regions = s.regions := by
  unfold State.eqPush; try dsimp only
  (repeat' split) <;> simp
@[simp] theorem State.eqPush_ccd (e : EventRec) : (s.eqPush e).ccd = s.ccd := by
  unfold State.eqPush; try dsimp only
  (repeat' split) <;> simp
@[simp] theorem State.eqPush_hbm (e : EventRec) : (s.eqPush e).hbm = s.hbm := by
  unfold State.eqPush; try dsimp only
  (repeat' split) <;> simp
@[simp] theorem State.eqPush_hbmWords (e : EventRec) : (s.eqPush e).hbmWords = s.hbmWords := by
  unfold State.eqPush; try dsimp only
  (repeat' split) <;> simp
@[simp] theorem State.eqPush_hbmStacks (e : EventRec) : (s.eqPush e).hbmStacks = s.hbmStacks := by
  unfold State.eqPush; try dsimp only
  (repeat' split) <;> simp
@[simp] theorem State.eqPush_pim (e : EventRec) : (s.eqPush e).pim = s.pim := by
  unfold State.eqPush; try dsimp only
  (repeat' split) <;> simp
@[simp] theorem State.eqPush_ce (e : EventRec) : (s.eqPush e).ce = s.ce := by
  unfold State.eqPush; try dsimp only
  (repeat' split) <;> simp
@[simp] theorem State.eqPush_fab (e : EventRec) : (s.eqPush e).fab = s.fab := by
  unfold State.eqPush; try dsimp only
  (repeat' split) <;> simp
@[simp] theorem State.eqPush_qos (e : EventRec) : (s.eqPush e).qos = s.qos := by
  unfold State.eqPush; try dsimp only
  (repeat' split) <;> simp
@[simp] theorem State.eqPush_thm (e : EventRec) : (s.eqPush e).thm = s.thm := by
  unfold State.eqPush; try dsimp only
  (repeat' split) <;> simp
@[simp] theorem State.eqPush_err (e : EventRec) : (s.eqPush e).err = s.err := by
  unfold State.eqPush; try dsimp only
  (repeat' split) <;> simp
@[simp] theorem State.eqPush_mgmt (e : EventRec) : (s.eqPush e).mgmt = s.mgmt := by
  unfold State.eqPush; try dsimp only
  (repeat' split) <;> simp
@[simp] theorem State.eqPush_dbgScratch (e : EventRec) : (s.eqPush e).dbgScratch = s.dbgScratch := by
  unfold State.eqPush; try dsimp only
  (repeat' split) <;> simp
@[simp] theorem State.eqPush_frozen (e : EventRec) : (s.eqPush e).frozen = s.frozen := by
  unfold State.eqPush; try dsimp only
  (repeat' split) <;> simp

/-! ### postEvent -/

@[simp] theorem State.postEvent_pending (c d : Nat) : (s.postEvent c d).pending = s.pending := by
  unfold State.postEvent; try dsimp only
  (repeat' split) <;> simp
@[simp] theorem State.postEvent_dev (c d : Nat) : (s.postEvent c d).dev = s.dev := by
  unfold State.postEvent; try dsimp only
  (repeat' split) <;> simp
@[simp] theorem State.postEvent_tick (c d : Nat) : (s.postEvent c d).tick = s.tick := by
  unfold State.postEvent; try dsimp only
  (repeat' split) <;> simp
@[simp] theorem State.postEvent_supply (c d : Nat) : (s.postEvent c d).supply = s.supply := by
  unfold State.postEvent; try dsimp only
  (repeat' split) <;> simp
@[simp] theorem State.postEvent_pwr (c d : Nat) : (s.postEvent c d).pwr = s.pwr := by
  unfold State.postEvent; try dsimp only
  (repeat' split) <;> simp
@[simp] theorem State.postEvent_flash (c d : Nat) : (s.postEvent c d).flash = s.flash := by
  unfold State.postEvent; try dsimp only
  (repeat' split) <;> simp
@[simp] theorem State.postEvent_sec (c d : Nat) : (s.postEvent c d).sec = s.sec := by
  unfold State.postEvent; try dsimp only
  (repeat' split) <;> simp
@[simp] theorem State.postEvent_image (c d : Nat) : (s.postEvent c d).image = s.image := by
  unfold State.postEvent; try dsimp only
  (repeat' split) <;> simp
@[simp] theorem State.postEvent_sch (c d : Nat) : (s.postEvent c d).sch = s.sch := by
  unfold State.postEvent; try dsimp only
  (repeat' split) <;> simp
@[simp] theorem State.postEvent_standby (c d : Nat) : (s.postEvent c d).standby = s.standby := by
  unfold State.postEvent; try dsimp only
  (repeat' split) <;> simp
@[simp] theorem State.postEvent_blocks (c d : Nat) : (s.postEvent c d).blocks = s.blocks := by
  unfold State.postEvent; try dsimp only
  (repeat' split) <;> simp
@[simp] theorem State.postEvent_regions (c d : Nat) : (s.postEvent c d).regions = s.regions := by
  unfold State.postEvent; try dsimp only
  (repeat' split) <;> simp
@[simp] theorem State.postEvent_ccd (c d : Nat) : (s.postEvent c d).ccd = s.ccd := by
  unfold State.postEvent; try dsimp only
  (repeat' split) <;> simp
@[simp] theorem State.postEvent_hbm (c d : Nat) : (s.postEvent c d).hbm = s.hbm := by
  unfold State.postEvent; try dsimp only
  (repeat' split) <;> simp
@[simp] theorem State.postEvent_hbmWords (c d : Nat) : (s.postEvent c d).hbmWords = s.hbmWords := by
  unfold State.postEvent; try dsimp only
  (repeat' split) <;> simp
@[simp] theorem State.postEvent_hbmStacks (c d : Nat) : (s.postEvent c d).hbmStacks = s.hbmStacks := by
  unfold State.postEvent; try dsimp only
  (repeat' split) <;> simp
@[simp] theorem State.postEvent_pim (c d : Nat) : (s.postEvent c d).pim = s.pim := by
  unfold State.postEvent; try dsimp only
  (repeat' split) <;> simp
@[simp] theorem State.postEvent_ce (c d : Nat) : (s.postEvent c d).ce = s.ce := by
  unfold State.postEvent; try dsimp only
  (repeat' split) <;> simp
@[simp] theorem State.postEvent_fab (c d : Nat) : (s.postEvent c d).fab = s.fab := by
  unfold State.postEvent; try dsimp only
  (repeat' split) <;> simp
@[simp] theorem State.postEvent_qos (c d : Nat) : (s.postEvent c d).qos = s.qos := by
  unfold State.postEvent; try dsimp only
  (repeat' split) <;> simp
@[simp] theorem State.postEvent_thm (c d : Nat) : (s.postEvent c d).thm = s.thm := by
  unfold State.postEvent; try dsimp only
  (repeat' split) <;> simp
@[simp] theorem State.postEvent_err (c d : Nat) : (s.postEvent c d).err = s.err := by
  unfold State.postEvent; try dsimp only
  (repeat' split) <;> simp
@[simp] theorem State.postEvent_mgmt (c d : Nat) : (s.postEvent c d).mgmt = s.mgmt := by
  unfold State.postEvent; try dsimp only
  (repeat' split) <;> simp
@[simp] theorem State.postEvent_dbgScratch (c d : Nat) : (s.postEvent c d).dbgScratch = s.dbgScratch := by
  unfold State.postEvent; try dsimp only
  (repeat' split) <;> simp
@[simp] theorem State.postEvent_frozen (c d : Nat) : (s.postEvent c d).frozen = s.frozen := by
  unfold State.postEvent; try dsimp only
  (repeat' split) <;> simp

/-! ### cqWrite -/

@[simp] theorem State.cqWrite_pending (c : Nat) (e : CqEntry) : (s.cqWrite c e).pending = s.pending := by
  unfold State.cqWrite; try dsimp only
  (repeat' split) <;> simp
@[simp] theorem State.cqWrite_dev (c : Nat) (e : CqEntry) : (s.cqWrite c e).dev = s.dev := by
  unfold State.cqWrite; try dsimp only
  (repeat' split) <;> simp
@[simp] theorem State.cqWrite_tick (c : Nat) (e : CqEntry) : (s.cqWrite c e).tick = s.tick := by
  unfold State.cqWrite; try dsimp only
  (repeat' split) <;> simp
@[simp] theorem State.cqWrite_supply (c : Nat) (e : CqEntry) : (s.cqWrite c e).supply = s.supply := by
  unfold State.cqWrite; try dsimp only
  (repeat' split) <;> simp
@[simp] theorem State.cqWrite_pwr (c : Nat) (e : CqEntry) : (s.cqWrite c e).pwr = s.pwr := by
  unfold State.cqWrite; try dsimp only
  (repeat' split) <;> simp
@[simp] theorem State.cqWrite_flash (c : Nat) (e : CqEntry) : (s.cqWrite c e).flash = s.flash := by
  unfold State.cqWrite; try dsimp only
  (repeat' split) <;> simp
@[simp] theorem State.cqWrite_sec (c : Nat) (e : CqEntry) : (s.cqWrite c e).sec = s.sec := by
  unfold State.cqWrite; try dsimp only
  (repeat' split) <;> simp
@[simp] theorem State.cqWrite_image (c : Nat) (e : CqEntry) : (s.cqWrite c e).image = s.image := by
  unfold State.cqWrite; try dsimp only
  (repeat' split) <;> simp
@[simp] theorem State.cqWrite_sch (c : Nat) (e : CqEntry) : (s.cqWrite c e).sch = s.sch := by
  unfold State.cqWrite; try dsimp only
  (repeat' split) <;> simp
@[simp] theorem State.cqWrite_standby (c : Nat) (e : CqEntry) : (s.cqWrite c e).standby = s.standby := by
  unfold State.cqWrite; try dsimp only
  (repeat' split) <;> simp
@[simp] theorem State.cqWrite_blocks (c : Nat) (e : CqEntry) : (s.cqWrite c e).blocks = s.blocks := by
  unfold State.cqWrite; try dsimp only
  (repeat' split) <;> simp
@[simp] theorem State.cqWrite_regions (c : Nat) (e : CqEntry) : (s.cqWrite c e).regions = s.regions := by
  unfold State.cqWrite; try dsimp only
  (repeat' split) <;> simp
@[simp] theorem State.cqWrite_ccd (c : Nat) (e : CqEntry) : (s.cqWrite c e).ccd = s.ccd := by
  unfold State.cqWrite; try dsimp only
  (repeat' split) <;> simp
@[simp] theorem State.cqWrite_hbm (c : Nat) (e : CqEntry) : (s.cqWrite c e).hbm = s.hbm := by
  unfold State.cqWrite; try dsimp only
  (repeat' split) <;> simp
@[simp] theorem State.cqWrite_hbmWords (c : Nat) (e : CqEntry) : (s.cqWrite c e).hbmWords = s.hbmWords := by
  unfold State.cqWrite; try dsimp only
  (repeat' split) <;> simp
@[simp] theorem State.cqWrite_hbmStacks (c : Nat) (e : CqEntry) : (s.cqWrite c e).hbmStacks = s.hbmStacks := by
  unfold State.cqWrite; try dsimp only
  (repeat' split) <;> simp
@[simp] theorem State.cqWrite_pim (c : Nat) (e : CqEntry) : (s.cqWrite c e).pim = s.pim := by
  unfold State.cqWrite; try dsimp only
  (repeat' split) <;> simp
@[simp] theorem State.cqWrite_ce (c : Nat) (e : CqEntry) : (s.cqWrite c e).ce = s.ce := by
  unfold State.cqWrite; try dsimp only
  (repeat' split) <;> simp
@[simp] theorem State.cqWrite_fab (c : Nat) (e : CqEntry) : (s.cqWrite c e).fab = s.fab := by
  unfold State.cqWrite; try dsimp only
  (repeat' split) <;> simp
@[simp] theorem State.cqWrite_qos (c : Nat) (e : CqEntry) : (s.cqWrite c e).qos = s.qos := by
  unfold State.cqWrite; try dsimp only
  (repeat' split) <;> simp
@[simp] theorem State.cqWrite_thm (c : Nat) (e : CqEntry) : (s.cqWrite c e).thm = s.thm := by
  unfold State.cqWrite; try dsimp only
  (repeat' split) <;> simp
@[simp] theorem State.cqWrite_err (c : Nat) (e : CqEntry) : (s.cqWrite c e).err = s.err := by
  unfold State.cqWrite; try dsimp only
  (repeat' split) <;> simp
@[simp] theorem State.cqWrite_mgmt (c : Nat) (e : CqEntry) : (s.cqWrite c e).mgmt = s.mgmt := by
  unfold State.cqWrite; try dsimp only
  (repeat' split) <;> simp
@[simp] theorem State.cqWrite_dbgScratch (c : Nat) (e : CqEntry) : (s.cqWrite c e).dbgScratch = s.dbgScratch := by
  unfold State.cqWrite; try dsimp only
  (repeat' split) <;> simp
@[simp] theorem State.cqWrite_frozen (c : Nat) (e : CqEntry) : (s.cqWrite c e).frozen = s.frozen := by
  unfold State.cqWrite; try dsimp only
  (repeat' split) <;> simp

/-! ### cqPush -/

@[simp] theorem State.cqPush_pending (c : Nat) (e : CqEntry) : (s.cqPush c e).pending = s.pending := by
  unfold State.cqPush; try dsimp only
  (repeat' split) <;> simp
@[simp] theorem State.cqPush_dev (c : Nat) (e : CqEntry) : (s.cqPush c e).dev = s.dev := by
  unfold State.cqPush; try dsimp only
  (repeat' split) <;> simp
@[simp] theorem State.cqPush_tick (c : Nat) (e : CqEntry) : (s.cqPush c e).tick = s.tick := by
  unfold State.cqPush; try dsimp only
  (repeat' split) <;> simp
@[simp] theorem State.cqPush_supply (c : Nat) (e : CqEntry) : (s.cqPush c e).supply = s.supply := by
  unfold State.cqPush; try dsimp only
  (repeat' split) <;> simp
@[simp] theorem State.cqPush_pwr (c : Nat) (e : CqEntry) : (s.cqPush c e).pwr = s.pwr := by
  unfold State.cqPush; try dsimp only
  (repeat' split) <;> simp
@[simp] theorem State.cqPush_flash (c : Nat) (e : CqEntry) : (s.cqPush c e).flash = s.flash := by
  unfold State.cqPush; try dsimp only
  (repeat' split) <;> simp
@[simp] theorem State.cqPush_sec (c : Nat) (e : CqEntry) : (s.cqPush c e).sec = s.sec := by
  unfold State.cqPush; try dsimp only
  (repeat' split) <;> simp
@[simp] theorem State.cqPush_image (c : Nat) (e : CqEntry) : (s.cqPush c e).image = s.image := by
  unfold State.cqPush; try dsimp only
  (repeat' split) <;> simp
@[simp] theorem State.cqPush_sch (c : Nat) (e : CqEntry) : (s.cqPush c e).sch = s.sch := by
  unfold State.cqPush; try dsimp only
  (repeat' split) <;> simp
@[simp] theorem State.cqPush_standby (c : Nat) (e : CqEntry) : (s.cqPush c e).standby = s.standby := by
  unfold State.cqPush; try dsimp only
  (repeat' split) <;> simp
@[simp] theorem State.cqPush_blocks (c : Nat) (e : CqEntry) : (s.cqPush c e).blocks = s.blocks := by
  unfold State.cqPush; try dsimp only
  (repeat' split) <;> simp
@[simp] theorem State.cqPush_regions (c : Nat) (e : CqEntry) : (s.cqPush c e).regions = s.regions := by
  unfold State.cqPush; try dsimp only
  (repeat' split) <;> simp
@[simp] theorem State.cqPush_ccd (c : Nat) (e : CqEntry) : (s.cqPush c e).ccd = s.ccd := by
  unfold State.cqPush; try dsimp only
  (repeat' split) <;> simp
@[simp] theorem State.cqPush_hbm (c : Nat) (e : CqEntry) : (s.cqPush c e).hbm = s.hbm := by
  unfold State.cqPush; try dsimp only
  (repeat' split) <;> simp
@[simp] theorem State.cqPush_hbmWords (c : Nat) (e : CqEntry) : (s.cqPush c e).hbmWords = s.hbmWords := by
  unfold State.cqPush; try dsimp only
  (repeat' split) <;> simp
@[simp] theorem State.cqPush_hbmStacks (c : Nat) (e : CqEntry) : (s.cqPush c e).hbmStacks = s.hbmStacks := by
  unfold State.cqPush; try dsimp only
  (repeat' split) <;> simp
@[simp] theorem State.cqPush_pim (c : Nat) (e : CqEntry) : (s.cqPush c e).pim = s.pim := by
  unfold State.cqPush; try dsimp only
  (repeat' split) <;> simp
@[simp] theorem State.cqPush_ce (c : Nat) (e : CqEntry) : (s.cqPush c e).ce = s.ce := by
  unfold State.cqPush; try dsimp only
  (repeat' split) <;> simp
@[simp] theorem State.cqPush_fab (c : Nat) (e : CqEntry) : (s.cqPush c e).fab = s.fab := by
  unfold State.cqPush; try dsimp only
  (repeat' split) <;> simp
@[simp] theorem State.cqPush_qos (c : Nat) (e : CqEntry) : (s.cqPush c e).qos = s.qos := by
  unfold State.cqPush; try dsimp only
  (repeat' split) <;> simp
@[simp] theorem State.cqPush_thm (c : Nat) (e : CqEntry) : (s.cqPush c e).thm = s.thm := by
  unfold State.cqPush; try dsimp only
  (repeat' split) <;> simp
@[simp] theorem State.cqPush_err (c : Nat) (e : CqEntry) : (s.cqPush c e).err = s.err := by
  unfold State.cqPush; try dsimp only
  (repeat' split) <;> simp
@[simp] theorem State.cqPush_mgmt (c : Nat) (e : CqEntry) : (s.cqPush c e).mgmt = s.mgmt := by
  unfold State.cqPush; try dsimp only
  (repeat' split) <;> simp
@[simp] theorem State.cqPush_dbgScratch (c : Nat) (e : CqEntry) : (s.cqPush c e).dbgScratch = s.dbgScratch := by
  unfold State.cqPush; try dsimp only
  (repeat' split) <;> simp
@[simp] theorem State.cqPush_frozen (c : Nat) (e : CqEntry) : (s.cqPush c e).frozen = s.frozen := by
  unfold State.cqPush; try dsimp only
  (repeat' split) <;> simp

/-! ### complete -/

@[simp] theorem State.complete_pending (a : Active) (st r q v : Nat) : (s.complete a st r q v).pending = s.pending := by
  unfold State.complete; try dsimp only
  (repeat' split) <;> simp
@[simp] theorem State.complete_dev (a : Active) (st r q v : Nat) : (s.complete a st r q v).dev = s.dev := by
  unfold State.complete; try dsimp only
  (repeat' split) <;> simp
@[simp] theorem State.complete_tick (a : Active) (st r q v : Nat) : (s.complete a st r q v).tick = s.tick := by
  unfold State.complete; try dsimp only
  (repeat' split) <;> simp
@[simp] theorem State.complete_supply (a : Active) (st r q v : Nat) : (s.complete a st r q v).supply = s.supply := by
  unfold State.complete; try dsimp only
  (repeat' split) <;> simp
@[simp] theorem State.complete_pwr (a : Active) (st r q v : Nat) : (s.complete a st r q v).pwr = s.pwr := by
  unfold State.complete; try dsimp only
  (repeat' split) <;> simp
@[simp] theorem State.complete_flash (a : Active) (st r q v : Nat) : (s.complete a st r q v).flash = s.flash := by
  unfold State.complete; try dsimp only
  (repeat' split) <;> simp
@[simp] theorem State.complete_sec (a : Active) (st r q v : Nat) : (s.complete a st r q v).sec = s.sec := by
  unfold State.complete; try dsimp only
  (repeat' split) <;> simp
@[simp] theorem State.complete_image (a : Active) (st r q v : Nat) : (s.complete a st r q v).image = s.image := by
  unfold State.complete; try dsimp only
  (repeat' split) <;> simp
@[simp] theorem State.complete_sch (a : Active) (st r q v : Nat) : (s.complete a st r q v).sch = s.sch := by
  unfold State.complete; try dsimp only
  (repeat' split) <;> simp
@[simp] theorem State.complete_standby (a : Active) (st r q v : Nat) : (s.complete a st r q v).standby = s.standby := by
  unfold State.complete; try dsimp only
  (repeat' split) <;> simp
@[simp] theorem State.complete_blocks (a : Active) (st r q v : Nat) : (s.complete a st r q v).blocks = s.blocks := by
  unfold State.complete; try dsimp only
  (repeat' split) <;> simp
@[simp] theorem State.complete_regions (a : Active) (st r q v : Nat) : (s.complete a st r q v).regions = s.regions := by
  unfold State.complete; try dsimp only
  (repeat' split) <;> simp
@[simp] theorem State.complete_ccd (a : Active) (st r q v : Nat) : (s.complete a st r q v).ccd = s.ccd := by
  unfold State.complete; try dsimp only
  (repeat' split) <;> simp
@[simp] theorem State.complete_hbm (a : Active) (st r q v : Nat) : (s.complete a st r q v).hbm = s.hbm := by
  unfold State.complete; try dsimp only
  (repeat' split) <;> simp
@[simp] theorem State.complete_hbmWords (a : Active) (st r q v : Nat) : (s.complete a st r q v).hbmWords = s.hbmWords := by
  unfold State.complete; try dsimp only
  (repeat' split) <;> simp
@[simp] theorem State.complete_hbmStacks (a : Active) (st r q v : Nat) : (s.complete a st r q v).hbmStacks = s.hbmStacks := by
  unfold State.complete; try dsimp only
  (repeat' split) <;> simp
@[simp] theorem State.complete_pim (a : Active) (st r q v : Nat) : (s.complete a st r q v).pim = s.pim := by
  unfold State.complete; try dsimp only
  (repeat' split) <;> simp
@[simp] theorem State.complete_ce (a : Active) (st r q v : Nat) : (s.complete a st r q v).ce = s.ce := by
  unfold State.complete; try dsimp only
  (repeat' split) <;> simp
@[simp] theorem State.complete_fab (a : Active) (st r q v : Nat) : (s.complete a st r q v).fab = s.fab := by
  unfold State.complete; try dsimp only
  (repeat' split) <;> simp
@[simp] theorem State.complete_qos (a : Active) (st r q v : Nat) : (s.complete a st r q v).qos = s.qos := by
  unfold State.complete; try dsimp only
  (repeat' split) <;> simp
@[simp] theorem State.complete_thm (a : Active) (st r q v : Nat) : (s.complete a st r q v).thm = s.thm := by
  unfold State.complete; try dsimp only
  (repeat' split) <;> simp
@[simp] theorem State.complete_err (a : Active) (st r q v : Nat) : (s.complete a st r q v).err = s.err := by
  unfold State.complete; try dsimp only
  (repeat' split) <;> simp
@[simp] theorem State.complete_mgmt (a : Active) (st r q v : Nat) : (s.complete a st r q v).mgmt = s.mgmt := by
  unfold State.complete; try dsimp only
  (repeat' split) <;> simp
@[simp] theorem State.complete_dbgScratch (a : Active) (st r q v : Nat) : (s.complete a st r q v).dbgScratch = s.dbgScratch := by
  unfold State.complete; try dsimp only
  (repeat' split) <;> simp
@[simp] theorem State.complete_frozen (a : Active) (st r q v : Nat) : (s.complete a st r q v).frozen = s.frozen := by
  unfold State.complete; try dsimp only
  (repeat' split) <;> simp

/-! ### completeUid -/

@[simp] theorem State.completeUid_pending (u st r q v : Nat) : (s.completeUid u st r q v).pending = s.pending := by
  unfold State.completeUid; try dsimp only
  (repeat' split) <;> simp
@[simp] theorem State.completeUid_dev (u st r q v : Nat) : (s.completeUid u st r q v).dev = s.dev := by
  unfold State.completeUid; try dsimp only
  (repeat' split) <;> simp
@[simp] theorem State.completeUid_tick (u st r q v : Nat) : (s.completeUid u st r q v).tick = s.tick := by
  unfold State.completeUid; try dsimp only
  (repeat' split) <;> simp
@[simp] theorem State.completeUid_supply (u st r q v : Nat) : (s.completeUid u st r q v).supply = s.supply := by
  unfold State.completeUid; try dsimp only
  (repeat' split) <;> simp
@[simp] theorem State.completeUid_pwr (u st r q v : Nat) : (s.completeUid u st r q v).pwr = s.pwr := by
  unfold State.completeUid; try dsimp only
  (repeat' split) <;> simp
@[simp] theorem State.completeUid_flash (u st r q v : Nat) : (s.completeUid u st r q v).flash = s.flash := by
  unfold State.completeUid; try dsimp only
  (repeat' split) <;> simp
@[simp] theorem State.completeUid_sec (u st r q v : Nat) : (s.completeUid u st r q v).sec = s.sec := by
  unfold State.completeUid; try dsimp only
  (repeat' split) <;> simp
@[simp] theorem State.completeUid_image (u st r q v : Nat) : (s.completeUid u st r q v).image = s.image := by
  unfold State.completeUid; try dsimp only
  (repeat' split) <;> simp
@[simp] theorem State.completeUid_sch (u st r q v : Nat) : (s.completeUid u st r q v).sch = s.sch := by
  unfold State.completeUid; try dsimp only
  (repeat' split) <;> simp
@[simp] theorem State.completeUid_standby (u st r q v : Nat) : (s.completeUid u st r q v).standby = s.standby := by
  unfold State.completeUid; try dsimp only
  (repeat' split) <;> simp
@[simp] theorem State.completeUid_blocks (u st r q v : Nat) : (s.completeUid u st r q v).blocks = s.blocks := by
  unfold State.completeUid; try dsimp only
  (repeat' split) <;> simp
@[simp] theorem State.completeUid_regions (u st r q v : Nat) : (s.completeUid u st r q v).regions = s.regions := by
  unfold State.completeUid; try dsimp only
  (repeat' split) <;> simp
@[simp] theorem State.completeUid_ccd (u st r q v : Nat) : (s.completeUid u st r q v).ccd = s.ccd := by
  unfold State.completeUid; try dsimp only
  (repeat' split) <;> simp
@[simp] theorem State.completeUid_hbm (u st r q v : Nat) : (s.completeUid u st r q v).hbm = s.hbm := by
  unfold State.completeUid; try dsimp only
  (repeat' split) <;> simp
@[simp] theorem State.completeUid_hbmWords (u st r q v : Nat) : (s.completeUid u st r q v).hbmWords = s.hbmWords := by
  unfold State.completeUid; try dsimp only
  (repeat' split) <;> simp
@[simp] theorem State.completeUid_hbmStacks (u st r q v : Nat) : (s.completeUid u st r q v).hbmStacks = s.hbmStacks := by
  unfold State.completeUid; try dsimp only
  (repeat' split) <;> simp
@[simp] theorem State.completeUid_pim (u st r q v : Nat) : (s.completeUid u st r q v).pim = s.pim := by
  unfold State.completeUid; try dsimp only
  (repeat' split) <;> simp
@[simp] theorem State.completeUid_ce (u st r q v : Nat) : (s.completeUid u st r q v).ce = s.ce := by
  unfold State.completeUid; try dsimp only
  (repeat' split) <;> simp
@[simp] theorem State.completeUid_fab (u st r q v : Nat) : (s.completeUid u st r q v).fab = s.fab := by
  unfold State.completeUid; try dsimp only
  (repeat' split) <;> simp
@[simp] theorem State.completeUid_qos (u st r q v : Nat) : (s.completeUid u st r q v).qos = s.qos := by
  unfold State.completeUid; try dsimp only
  (repeat' split) <;> simp
@[simp] theorem State.completeUid_thm (u st r q v : Nat) : (s.completeUid u st r q v).thm = s.thm := by
  unfold State.completeUid; try dsimp only
  (repeat' split) <;> simp
@[simp] theorem State.completeUid_err (u st r q v : Nat) : (s.completeUid u st r q v).err = s.err := by
  unfold State.completeUid; try dsimp only
  (repeat' split) <;> simp
@[simp] theorem State.completeUid_mgmt (u st r q v : Nat) : (s.completeUid u st r q v).mgmt = s.mgmt := by
  unfold State.completeUid; try dsimp only
  (repeat' split) <;> simp
@[simp] theorem State.completeUid_dbgScratch (u st r q v : Nat) : (s.completeUid u st r q v).dbgScratch = s.dbgScratch := by
  unfold State.completeUid; try dsimp only
  (repeat' split) <;> simp
@[simp] theorem State.completeUid_frozen (u st r q v : Nat) : (s.completeUid u st r q v).frozen = s.frozen := by
  unfold State.completeUid; try dsimp only
  (repeat' split) <;> simp

/-! ### finish -/

@[simp] theorem State.finish_pending (u st r q v : Nat) : (s.finish u st r q v).pending = s.pending := rfl
@[simp] theorem State.finish_dev (u st r q v : Nat) : (s.finish u st r q v).dev = s.dev := rfl
@[simp] theorem State.finish_tick (u st r q v : Nat) : (s.finish u st r q v).tick = s.tick := rfl
@[simp] theorem State.finish_supply (u st r q v : Nat) : (s.finish u st r q v).supply = s.supply := rfl
@[simp] theorem State.finish_pwr (u st r q v : Nat) : (s.finish u st r q v).pwr = s.pwr := rfl
@[simp] theorem State.finish_flash (u st r q v : Nat) : (s.finish u st r q v).flash = s.flash := rfl
@[simp] theorem State.finish_sec (u st r q v : Nat) : (s.finish u st r q v).sec = s.sec := rfl
@[simp] theorem State.finish_image (u st r q v : Nat) : (s.finish u st r q v).image = s.image := rfl
@[simp] theorem State.finish_sch (u st r q v : Nat) : (s.finish u st r q v).sch = s.sch := rfl
@[simp] theorem State.finish_standby (u st r q v : Nat) : (s.finish u st r q v).standby = s.standby := rfl
@[simp] theorem State.finish_blocks (u st r q v : Nat) : (s.finish u st r q v).blocks = s.blocks := rfl
@[simp] theorem State.finish_regions (u st r q v : Nat) : (s.finish u st r q v).regions = s.regions := rfl
@[simp] theorem State.finish_ccd (u st r q v : Nat) : (s.finish u st r q v).ccd = s.ccd := rfl
@[simp] theorem State.finish_hbm (u st r q v : Nat) : (s.finish u st r q v).hbm = s.hbm := rfl
@[simp] theorem State.finish_hbmWords (u st r q v : Nat) : (s.finish u st r q v).hbmWords = s.hbmWords := rfl
@[simp] theorem State.finish_hbmStacks (u st r q v : Nat) : (s.finish u st r q v).hbmStacks = s.hbmStacks := rfl
@[simp] theorem State.finish_pim (u st r q v : Nat) : (s.finish u st r q v).pim = s.pim := rfl
@[simp] theorem State.finish_ce (u st r q v : Nat) : (s.finish u st r q v).ce = s.ce := rfl
@[simp] theorem State.finish_fab (u st r q v : Nat) : (s.finish u st r q v).fab = s.fab := rfl
@[simp] theorem State.finish_qos (u st r q v : Nat) : (s.finish u st r q v).qos = s.qos := rfl
@[simp] theorem State.finish_thm (u st r q v : Nat) : (s.finish u st r q v).thm = s.thm := rfl
@[simp] theorem State.finish_err (u st r q v : Nat) : (s.finish u st r q v).err = s.err := rfl
@[simp] theorem State.finish_mgmt (u st r q v : Nat) : (s.finish u st r q v).mgmt = s.mgmt := rfl
@[simp] theorem State.finish_dbgScratch (u st r q v : Nat) : (s.finish u st r q v).dbgScratch = s.dbgScratch := rfl
@[simp] theorem State.finish_frozen (u st r q v : Nat) : (s.finish u st r q v).frozen = s.frozen := rfl

/-! ### tookFree -/


/-! ### serveAs -/


/-! ### serveSched -/

@[simp] theorem State.serveSched_pending : (s.serveSched).pending = s.pending := rfl
@[simp] theorem State.serveSched_dev : (s.serveSched).dev = s.dev := rfl
@[simp] theorem State.serveSched_tick : (s.serveSched).tick = s.tick := rfl
@[simp] theorem State.serveSched_supply : (s.serveSched).supply = s.supply := rfl
@[simp] theorem State.serveSched_pwr : (s.serveSched).pwr = s.pwr := rfl
@[simp] theorem State.serveSched_flash : (s.serveSched).flash = s.flash := rfl
@[simp] theorem State.serveSched_sec : (s.serveSched).sec = s.sec := rfl
@[simp] theorem State.serveSched_image : (s.serveSched).image = s.image := rfl
@[simp] theorem State.serveSched_hif : (s.serveSched).hif = s.hif := rfl
@[simp] theorem State.serveSched_sch : (s.serveSched).sch = s.sch := rfl
@[simp] theorem State.serveSched_standby : (s.serveSched).standby = s.standby := rfl
@[simp] theorem State.serveSched_blocks : (s.serveSched).blocks = s.blocks := rfl
@[simp] theorem State.serveSched_regions : (s.serveSched).regions = s.regions := rfl
@[simp] theorem State.serveSched_ccd : (s.serveSched).ccd = s.ccd := rfl
@[simp] theorem State.serveSched_hbm : (s.serveSched).hbm = s.hbm := rfl
@[simp] theorem State.serveSched_hbmWords : (s.serveSched).hbmWords = s.hbmWords := rfl
@[simp] theorem State.serveSched_hbmStacks : (s.serveSched).hbmStacks = s.hbmStacks := rfl
@[simp] theorem State.serveSched_pim : (s.serveSched).pim = s.pim := rfl
@[simp] theorem State.serveSched_ce : (s.serveSched).ce = s.ce := rfl
@[simp] theorem State.serveSched_fab : (s.serveSched).fab = s.fab := rfl
@[simp] theorem State.serveSched_thm : (s.serveSched).thm = s.thm := rfl
@[simp] theorem State.serveSched_err : (s.serveSched).err = s.err := rfl
@[simp] theorem State.serveSched_mgmt : (s.serveSched).mgmt = s.mgmt := rfl
@[simp] theorem State.serveSched_dbgScratch : (s.serveSched).dbgScratch = s.dbgScratch := rfl
@[simp] theorem State.serveSched_frozen : (s.serveSched).frozen = s.frozen := rfl

/-! ### serveScrub -/

@[simp] theorem State.serveScrub_pending : (s.serveScrub).pending = s.pending := rfl
@[simp] theorem State.serveScrub_dev : (s.serveScrub).dev = s.dev := rfl
@[simp] theorem State.serveScrub_tick : (s.serveScrub).tick = s.tick := rfl
@[simp] theorem State.serveScrub_supply : (s.serveScrub).supply = s.supply := rfl
@[simp] theorem State.serveScrub_pwr : (s.serveScrub).pwr = s.pwr := rfl
@[simp] theorem State.serveScrub_flash : (s.serveScrub).flash = s.flash := rfl
@[simp] theorem State.serveScrub_sec : (s.serveScrub).sec = s.sec := rfl
@[simp] theorem State.serveScrub_image : (s.serveScrub).image = s.image := rfl
@[simp] theorem State.serveScrub_hif : (s.serveScrub).hif = s.hif := rfl
@[simp] theorem State.serveScrub_sch : (s.serveScrub).sch = s.sch := rfl
@[simp] theorem State.serveScrub_standby : (s.serveScrub).standby = s.standby := rfl
@[simp] theorem State.serveScrub_blocks : (s.serveScrub).blocks = s.blocks := rfl
@[simp] theorem State.serveScrub_regions : (s.serveScrub).regions = s.regions := rfl
@[simp] theorem State.serveScrub_ccd : (s.serveScrub).ccd = s.ccd := rfl
@[simp] theorem State.serveScrub_hbm : (s.serveScrub).hbm = s.hbm := rfl
@[simp] theorem State.serveScrub_hbmWords : (s.serveScrub).hbmWords = s.hbmWords := rfl
@[simp] theorem State.serveScrub_hbmStacks : (s.serveScrub).hbmStacks = s.hbmStacks := rfl
@[simp] theorem State.serveScrub_pim : (s.serveScrub).pim = s.pim := rfl
@[simp] theorem State.serveScrub_ce : (s.serveScrub).ce = s.ce := rfl
@[simp] theorem State.serveScrub_fab : (s.serveScrub).fab = s.fab := rfl
@[simp] theorem State.serveScrub_thm : (s.serveScrub).thm = s.thm := rfl
@[simp] theorem State.serveScrub_err : (s.serveScrub).err = s.err := rfl
@[simp] theorem State.serveScrub_mgmt : (s.serveScrub).mgmt = s.mgmt := rfl
@[simp] theorem State.serveScrub_dbgScratch : (s.serveScrub).dbgScratch = s.dbgScratch := rfl
@[simp] theorem State.serveScrub_frozen : (s.serveScrub).frozen = s.frozen := rfl

/-! ### qosAdd -/

@[simp] theorem State.qosAdd_pending (r n : Nat) : (s.qosAdd r n).pending = s.pending := by
  unfold State.qosAdd; try dsimp only
  (repeat' split) <;> simp
@[simp] theorem State.qosAdd_dev (r n : Nat) : (s.qosAdd r n).dev = s.dev := by
  unfold State.qosAdd; try dsimp only
  (repeat' split) <;> simp
@[simp] theorem State.qosAdd_tick (r n : Nat) : (s.qosAdd r n).tick = s.tick := by
  unfold State.qosAdd; try dsimp only
  (repeat' split) <;> simp
@[simp] theorem State.qosAdd_supply (r n : Nat) : (s.qosAdd r n).supply = s.supply := by
  unfold State.qosAdd; try dsimp only
  (repeat' split) <;> simp
@[simp] theorem State.qosAdd_pwr (r n : Nat) : (s.qosAdd r n).pwr = s.pwr := by
  unfold State.qosAdd; try dsimp only
  (repeat' split) <;> simp
@[simp] theorem State.qosAdd_flash (r n : Nat) : (s.qosAdd r n).flash = s.flash := by
  unfold State.qosAdd; try dsimp only
  (repeat' split) <;> simp
@[simp] theorem State.qosAdd_sec (r n : Nat) : (s.qosAdd r n).sec = s.sec := by
  unfold State.qosAdd; try dsimp only
  (repeat' split) <;> simp
@[simp] theorem State.qosAdd_image (r n : Nat) : (s.qosAdd r n).image = s.image := by
  unfold State.qosAdd; try dsimp only
  (repeat' split) <;> simp
@[simp] theorem State.qosAdd_hif (r n : Nat) : (s.qosAdd r n).hif = s.hif := by
  unfold State.qosAdd; try dsimp only
  (repeat' split) <;> simp
@[simp] theorem State.qosAdd_sch (r n : Nat) : (s.qosAdd r n).sch = s.sch := by
  unfold State.qosAdd; try dsimp only
  (repeat' split) <;> simp
@[simp] theorem State.qosAdd_standby (r n : Nat) : (s.qosAdd r n).standby = s.standby := by
  unfold State.qosAdd; try dsimp only
  (repeat' split) <;> simp
@[simp] theorem State.qosAdd_blocks (r n : Nat) : (s.qosAdd r n).blocks = s.blocks := by
  unfold State.qosAdd; try dsimp only
  (repeat' split) <;> simp
@[simp] theorem State.qosAdd_regions (r n : Nat) : (s.qosAdd r n).regions = s.regions := by
  unfold State.qosAdd; try dsimp only
  (repeat' split) <;> simp
@[simp] theorem State.qosAdd_ccd (r n : Nat) : (s.qosAdd r n).ccd = s.ccd := by
  unfold State.qosAdd; try dsimp only
  (repeat' split) <;> simp
@[simp] theorem State.qosAdd_hbm (r n : Nat) : (s.qosAdd r n).hbm = s.hbm := by
  unfold State.qosAdd; try dsimp only
  (repeat' split) <;> simp
@[simp] theorem State.qosAdd_hbmWords (r n : Nat) : (s.qosAdd r n).hbmWords = s.hbmWords := by
  unfold State.qosAdd; try dsimp only
  (repeat' split) <;> simp
@[simp] theorem State.qosAdd_hbmStacks (r n : Nat) : (s.qosAdd r n).hbmStacks = s.hbmStacks := by
  unfold State.qosAdd; try dsimp only
  (repeat' split) <;> simp
@[simp] theorem State.qosAdd_pim (r n : Nat) : (s.qosAdd r n).pim = s.pim := by
  unfold State.qosAdd; try dsimp only
  (repeat' split) <;> simp
@[simp] theorem State.qosAdd_ce (r n : Nat) : (s.qosAdd r n).ce = s.ce := by
  unfold State.qosAdd; try dsimp only
  (repeat' split) <;> simp
@[simp] theorem State.qosAdd_fab (r n : Nat) : (s.qosAdd r n).fab = s.fab := by
  unfold State.qosAdd; try dsimp only
  (repeat' split) <;> simp
@[simp] theorem State.qosAdd_thm (r n : Nat) : (s.qosAdd r n).thm = s.thm := by
  unfold State.qosAdd; try dsimp only
  (repeat' split) <;> simp
@[simp] theorem State.qosAdd_err (r n : Nat) : (s.qosAdd r n).err = s.err := by
  unfold State.qosAdd; try dsimp only
  (repeat' split) <;> simp
@[simp] theorem State.qosAdd_mgmt (r n : Nat) : (s.qosAdd r n).mgmt = s.mgmt := by
  unfold State.qosAdd; try dsimp only
  (repeat' split) <;> simp
@[simp] theorem State.qosAdd_dbgScratch (r n : Nat) : (s.qosAdd r n).dbgScratch = s.dbgScratch := by
  unfold State.qosAdd; try dsimp only
  (repeat' split) <;> simp
@[simp] theorem State.qosAdd_frozen (r n : Nat) : (s.qosAdd r n).frozen = s.frozen := by
  unfold State.qosAdd; try dsimp only
  (repeat' split) <;> simp

/-! ### setMap -/

@[simp] theorem State.setMap_pending (r : Nat) (m : BitVec 52) : (s.setMap r m).pending = s.pending := rfl
@[simp] theorem State.setMap_dev (r : Nat) (m : BitVec 52) : (s.setMap r m).dev = s.dev := rfl
@[simp] theorem State.setMap_tick (r : Nat) (m : BitVec 52) : (s.setMap r m).tick = s.tick := rfl
@[simp] theorem State.setMap_supply (r : Nat) (m : BitVec 52) : (s.setMap r m).supply = s.supply := rfl
@[simp] theorem State.setMap_pwr (r : Nat) (m : BitVec 52) : (s.setMap r m).pwr = s.pwr := rfl
@[simp] theorem State.setMap_flash (r : Nat) (m : BitVec 52) : (s.setMap r m).flash = s.flash := rfl
@[simp] theorem State.setMap_sec (r : Nat) (m : BitVec 52) : (s.setMap r m).sec = s.sec := rfl
@[simp] theorem State.setMap_image (r : Nat) (m : BitVec 52) : (s.setMap r m).image = s.image := rfl
@[simp] theorem State.setMap_hif (r : Nat) (m : BitVec 52) : (s.setMap r m).hif = s.hif := rfl
@[simp] theorem State.setMap_sch (r : Nat) (m : BitVec 52) : (s.setMap r m).sch = s.sch := rfl
@[simp] theorem State.setMap_standby (r : Nat) (m : BitVec 52) : (s.setMap r m).standby = s.standby := rfl
@[simp] theorem State.setMap_blocks (r : Nat) (m : BitVec 52) : (s.setMap r m).blocks = s.blocks := rfl
@[simp] theorem State.setMap_ccd (r : Nat) (m : BitVec 52) : (s.setMap r m).ccd = s.ccd := rfl
@[simp] theorem State.setMap_hbm (r : Nat) (m : BitVec 52) : (s.setMap r m).hbm = s.hbm := rfl
@[simp] theorem State.setMap_hbmWords (r : Nat) (m : BitVec 52) : (s.setMap r m).hbmWords = s.hbmWords := rfl
@[simp] theorem State.setMap_hbmStacks (r : Nat) (m : BitVec 52) : (s.setMap r m).hbmStacks = s.hbmStacks := rfl
@[simp] theorem State.setMap_pim (r : Nat) (m : BitVec 52) : (s.setMap r m).pim = s.pim := rfl
@[simp] theorem State.setMap_ce (r : Nat) (m : BitVec 52) : (s.setMap r m).ce = s.ce := rfl
@[simp] theorem State.setMap_fab (r : Nat) (m : BitVec 52) : (s.setMap r m).fab = s.fab := rfl
@[simp] theorem State.setMap_qos (r : Nat) (m : BitVec 52) : (s.setMap r m).qos = s.qos := rfl
@[simp] theorem State.setMap_thm (r : Nat) (m : BitVec 52) : (s.setMap r m).thm = s.thm := rfl
@[simp] theorem State.setMap_err (r : Nat) (m : BitVec 52) : (s.setMap r m).err = s.err := rfl
@[simp] theorem State.setMap_mgmt (r : Nat) (m : BitVec 52) : (s.setMap r m).mgmt = s.mgmt := rfl
@[simp] theorem State.setMap_dbgScratch (r : Nat) (m : BitVec 52) : (s.setMap r m).dbgScratch = s.dbgScratch := rfl
@[simp] theorem State.setMap_frozen (r : Nat) (m : BitVec 52) : (s.setMap r m).frozen = s.frozen := rfl

/-! ### mgmtStore -/

@[simp] theorem State.mgmtStore_pending (r : ErrRec) : (s.mgmtStore r).pending = s.pending := by
  unfold State.mgmtStore; try dsimp only
  (repeat' split) <;> simp
@[simp] theorem State.mgmtStore_dev (r : ErrRec) : (s.mgmtStore r).dev = s.dev := by
  unfold State.mgmtStore; try dsimp only
  (repeat' split) <;> simp
@[simp] theorem State.mgmtStore_tick (r : ErrRec) : (s.mgmtStore r).tick = s.tick := by
  unfold State.mgmtStore; try dsimp only
  (repeat' split) <;> simp
@[simp] theorem State.mgmtStore_supply (r : ErrRec) : (s.mgmtStore r).supply = s.supply := by
  unfold State.mgmtStore; try dsimp only
  (repeat' split) <;> simp
@[simp] theorem State.mgmtStore_pwr (r : ErrRec) : (s.mgmtStore r).pwr = s.pwr := by
  unfold State.mgmtStore; try dsimp only
  (repeat' split) <;> simp
@[simp] theorem State.mgmtStore_flash (r : ErrRec) : (s.mgmtStore r).flash = s.flash := by
  unfold State.mgmtStore; try dsimp only
  (repeat' split) <;> simp
@[simp] theorem State.mgmtStore_sec (r : ErrRec) : (s.mgmtStore r).sec = s.sec := by
  unfold State.mgmtStore; try dsimp only
  (repeat' split) <;> simp
@[simp] theorem State.mgmtStore_image (r : ErrRec) : (s.mgmtStore r).image = s.image := by
  unfold State.mgmtStore; try dsimp only
  (repeat' split) <;> simp
@[simp] theorem State.mgmtStore_hif (r : ErrRec) : (s.mgmtStore r).hif = s.hif := by
  unfold State.mgmtStore; try dsimp only
  (repeat' split) <;> simp
@[simp] theorem State.mgmtStore_sch (r : ErrRec) : (s.mgmtStore r).sch = s.sch := by
  unfold State.mgmtStore; try dsimp only
  (repeat' split) <;> simp
@[simp] theorem State.mgmtStore_standby (r : ErrRec) : (s.mgmtStore r).standby = s.standby := by
  unfold State.mgmtStore; try dsimp only
  (repeat' split) <;> simp
@[simp] theorem State.mgmtStore_blocks (r : ErrRec) : (s.mgmtStore r).blocks = s.blocks := by
  unfold State.mgmtStore; try dsimp only
  (repeat' split) <;> simp
@[simp] theorem State.mgmtStore_regions (r : ErrRec) : (s.mgmtStore r).regions = s.regions := by
  unfold State.mgmtStore; try dsimp only
  (repeat' split) <;> simp
@[simp] theorem State.mgmtStore_ccd (r : ErrRec) : (s.mgmtStore r).ccd = s.ccd := by
  unfold State.mgmtStore; try dsimp only
  (repeat' split) <;> simp
@[simp] theorem State.mgmtStore_hbm (r : ErrRec) : (s.mgmtStore r).hbm = s.hbm := by
  unfold State.mgmtStore; try dsimp only
  (repeat' split) <;> simp
@[simp] theorem State.mgmtStore_hbmWords (r : ErrRec) : (s.mgmtStore r).hbmWords = s.hbmWords := by
  unfold State.mgmtStore; try dsimp only
  (repeat' split) <;> simp
@[simp] theorem State.mgmtStore_hbmStacks (r : ErrRec) : (s.mgmtStore r).hbmStacks = s.hbmStacks := by
  unfold State.mgmtStore; try dsimp only
  (repeat' split) <;> simp
@[simp] theorem State.mgmtStore_pim (r : ErrRec) : (s.mgmtStore r).pim = s.pim := by
  unfold State.mgmtStore; try dsimp only
  (repeat' split) <;> simp
@[simp] theorem State.mgmtStore_ce (r : ErrRec) : (s.mgmtStore r).ce = s.ce := by
  unfold State.mgmtStore; try dsimp only
  (repeat' split) <;> simp
@[simp] theorem State.mgmtStore_fab (r : ErrRec) : (s.mgmtStore r).fab = s.fab := by
  unfold State.mgmtStore; try dsimp only
  (repeat' split) <;> simp
@[simp] theorem State.mgmtStore_qos (r : ErrRec) : (s.mgmtStore r).qos = s.qos := by
  unfold State.mgmtStore; try dsimp only
  (repeat' split) <;> simp
@[simp] theorem State.mgmtStore_thm (r : ErrRec) : (s.mgmtStore r).thm = s.thm := by
  unfold State.mgmtStore; try dsimp only
  (repeat' split) <;> simp
@[simp] theorem State.mgmtStore_err (r : ErrRec) : (s.mgmtStore r).err = s.err := by
  unfold State.mgmtStore; try dsimp only
  (repeat' split) <;> simp
@[simp] theorem State.mgmtStore_dbgScratch (r : ErrRec) : (s.mgmtStore r).dbgScratch = s.dbgScratch := by
  unfold State.mgmtStore; try dsimp only
  (repeat' split) <;> simp
@[simp] theorem State.mgmtStore_frozen (r : ErrRec) : (s.mgmtStore r).frozen = s.frozen := by
  unfold State.mgmtStore; try dsimp only
  (repeat' split) <;> simp

/-! ### postMgmtOnly -/

@[simp] theorem State.postMgmtOnly_pending (a : RecArg) : (s.postMgmtOnly a).pending = s.pending := by
  unfold State.postMgmtOnly; try dsimp only
  simp
@[simp] theorem State.postMgmtOnly_dev (a : RecArg) : (s.postMgmtOnly a).dev = s.dev := by
  unfold State.postMgmtOnly; try dsimp only
  simp
@[simp] theorem State.postMgmtOnly_tick (a : RecArg) : (s.postMgmtOnly a).tick = s.tick := by
  unfold State.postMgmtOnly; try dsimp only
  simp
@[simp] theorem State.postMgmtOnly_supply (a : RecArg) : (s.postMgmtOnly a).supply = s.supply := by
  unfold State.postMgmtOnly; try dsimp only
  simp
@[simp] theorem State.postMgmtOnly_pwr (a : RecArg) : (s.postMgmtOnly a).pwr = s.pwr := by
  unfold State.postMgmtOnly; try dsimp only
  simp
@[simp] theorem State.postMgmtOnly_flash (a : RecArg) : (s.postMgmtOnly a).flash = s.flash := by
  unfold State.postMgmtOnly; try dsimp only
  simp
@[simp] theorem State.postMgmtOnly_sec (a : RecArg) : (s.postMgmtOnly a).sec = s.sec := by
  unfold State.postMgmtOnly; try dsimp only
  simp
@[simp] theorem State.postMgmtOnly_image (a : RecArg) : (s.postMgmtOnly a).image = s.image := by
  unfold State.postMgmtOnly; try dsimp only
  simp
@[simp] theorem State.postMgmtOnly_hif (a : RecArg) : (s.postMgmtOnly a).hif = s.hif := by
  unfold State.postMgmtOnly; try dsimp only
  simp
@[simp] theorem State.postMgmtOnly_sch (a : RecArg) : (s.postMgmtOnly a).sch = s.sch := by
  unfold State.postMgmtOnly; try dsimp only
  simp
@[simp] theorem State.postMgmtOnly_standby (a : RecArg) : (s.postMgmtOnly a).standby = s.standby := by
  unfold State.postMgmtOnly; try dsimp only
  simp
@[simp] theorem State.postMgmtOnly_blocks (a : RecArg) : (s.postMgmtOnly a).blocks = s.blocks := by
  unfold State.postMgmtOnly; try dsimp only
  simp
@[simp] theorem State.postMgmtOnly_regions (a : RecArg) : (s.postMgmtOnly a).regions = s.regions := by
  unfold State.postMgmtOnly; try dsimp only
  simp
@[simp] theorem State.postMgmtOnly_ccd (a : RecArg) : (s.postMgmtOnly a).ccd = s.ccd := by
  unfold State.postMgmtOnly; try dsimp only
  simp
@[simp] theorem State.postMgmtOnly_hbm (a : RecArg) : (s.postMgmtOnly a).hbm = s.hbm := by
  unfold State.postMgmtOnly; try dsimp only
  simp
@[simp] theorem State.postMgmtOnly_hbmWords (a : RecArg) : (s.postMgmtOnly a).hbmWords = s.hbmWords := by
  unfold State.postMgmtOnly; try dsimp only
  simp
@[simp] theorem State.postMgmtOnly_hbmStacks (a : RecArg) : (s.postMgmtOnly a).hbmStacks = s.hbmStacks := by
  unfold State.postMgmtOnly; try dsimp only
  simp
@[simp] theorem State.postMgmtOnly_pim (a : RecArg) : (s.postMgmtOnly a).pim = s.pim := by
  unfold State.postMgmtOnly; try dsimp only
  simp
@[simp] theorem State.postMgmtOnly_ce (a : RecArg) : (s.postMgmtOnly a).ce = s.ce := by
  unfold State.postMgmtOnly; try dsimp only
  simp
@[simp] theorem State.postMgmtOnly_fab (a : RecArg) : (s.postMgmtOnly a).fab = s.fab := by
  unfold State.postMgmtOnly; try dsimp only
  simp
@[simp] theorem State.postMgmtOnly_qos (a : RecArg) : (s.postMgmtOnly a).qos = s.qos := by
  unfold State.postMgmtOnly; try dsimp only
  simp
@[simp] theorem State.postMgmtOnly_thm (a : RecArg) : (s.postMgmtOnly a).thm = s.thm := by
  unfold State.postMgmtOnly; try dsimp only
  simp
@[simp] theorem State.postMgmtOnly_err (a : RecArg) : (s.postMgmtOnly a).err = s.err := by
  unfold State.postMgmtOnly; try dsimp only
  simp
@[simp] theorem State.postMgmtOnly_dbgScratch (a : RecArg) : (s.postMgmtOnly a).dbgScratch = s.dbgScratch := by
  unfold State.postMgmtOnly; try dsimp only
  simp
@[simp] theorem State.postMgmtOnly_frozen (a : RecArg) : (s.postMgmtOnly a).frozen = s.frozen := by
  unfold State.postMgmtOnly; try dsimp only
  simp

/-! ### rollWindow -/

@[simp] theorem State.rollWindow_pending : (s.rollWindow).pending = s.pending := by
  unfold State.rollWindow; try dsimp only
  (repeat' split) <;> simp
@[simp] theorem State.rollWindow_dev : (s.rollWindow).dev = s.dev := by
  unfold State.rollWindow; try dsimp only
  (repeat' split) <;> simp
@[simp] theorem State.rollWindow_tick : (s.rollWindow).tick = s.tick := by
  unfold State.rollWindow; try dsimp only
  (repeat' split) <;> simp
@[simp] theorem State.rollWindow_supply : (s.rollWindow).supply = s.supply := by
  unfold State.rollWindow; try dsimp only
  (repeat' split) <;> simp
@[simp] theorem State.rollWindow_pwr : (s.rollWindow).pwr = s.pwr := by
  unfold State.rollWindow; try dsimp only
  (repeat' split) <;> simp
@[simp] theorem State.rollWindow_flash : (s.rollWindow).flash = s.flash := by
  unfold State.rollWindow; try dsimp only
  (repeat' split) <;> simp
@[simp] theorem State.rollWindow_sec : (s.rollWindow).sec = s.sec := by
  unfold State.rollWindow; try dsimp only
  (repeat' split) <;> simp
@[simp] theorem State.rollWindow_image : (s.rollWindow).image = s.image := by
  unfold State.rollWindow; try dsimp only
  (repeat' split) <;> simp
@[simp] theorem State.rollWindow_hif : (s.rollWindow).hif = s.hif := by
  unfold State.rollWindow; try dsimp only
  (repeat' split) <;> simp
@[simp] theorem State.rollWindow_sch : (s.rollWindow).sch = s.sch := by
  unfold State.rollWindow; try dsimp only
  (repeat' split) <;> simp
@[simp] theorem State.rollWindow_standby : (s.rollWindow).standby = s.standby := by
  unfold State.rollWindow; try dsimp only
  (repeat' split) <;> simp
@[simp] theorem State.rollWindow_blocks : (s.rollWindow).blocks = s.blocks := by
  unfold State.rollWindow; try dsimp only
  (repeat' split) <;> simp
@[simp] theorem State.rollWindow_regions : (s.rollWindow).regions = s.regions := by
  unfold State.rollWindow; try dsimp only
  (repeat' split) <;> simp
@[simp] theorem State.rollWindow_ccd : (s.rollWindow).ccd = s.ccd := by
  unfold State.rollWindow; try dsimp only
  (repeat' split) <;> simp
@[simp] theorem State.rollWindow_hbm : (s.rollWindow).hbm = s.hbm := by
  unfold State.rollWindow; try dsimp only
  (repeat' split) <;> simp
@[simp] theorem State.rollWindow_hbmWords : (s.rollWindow).hbmWords = s.hbmWords := by
  unfold State.rollWindow; try dsimp only
  (repeat' split) <;> simp
@[simp] theorem State.rollWindow_hbmStacks : (s.rollWindow).hbmStacks = s.hbmStacks := by
  unfold State.rollWindow; try dsimp only
  (repeat' split) <;> simp
@[simp] theorem State.rollWindow_pim : (s.rollWindow).pim = s.pim := by
  unfold State.rollWindow; try dsimp only
  (repeat' split) <;> simp
@[simp] theorem State.rollWindow_ce : (s.rollWindow).ce = s.ce := by
  unfold State.rollWindow; try dsimp only
  (repeat' split) <;> simp
@[simp] theorem State.rollWindow_fab : (s.rollWindow).fab = s.fab := by
  unfold State.rollWindow; try dsimp only
  (repeat' split) <;> simp
@[simp] theorem State.rollWindow_qos : (s.rollWindow).qos = s.qos := by
  unfold State.rollWindow; try dsimp only
  (repeat' split) <;> simp
@[simp] theorem State.rollWindow_thm : (s.rollWindow).thm = s.thm := by
  unfold State.rollWindow; try dsimp only
  (repeat' split) <;> simp
@[simp] theorem State.rollWindow_mgmt : (s.rollWindow).mgmt = s.mgmt := by
  unfold State.rollWindow; try dsimp only
  (repeat' split) <;> simp
@[simp] theorem State.rollWindow_dbgScratch : (s.rollWindow).dbgScratch = s.dbgScratch := by
  unfold State.rollWindow; try dsimp only
  (repeat' split) <;> simp
@[simp] theorem State.rollWindow_frozen : (s.rollWindow).frozen = s.frozen := by
  unfold State.rollWindow; try dsimp only
  (repeat' split) <;> simp

/-! ### post -/

@[simp] theorem State.post_pending (a : RecArg) : (s.post a).pending = s.pending := by
  unfold State.post; try dsimp only
  (repeat' split) <;> simp
@[simp] theorem State.post_dev (a : RecArg) : (s.post a).dev = s.dev := by
  unfold State.post; try dsimp only
  (repeat' split) <;> simp
@[simp] theorem State.post_tick (a : RecArg) : (s.post a).tick = s.tick := by
  unfold State.post; try dsimp only
  (repeat' split) <;> simp
@[simp] theorem State.post_supply (a : RecArg) : (s.post a).supply = s.supply := by
  unfold State.post; try dsimp only
  (repeat' split) <;> simp
@[simp] theorem State.post_pwr (a : RecArg) : (s.post a).pwr = s.pwr := by
  unfold State.post; try dsimp only
  (repeat' split) <;> simp
@[simp] theorem State.post_flash (a : RecArg) : (s.post a).flash = s.flash := by
  unfold State.post; try dsimp only
  (repeat' split) <;> simp
@[simp] theorem State.post_sec (a : RecArg) : (s.post a).sec = s.sec := by
  unfold State.post; try dsimp only
  (repeat' split) <;> simp
@[simp] theorem State.post_image (a : RecArg) : (s.post a).image = s.image := by
  unfold State.post; try dsimp only
  (repeat' split) <;> simp
@[simp] theorem State.post_sch (a : RecArg) : (s.post a).sch = s.sch := by
  unfold State.post; try dsimp only
  (repeat' split) <;> simp
@[simp] theorem State.post_standby (a : RecArg) : (s.post a).standby = s.standby := by
  unfold State.post; try dsimp only
  (repeat' split) <;> simp
@[simp] theorem State.post_blocks (a : RecArg) : (s.post a).blocks = s.blocks := by
  unfold State.post; try dsimp only
  (repeat' split) <;> simp
@[simp] theorem State.post_regions (a : RecArg) : (s.post a).regions = s.regions := by
  unfold State.post; try dsimp only
  (repeat' split) <;> simp
@[simp] theorem State.post_ccd (a : RecArg) : (s.post a).ccd = s.ccd := by
  unfold State.post; try dsimp only
  (repeat' split) <;> simp
@[simp] theorem State.post_hbm (a : RecArg) : (s.post a).hbm = s.hbm := by
  unfold State.post; try dsimp only
  (repeat' split) <;> simp
@[simp] theorem State.post_hbmWords (a : RecArg) : (s.post a).hbmWords = s.hbmWords := by
  unfold State.post; try dsimp only
  (repeat' split) <;> simp
@[simp] theorem State.post_hbmStacks (a : RecArg) : (s.post a).hbmStacks = s.hbmStacks := by
  unfold State.post; try dsimp only
  (repeat' split) <;> simp
@[simp] theorem State.post_pim (a : RecArg) : (s.post a).pim = s.pim := by
  unfold State.post; try dsimp only
  (repeat' split) <;> simp
@[simp] theorem State.post_ce (a : RecArg) : (s.post a).ce = s.ce := by
  unfold State.post; try dsimp only
  (repeat' split) <;> simp
@[simp] theorem State.post_fab (a : RecArg) : (s.post a).fab = s.fab := by
  unfold State.post; try dsimp only
  (repeat' split) <;> simp
@[simp] theorem State.post_qos (a : RecArg) : (s.post a).qos = s.qos := by
  unfold State.post; try dsimp only
  (repeat' split) <;> simp
@[simp] theorem State.post_thm (a : RecArg) : (s.post a).thm = s.thm := by
  unfold State.post; try dsimp only
  (repeat' split) <;> simp
@[simp] theorem State.post_dbgScratch (a : RecArg) : (s.post a).dbgScratch = s.dbgScratch := by
  unfold State.post; try dsimp only
  (repeat' split) <;> simp
@[simp] theorem State.post_frozen (a : RecArg) : (s.post a).frozen = s.frozen := by
  unfold State.post; try dsimp only
  (repeat' split) <;> simp

/-- A record with a syndrome is posted as any other, and one free value is taken. -/
@[simp] theorem State.postSyndrome_eq (bits : Nat) (a : RecArg) :
    s.postSyndrome bits a = (s.post { a with data0 := s.freeNat % 2 ^ bits }).tookFree := rfl

/-! ### enter -/

@[simp] theorem State.enter_pending (d : DevState) : (s.enter d).pending = s.pending := by
  unfold State.enter; try dsimp only
  (repeat' split) <;> simp
@[simp] theorem State.enter_tick (d : DevState) : (s.enter d).tick = s.tick := by
  unfold State.enter; try dsimp only
  (repeat' split) <;> simp
@[simp] theorem State.enter_supply (d : DevState) : (s.enter d).supply = s.supply := by
  unfold State.enter; try dsimp only
  (repeat' split) <;> simp
@[simp] theorem State.enter_pwr (d : DevState) : (s.enter d).pwr = s.pwr := by
  unfold State.enter; try dsimp only
  (repeat' split) <;> simp
@[simp] theorem State.enter_flash (d : DevState) : (s.enter d).flash = s.flash := by
  unfold State.enter; try dsimp only
  (repeat' split) <;> simp
@[simp] theorem State.enter_sec (d : DevState) : (s.enter d).sec = s.sec := by
  unfold State.enter; try dsimp only
  (repeat' split) <;> simp
@[simp] theorem State.enter_image (d : DevState) : (s.enter d).image = s.image := by
  unfold State.enter; try dsimp only
  (repeat' split) <;> simp
@[simp] theorem State.enter_sch (d : DevState) : (s.enter d).sch = s.sch := by
  unfold State.enter; try dsimp only
  (repeat' split) <;> simp
@[simp] theorem State.enter_standby (d : DevState) : (s.enter d).standby = s.standby := by
  unfold State.enter; try dsimp only
  (repeat' split) <;> simp
@[simp] theorem State.enter_blocks (d : DevState) : (s.enter d).blocks = s.blocks := by
  unfold State.enter; try dsimp only
  (repeat' split) <;> simp
@[simp] theorem State.enter_regions (d : DevState) : (s.enter d).regions = s.regions := by
  unfold State.enter; try dsimp only
  (repeat' split) <;> simp
@[simp] theorem State.enter_ccd (d : DevState) : (s.enter d).ccd = s.ccd := by
  unfold State.enter; try dsimp only
  (repeat' split) <;> simp
@[simp] theorem State.enter_hbm (d : DevState) : (s.enter d).hbm = s.hbm := by
  unfold State.enter; try dsimp only
  (repeat' split) <;> simp
@[simp] theorem State.enter_hbmWords (d : DevState) : (s.enter d).hbmWords = s.hbmWords := by
  unfold State.enter; try dsimp only
  (repeat' split) <;> simp
@[simp] theorem State.enter_hbmStacks (d : DevState) : (s.enter d).hbmStacks = s.hbmStacks := by
  unfold State.enter; try dsimp only
  (repeat' split) <;> simp
@[simp] theorem State.enter_pim (d : DevState) : (s.enter d).pim = s.pim := by
  unfold State.enter; try dsimp only
  (repeat' split) <;> simp
@[simp] theorem State.enter_ce (d : DevState) : (s.enter d).ce = s.ce := by
  unfold State.enter; try dsimp only
  (repeat' split) <;> simp
@[simp] theorem State.enter_fab (d : DevState) : (s.enter d).fab = s.fab := by
  unfold State.enter; try dsimp only
  (repeat' split) <;> simp
@[simp] theorem State.enter_qos (d : DevState) : (s.enter d).qos = s.qos := by
  unfold State.enter; try dsimp only
  (repeat' split) <;> simp
@[simp] theorem State.enter_thm (d : DevState) : (s.enter d).thm = s.thm := by
  unfold State.enter; try dsimp only
  (repeat' split) <;> simp
@[simp] theorem State.enter_err (d : DevState) : (s.enter d).err = s.err := by
  unfold State.enter; try dsimp only
  (repeat' split) <;> simp
@[simp] theorem State.enter_mgmt (d : DevState) : (s.enter d).mgmt = s.mgmt := by
  unfold State.enter; try dsimp only
  (repeat' split) <;> simp
@[simp] theorem State.enter_dbgScratch (d : DevState) : (s.enter d).dbgScratch = s.dbgScratch := by
  unfold State.enter; try dsimp only
  (repeat' split) <;> simp
@[simp] theorem State.enter_frozen (d : DevState) : (s.enter d).frozen = s.frozen := by
  unfold State.enter; try dsimp only
  (repeat' split) <;> simp

/-! ### powerOffRegions -/

@[simp] theorem State.powerOffRegions_pending : (s.powerOffRegions).pending = s.pending := by simp only [State.powerOffRegions]
@[simp] theorem State.powerOffRegions_dev : (s.powerOffRegions).dev = s.dev := by simp only [State.powerOffRegions]
@[simp] theorem State.powerOffRegions_tick : (s.powerOffRegions).tick = s.tick := by simp only [State.powerOffRegions]
@[simp] theorem State.powerOffRegions_supply : (s.powerOffRegions).supply = s.supply := by simp only [State.powerOffRegions]
@[simp] theorem State.powerOffRegions_flash : (s.powerOffRegions).flash = s.flash := by simp only [State.powerOffRegions]
@[simp] theorem State.powerOffRegions_sec : (s.powerOffRegions).sec = s.sec := by simp only [State.powerOffRegions]
@[simp] theorem State.powerOffRegions_image : (s.powerOffRegions).image = s.image := by simp only [State.powerOffRegions]
@[simp] theorem State.powerOffRegions_hif : (s.powerOffRegions).hif = s.hif := by simp only [State.powerOffRegions]
@[simp] theorem State.powerOffRegions_sch : (s.powerOffRegions).sch = s.sch := by simp only [State.powerOffRegions]
@[simp] theorem State.powerOffRegions_standby : (s.powerOffRegions).standby = s.standby := by simp only [State.powerOffRegions]
@[simp] theorem State.powerOffRegions_blocks : (s.powerOffRegions).blocks = s.blocks := by simp only [State.powerOffRegions]
@[simp] theorem State.powerOffRegions_regions : (s.powerOffRegions).regions = s.regions := by simp only [State.powerOffRegions]
@[simp] theorem State.powerOffRegions_ccd : (s.powerOffRegions).ccd = s.ccd := by simp only [State.powerOffRegions]
@[simp] theorem State.powerOffRegions_hbm : (s.powerOffRegions).hbm = s.hbm := by simp only [State.powerOffRegions]
@[simp] theorem State.powerOffRegions_hbmWords : (s.powerOffRegions).hbmWords = s.hbmWords := by simp only [State.powerOffRegions]
@[simp] theorem State.powerOffRegions_hbmStacks : (s.powerOffRegions).hbmStacks = s.hbmStacks := by simp only [State.powerOffRegions]
@[simp] theorem State.powerOffRegions_pim : (s.powerOffRegions).pim = s.pim := by simp only [State.powerOffRegions]
@[simp] theorem State.powerOffRegions_ce : (s.powerOffRegions).ce = s.ce := by simp only [State.powerOffRegions]
@[simp] theorem State.powerOffRegions_fab : (s.powerOffRegions).fab = s.fab := by simp only [State.powerOffRegions]
@[simp] theorem State.powerOffRegions_qos : (s.powerOffRegions).qos = s.qos := by simp only [State.powerOffRegions]
@[simp] theorem State.powerOffRegions_thm : (s.powerOffRegions).thm = s.thm := by simp only [State.powerOffRegions]
@[simp] theorem State.powerOffRegions_err : (s.powerOffRegions).err = s.err := by simp only [State.powerOffRegions]
@[simp] theorem State.powerOffRegions_mgmt : (s.powerOffRegions).mgmt = s.mgmt := by simp only [State.powerOffRegions]
@[simp] theorem State.powerOffRegions_dbgScratch : (s.powerOffRegions).dbgScratch = s.dbgScratch := by simp only [State.powerOffRegions]
@[simp] theorem State.powerOffRegions_frozen : (s.powerOffRegions).frozen = s.frozen := by simp only [State.powerOffRegions]

/-! ### enterFault -/

@[simp] theorem State.enterFault_pending : (s.enterFault).pending = s.pending := by
  unfold State.enterFault
  split
  · rfl
  · simp only [State.enter_pending, State.powerOffRegions_pending]
@[simp] theorem State.enterFault_tick : (s.enterFault).tick = s.tick := by
  unfold State.enterFault
  split
  · rfl
  · simp only [State.enter_tick, State.powerOffRegions_tick]
@[simp] theorem State.enterFault_supply : (s.enterFault).supply = s.supply := by
  unfold State.enterFault
  split
  · rfl
  · simp only [State.enter_supply, State.powerOffRegions_supply]
@[simp] theorem State.enterFault_flash : (s.enterFault).flash = s.flash := by
  unfold State.enterFault
  split
  · rfl
  · simp only [State.enter_flash, State.powerOffRegions_flash]
@[simp] theorem State.enterFault_sec : (s.enterFault).sec = s.sec := by
  unfold State.enterFault
  split
  · rfl
  · simp only [State.enter_sec, State.powerOffRegions_sec]
@[simp] theorem State.enterFault_image : (s.enterFault).image = s.image := by
  unfold State.enterFault
  split
  · rfl
  · simp only [State.enter_image, State.powerOffRegions_image]
@[simp] theorem State.enterFault_sch :
    (s.enterFault).sch = if s.dev = .fault then s.sch else s.sch.stopped := by
  unfold State.enterFault
  split
  · rfl
  · simp only [State.enter_sch, State.powerOffRegions_sch]
@[simp] theorem State.enterFault_standby :
    (s.enterFault).standby = if s.dev = .fault then s.standby else s.standby.stopped := by
  unfold State.enterFault
  split
  · rfl
  · simp only [State.enter_standby, State.powerOffRegions_standby]
@[simp] theorem State.enterFault_blocks : (s.enterFault).blocks = s.blocks := by
  unfold State.enterFault
  split
  · rfl
  · simp only [State.enter_blocks, State.powerOffRegions_blocks]
@[simp] theorem State.enterFault_regions : (s.enterFault).regions = s.regions := by
  unfold State.enterFault
  split
  · rfl
  · simp only [State.enter_regions, State.powerOffRegions_regions]
@[simp] theorem State.enterFault_ccd : (s.enterFault).ccd = s.ccd := by
  unfold State.enterFault
  split
  · rfl
  · simp only [State.enter_ccd, State.powerOffRegions_ccd]
@[simp] theorem State.enterFault_hbm : (s.enterFault).hbm = s.hbm := by
  unfold State.enterFault
  split
  · rfl
  · simp only [State.enter_hbm, State.powerOffRegions_hbm]
@[simp] theorem State.enterFault_hbmWords : (s.enterFault).hbmWords = s.hbmWords := by
  unfold State.enterFault
  split
  · rfl
  · simp only [State.enter_hbmWords, State.powerOffRegions_hbmWords]
@[simp] theorem State.enterFault_hbmStacks : (s.enterFault).hbmStacks = s.hbmStacks := by
  unfold State.enterFault
  split
  · rfl
  · simp only [State.enter_hbmStacks, State.powerOffRegions_hbmStacks]
@[simp] theorem State.enterFault_pim :
    (s.enterFault).pim = if s.dev = .fault then s.pim else s.pim.stopped := by
  unfold State.enterFault
  split
  · rfl
  · simp only [State.enter_pim, State.powerOffRegions_pim]
@[simp] theorem State.enterFault_ce :
    (s.enterFault).ce = if s.dev = .fault then s.ce else s.ce.stopped := by
  unfold State.enterFault
  split
  · rfl
  · simp only [State.enter_ce, State.powerOffRegions_ce]
@[simp] theorem State.enterFault_fab : (s.enterFault).fab = s.fab := by
  unfold State.enterFault
  split
  · rfl
  · simp only [State.enter_fab, State.powerOffRegions_fab]
@[simp] theorem State.enterFault_qos : (s.enterFault).qos = s.qos := by
  unfold State.enterFault
  split
  · rfl
  · simp only [State.enter_qos, State.powerOffRegions_qos]
@[simp] theorem State.enterFault_thm : (s.enterFault).thm = s.thm := by
  unfold State.enterFault
  split
  · rfl
  · simp only [State.enter_thm, State.powerOffRegions_thm]
@[simp] theorem State.enterFault_err : (s.enterFault).err = s.err := by
  unfold State.enterFault
  split
  · rfl
  · simp only [State.enter_err, State.powerOffRegions_err]
@[simp] theorem State.enterFault_mgmt : (s.enterFault).mgmt = s.mgmt := by
  unfold State.enterFault
  split
  · rfl
  · simp only [State.enter_mgmt, State.powerOffRegions_mgmt]
@[simp] theorem State.enterFault_dbgScratch : (s.enterFault).dbgScratch = s.dbgScratch := by
  unfold State.enterFault
  split
  · rfl
  · simp only [State.enter_dbgScratch, State.powerOffRegions_dbgScratch]

/-! ### raiseFA -/

@[simp] theorem State.raiseFA_pending (a : RecArg) : (s.raiseFA a).pending = s.pending := by
  unfold State.raiseFA; try dsimp only
  (repeat' split) <;> simp
@[simp] theorem State.raiseFA_tick (a : RecArg) : (s.raiseFA a).tick = s.tick := by
  unfold State.raiseFA; try dsimp only
  (repeat' split) <;> simp
@[simp] theorem State.raiseFA_supply (a : RecArg) : (s.raiseFA a).supply = s.supply := by
  unfold State.raiseFA; try dsimp only
  (repeat' split) <;> simp
@[simp] theorem State.raiseFA_flash (a : RecArg) : (s.raiseFA a).flash = s.flash := by
  unfold State.raiseFA; try dsimp only
  (repeat' split) <;> simp
@[simp] theorem State.raiseFA_sec (a : RecArg) : (s.raiseFA a).sec = s.sec := by
  unfold State.raiseFA; try dsimp only
  (repeat' split) <;> simp
@[simp] theorem State.raiseFA_image (a : RecArg) : (s.raiseFA a).image = s.image := by
  unfold State.raiseFA; try dsimp only
  (repeat' split) <;> simp
@[simp] theorem State.raiseFA_sch (a : RecArg) :
    (s.raiseFA a).sch = if s.mainOn = true ∧ s.dev ≠ .fault then s.sch.stopped else s.sch := by
  unfold State.raiseFA
  by_cases h : s.mainOn = true <;> by_cases d : s.dev = .fault <;> simp [h, d]
@[simp] theorem State.raiseFA_standby (a : RecArg) :
    (s.raiseFA a).standby = if s.mainOn = true ∧ s.dev ≠ .fault then s.standby.stopped else s.standby := by
  unfold State.raiseFA
  by_cases h : s.mainOn = true <;> by_cases d : s.dev = .fault <;> simp [h, d]
@[simp] theorem State.raiseFA_blocks (a : RecArg) : (s.raiseFA a).blocks = s.blocks := by
  unfold State.raiseFA; try dsimp only
  (repeat' split) <;> simp
@[simp] theorem State.raiseFA_regions (a : RecArg) : (s.raiseFA a).regions = s.regions := by
  unfold State.raiseFA; try dsimp only
  (repeat' split) <;> simp
@[simp] theorem State.raiseFA_ccd (a : RecArg) : (s.raiseFA a).ccd = s.ccd := by
  unfold State.raiseFA; try dsimp only
  (repeat' split) <;> simp
@[simp] theorem State.raiseFA_hbm (a : RecArg) : (s.raiseFA a).hbm = s.hbm := by
  unfold State.raiseFA; try dsimp only
  (repeat' split) <;> simp
@[simp] theorem State.raiseFA_hbmWords (a : RecArg) : (s.raiseFA a).hbmWords = s.hbmWords := by
  unfold State.raiseFA; try dsimp only
  (repeat' split) <;> simp
@[simp] theorem State.raiseFA_hbmStacks (a : RecArg) : (s.raiseFA a).hbmStacks = s.hbmStacks := by
  unfold State.raiseFA; try dsimp only
  (repeat' split) <;> simp
@[simp] theorem State.raiseFA_pim (a : RecArg) :
    (s.raiseFA a).pim = if s.mainOn = true ∧ s.dev ≠ .fault then s.pim.stopped else s.pim := by
  unfold State.raiseFA
  by_cases h : s.mainOn = true <;> by_cases d : s.dev = .fault <;> simp [h, d]
@[simp] theorem State.raiseFA_ce (a : RecArg) :
    (s.raiseFA a).ce = if s.mainOn = true ∧ s.dev ≠ .fault then s.ce.stopped else s.ce := by
  unfold State.raiseFA
  by_cases h : s.mainOn = true <;> by_cases d : s.dev = .fault <;> simp [h, d]
@[simp] theorem State.raiseFA_fab (a : RecArg) : (s.raiseFA a).fab = s.fab := by
  unfold State.raiseFA; try dsimp only
  (repeat' split) <;> simp
@[simp] theorem State.raiseFA_qos (a : RecArg) : (s.raiseFA a).qos = s.qos := by
  unfold State.raiseFA; try dsimp only
  (repeat' split) <;> simp
@[simp] theorem State.raiseFA_thm (a : RecArg) : (s.raiseFA a).thm = s.thm := by
  unfold State.raiseFA; try dsimp only
  (repeat' split) <;> simp
@[simp] theorem State.raiseFA_dbgScratch (a : RecArg) : (s.raiseFA a).dbgScratch = s.dbgScratch := by
  unfold State.raiseFA; try dsimp only
  (repeat' split) <;> simp

end Sys2Proof.Machine
end

