-- ==== Sys2Proof/Laws/Records.lean ====
section
/-! SUPPORT. What posting an error record and raising an FA error do. -/

namespace Sys2Proof.Machine

variable (s : State)

@[simp] theorem State.rollWindow_next : s.rollWindow.err.next = s.err.next := by
  unfold State.rollWindow; split <;> rfl

@[simp] theorem State.rollWindow_log : s.rollWindow.err.log = s.err.log := by
  unfold State.rollWindow; split <;> rfl

@[simp] theorem Err.count_log (e : Err) (c : Nat) : (e.count c).log = e.log := by unfold Err.count; split <;> rfl

@[simp] theorem Err.count_next (e : Err) (c : Nat) : (e.count c).next = e.next := by unfold Err.count; split <;> rfl

/-- A UC or FA record posted while the main side is on enters the log and the management domain's store. -/
theorem State.post_unlimited (a : RecArg) (h : s.mainOn = true) (hc : 3 ≤ a.cls) :
    (s.post a).err.log = (s.mkRec a :: s.err.log).take 16384 ∧ (s.post a).err.next = s.err.next + 1 ∧
    (s.post a).mgmt.store = (s.mkRec a :: s.mgmt.store).take 256 := by
  have h1 : ¬ a.cls < 3 := by omega
  have h2 : ¬ a.cls = 1 := by omega
  have h3 : ¬ (s.mkRec a).cls < 3 := h1
  unfold State.post
  simp [h, h1, h2, h3, State.mgmtStore]

theorem State.post_newRecord (a : RecArg) (h : s.mainOn = true) (hc : 3 ≤ a.cls) :
    NewRecord s (s.post a) a.cls a.level a.unit a.code := by
  obtain ⟨h1, h2, -⟩ := s.post_unlimited a h hc
  exact ⟨s.mkRec a, by simp [h1], rfl, h2, rfl, rfl, rfl, rfl⟩

theorem State.post_newStored (a : RecArg) (h : s.mainOn = true) (hc : 3 ≤ a.cls) :
    NewStored (s.post a) a.cls a.level a.unit a.code := by
  obtain ⟨-, -, h1⟩ := s.post_unlimited a h hc
  exact ⟨s.mkRec a, by simp [h1], rfl, rfl, rfl, rfl⟩

/-- A record posted in the management domain alone. -/
theorem State.postMgmtOnly_newStored (a : RecArg) (hc : 3 ≤ a.cls) :
    NewStored (s.postMgmtOnly a) a.cls a.level a.unit a.code := by
  have h3 : ¬ (s.mkRec a).cls < 3 := by show ¬ a.cls < 3; omega
  exact ⟨s.mkRec a, by simp [State.postMgmtOnly, State.mgmtStore, h3], rfl, rfl, rfl, rfl⟩

@[simp] theorem State.enter_dev (d : DevState) : (s.enter d).dev = d := by
  unfold State.enter; dsimp only; split <;> simp_all

@[simp] theorem State.enterFault_dev : s.enterFault.dev = .fault := by
  unfold State.enterFault; split <;> simp_all

@[simp] theorem State.raiseFA_dev (a : RecArg) (h : s.mainOn = true) : (s.raiseFA a).dev = .fault := by
  simp [State.raiseFA, h]

end Sys2Proof.Machine
end

