-- ==== Sys2Proof/Tests/Slice0.lean ====
section
/-! SUPPORT. Tests: an ill-formed command for each check of WellFormed, a few words and figures worked out by hand from
the manual, and, for the statements, states and operands that meet the hypotheses of each of their clauses
(witness_<statement>; an ending tells the clauses of a long statement apart). -/

namespace Sys2Proof.Tests

open Sys2Proof.Machine

-- One theorem after another: in parallel their threads would ask for more memory than a check allows.
set_option Elab.async false

/-! ### Ill-formed commands are refused -/

/-- A command is refused by name. -/
def refusedUnit (i : Instr) : Bool :=
  match exec i State.reset with | .refused .noSuchUnit => true | _ => false

theorem test_ill_formed_is_refused :
    ∀ i ∈ [Instr.busConverterFault 4, .blockUnderVoltage 8 0, .blockUnderVoltage 0 13, .rampComplete 0 14,
        .rampDeferralEnd 8 0, .uncoreUnderVoltage 30, .currentEstimateFrame 96 0, .endOfPlyPoint 96, .seqAlu 96,
        .groupDispatch 96, .tgNop 96 0, .nbCommandAccept 96, .ceStepAccept 96, .bootStepComplete 0 [],
        .bootStepComplete 11 [], .bundleIdlePattern 131200 .shared [], .bundleIdlePattern 0 (.block 8 0) [],
        .bundleIdlePattern 0 (.block 0 13) [], .linkChange 4 4 false, .linkChange 0 3 false, .bar2Read 0 4097,
        .bar2Read 4095 2, .bar2Write (2 ^ 40) 1 [], .pldmSensorRead (.diode 96), .pldmSensorRead (.hbm 8),
        .pldmSensorRead (.ext 2), .pldmSensorRead (.therm 4), .registerWrite 0x4000000 4 0, .hbmGranWrite 8 false 0,
        .qosMinWrite 3 0 0, .qosMinWrite 0 100 0, .ringCfgWrite (.sq 32) 0, .ringCfgWrite (.cq 16) 0,
        .msixVectorUnmask 128, .sqTailDoorbell 0x10000 0, .hostNop 32, .cqHeadDoorbell 0x10000 0, .promotionReady 8,
        .semaphoreGrant 64, .mcNop 96 0, .mcNop 0 2, .dmaNop 96 0, .dmaNop 0 4, .blockArrayScrub 96 0,
        .blockArrayScrub 0 32, .cacheDieRead 8, .hbmRefresh 8 0, .hbmRefresh 0 32, .nbCommandStart 8, .frameSlot 20,
        .laneLossOfLock 20 0, .laneLossOfLock 0 17, .serviceRetryTimeout 4096],
      i.wf = false ∧ refusedUnit i = true := by
  decide

theorem test_last_units_exist :
    ∀ i ∈ [Instr.busConverterFault 3, .blockUnderVoltage 7 12, .uncoreUnderVoltage 29, .seqAlu 95,
        .bootStepComplete 10 [], .bundleIdlePattern 131199 (.block 7 12) [], .linkChange 3 4 true, .bar2Read 4095 1,
        .bar2Write (2 ^ 40 - 4096) 4096 [], .pldmSensorRead (.diode 95), .registerWrite 0x3FFFFFF 4 0,
        .qosMinWrite 2 99 0, .ringCfgWrite (.cq 15) 0, .msixVectorUnmask 127, .hostNop 31, .promotionReady 7,
        .semaphoreGrant 63, .mcNop 95 1, .dmaNop 95 3, .blockArrayScrub 95 31, .hbmRefresh 7 31, .frameSlot 19,
        .laneLossOfLock 19 16, .serviceRetryTimeout 4095], i.wf = true := by
  decide

theorem witness_StepRunsFrontCommand :
    ({ State.reset with pending := [.hostNop 31, .hostNop 32] } : State).pending = .hostNop 31 :: [.hostNop 32] := by
  rfl

theorem witness_EmptyQueuePassesOneTick : State.reset.pending = [] := by
  rfl

/-! ### Small states -/

/-- The device in a state, with nothing else changed since reset. -/
def inState (d : DevState) : State := { State.reset with dev := d }

/-- A descriptor of 16 dwords. -/
def dws (l : List W32) : List W32 := l ++ List.replicate (16 - l.length) 0

/-- Descriptor d is the only one read, in ring q. -/
def ring (s : State) (q : Nat) (d : List W32) : State :=
  { s with hif := { s.hif with sq := [(q, { en := true, fetched := [d] })] } }

/-- The cache die holds lines 0 to n - 1 whole. -/
def held (s : State) (n : Nat) : State :=
  { s with ccd := { s.ccd with lines := (List.range n).map fun L => (L, { way := 0, valid := 0xF, dirty := 0, use := 1 }) } }

/-- The state with its main supply gone. -/
def stby : State :=
  { inState .standby with supply := { v48 := false, convEnabled := false, bcGood := 0 } }

/-! ### Witnesses: supplies and power -/

theorem witness_SupplySidesStartAndLoss :
    (inState .off).dev = .off ∧
    (stby.dev = .standby ∧ stby.supply.hold = false ∧ stby.supply.lockedOff = false ∧ stby.supply.retryFrom = none ∧
      stby.supply.convEnabled = false) ∧
    (let s : State := { stby with tick := 2000000, supply := { convEnabled := true } }
     s.dev = .standby ∧ s.supply.convEnabled = true ∧ s.tick ≤ s.supply.enabledAt + 2000000 ∧
       s.supply.enabledAt + 2000000 ≤ s.tick) ∧
    (let s : State := { stby with tick := 100000000, supply := { retryFrom := some 0 } }
     s.supply.retryFrom = some 0 ∧ 0 + 100000000 ≤ s.tick) ∧
    (let s : State := { inState .ready with supply := { bcGood := 1 } }
     s.supply.convEnabled = true ∧ goodCount s.supply.bcGood ≤ 1) ∧
    (inState .fault).dev ≠ .off ∧
    (let s : State := { inState .ready with supply := { bcGood := 0xE } }
     3 < 4 ∧ s.supply.convEnabled = true ∧ s.supply.bcGood.getLsbD 3 = true ∧ s.mainOn = true ∧
       goodCount s.supply.bcGood = 3) ∧
    (let s := inState .ready
     s.mainOn = true ∧ s.supply.bcGood.getLsbD 0 = true ∧ goodCount s.supply.bcGood = 4 ∧ s.err.recent = [] ∧
       0 < s.err.ceLimit) ∧
    (let s : State := { inState .ready with supply := { bcGood := 3 } }
     s.supply.convEnabled = true ∧ s.supply.bcGood.getLsbD 0 = true ∧ goodCount s.supply.bcGood = 2) := by
  decide

theorem witness_UnderVoltageEvents :
    (let s := inState .ready
     s.alive = true ∧ s.dev ≠ .boot ∧ s.dev ≠ .recovery ∧ (s.slotPwr 7 11).poweredOff = false ∧
       s.blockAt 7 11 = some 95 ∧ (s.slotPwr 7 11).capped = false ∧ (s.slotPwr 7 11).capDue = false ∧
       s.err.recent = [] ∧ 0 < s.err.ceLimit) ∧
    (let s : State := { inState .running with pwr := { slots := [(0, { capped := true })] } }
     s.running = true ∧ s.err.phase = 0 ∧ (s.slotPwr 0 0).poweredOff = false ∧ s.blockAt 0 0 = some 0 ∧
       (s.slotPwr 0 0).capped = true) ∧
    (let s : State := { inState .running with pwr := { slots := [(103, { capDue := true })] } }
     (s.slotPwr 7 12).capDue = true ∧ s.running = true) ∧
    (let s := inState .ready
     s.alive = true ∧ s.dev ≠ .boot ∧ s.dev ≠ .recovery ∧ (s.slotPwr 7 12).poweredOff = false ∧
       s.blockAt 7 12 = none ∧ slotEntry (s.region 7).slotState 12 = 0xC) ∧
    (let s := inState .ready
     s.alive = true ∧ s.uncorePowered 29 = true ∧ SMap.get false s.pwr.uncoreSpent 29 = false ∧ s.err.recent = [] ∧
       0 < s.err.ceLimit) ∧
    (let s : State := { inState .boot with pwr := { uncoreSpent := [(0, true)] } }
     s.alive = true ∧ s.uncorePowered 0 = true ∧ SMap.get false s.pwr.uncoreSpent 0 = true) := by
  decide

theorem witness_PowerSampleMovesGateAndAllowance :
    ((inState .fault).dev ≠ .off ∧ (inState .fault).alive = false) ∧
    (let s : State := { inState .running with pwr := { overrun := 499, tp := 1 / 4 } }
     s.running = true ∧ s.err.phase = 0 ∧ s.pwr.overrun = 499 ∧ s.powerTarget < 4000 ∧
       min 1 (max (1 / 4) (s.pwr.tp - 1 / 2 * (((4000 : Rat) - s.powerTarget) / s.effCap.1))) = 1 / 4) ∧
    ((∃ r ∈ [7], r < 8) ∧ (inState .ready).pwr.regionsOff = false) ∧
    (inState .ready).alive = true ∧ (inState .ready).effCap.1 ≤ 2600 ∧ (inState .ready).powerTarget < 4000 ∧
      (inState .ready).pwr.refill < 19 ∧ ({ inState .ready with pwr := { refill := 19 } } : State).pwr.refill = 19 := by
  decide +kernel

theorem witness_EstimatesRampsAndClock :
    (let s := inState .ready
     s.slotOf 95 = some (7, 11) ∧ s.alive = true ∧ s.capOf 7 11 < 27001 ∧ 9 * s.capOf 7 11 ≤ 10 * 24300 ∧
       10 * 24299 < 9 * s.capOf 7 11) ∧
    (let s : State := { inState .ready with tick := 3200, pwr := { slots := [(103, { ramping := true })] } }
     s.alive = true ∧ s.dev ≠ .boot ∧ (s.slotPwr 7 12).ramping = true ∧ (s.slotPwr 7 12).rampAt + 3200 ≤ s.tick) ∧
    (let s : State := { inState .boot with tick := 3200, pwr := {
       slots := [(102, { ramping := true })], slotNext := [(7, 12)], tokens := [(7, 2)] } }
     s.dev = .boot ∧ SMap.get 0 s.pwr.slotNext 7 = 11 + 1 ∧ SMap.get 0 s.pwr.tokens 7 ≤ 2 ∧
       (s.slotPwr 7 11).ramping = true ∧ (s.slotPwr 7 11).rampAt + 3200 ≤ s.tick) ∧
    (let s : State := { inState .boot with tick := 3200, pwr := {
       uncoreRamp := [(6, 0), (7, 0)], uncoreNext := 8, uncoreUp := 6 } }
     s.dev = .boot ∧ s.pwr.uncoreRamp = [(6, 0), (7, 0)] ∧ s.pwr.uncoreNext = 8 ∧ s.pwr.uncoreUp = 6 ∧ 0 + 3200 ≤ s.tick) ∧
    (let s : State := { inState .boot with tick := 3200, pwr := { uncoreRamp := [(7, 0)], uncoreNext := 8, uncoreUp := 7 } }
     s.dev = .boot ∧ s.pwr.uncoreRamp = [(7, 0)] ∧ s.pwr.uncoreNext = 8 ∧ s.pwr.uncoreUp = 7 ∧ s.pwr.slotNext = [] ∧
       s.pwr.tokens = [] ∧ 0 + 3200 ≤ s.tick) ∧
    (let s : State := { inState .ready with pwr := { slots := [(103, { deferredAt := some 0 })] } }
     s.alive = true ∧ (s.slotPwr 7 12).deferredAt = some 0 ∧ s.neighbourAtPeak 7 12 = false) ∧
    (let s := inState .running
     s.alive = true ∧ s.pwr.refOk = true) ∧
    (let s : State := { inState .running with pwr := { lockUpper := true, lockLower := true } }
     s.alive = true ∧ s.pwr.refOk = true ∧ s.pwr.lockUpper = true ∧ s.pwr.lockLower = true) := by
  decide

/-! ### Witnesses: start-up, temperature, bundles -/

/-- A record of a firmware image of version 7, whose bytes do not pass the checks. -/
def fw7 : FwInfo :=
  { version := 7, digest := 1, trustModulus := 0, trustExponent := 1, blockFw := [], blockFwCrc := 0, hasMgmt := true
    bytes := [], len := 0 }

/-- BOOT with steps done, and a store that holds it. -/
def booting (done : List Nat) : State :=
  { State.reset with
    flash := { State.reset.flash with store := some fw7 }, sec := { stepsDone := done } }

theorem witness_BootStepsAndStoreWrites_1 :
    ((booting []).dev = .boot ∧ (booting []).bootReady 10 = false) ∧
    ((booting []).dev = .boot ∧ (booting []).sec.stepsDone = []) ∧
    (booting [1]).bootReady 2 = true ∧ (booting [1]).flash.store = some fw7 ∧
    (let s : State := { booting [1] with sec := { stepsDone := [1], strapRcv := true } }
     s.bootReady 2 = true ∧ s.flash.store = some fw7 ∧ s.sec.strapRcv = true) ∧
    (let s : State := { booting [1, 2] with
       pwr := { uncoreUp := 8, slotNext := (List.range 8).map fun r => (r, 13) }
       fab := { ports := [(0, { failedBoot := true, state := 4 })] } }
     s.dev = .boot ∧ s.bootReady 3 = true ∧ (s.port 19).state = 0 ∧ (s.port 19).failedBoot = false) ∧
    (let s : State := { booting [1, 2, 3] with tick := 1000000 }
     s.dev = .boot ∧ s.bootReady 8 = true ∧ BootObs.helperAbsent ∈ [BootObs.helperAbsent]) ∧
    (let s := booting [1, 2, 3, 4, 5, 6, 7, 8, 9]
     s.dev = .boot ∧ s.bootReady 10 = true ∧ (∀ r, r < 8 → ∀ n, n < 13 → s.slotGood r n = true)) := by
  decide +kernel

/-- An image that does not pass fails step 0x02. -/
theorem fw7_fails (floor : W32) : fwCheck fw7.bytes fw7.len floor = .inl 1 := by
  rfl

/-- Any image that passes: the mask ROM's key hashes are not known to the model, so no image can be shown. -/
theorem witness_BootStepsAndStoreWrites_image (f g : FwInfo) (h : fwCheck f.bytes f.len (booting [1]).flash.floor = .inr g) :
    ∃ s : State, s.dev = .boot ∧ s.bootReady 2 = true ∧ s.flash.store = some f ∧
      fwCheck f.bytes f.len s.flash.floor = .inr g ∧ s.sec.strapRcv = false ∧ s.pwr.uncoreRamp = [] ∧
      s.pwr.uncoreNext = 0 :=
  ⟨{ booting [1] with flash := { (booting [1]).flash with store := some f } }, rfl, rfl, rfl, h, rfl, rfl, rfl⟩

/-- A device at the identity step whose identity area holds the hash h. -/
def hashed (h : BitVec 256) : State :=
  { booting [1, 2, 3] with
    tick := 1000000
    flash := { State.reset.flash with identity := { c0 := some (0, { idHash := h, serial := 0 }) } } }

theorem hashed_idHash (h : BitVec 256) : (hashed h).flash.idHash = some h := rfl

theorem hashed_started (h : BitVec 256) : (hashed h).bootStarted 8 = true := rfl

theorem hashed_tick (h : BitVec 256) : (hashed h).tick = 1000000 := rfl

theorem hashed_ready (h : BitVec 256) : (hashed h).bootReady 8 = true := by
  have hw : (hashed h).sec.arrayOffAt + 1000000 ≤ (hashed h).tick := by
    rw [hashed_tick]
    exact Nat.le_refl (0 + 1000000)
  exact Bool.and_eq_true_iff.mpr ⟨hashed_started h, decide_eq_true hw⟩

/-- Any power-up state that gives a key: how it does is the factory's secret (log entry 6). -/
theorem witness_BootStepsAndStoreWrites_key (m : Mem) (p q : Nat) (h : keyOf (Mem.take m arrayBytes) = some (p, q)) :
    ∃ s : State, s.dev = .boot ∧ s.bootReady 8 = true ∧ keyOf (Mem.take m arrayBytes) = some (p, q) ∧
      s.flash.idHash = some (keyHash (p * q) 65537) :=
  ⟨hashed (keyHash (p * q) 65537), rfl, hashed_ready _, h, hashed_idHash _⟩

theorem witness_BootStepsAndStoreWrites_2 :
    (let s : State := { booting [1, 2, 3, 4, 5, 6, 7, 8, 9] with
       sec := { stepsDone := [1, 2, 3, 4, 5, 6, 7, 8, 9], slotFailed := [(102, true)] } }
     s.bootReady 10 = true ∧ s.slotGood 7 11 = false ∧
       (∀ q, q < 8 → ∀ m, m < 13 → (q, m) ≠ (7, 11) → s.slotGood q m = true)) ∧
    (let s : State := { booting [1, 2, 3, 4, 5, 6, 7, 8, 9] with
       sec := { stepsDone := [1, 2, 3, 4, 5, 6, 7, 8, 9], slotFailed := [(0, true), (12, true)] } }
     s.bootReady 10 = true ∧ s.slotGood 0 0 = false ∧ s.slotGood 0 12 = false) ∧
    (let s : State := { booting [] with tick := 500000000 }
     s.dev = .boot ∧ s.sec.bootAt + 500000000 ≤ s.tick) ∧
    (let s : State := { inState .ready with sec := { heldReset := true } }
     s.mainOn = true ∧ s.sec.heldReset = true ∧ s.sec.staging = none ∧ s.inEndgame = false) := by
  decide +kernel

theorem witness_BootStepsAndStoreWrites_3 :
    (let s : State := { inState .ready with sec := { staging := some (fw7, some 3) }
                                            hif := { active := [{ uid := 3, sq := 0, dws := [], st := .running }] } }
     s.sec.staging = some (fw7, some 3) ∧ s.hif.active ≠ []) ∧
    (let s : State := { inState .ready with sec := { staging := some (fw7, none) } }
     s.sec.staging = some (fw7, none)) :=
  ⟨⟨rfl, by decide⟩, rfl⟩

theorem witness_HousekeepingRound :
    (let s : State := { inState .ready with sec := { stepsDone := [1] } }
     let r : Readings := { diode := [], hbm := [none, some 1521, some 1361, some 1520], ext := [], therm := [] }
     s.mainOn = true ∧ 1 ∈ s.sec.stepsDone ∧ s.thm.wasCrit = false ∧ (rdChecked r).hbm.getD 0 none = none ∧
       (rdChecked r).hbm.getD 1 none = some 1521 ∧ (s.stack 1).band ≤ 2 ∧ (rdChecked r).hbm.getD 2 none = some 1361 ∧
       (rdChecked r).hbm.getD 3 none = some 1520 ∧ (s.stack 3).band = 0) ∧
    ([some (-640), some 2400, some 2401] : List (Option Int))[1]? = some (some 2400) ∧ stby.dev = .standby := by
  decide +kernel

/-- Readings for the gate, the estimate and its comparison with the group's own diodes. -/
theorem witness_HousekeepingRound_gates :
    (let r : Readings := { diode := (List.range 96).map fun _ => some 1000, hbm := [some 1000], ext := [], therm := [] }
     rdD (rdChecked r) 72 = some 1000 ∧ hottest (rdValids (rdChecked r) ((List.range 4).map fun k => k)) = some 1000 ∧
       rdD (rdChecked r) 88 = some 1000 ∧ hottest (rdValids (rdChecked r) (ownDiodes 0)) = some 1000 ∧
       (1000 : Rat) ∈ rdHbm (rdChecked r)) ∧
    (let r : Readings := { diode := [], hbm := [], ext := [], therm := [] }
     rdD (rdChecked r) 79 = none ∧ hottest (rdValids (rdChecked r) (ownDiodes 7)) = none) ∧
    (let g : GroupEst := { governs := true, underRounds := 9 }
     let s : State := { inState .ready with thm := { groups := [(0, g)] } }
     (SMap.get {} s.thm.groups 0).governs = true ∧ 9 ≤ (SMap.get {} s.thm.groups 0).underRounds) := by
  decide +kernel

/-- A trip from two rounds, one from a single reading, and two critical rounds. -/
theorem witness_HousekeepingRound_trips :
    (let s : State := { inState .running with sec := { stepsDone := [1] }, thm := { wasTrip := true } }
     let r : Readings := { diode := [some 1840], hbm := [], ext := [], therm := [] }
     s.mainOn = true ∧ 1 ∈ s.sec.stepsDone ∧ s.thm.wasCrit = false ∧ rdD (rdChecked r) 0 = some 1840 ∧
       s.thm.wasTrip = true) ∧
    (let s : State := { inState .joined with sec := { stepsDone := [1] }, thm := { wasCrit := true } }
     let r : Readings := { diode := [some 2000], hbm := [], ext := [], therm := [] }
     s.mainOn = true ∧ 1 ∈ s.sec.stepsDone ∧ s.err.phase = 0 ∧ s.thm.wasCrit = true ∧
       rdD (rdChecked r) 0 = some 2000) := by
  decide +kernel

theorem witness_BundleSparing :
    ((inState .ready).bundlesUp = true ∧ okLink (.block 7 12) = true ∧
      SMap.get {} (inState .ready).ccd.bundles 131199 = {}) ∧
    (let s : State := { inState .running with ccd := { bundles := [(0, { suspect := [31] })] } }
     s.bundlesUp = true ∧ okLink .shared = true ∧ SMap.get {} s.ccd.bundles 0 = { suspect := [31] }) ∧
    (let s : State := { inState .ready with ccd := { bundles := [(131199, { errs := [(31, 0), (31, 0)] })] } }
     s.bundlesUp = true ∧ SMap.get {} s.ccd.bundles 131199 = { errs := [(31, 0), (31, 0)] } ∧ s.tick < 0 + 1000000) ∧
    (let s : State := { inState .ready with tick := 1000000, ccd := { bundles := [(0, { errs := [(0, 1), (0, 0)] })] } }
     s.bundlesUp = true ∧ SMap.get {} s.ccd.bundles 0 = { errs := [(0, 1), (0, 0)] } ∧ ¬ s.tick < 0 + 1000000) ∧
    (let w : TapWindow := { bundle := 131199, link := .shared, conn := 31, lo := 104, hi := 127 }
     24 ≤ w.hi + 1 - w.lo ∧ w.lo ≤ w.hi ∧ w.bundle < 131200) ∧
    (let w : TapWindow := { bundle := 0, link := .block 0 0, conn := 32, lo := 0, hi := 22 }
     let s : State := { inState .ready with ccd := { retuning := true, sweeping := [(0, .block 0 0)] } }
     w.hi + 1 - w.lo < 24 ∧ (w.bundle, w.link) ∈ s.ccd.sweeping ∧ SMap.get {} s.ccd.bundles w.bundle = {}) ∧
    (let s : State := { inState .boot with sec := { stepsDone := [1, 2, 3] }, ccd := { retuning := true } }
     s.bundlesUp = true ∧ s.ccd.retuning = true) := by
  decide

/-! ### Witnesses: the host interface -/

theorem witness_SetupRegistersAreReadyOnly :
    ((inState .ready).dev = .ready ∧ (inState .ready).setupHeld = false) ∧
    ((inState .fault).mainOn = true ∧ (inState .fault).dev ≠ .ready) ∧
    (let s := inState .drained
     s.dev ∈ [DevState.ready, .joined, .running, .drained] ∧ s.pwr.capW < 4096 ∧ s.thm.tComp < 256 ∧ s.thm.tHbm < 256 ∧
       s.thm.slope < 32 ∧ s.err.ceLimit < 16 ∧ s.ce.resTol < 32) := by
  decide

theorem witness_SpecialRegisterWrites :
    ((inState .running).mainOn = true ∧ (inState .running).sec.staging = none ∧ (inState .running).inEndgame = false) ∧
    (let s : State := { inState .running with err := { phase := 4 } }
     s.mainOn = true ∧ s.inEndgame = true) ∧
    ((inState .boot).mainOn = true ∧ (0xA55B : W32) ≠ 0xA55A) ∧
    ((inState .ready).dev = .ready ∧ (inState .ready).setupHeld = false ∧ (inState .ready).pim.heldGran = []) ∧
    (let s := inState .ready
     field (11 : W32) 10 0 ≤ 1024 ∧ s.qos.sumWith 2 99 (field (64 : W32) 10 0) = 1024 ∧
       1024 < s.qos.sumWith 0 0 (field (11 : W32) 10 0) ∧ s.qos.sumWith 2 99 (field (63 : W32) 10 0) ≤ 1024) ∧
    ((SMap.get {} (inState .ready).hif.msix 127).mask = true) ∧
    (∀ i, i < 64 → ((inState .ready).stack 7).openGran.getLsbD i = true → (0 : W64).getLsbD i = true) ∧
    (let s := ring (inState .ready) 31 []
     s.mainOn = true ∧ (s.sq 31).en = true ∧ (0xF : W32).getLsbD 0 = true ∧ max 6 (field (0xF : W32) 4 1) ≠ (s.sq 31).size) ∧
    ((inState .ready).sq 31).en = false := by
  decide +kernel

theorem witness_HeldRegisterWrites :
    (let s : State := { inState .ready with hif := { heldWrites := [(0x3FFFFFC, 4, 1)] } }
     s.ctrlHolds = false ∧ s.dev = .ready ∧ s.hif.heldWrites = [(0x3FFFFFC, 4, 1)]) ∧
    (let s : State := { inState .joined with hif := { heldWrites := [(0x2000000, 4, 1)] } }
     s.ctrlHolds = false ∧ s.dev ≠ .ready ∧ s.hif.heldWrites = [(0x2000000, 4, 1)]) ∧
    (let s : State := { inState .ready with hif := { active := [{ uid := 0, sq := 0, dws := dws [8], st := .running }] } }
     s.ctrlHolds = true ∧ s.dev = .ready) ∧
    (let s : State := { inState .ready with hif := { heldWrites := [(0x3FFFFFC, 4, 1)] } }
     s.dev = .ready ∧ s.hif.heldWrites ≠ []) ∧
    (∀ v : W32, let s : State := { inState .ready with hif := { heldWrites := [(0x2000000, 4, v.setWidth 64)] } }
     s.ctrlHolds = false ∧ s.dev = .ready ∧ s.hif.heldWrites = [(0x2000000, 4, v.setWidth 64)]) ∧
    (let s : State := { inState .ready with hif := { heldWrites := [(0x2000000, 4, 1), (0x3FFFFFC, 4, 1)] } }
     s.ctrlHolds = false ∧ s.dev = .ready ∧ s.hif.heldWrites = (0x2000000, 4, 1) :: [(0x3FFFFFC, 4, 1)] ∧
       ({ s with hif := { s.hif with heldWrites := [] } } : State).ctrlHolds = false) := by
  refine ⟨by decide, by decide, by decide, by decide, fun v => ⟨rfl, rfl, rfl⟩, by decide⟩

theorem witness_HostInterfaceResetAndFetches :
    (inState .boot).mainOn = true ∧
    (1 ∉ (inState .boot).sec.stepsDone ∧ stby.mainOn = false ∧ (inState .boot).supply.perst = false) ∧
    (let s : State := { inState .ready with supply := { perst := true }, sec := { stepsDone := [1] } }
     s.mainOn = true ∧ 1 ∈ s.sec.stepsDone) ∧
    (let s : State := { inState .ready with hif := { sq := [(31, { en := true, tail := 1 })] } }
     s.served = true ∧ (s.sq 31).en = true ∧ (s.sq 31).head ≠ (s.sq 31).tail ∧ (s.sq 31).fetched.length < 16 ∧
       (dws []).length = 16) ∧
    (let a : Active := { uid := 5, sq := 0, dws := dws [0x0F01], st := .done 0xFF 0 0 0 }
     let s : State := { inState .ready with hif := { active := [a], cq := [(15, { en := true })] } }
     s.desc a.uid = some a ∧ a.st = .done 0xFF 0 0 0 ∧ bitN (dwN a.dws 0) 12 = false ∧
       bitsN (dwN a.dws 0) 11 8 = 15 ∧ (s.cq 15).en = true ∧ (s.cq 15).room = true ∧ (s.cq 15).waiting = []) ∧
    (let s : State := { inState .ready with tick := 100, hif := { cq := [(15, { ien := true, unsignalled := 1, delay := 1 })] } }
     s.mainOn = true ∧ (s.cq 15).ien = true ∧ 0 < (s.cq 15).unsignalled ∧
       (s.cq 15).firstAt + 100 * (s.cq 15).delay ≤ s.tick) := by
  decide

theorem witness_DoorbellsAndBar2 :
    (let s : State := { inState .ready with hif := { sq := [(31, { en := true })], cq := [(15, { en := true })]
                                                     eq := { en := true } } }
     s.mainOn = true ∧ (s.sq 31).en = true ∧ (63 : W32).toNat < 2 ^ (s.sq 31).size ∧ (s.cq 15).en = true ∧
       (s.cq 15).waiting = [] ∧ s.hif.eq.en = true ∧ ¬ (64 : W32).toNat < 2 ^ s.hif.eq.size) ∧
    (okTlp memBytes 4096 = true ∧ (inState .boot).mainOn = true ∧ memBytes ≤ memBytes) ∧
    ((0xFFFF : Nat) < 0x10000 ∧ 0xFFFF % 64 ≠ 0 ∧ (0xC00 : Nat) < 0xC40) ∧
    ((inState .drained).hif.bar2Open.length < 32 ∧ (inState .drained).hif.bar2Wait = []) ∧
    (let s : State := { inState .drained with hif := { bar2Open := (List.range 32).map fun k => (k, 1) } }
     s.served = true ∧ 32 ≤ s.hif.bar2Open.length) ∧
    (okTlp (memBytes - 256) 256 = true ∧ (inState .drained).served = true ∧ memBytes - 256 + 256 ≤ memBytes ∧
      (memBytes - 256) % 256 + 256 ≤ 256) ∧
    (okTlp 0 1 = true ∧ (inState .running).running = true ∧ (inState .ready).running = false) := by
  decide
/-- Bytes of a number from address a on, as listed memory. -/
def bytesAt (a n v : Nat) : Mem :=
  (List.range n).filterMap fun i => if v / 256 ^ i % 256 = 0 then none else some (a + i, BitVec.ofNat 8 (v / 256 ^ i))

/-- A licence (Table 15.6) of id 9, sequence 1 and min_fw 5 for the identity hash 0. Its signature is the PSS encoding of
its own digest with a salt of zeros: what the public exponent 1 opens. -/
def lic1 : Mem :=
  bytesAt 0 16 0x0000000100000009020000014C434941 ++ bytesAt 0x30 8 0x0000000500000001 ++
  bytesAt 0x80 384 (
    0xc39e31fc0fe76169327b0c87ad7f495c14317d11b313a3b7eeb053d86693bdf2a50e2fdcf0e3a481451d26ae57a4431f20bc +
    0xb1fc687edcfce9228d1600c5bf22bde92e0f54cf23e73a8c7f057b82daa20fe291207980113b91614aa5c08d5330a7ba1283 * 2 ^ 400 +
    0xdd88d2af7d7509eb71a5ad0a0903765801d067f63b51fe29cda5c26e59c7716fe2374aea0fdede9be06021f349dcab10e87d * 2 ^ 800 +
    0xad07c519f8f8d2fc5212d08f830c03f74ad46bce79f52f44cfcb394b81d600d7277bb55dbdbe7ea980f6379b01447c00db18 * 2 ^ 1200 +
    0x9725b9cab3748987715f24732134f32df03b13583b19c7a27f01e7753e96939317bf24d1d454f9a7d58301ead185aca6b9ac * 2 ^ 1600 +
    0xbb72f3f71c01f9c97d04115b7298f2914fc06b8183e82c199bf979659cb892e5fe5ebf00a345710e2f181d471ff008b0a1e5 * 2 ^ 2000 +
    0x60bc66e92b5f6397d636b528cc5e2bf804ab0bf56f11829ea98bfaf04004f931c70dc32339fca840434b028e97a402c8000e * 2 ^ 2400 +
    0x5b6158823475ee52fa6500fe056aa57062c7c5815f6d935897a6317c310e195628b * 2 ^ 2800)

/-! ### Witnesses: descriptors -/

/-- A descriptor that is not permitted, or that starts, in ring q of a device in state d. -/
def at_ (d : DevState) (q : Nat) (ws : List W32) : State := ring (held (inState d) 2) q (dws ws)

theorem held_lines (s : State) (h0 : s.ccd.words = []) (n A m : Nat) (hn : n ≤ 2) (h : A + m ≤ 1024 * n) :
    HeldRange (held s n) A m := by
  refine ⟨by simp [held, h0], fun L _ hL => ?_⟩
  have hL : L < n := by omega
  have : ∀ n, n ≤ 2 → ∀ L, L < n → ((List.range n).map fun L => (L, ({ way := 0, valid := 0xF, dirty := 0, use := 1 } : Line))).lookup L
      = some { way := 0, valid := 0xF, dirty := 0, use := 1 } := by decide
  exact ⟨_, this n hn L hL, rfl⟩

/-- The range of a starting mover is held. -/
theorem held_at (d : DevState) (q : Nat) (ws : List W32) (A m : Nat) (h : A + m ≤ 2048) :
    HeldRange (at_ d q ws) A m :=
  held_lines (inState d) rfl 2 A m (by omega) (by omega)

theorem witness_FailingChecksEndDescriptors :
    (let s := at_ .ready 31 [0xFF]
     s.pickRing = some 31 ∧ s.startable 31 = some (dws [0xFF]) ∧ dwWellFormed (dws [0xFF]) = false) ∧
    (let s := at_ .ready 0 [0x20]
     s.pickRing = some 0 ∧ s.startable 0 = some (dws [0x20]) ∧ dwWellFormed (dws [0x20]) = true ∧ s.hif.expert = false) ∧
    (let s := at_ .ready 0 [0x0A]
     s.pickRing = some 0 ∧ s.startable 0 = some (dws [0x0A]) ∧ dwWellFormed (dws [0x0A]) = true ∧
       s.dwPermitted (dws [0x0A]) = false) := by
  decide +kernel

/-- An image with one input range at 0 and one output range at 1,024, each of 1,024 bytes; its own section is given. -/
def image (own : Section) : Image :=
  { imageId := 0x77, plyLen := 1024, slack := 4, checkDiam := 0, hopBudget := 1, dims := [1, 1, 1, 1], nActive := 1
    nStandby := 0, timeMaster := 0, journalLines := 0, rollbackAllow := 13622, takeoverAllow := 0
    xchg := [{ offset := 0, len := 1024, output := false }, { offset := 1024, len := 1024, output := true }]
    ldev := 0, own := own, served := [], digest := 0 }

/-- A section with port functions and transfers. -/
def member (fn : List Nat) (xs : List Xfer) : Section :=
  { ldev := 0, standby := false, coords := [0, 0, 0, 0], timeUp := 0xFF, portFn := fn, portPartner := List.replicate 20 1
    standbyA := 0xFFFFFFFF, standbyB := 0xFFFFFFFF
    code := List.replicate 96 { baseOff := 0, baseLen := 4, entry := 0x4000, ovlOff := 0, ovlCount := 0 }
    blob := [(3, 0xFC)], blobLen := 4, xfers := xs, loads := [] }

/-- The state with that image loaded. -/
def loaded (s : State) : State := { s with image := some (image (member (List.replicate 20 0xFF) [])) }

theorem witness_DataMovers :
    Starts (at_ .ready 31 [2, 0, 0, 0, 1, 0, 2047]) 31 (dws [2, 0, 0, 0, 1, 0, 2047]) ∧
    Starts (loaded (at_ .running 0 [2, 0, 0, 0, 0, 0, 1024])) 0 (dws [2, 0, 0, 0, 0, 0, 1024]) ∧
    Starts (at_ .ready 0 [3, 0, 0, 0, 0, 0, 1]) 0 (dws [3, 0, 0, 0, 0, 0, 1]) ∧
    (Starts (loaded (at_ .running 0 [3, 0, 0, 0, 1023, 0, 2])) 0 (dws [3, 0, 0, 0, 1023, 0, 2]) ∧
      (loaded (at_ .running 0 [])).meetsOutput 1023 2 = true ∧ (loaded (at_ .running 0 [])).meetsOutput 1023 1 = false) ∧
    Starts (at_ .ready 0 [4, 0, 0, 0, 1, 0, 1024]) 0 (dws [4, 0, 0, 0, 1, 0, 1024]) ∧
    Starts (at_ .ready 0 [5, 0, 0, 7, 1024, 0, 1024]) 0 (dws [5, 0, 0, 7, 1024, 0, 1024]) ∧
    (Starts (at_ .ready 0 [5, 0, 0x5F01, 7, 0x1FFC00, 0, 1024]) 0 (dws [5, 0, 0x5F01, 7, 0x1FFC00, 0, 1024]) ∧
      ((at_ .ready 0 []).slotOf 95).isSome = true ∧ 0x1FFC00 + 1024 ≤ baBytes) ∧
    Starts (at_ .drained 0 [1]) 0 (dws [1]) ∧
    (∀ d q ws, ∀ e ∈ (at_ d q ws).ccd.words, e.2.poison = false) := by
  unfold Starts
  refine ⟨?_, ?_, ?_, ?_, ?_, ?_, ?_, ?_, fun _ _ _ e h => by cases h⟩ <;> decide +kernel

/-- Line L has its words in HBM. -/
def stored (s : State) (L : Nat) : State :=
  { s with hbmWords := RMap.fill {} s.hbmWords ((place L).store * 32) 32 { mark := .data } }

theorem witness_DataMovers_absent :
    (∀ ws ∈ [[2, 0, 0, 0, 1024, 0, 1024], [5, 0, 0, 7, 1024, 0, 1024], [3, 0, 0, 0, 1024, 0, 1024]],
      let s := ring (stored (inState .ready) 1) 0 (dws ws)
      Starts s 0 (dws ws) ∧ dwLen (dws ws) = 1024 ∧ Absent s 1 ∧ s.running = false ∧ dwQ (dws ws) 4 = 1 * 1024) ∧
    (let d : List W32 := dws [4, 0, 1024, 0, 0, 0, 1024]
     let s := ring (held (stored (inState .ready) 1) 1) 0 d
     Starts s 0 d ∧ dwLen d = 1024 ∧ Absent s 1 ∧ dwDir d = 0 ∧ dwQ d 2 = 1 * 1024 ∧ dwQ d 4 = 0) ∧
    HeldRange (held (stored (inState .ready) 1) 1) 0 1024 := by
  refine ⟨?_, ?_, held_lines _ rfl 1 _ _ (by omega) (by omega)⟩
  all_goals unfold Starts Absent
  all_goals decide +kernel

theorem witness_DataMovers_blocks :
    let d : List W32 := dws [5, 0, 0xFF01, 7, 0x1FFC00, 0, 1024]
    Starts (at_ .ready 0 d) 0 d ∧ bitN (dwN d 2) 0 = true ∧ bitsN (dwN d 2) 15 8 = 0xFF ∧ dwQ d 4 + dwLen d ≤ baBytes ∧
      ((at_ .ready 0 d).slotOf 95).isSome = true := by
  unfold Starts
  decide +kernel

theorem witness_CacheRangeOperations :
    (∀ k, k < 7 → Starts (at_ .ready 0 [16, 0, BitVec.ofNat 32 k, 0, 0, 0, 2048]) 0
      (dws [16, 0, BitVec.ofNat 32 k, 0, 0, 0, 2048])) ∧
    (∀ L, L < 2 → ∃ l, (at_ .ready 0 []).line L = some l ∧ l.way < (at_ .ready 0 []).ccd.pinMax) ∧
    (let s : State := { inState .ready with ccd := { lines := [(1, { way := 0, valid := 0xF, dirty := 8, use := 1 })] } }
     Starts (ring s 0 (dws [16, 0, 1, 0, 1024, 0, 1024])) 0 (dws [16, 0, 1, 0, 1024, 0, 1024]) ∧
       s.line 1 = some { way := 0, valid := 0xF, dirty := 8, use := 1 } ∧
       (s.chan (place 1).stk (place 1).ch).state ≠ 2 ∧ (s.serveHost (dws [16, 0, 1, 0, 1024, 0, 1024])).placeFree (place 1) true = true ∧
       (s.chan (place 1).stk (place 1).ch).crcDue = 0 ∧ (8 : BitVec 4).getLsbD (1023 / 256) = true) := by
  unfold Starts
  refine ⟨by decide +kernel, ?_, by decide +kernel⟩
  intro L h
  obtain rfl | rfl : L = 0 ∨ L = 1 := by omega
  · exact ⟨_, rfl, by decide⟩
  · exact ⟨_, rfl, by decide⟩

theorem witness_CacheRangeOperations_absent :
    let d : List W32 := dws [16, 0, 0, 0, 1024, 0, 1024]
    Starts (ring (stored (inState .ready) 1) 0 d) 0 d ∧ Absent (ring (stored (inState .ready) 1) 0 d) 1 := by
  unfold Starts Absent
  decide +kernel

theorem witness_DomainDescriptors :
    (Starts (at_ .ready 0 [8, 0, 0, 0, 0, 0, 0]) 0 (dws [8, 0, 0, 0, 0, 0, 0]) ∧
      (match imgCheck ((at_ .ready 0 []).loadEnv 0) (Mem.take [] 0) 0 with | .inl r => r | _ => 0) = 1) ∧
    (Starts (loaded (at_ .ready 0 [9])) 0 (dws [9]) ∧ (image (member [] [])).own.needsMirror = false ∧
      (∀ p, p < 20 → ((at_ .ready 0 []).port p).isUp = false)) ∧
    Starts (at_ .joined 0 [9, 0, 1]) 0 (dws [9, 0, 1]) ∧
    (Starts (at_ .joined 0 [0x0A]) 0 (dws [0x0A]) ∧ (at_ .joined 0 []).hif.pendTimeLost = false ∧
      (at_ .joined 0 []).hif.pendUnrecoverable = false) ∧
    (let s : State := at_ .joined 0 [0x0A]
     let s : State := { s with hif := { s.hif with pendTimeLost := true } }
     Starts s 0 (dws [0x0A]) ∧ s.hif.pendTimeLost = true) ∧
    (Starts (at_ .running 0 [0x0B]) 0 (dws [0x0B]) ∧ (at_ .running 0 []).sch.arming = none) ∧
    (Starts (at_ .ready 0 [0x1A, 0, 1]) 0 (dws [0x1A, 0, 1]) ∧ Starts (at_ .ready 0 [0x1A, 0, 3]) 0 (dws [0x1A, 0, 3])) := by
  unfold Starts
  decide +kernel

def image1_0 : Mem :=
  [(0, 73), (1, 80), (2, 76), (3, 89), (4, 1), (7, 2), (8, 68), (9, 13), (16, 119), (25, 4), (28, 4), (30, 1),
   (32, 1), (33, 1), (34, 1), (35, 1), (36, 1), (52, 54), (53, 53), (65, 2), (72, 1), (76, 64), (80, 71), (81, 196),
   (82, 144), (83, 30), (84, 14), (85, 122), (86, 39), (87, 2), (88, 188), (89, 193), (90, 212), (91, 155),
   (92, 106), (93, 212), (94, 183), (95, 86), (96, 165), (97, 5), (98, 90), (99, 233), (100, 199), (101, 37),
   (102, 83), (103, 5), (104, 2), (105, 155)]

def image1_1 : Mem :=
  [(106, 234), (107, 241), (108, 201), (109, 254), (110, 31), (111, 136), (112, 64), (113, 2), (128, 227),
   (129, 176), (130, 196), (131, 66), (132, 152), (133, 252), (134, 28), (135, 20), (136, 154), (137, 251),
   (138, 244), (139, 200), (140, 153), (141, 111), (142, 185), (143, 36), (144, 39), (145, 174), (146, 65),
   (147, 228), (148, 100), (149, 155), (150, 147), (151, 76), (152, 164), (153, 149), (154, 153), (155, 27),
   (156, 120), (157, 82), (158, 184), (159, 85), (424, 68), (425, 9), (520, 64), (521, 2), (528, 4), (529, 7),
   (544, 112), (545, 167)]

def image1_2 : Mem :=
  [(546, 225), (547, 129), (548, 28), (549, 54), (550, 210), (551, 93), (552, 170), (553, 38), (554, 224),
   (555, 178), (556, 111), (557, 44), (558, 174), (559, 164), (560, 70), (561, 198), (562, 243), (563, 251),
   (564, 215), (565, 166), (566, 221), (567, 75), (568, 166), (569, 75), (570, 97), (571, 2), (572, 235), (573, 137),
   (574, 167), (575, 151), (588, 255), (592, 255), (593, 255), (594, 255), (595, 255), (596, 255), (597, 255),
   (598, 255), (599, 255), (600, 255), (601, 255), (602, 255), (603, 255), (604, 255), (605, 255), (606, 255),
   (607, 255), (608, 255)]

def image1_3 : Mem :=
  [(609, 255), (610, 255), (611, 255), (705, 1), (712, 4), (721, 1), (737, 1)]

/-- The unsigned image of a domain of one member: every block has four bytes of code, nothing is transferred or
loaded. -/
def image1 : Mem :=
  image1_0 ++ image1_1 ++ image1_2 ++ image1_3 ++
  ((List.range 96).flatMap fun b => [(0x344 + 16 * b, 4), (0x347 + 16 * b, 0x40)]) ++ [(2371, 252)]

/-- The checks of Table 3.8 one by one: an image that meets each of them is taken, with the sections it wants. -/
theorem imgCheck_passes (v : LoadEnv) (m : Mem) (len : Nat) (want : List Nat) (own : Section) (served : List Section)
    (h1 : imgFormat m len = true) (hw : (if dirHas m v.ldev then secWanted m len v.ldev else []) = want)
    (h2 : imgReserved m len want = true) (h3 : ¬ v.fw < imgF m 0x3C 4) (h4 : imgSigned m v.owner = true)
    (h5 : imgRanges m = true) (h6 : ¬ domainLimit v.features < imgF m 0x24 4 + imgF m 0x28 4)
    (h7 : ¬ imgF m 0x18 4 < 150 + imgF m 0x1D 1 * imgF m 0x1E 2 + 256) (h8 : imgAllow m v.area = true)
    (h9 : imgDigests m len want = true) (hn : want.isEmpty = false) (h10 : imgTables m len want v.licensed = true)
    (hs : secsOf m len want = own :: served) (h11 : imgFits (secsOf m len want) = true) :
    ∃ im, imgCheck v m len = .inr im ∧ im.own = own ∧ im.served = served := by
  rw [hs] at h11
  simp only [imgCheck, h1, hw, h2, h3, h4, h5, h6, h7, h8, h9, hn, h10, hs, h11, Bool.not_true, Bool.or_self, if_false,
    Bool.false_eq_true]
  exact ⟨_, rfl, rfl, rfl⟩

/-- Table checks of one section, its code table by rows. -/
theorem imgTables_one {m x : Mem} {len n k : Nat} {lic : Nat → Bool} (hd : dirHas m k = true)
    (hx : secBytes m len k = some (x, n))
    (h1 : (imgF x 0 4 == k && imgF x 4 4 == imgF m (dirAt m k + 4) 1 && decide (imgF m (dirAt m k + 4) 1 ≤ 1) &&
      decide (imgF x 0x80 8 + 1536 + imgF x 0x88 4 ≤ n)) = true)
    (hc : secCounts x = (0, 0)) (h2 : (decide (imgF x 0x90 8 ≤ n) && decide (imgF x 0xA0 8 ≤ n)) = true)
    (hp : portsOk (secOf x) lic = true) (hr : ∀ b < 96, codeRowOk (imgF x 0x88 4) (codeRow x b) = true) :
    imgTables m len [k] lic = true := by
  have hr : (secOf x).code.all (codeRowOk (secOf x).blobLen) = true := by
    simpa [secOf] using hr
  simp only [Bool.and_eq_true] at h1 h2
  simp [imgTables, hd, hx, secOk, hc, h1, h2, hp, hr]

theorem image1_take : Mem.take image1 3396 = image1 := by decide +kernel

/-- The section of its one member. -/
def section1 : Mem := Mem.slice image1 576 1796

theorem section1_at : secBytes image1 3396 0 = some (section1, 1796) := by decide +kernel

theorem section1_rows_1 : ∀ b < 32, codeRowOk (imgF section1 0x88 4) (codeRow section1 b) = true := by decide +kernel

theorem section1_rows_2 : ∀ b < 32, codeRowOk (imgF section1 0x88 4) (codeRow section1 (32 + b)) = true := by
  decide +kernel

theorem section1_rows_3 : ∀ b < 32, codeRowOk (imgF section1 0x88 4) (codeRow section1 (64 + b)) = true := by
  decide +kernel

theorem section1_rows (b : Nat) (h : b < 96) : codeRowOk (imgF section1 0x88 4) (codeRow section1 b) = true := by
  by_cases h1 : b < 32
  · exact section1_rows_1 b h1
  by_cases h2 : b < 64
  · have := section1_rows_2 (b - 32) (by omega)
    rwa [show 32 + (b - 32) = b by omega] at this
  · have := section1_rows_3 (b - 64) (by omega)
    rwa [show 64 + (b - 64) = b by omega] at this

theorem section1_none : (secOf section1).xfers = [] ∧ (secOf section1).loads = [] ∧ (secOf section1).blobLen = 4 := by
  decide +kernel

theorem image1_tables (lic : Nat → Bool) (hp : portsOk (secOf section1) lic = true) :
    imgTables image1 3396 [0] lic = true :=
  imgTables_one (by decide +kernel) section1_at (by decide +kernel) (by decide +kernel) (by decide +kernel) hp section1_rows

theorem image1_format : imgFormat image1 3396 = true := by decide +kernel

theorem image1_wants : (if dirHas image1 0 then secWanted image1 3396 0 else []) = [0] := by decide +kernel

theorem image1_reserved : imgReserved image1 3396 [0] = true := by decide +kernel

theorem image1_digests : imgDigests image1 3396 [0] = true := by decide +kernel

theorem image1_ranges : imgRanges image1 = true ∧ imgSigned image1 none = true ∧
    imgAllow image1 (journalArea 2) = true ∧ imgF image1 0x3C 4 = 0 ∧ imgF image1 0x24 4 + imgF image1 0x28 4 = 1 ∧
    ¬ imgF image1 0x18 4 < 150 + imgF image1 0x1D 1 * imgF image1 0x1E 2 + 256 := by decide +kernel

theorem image1_passes (v : LoadEnv) (h0 : v.ldev = 0) (h1 : v.owner = none) (h2 : v.area = journalArea 2)
    (hp : portsOk (secOf section1) v.licensed = true) :
    ∃ im, imgCheck v image1 3396 = .inr im ∧ im.own = secOf section1 ∧ im.served = [] := by
  obtain ⟨hr, hs, ha, hf, hd, ht⟩ := image1_ranges
  have hsec : secsOf image1 3396 [0] = [secOf section1] := by simp [secsOf, section1_at]
  refine imgCheck_passes v image1 3396 [0] (secOf section1) [] image1_format (by rw [h0]; exact image1_wants) image1_reserved
    (by omega) (by rw [h1]; exact hs) hr ?_ ht (by rw [h2]; exact ha) image1_digests rfl (image1_tables v.licensed hp) hsec ?_
  · rw [hd]
    unfold domainLimit
    split <;> decide
  · rw [hsec]
    simp [imgFits, secInside, section1_none]

/-- An IMAGE_LOAD of that image for logical device 0, and a device it starts on. -/
def imageLoad1 : List W32 := dws [8, 0, 0, 0, 3396]

theorem imageLoad1_starts : Starts (ring (inState .ready) 0 imageLoad1) 0 imageLoad1 := by
  unfold Starts
  decide +kernel

theorem imageLoad1_ports : portsOk (secOf section1) ((ring (inState .ready) 0 imageLoad1).loadEnv 0).licensed = true := by
  decide +kernel

theorem imageLoad1_waits (s : State) (h : s.memCalm = true) (d : List W32) (m : Mem) :
    s.imageWaits d (.data m) = false ∧ ∀ n, s.imageWaits d (.cut m n) = false := by
  simp [State.imageWaits, h]

theorem imageLoad1_calm : (ring (inState .ready) 0 imageLoad1).memCalm = true := by decide

theorem imageLoad1_channels (k c : Nat) : ((ring (inState .ready) 0 imageLoad1).chan k c).state ≠ 2 := by
  simp [ring, inState, State.reset, State.chan, State.stack, SMap.get]

theorem witness_DomainDescriptors_load :
    ∃ (s : State) (d : List W32) (m : Mem) (im : Image), Starts s 0 d ∧ dwOp d = 0x08 ∧
      imgCheck (s.loadEnv (bitsN (dwN d 6) 14 0)) (Mem.take m (dwQ d 4)) (dwQ d 4) = .inr im ∧
      (∀ x ∈ im.own :: im.served, ∀ l ∈ x.loads, l.kind ≠ 1) ∧ (∀ k c, (s.chan k c).state ≠ 2) ∧
      s.imageWaits d (.data m) = false ∧ ∀ n, s.imageWaits d (.cut m n) = false := by
  obtain ⟨im, hi, ho, hv⟩ := image1_passes ((ring (inState .ready) 0 imageLoad1).loadEnv 0) rfl rfl rfl imageLoad1_ports
  refine ⟨_, imageLoad1, image1, im, imageLoad1_starts, rfl, ?_, ?_, imageLoad1_channels, imageLoad1_waits _ imageLoad1_calm _ _⟩
  · rw [show dwQ imageLoad1 4 = 3396 by decide, show bitsN (dwN imageLoad1 6) 14 0 = 0 by decide, image1_take]
    exact hi
  · intro x hx
    rw [ho, hv, List.mem_singleton] at hx
    simp [hx, section1_none]

theorem witness_QueryWritesWholeRecords :
    ∀ k, 1 ≤ k → k < 8 →
      let d : List W32 := dws [0x19, 0, BitVec.ofNat 32 k, 0, 0, 0, 0x1000]
      Starts (ring (inState .ready) 31 d) 31 d ∧ dwOp d = 0x19 ∧ bitsN (dwN d 2) 7 0 = k := by
  unfold Starts
  decide +kernel

/-- A device whose identity hash is 0 and whose firmware holds the trust key (2^3072 - 1, 1). -/
def licensed (d : DevState) : State :=
  { inState d with flash := { State.reset.flash with identity := { c0 := some (0, { idHash := 0, serial := 0 }) } }
                   sec := { idValid := true, features := 0xFFFFFFFF
                            running := some { fw7 with trustModulus := 2 ^ 3072 - 1 } } }

theorem lic1_passes : licCheck (Mem.take lic1 512) 512 (some 0) (2 ^ 3072 - 1) 1 7 = none := by
  decide +kernel

theorem witness_ControlDescriptors_1 :
    (Starts (at_ .ready 0 [0x11]) 0 (dws [0x11]) ∧ (at_ .ready 0 [0x11]).hif.active = [] ∧
      (at_ .ready 0 [0x11]).pim.compat = false) ∧
    (let s := licensed .ready
     let d : List W32 := dws [0x14, 0, 7]
     Starts (ring s 0 d) 0 d ∧ s.nbLicensed = true ∧ s.sec.nbFailed = false ∧ s.pim.compat = false ∧
       (nbBuild (.host s.hif.nextUid) false (dwClass d) d
         ((List.range (bitsN (dwN d 3) 5 0 + 1)).map fun i => Mem.rd32 [(0, 1)] (4 * i))).isRight = true) ∧
    (let s := licensed .ready
     let d : List W32 := dws [0x18, 0, 0, 0, 512]
     Starts (ring s 0 d) 0 d ∧ s.sec.running = some { fw7 with trustModulus := 2 ^ 3072 - 1 } ∧ s.validId = some 0 ∧
       dwN d 4 = 512 ∧ s.flash.licSlot (Mem.take lic1 512) = .inr 0) ∧
    licCheck (Mem.take [] 512) 512 (some 0) (2 ^ 3072 - 1) 1 7 = some 1 := by
  unfold Starts
  decide +kernel

/-- A ring 0 descriptor of uid 0 that runs, and those that follow. -/
def running0 (l : List Active) : State :=
  { inState .ready with hif := { active := { uid := 0, sq := 0, dws := dws [2], st := .running } :: l, nextUid := 9 } }

theorem witness_ControlDescriptors_fences :
    (∀ e ∈ [(31, dws [0x11, 0, 1]), (0, dws [0x11])],
      let s := running0 []
      let s : State := { s with hif := { s.hif with sq := [(e.1, { en := true, fetched := [e.2] })] } }
      Starts s e.1 e.2 ∧ dwOp e.2 = 0x11 ∧
        ∃ x ∈ s.hif.active, x.uid < s.hif.nextUid ∧ (bitN (dwN e.2 2) 0 = true ∨ x.sq = e.1)) ∧
    (let a : Active := { uid := 5, sq := 0, dws := dws [0x11], st := .running }
     (running0 [a]).desc a.uid = some a ∧ dwOp a.dws = 0x11 ∧
       ∃ x ∈ (running0 [a]).hif.active, x.uid < a.uid ∧ x.sq = a.sq) ∧
    (let a : Active := { uid := 5, sq := 1, dws := dws [0x11], st := .running }
     let s := running0 [a]
     let s : State := { s with hif := { s.hif with cq := [(0, { en := true })] } }
     s.desc a.uid = some a ∧ dwOp a.dws = 0x11 ∧
       (∀ x ∈ s.hif.active, x.uid < a.uid → bitN (dwN a.dws 2) 0 = false ∧ x.sq ≠ a.sq) ∧ s.pim.compat = false ∧
       bitN (dwN a.dws 0) 12 = false ∧ bitsN (dwN a.dws 0) 11 8 = 0 ∧ (s.cq 0).en = true ∧ (s.cq 0).room = true ∧
       (s.cq 0).waiting = []) := by
  unfold Starts
  decide +kernel

theorem witness_ControlDescriptors_2 :
    (let d : List W32 := dws [0x1C, 0, 0, 0, 1]
     Starts (ring (inState .ready) 0 d) 0 d ∧ (inState .ready).sec.staging = none ∧ dwQ d 4 = 1 ∧
       (match fwCheck (Mem.take [] 1) 1 (inState .ready).flash.floor with | .inl r => r | _ => 0) = 1) ∧
    (let d : List W32 := dws [0x20, 0, 95]
     let s : State := { inState .ready with hif := { expert := true } }
     Starts { ring s 0 d with hif := { (ring s 0 d).hif with expert := true } } 0 d ∧
       s.slotOfLocal (95 / 12) (95 % 12) = some 11 ∧ s.spareOf (95 / 12) = some 12) ∧
    (let d : List W32 := dws [0x20, 0, 95]
     let s : State := { inState .ready with hif := { expert := true }, regions := [(7, { slotState := 0xBBA9876543210 })] }
     Starts (ring s 0 d) 0 d ∧ s.spareOf (95 / 12) = none) ∧
    (let d : List W32 := dws [0x21]
     let s : State := { inState .running with hif := { expert := true } }
     Starts (ring s 0 d) 0 d ∧ s.running = true ∧ s.sch.drainCause = none) ∧
    (let d : List W32 := dws [0x21]
     let s : State := { inState .joined with hif := { expert := true } }
     Starts (ring s 0 d) 0 d ∧ s.dev = .joined ∧ s.err.phase = 0) := by
  unfold Starts
  decide +kernel

/-- The host's copy of a firmware image that passes, whatever it holds: the mask ROM's key hashes are not known to the
model, so no image can be shown. -/
theorem witness_ControlDescriptors_fw (m : Mem) (f : FwInfo)
    (hc : fwCheck (Mem.take m 0x10000) 0x10000 (inState .ready).flash.floor = .inr f) :
    ∃ (s : State) (d : List W32), Starts s 0 d ∧ dwOp d = 0x1C ∧ s.sec.staging = none ∧
      fwCheck (Mem.take m (dwQ d 4)) (dwQ d 4) s.flash.floor = .inr f := by
  refine ⟨ring (inState .ready) 0 (dws [0x1C, 0, 0, 0, 0x10000]), dws [0x1C, 0, 0, 0, 0x10000], ?_, rfl, rfl, hc⟩
  unfold Starts
  decide +kernel

/-! ### Witnesses: plies -/

/-- A member of two on port 0, device 1 of a domain whose device 0 keeps time, in a state of the device. -/
def pair (d : DevState) : State :=
  { inState d with
    image := some { image (member (0 :: List.replicate 19 0xFF) []) with
      dims := [2, 1, 1, 1], nActive := 2, checkDiam := 2, hopBudget := 10, ldev := 1 }
    fab := { ports := [(0, { state := 2, fn := 0, partner := 0 })] } }

/-- The same member in a ply. -/
def inRun : State := { pair .running with sch := { live := true, len := 1024, locked := true } }

/-- A domain of one device, which is its own time master, in a ply. -/
def alone : State := { loaded (inState .running) with sch := { live := true, len := 1024, locked := true } }

/-- A flood of a kind with its fields. -/
def flood (k : FloodKind) (c : CheckFields) : Flood := { kind := k, t0 := 0, ply := 3, acc := c }

/-- s with a flood whose verdict tick has come. -/
def atVerdict (s : State) (f : Flood) : State := { s with tick := 170, sch := { s.sch with flood := some f } }

theorem witness_DomainTime :
    (let s := loaded (inState .joined)
     s.inDomain = true ∧ s.err.phase = 0 ∧ (image (member (List.replicate 20 0xFF) [])).timeMaster = s.ldevSeen ∧
       s.dom % 256 = 0) ∧
    (let s : State := { pair .running with tick := 256, sch := { holdover := true } }
     s.inDomain = true ∧ s.sch.holdover = true ∧ s.dom % 256 = 0) ∧
    (let s : State := { inRun with tick := 1024 }
     s.inDomain = true ∧ s.image.map Image.timeMaster = some 0 ∧ s.ldevSeen = 1 ∧ s.sch.holdover = false ∧
       s.sch.lastBeacon + 1024 ≤ s.tick ∧ s.inPly = true) ∧
    (let s : State := { pair .running with tick := 10000000, sch := { holdover := true } }
     s.inDomain = true ∧ s.sch.holdover = true ∧ s.sch.holdoverAt + 10000000 ≤ s.tick ∧ s.sch.timeLost = false) ∧
    (let s : State := { inState .ready with tick := 10, sch := { tickOut := true } }
     s.sch.tickOut = true ∧ s.sch.tickOutAt + 10 ≤ s.dom) := by
  decide

theorem witness_DataMovers_peer :
    ∀ e ∈ [(1, dws [4, 0, 0, 0, 256, 0, 256, 0, 1]), (2, dws [4, 0, 0, 0, 256, 0, 256, 0, 2])],
      let d := e.2
      let s := ring (held (pair .joined) 2) 0 d
      Starts s 0 d ∧ dwOp d = 0x04 ∧ dwLen d = 256 ∧ dwDir d = e.1 ∧ dwPeer d = 0 ∧ s.isMe (dwPeer d) = false ∧
        s.fab.waiting = [] ∧ (dwQ d 2 = 0 ∧ dwQ d 4 = 256) ∧ s.freeTag = some 0 ∧
        s.route (dwPeer d) 0 none = some (0, 0, true) := by
  unfold Starts
  decide +kernel

theorem witness_JoiningTheDomain :
    (let s : State := { pair .ready with sch := { join := some { uid := 4, startTick := 0, heard := [0], firstBeacon := some 0 } } }
     s.dev = .ready ∧ s.sch.join = some { uid := 4, startTick := 0, heard := [0], firstBeacon := some 0 } ∧
       (∀ p, p < 20 → (s.port p).fn ≠ 0xFF → p ∈ [0])) ∧
    (let s : State := { pair .ready with tick := 10000000
                                         sch := { join := some { uid := 4, startTick := 0, firstBeacon := some 0 } } }
     s.sch.join = some { uid := 4, startTick := 0, firstBeacon := some 0 } ∧ 0 + 10000000 ≤ s.tick) ∧
    (let s : State := { pair .ready with tick := 100000000, sch := { join := some { uid := 4, startTick := 0 } } }
     s.sch.join = some { uid := 4, startTick := 0 } ∧ s.isMaster = false ∧ 0 + 100000000 ≤ s.tick ∧
       (s.port 0).fn ≠ 0xFF ∧ (∀ q, q < 0 → (s.port q).fn ≠ 0xFF → q ∈ ([] : List Nat))) ∧
    (let s : State := { pair .ready with tick := 100000, sch := { join := some { uid := 4, startTick := 0 } } }
     s.sch.join = some { uid := 4, startTick := 0 } ∧ 0 + 100000 ≤ s.tick ∧ s.image.isSome = true ∧
       (s.port 0).isUp = true) := by
  decide

theorem witness_StartingPlies :
    (let s : State := { pair .joined with tick := 4096, sch := { arming := some { uid := 2, ply := 1, tick := 5000 } } }
     s.dev = .joined ∧ s.standby.relaying = false ∧ s.sch.live = false ∧ s.dom % 4096 = 0 ∧ s.sch.flood = none ∧
       s.sch.laterArms = []) ∧
    (let s : State := { pair .joined with tick := 4096, sch := { flood := some (flood .arm {}), firstStart := some 8192 } }
     s.dev = .joined ∧ s.standby.relaying = false ∧ s.sch.live = false ∧ s.dom % 4096 = 0 ∧
       s.sch.flood = some (flood .arm {}) ∧ (flood .arm {}).t0 ≠ s.dom ∧ (∀ g ∈ s.sch.laterArms, g.t0 ≠ s.dom)) ∧
    (let s := atVerdict (pair .joined) (flood .arm {})
     VerdictDue s (flood .arm {}) ∧ (flood .arm {}).acc.armed = true ∧ s.sch.firstStart = none) ∧
    (let s : State := { pair .joined with sch := { firstStart := some 8192 } }
     VerdictDue (atVerdict s (flood .arm {})) (flood .arm {}) ∧
       (atVerdict s (flood .arm {})).sch.firstStart.isSome = true) ∧
    (let f := flood .arm { armed := false }
     let s := atVerdict (pair .joined) f
     VerdictDue s f ∧ f.acc.armed = false ∧ (∀ a, s.sch.arming = some a → a.withdrawn = none)) ∧
    (let f := flood .arm { armed := false }
     let a : Arming := { uid := 2, ply := 1, tick := 0, withdrawn := some (none, 0) }
     let s : State := { pair .joined with sch := { arming := some a } }
     VerdictDue (atVerdict s f) f ∧ (atVerdict s f).sch.firstStart = none ∧ (atVerdict s f).sch.arming = some a ∧
       0 ≤ f.t0) ∧
    (let a : Arming := { uid := 2, ply := 1, tick := 0 }
     let s : State := { pair .joined with tick := 8192, sch := { arming := some a, firstStart := some 8192 } }
     s.dev = .joined ∧ s.standby.tracking = false ∧ s.sch.live = false ∧ s.sch.firstStart = some 8192 ∧ 8192 ≤ s.dom ∧
       s.sch.arming = some a ∧ (s.slotOf 95).isSome = true ∧ (s.blk 95).lost = false ∧
       (s.region (95 / 12)).promo = none ∧ (s.codeOf 95).isSome = true) := by
  unfold VerdictDue
  refine ⟨by decide, by decide, by decide, by decide, ⟨by decide, by decide, fun a h => by cases h⟩, by decide,
    by decide +kernel⟩

theorem witness_PlyBoundary :
    let s : State := { inRun with tick := 1024, blocks := [(95, { seq := { st := .eop } })] }
    Executes s ∧ s.sch.restartAt = none ∧ s.sch.flood = none ∧ s.sch.start + s.sch.len ≤ s.dom ∧
      (s.blk 0).seq.st ≠ .eop ∧ (s.blk 95).seq.st = .eop ∧ (s.blk 95).halted = false ∧ (s.slotOf 95).isSome = true ∧
      (s.codeOf 95).isSome = true := by
  unfold Executes
  decide +kernel

theorem witness_CheckFloodRounds :
    (let s : State := { inRun with tick := 20, sch := { inRun.sch with flood := some (flood .check {}) } }
     s.sch.flood = some (flood .check {}) ∧ 0 < s.diam ∧ 0 + 20 + 0 * s.hop ≤ s.dom ∧ 0 ∈ s.floodPorts ∧
       (s.port 0).isUp = true) ∧
    (let f := { flood .check {} with round := 1 }
     let s : State := { inRun with tick := 30, sch := { inRun.sch with flood := some f } }
     s.sch.flood = some f ∧ f.round = 0 + 1 ∧ 0 + 1 < s.diam ∧ 0 + 20 + (0 + 1) * s.hop ≤ s.dom ∧ f.kind ≠ .arm ∧
       0 ∈ s.floodPorts ∧ (0, 0) ∉ f.received ∧ s.inPly = true) := by
  decide

theorem witness_PlyVerdictsAndRestart_1 :
    (let s := atVerdict inRun (flood .check {})
     Executes s ∧ VerdictDue s (flood .check {}) ∧ s.sch.persistent = none) ∧
    (let f := flood .check { stop := true }
     Executes (atVerdict inRun f) ∧ VerdictDue (atVerdict inRun f) f) ∧
    (let s := atVerdict { inRun with sch := { inRun.sch with persistent := some 6 } } (flood .check {})
     Executes s ∧ VerdictDue s (flood .check {}) ∧ s.sch.timeLost = false) ∧
    (let f := flood .check { clean := false }
     let e : JEntry := { key := .granule 95 1023, data := [(0, 7)], cwords := [], words := [] }
     let s : State := { inRun with sch := { inRun.sch with prevAttempt := 2, gen1 := [e] } }
     Executes (atVerdict s f) ∧ VerdictDue (atVerdict s f) f ∧ (atVerdict s f).sch.prevAttempt < 3 ∧ s.blocks = []) ∧
    (let f := flood .check { clean := false, replayable := false }
     Executes (atVerdict inRun f) ∧ VerdictDue (atVerdict inRun f) f) := by
  unfold Executes VerdictDue
  decide

theorem witness_PlyVerdictsAndRestart_2 :
    (let f := flood .check { clean := false }
     let s : State := { inRun with sch := { inRun.sch with prevAttempt := 3 } }
     Executes (atVerdict s f) ∧ VerdictDue (atVerdict s f) f ∧ s.sch.prev.selfCulprit = false ∧ f.blamed = false ∧
       s.members ≠ 1 ∧ s.nStandby = 0) ∧
    (let f := flood .check { clean := false }
     let s : State := { alone with sch := { alone.sch with prevAttempt := 3 } }
     Executes (atVerdict s f) ∧ VerdictDue (atVerdict s f) f ∧ s.sch.prev.selfCulprit = false ∧ f.blamed = false ∧
       s.members = 1) ∧
    (let f := { flood .check { clean := false } with blamed := true }
     let s : State := { inRun with sch := { inRun.sch with prevAttempt := 3 } }
     Executes (atVerdict s f) ∧ VerdictDue (atVerdict s f) f) ∧
    (let f := flood .check { clean := false }
     let s : State := { inRun with
       image := inRun.image.map fun im => { im with nStandby := 1 }, sch := { inRun.sch with prevAttempt := 3 } }
     Executes (atVerdict s f) ∧ VerdictDue (atVerdict s f) f ∧ s.members ≠ 1 ∧ 0 < s.nStandby) ∧
    (let s : State := { inRun with tick := 900, sch := { inRun.sch with restartAt := some 900 } }
     Executes s ∧ s.sch.restartAt = some 900 ∧ 900 ≤ s.dom ∧ s.hif.heldCopies = [] ∧ (s.slotOf 95).isSome = true ∧
       (s.blk 95).halted = false ∧ (s.codeOf 95).isSome = true) := by
  unfold Executes VerdictDue
  decide +kernel

/-- A service frame from a device. -/
def request (src : BitVec 15) (op : VOp) : VFrame :=
  { op := op, tag := 0, gen := 0, dst := 1, src := src, len512 := false, addr := 0, pmask := 0, reason := 0, bwclass := 0
    vc := false, payload := [] }

/-- A standby in RUNNING. -/
def standby_ : State :=
  { inRun with image := inRun.image.map fun im => { im with own := { im.own with standby := true }, nStandby := 1 } }

theorem witness_TakeoverAndEndgame_1 :
    (let r := (request 0 .write, 0)
     let s : State := { standby_ with tick := 200, standby := { verdictAt := some 0, requests := [r] } }
     s.dev = .running ∧ s.err.phase = 0 ∧ s.isStandby = true ∧ s.standby.place = none ∧ s.standby.granted = none ∧
       (∀ x ∈ s.standby.requests, 0 + s.grantDelay x.1.src.toNat ≤ s.dom) ∧
       (∀ x ∈ s.standby.requests, r.1.src.toNat ≤ x.1.src.toNat)) ∧
    (let r := (request 0 .write, 0)
     let s : State := { standby_ with
       tick := 400, standby := { verdictAt := some 0, requests := [r] }
       image := standby_.image.map fun im => { im with served := [{ im.own with ldev := 0, standbyA := 7, standbyB := 1 }] } }
     s.isStandby = true ∧ s.grantDelay 0 = 400 ∧ 0 + s.grantDelay 0 ≤ s.dom) ∧
    (let s : State := { standby_ with tick := 200, standby := { verdictAt := some 0, granted := some 3
                                                                requests := [(request 0 .write, 0)] } }
     s.isStandby = true ∧ s.standby.granted ≠ none ∧ 0 + 200 ≤ s.dom ∧ s.standby.requests ≠ []) ∧
    (let s : State := { standby_ with standby := { verdictAt := some 0, granted := some 3 } }
     s.dev = .running ∧ s.err.phase = 0 ∧ s.standby.granted = some 3 ∧ s.standby.verdictAt.isSome = true ∧
       s.standby.prepared = false) ∧
    (let s : State := { inRun with tick := 2500, standby := { verdictAt := some 0 } }
     s.attends = true ∧ s.standby.verdictAt = some 0 ∧ 0 + 2500 ≤ s.dom ∧ s.sch.flood = none) ∧
    (let s : State := { inRun with dev := .drained, tick := 2500, standby := { verdictAt := some 0 }, err := { phase := 5 } }
     s.attends = true ∧ s.standby.verdictAt = some 0 ∧ 0 + 2500 ≤ s.dom ∧ s.sch.flood = none) := by
  decide

theorem witness_TakeoverAndEndgame_2 :
    (let f := flood .takeover { stop := true }
     let s : State := { atVerdict inRun f with standby := { verdictAt := some 0 } }
     s.attends = true ∧ VerdictDue s f ∧ Executes s) ∧
    (let f := flood .takeover {}
     let s : State := { atVerdict standby_ f with standby := { verdictAt := some 0, granted := some 3 } }
     s.attends = true ∧ VerdictDue s f ∧ s.err.phase = 0) ∧
    (let f := flood .takeover {}
     let s : State := { atVerdict inRun f with standby := { verdictAt := some 0 }, err := { phase := 1 } }
     s.attends = true ∧ VerdictDue s f ∧ s.err.phase ≠ 0 ∧ s.standby.tracking = false) ∧
    (let f := flood .takeover { stop := true }
     let s : State := { atVerdict standby_ f with standby := { verdictAt := some 0, granted := some 3, prepared := true } }
     s.attends = true ∧ VerdictDue s f ∧ Executes s ∧ (s.slotOf 95).isSome = true) ∧
    (let f := flood .takeover {}
     let s : State := { atVerdict inRun f with standby := { verdictAt := some 0, gotGrant := true }, err := { phase := 2 } }
     s.attends = true ∧ VerdictDue s f ∧ s.err.phase ≠ 0 ∧ s.standby.gotGrant = true ∧ 2 ≤ s.err.phase) ∧
    (∀ n, ({ inRun with err := { phase := n } } : State).err.phase = n ∧
      ({ inRun with err := { phase := n } } : State).inDomain = true ∧
      ({ inRun with err := { phase := n } } : State).restorePending = false ∧
      ({ inRun with err := { phase := n } } : State).backPending = false) ∧
    (let r : HReq := { line := 0, sectors := 0xF, write := true, data := [], words := [], cls := 0, master := 100, forLine := none, arrived := 0 }
     let s : State := { inRun with err := { phase := 4 }, hbmStacks := [(0, { chans := [(0, { queue := [r] })] })] }
     s.inDomain = true ∧ s.backPending = true) ∧
    (let s : State := { inState .ready with regions := [(7, { promo := some (11, 11, true) })] }
     (s.region 7).promo = some (11, 11, true) ∧
       (∀ p, s.slotOf (12 * 7 + 11) = some p → (s.slotPwr p.1 p.2).ramping = false)) := by
  unfold Executes VerdictDue
  refine ⟨by decide, by decide, by decide, by decide, by decide, fun n => ⟨rfl, rfl, rfl, rfl⟩, by decide, by decide, fun p _ => by simp [inState, State.slotPwr, State.reset, SMap.get]⟩

/-! ### Sequencer words, written out from Tables 3.10 and 3.11 -/

theorem test_sequencer_words :
    seqDecode 0x04000000 = .immOp .addi 0 0 0 ∧ seqDecode 0xFC000000 = .eop ∧ seqDecode 0x28800040 = .lui 2 0x40 ∧
    seqDecode 0x80114000 = .cissue 0 4 5 ∧ seqDecode 0x84080000 = .launch 2 ∧ seqDecode 0x89040000 = .waitc 0x41 ∧
    seqDecode 0xFC000001 = .illegal ∧ seqDecode 0x82000000 = .illegal ∧ seqDecode 0x94000000 = .illegal ∧
    seqDecode 0x00000010 = .illegal ∧ seqDecode 0x14000020 = .illegal := by
  decide +kernel

/-! ### Witnesses: sequencers -/

/-- The device in a ply, block 95's sequencer at 0x4000 on a word. -/
def atWord (w : Nat) : State :=
  { alone with blocks := [(95, { seq := { st := .run, pc := 0x4000, imem := bytesAt 0x4000 4 w } })] }

/-- The same on an instruction. -/
def atIns (i : SeqIns) : State := atWord (seqEncode i)

/-- The same with another block state around it. -/
def withSeq (s : State) (f : Seq → Seq) : State := s.updSeq 95 f

theorem witness_SequencerArithmetic :
    ∀ i ∈ [SeqIns.alu .maxu 15 15 15, .immOp .sltiu 15 15 0x3FFFF, .lui 15 0x3FFFFF, .br .beq 0 0 0x2FFF,
        .br .beq 0 0 0x3000, .br .beq 0 0 0x3EFFF, .br .bne 0 0 1, .jal 15 0x2FFF, .jal 15 0x3000, .jalr 15 0 0xFFFF,
        .jalr 15 0 0x3FFFF, .trap 0xFF, .eop, .lw 1 0 2, .sw 1 0 2, .lw 1 0 0x1FFFC, .sw 1 0 0x1FFFC, .lw 1 0 0x3FFFC,
        .csrr 1 0, .csrr 1 10, .csrr 1 6, .csrr 1 11, .csrw 8 0, .csrw 9 0, .cissue 7 1 2, .launch 0, .launch 1, .loadi 0,
        .waitc 0x7F, .waitk 0 0, .waitk 0 1, .waitx 0 0, .sempost 63 1, .semwait 63 1, .semwait 0 0],
      SeqAt (atIns i) 95 i := by
  unfold SeqAt
  decide +kernel

theorem witness_SequencerControlFlow :
    (brSpec .beq (0 : W32) 0 ∧ ¬ brSpec .bne (0 : W32) 0 ∧ (0x4000 : Int) + 4 * imm18 0x2FFF = 0xFFFC ∧
      0xFFFF < (0x4000 : Int) + 4 * imm18 0x3000 ∧ (0x4000 : Int) + 4 * imm18 0x3EFFF < 0) ∧
    (seqAddr (atIns (.jalr 15 0 0xFFFF)) 95 0 0xFFFF = 0xFFFF ∧ 0xFFFF < seqAddr (atIns (.jalr 15 0 0x3FFFF)) 95 0 0x3FFFF) ∧
    SeqAt (atWord 0xFC000001) 95 .illegal ∧
    (let s := withSeq (atIns .eop) fun q => { q with pc := 0xFFFD }
     s.blockLive 95 = true ∧ (s.blk 95).seq.st = .run ∧ 0xFFFC < (s.blk 95).seq.pc) ∧
    (let s := withSeq (atIns .eop) fun q => { q with pc := 0xC000 }
     s.blockLive 95 = true ∧ (s.blk 95).seq.st = .run ∧ 0xC000 ≤ (s.blk 95).seq.pc ∧ (s.blk 95).seq.overlay = 0xFFFF) ∧
    (let s := withSeq (atIns .eop) fun q => { q with imemChk := [(0x1000, .bad)] }
     s.blockLive 95 = true ∧ (s.blk 95).seq.st = .run ∧ (s.blk 95).seq.pc < 0xC000 ∧
       SMap.get .good (s.blk 95).seq.imemChk ((s.blk 95).seq.pc / 4) = .bad) ∧
    (inState .ready).blockLive 95 = false := by
  unfold SeqAt brSpec
  decide +kernel

/-- Block 95 of the state with its array words 0 to 7 written, and others in given states. -/
def withWords (s : State) (ws : RMap WordSt) : State := s.updBlk 95 fun B => { B with baSt := ws }

theorem witness_SequencerMemory :
    (seqAddr (atIns (.lw 1 0 2)) 95 0 2 % 4 ≠ 0 ∧
      (atIns (.lw 1 0 0x3FFFC)).scratchTop 95 ≤ seqAddr (atIns (.lw 1 0 0x3FFFC)) 95 0 0x3FFFC) ∧
    (seqAddr (atIns (.lw 1 0 0x1FFFC)) 95 0 0x1FFFC = 0x1FFFC ∧ 0x1FFFC < (atIns (.lw 1 0 0x1FFFC)).scratchTop 95) ∧
    (let s := withWords (atIns (.lw 1 0 0x1FFFC)) [(0, { written := true })]
     SeqAt s 95 (.lw 1 0 0x1FFFC) ∧ (s.blk 95).wordSt (0x1FFFC / 4) = { written := true }) ∧
    (let s := withWords (atIns (.lw 1 0 0x1FFFC)) [(0, { written := true, chk := .single })]
     SeqAt s 95 (.lw 1 0 0x1FFFC) ∧ (s.blk 95).wordSt (0x1FFFC / 4) = { written := true, chk := .single }) ∧
    (let s := atIns (.lw 1 0 0x1FFFC)
     ((s.blk 95).wordSt (0x1FFFC / 4)).chk ≠ .single ∧ ((s.blk 95).wordSt (0x1FFFC / 4)).dark = true) ∧
    (let s := atIns (.sw 1 0 0x1FFFC)
     (∀ e ∈ s.genNow, e.key ≠ .granule 95 (0x1FFFC / 1024)) ∧ s.genNow.length < s.journalCap) ∧
    (let s : State := { atIns (.sw 1 0 0x1FFFC) with
       sch := { alone.sch with gen0 := [{ key := .granule 95 127, data := [], cwords := [], words := [] }] } }
     ∃ e ∈ s.genNow, e.key = .granule 95 (0x1FFFC / 1024)) := by
  unfold SeqAt
  decide +kernel

theorem witness_SequencerCsrs :
    ((atIns (.csrw 8 0)).seqReg 95 0).toNat < 8 ∧
    (let s := withSeq (atIns (.csrw 8 1)) fun q => { q with regs := [(1, 8)] }
     SeqAt s 95 (.csrw 8 1) ∧ 8 ≤ (s.seqReg 95 1).toNat) ∧
    (let s : State := { atIns (.csrr 1 6) with sch := { alone.sch with cycleSub := 12 } }
     SeqAt s 95 (.csrr 1 6) ∧ s.sch.cycleAt = s.tick ∧ s.sch.cycleSub < 13) := by
  unfold SeqAt
  decide +kernel

theorem witness_SequencerCsrs_class :
    ((atIns (.cissue 7 1 2)).targetHalted 95 7 = false ∧
      (SMap.get [] ((atIns (.cissue 7 1 2)).blk 95).seq.queues 7).length < 4 ∧ SeqAt (atIns (.cissue 7 1 2)) 95 (.cissue 7 1 2)) ∧
    (let s : State := { inRun with sch := { inRun.sch with restartAt := some 0 } }
     Executes s ∧ s.sch.restartAt = some 0 ∧ 0 ≤ s.dom ∧ (s.slotOf 95).isSome = true ∧ (s.blk 95).halted = false ∧
       (s.region (95 / 12)).promo = none ∧ (s.codeOf 95).isSome = true) := by
  unfold SeqAt Executes
  decide +kernel

/-- A launch record of one wavefront of width 8 with 16 registers, at offset 0 of block 95's array. -/
def atLaunch : State :=
  (atIns (.launch 0)).updBlk 95 fun B => { B with
    ba := bytesAt 16 8 0x0000004000000001, baSt := [(0, { written := true }), (8, {})] }

theorem atLaunch_words : GoodWords (atLaunch.blk 95) (0 / 4) 8 := by
  unfold GoodWords
  decide +kernel

theorem witness_SequencerCommands_1 :
    ((atIns (.cissue 7 1 2)).targetHalted 95 7 = false ∧ SMap.get [] ((atIns (.cissue 7 1 2)).blk 95).seq.queues 7 = []) ∧
    (let s := withSeq (atIns (.cissue 7 1 2)) fun q => { q with tgtHalted := [(7, true)] }
     SeqAt s 95 (.cissue 7 1 2) ∧ s.targetHalted 95 7 = true) ∧
    (let s := withSeq (atIns (.cissue 7 1 2)) fun q => { q with queues := [(7, List.replicate 4 (0, 0))] }
     SeqAt s 95 (.cissue 7 1 2) ∧ s.targetHalted 95 7 = false ∧ 4 ≤ (SMap.get [] (s.blk 95).seq.queues 7).length) := by
  unfold SeqAt
  decide +kernel

theorem witness_SequencerCommands_2 :
    (SeqAt atLaunch 95 (.launch 0) ∧ (atLaunch.seqReg 95 0).toNat = 0 ∧ (atLaunch.blk 95).tg.kernel = none ∧
      (let w : Nat → Nat := fun i => Mem.rd (atLaunch.blk 95).ba (0 + 4 * i) 4
       w 0 % 8 = 0 ∧ w 0 < 0x8000000 ∧ w 1 = 0 ∧ w 2 % 4 = 0 ∧ w 3 = 0 ∧ w 5 / 2 ^ 10 % 16 ≤ 8 ∧
         w 2 < (8 - w 5 / 2 ^ 10 % 16) * 0x40000 ∧ 0 < w 4 ∧ w 4 ≤ 16777216 ∧ 16 ≤ w 5 / 4 % 256 ∧ w 5 < 2 ^ 17 ∧
         w 6 = 0 ∧ w 7 = 0)) ∧
    (let s := withSeq (atIns (.launch 1)) fun q => { q with regs := [(1, 16)] }
     SeqAt s 95 (.launch 1) ∧ (s.seqReg 95 1).toNat % 32 ≠ 0) ∧
    (let s := atIns (.launch 0)
     (∀ e ∈ (s.blk 95).baSt, e.2.chk ≠ .single) ∧ (∃ i, i < 8 ∧ ((s.blk 95).wordSt (0 / 4 + i)).dark = true) ∧
       Mem.rd (s.blk 95).ba (0 + 4 * 4) 4 = 0) ∧
    (let s := (atIns (.launch 0)).updTg 95 fun g => { g with
       kernel := some { entry := 0, args := 0, groups := 1, width := 8, regs := 16, l1 := 0, cls := 0 } }
     SeqAt s 95 (.launch 0) ∧ (s.blk 95).tg.kernel.isSome = true) := by
  unfold SeqAt
  decide +kernel

/-- The state whose image gives every block one overlay. -/
def withOverlay (s : State) : State :=
  { s with image := s.image.map fun im => { im with own := { im.own with
      code := List.replicate 96 { baseOff := 0, baseLen := 4, entry := 0x4000, ovlOff := 4, ovlCount := 1 } } } }

theorem witness_SequencerCommands_3 :
    (let s := withOverlay (atIns (.loadi 0))
     SeqAt s 95 (.loadi 0) ∧ (s.seqReg 95 0).toNat = 0 ∧ (∃ c, s.codeOf 95 = some c ∧ 0 < c.ovlCount) ∧
       (s.blk 95).seq.pc < 0xC000) ∧
    (SeqAt (atIns (.loadi 0)) 95 (.loadi 0) ∧ ∃ c, (atIns (.loadi 0)).codeOf 95 = some c ∧ c.ovlCount ≤ 0) := by
  refine ⟨⟨?_, ?_, ⟨_, rfl, by decide⟩, ?_⟩, ?_, ⟨_, rfl, by decide⟩⟩ <;> (try unfold SeqAt) <;> decide +kernel

/-- The state whose image gives the member one transfer entry. -/
def withXfer (s : State) (x : Xfer) : State :=
  { s with image := s.image.map fun im => { im with own := { im.own with xfers := [x] } } }

/-- One frame expected on port 0 in every ply of even number. -/
def expect1 : Xfer :=
  { tick := 0, expect := true, port := 0, frames := 1, period := 2, phase := 0, flow := 0, kind := 0, offset := 0 }

/-- A block that waits at a semaphore. -/
def waiting (n k : Nat) : Block := { seq := { st := .wait (.sem n k), pc := 0x4000 } }

theorem witness_SequencerWaits_1 :
    (∀ u, u < 7 → (atIns (.waitc 0x7F)).unitDone 95 u = true) ∧
    (let s := withSeq (atIns (.waitc 0x7F)) fun q => { q with issued := [(0, 1)] }
     SeqAt s 95 (.waitc 0x7F) ∧ (0x7F : Nat).testBit 0 = true ∧ s.unitDone 95 0 = false) ∧
    (seqAddr (atIns (.waitk 0 0)) 95 0 0 ≤ (atIns (.waitk 0 0)).dom - (atIns (.waitk 0 0)).sch.start ∧
      ¬ seqAddr (atIns (.waitk 0 1)) 95 0 1 ≤ (atIns (.waitk 0 1)).dom - (atIns (.waitk 0 1)).sch.start) ∧
    (let s := withXfer (atIns (.waitx 0 0)) expect1
     SeqAt s 95 (.waitx 0 0) ∧ s.plan.map Section.xfers = some [expect1] ∧ seqAddr s 95 0 0 = 0) ∧
    ((atIns (.waitx 0 0)).plan.map Section.xfers = some []) ∧
    (let s := withXfer (atIns (.waitx 0 0)) { expect1 with expect := false }
     SeqAt s 95 (.waitx 0 0) ∧ s.plan.map Section.xfers = some [{ expect1 with expect := false }]) := by
  unfold SeqAt
  decide +kernel

theorem witness_SequencerWaits_2 :
    (0 ≤ (atIns (.semwait 0 0)).sem 0 ∧ (∀ c, c < 96 → (atIns (.semwait 0 0)).semNeed c 0 = none)) ∧
    ((atIns (.semwait 63 1)).sem 63 < 1) ∧
    (let s : State := { alone with sch := { alone.sch with sems := [(63, 3)] }
                                   blocks := [(1, waiting 63 2), (95, waiting 63 2)] }
     s.semNeed 1 63 = some 2 ∧ 2 ≤ s.sem 63 ∧ (∀ c, c < 1 → s.semNeed c 63 = none) ∧
       (∀ c, c < 96 → 1 < c → ∀ m, m < 9 → s.semNeed c 63 = some m → s.sem 63 - 2 < m) ∧ s.semNeed 95 63 = some 2) ∧
    (∀ c, c < 96 → alone.semNeed c 0 = none) ∧
    (let s := withSeq (atIns .eop) fun q => { q with st := .wait (.tick 0) }
     s.blockLive 95 = true ∧ (s.blk 95).seq.st = .wait (.tick 0) ∧ 0 ≤ s.dom - s.sch.start) ∧
    (let s := withSeq (atIns (.cissue 7 1 2)) fun q => { q with st := .wait (.queue 7) }
     s.blockLive 95 = true ∧ (s.blk 95).seq.st = .wait (.queue 7) ∧ seqDecode (s.blk 95).seq.word = .cissue 7 1 2 ∧
       s.targetHalted 95 7 = false ∧ (SMap.get [] (s.blk 95).seq.queues 7).length < 4) ∧
    (let s := withSeq (atIns .eop) fun q => { q with st := .eopHold }
     s.blockLive 95 = true ∧ (s.blk 95).seq.st = .eopHold ∧ s.blockIdle 95 = true) ∧
    (let s := withSeq (atIns .eop) fun q => { q with st := .eopHold, queues := [(0, [(0, 0)])], issued := [(0, 1)] }
     s.blockLive 95 = true ∧ (s.blk 95).seq.st = .eopHold ∧ s.blockIdle 95 = false) := by
  decide +kernel

theorem witness_SequencerWordsRoundTrip :
    (SeqIns.eop.wf = true ∧ SeqIns.eop ≠ .illegal) ∧ 0xFC000000 < 2 ^ 32 ∧ seqDecode 0xFC000000 ≠ .illegal := by
  decide +kernel

/-! ### Witnesses: matrix cells and DMA channels -/

/-- Block 95 in a ply with every word of its array written, one command of class 3 in a queue, and a matrix cell 1. -/
def withCmd (g : Nat) (w : Nat) (m : Mc) : State :=
  { alone with blocks := [(95, {
      seq := { st := .run, pc := 0x4000, queues := [(g, [(BitVec.ofNat 64 w, 3)])] }
      baSt := [(0, { written := true })], mc := [(1, m)] })] }

theorem allWritten (s : State) (b w n : Nat) (h : (s.blk b).baSt = [(0, { written := true })]) :
    GoodWords (s.blk b) w n := by
  refine ⟨fun i _ => ?_, fun e he h1 h2 => ?_⟩
  · simp [Block.wordSt, h, RMap.get]
  · rw [h] at he
    simp at he
    rw [he]

/-- A LOADW in progress. -/
def load1 : McLoad := { buf := { fmt := 6, depth := 32 }, space := false, addr := 0, len := 8192 }

/-- A stream of 128 rows of BF16, not yet issued. -/
def stream1 : McStream :=
  { word := 5, cfg := { ifmt := 6 }, castle := false, acc := 0, abase := 0, rows := 128, sspace := false, dspace := false
    src := 0, dst := 0x10000, seq := 0, cls := 3, castled := true }

/-- A row whose first checksum column disagrees with the others. -/
def badRow : McRow := { i := 0, vals := [(0, 0x3F800000)], idx := [], poisoned := false }

theorem witness_MatrixSetupAndWeights_1 :
    (∀ w ∈ [0, 0x3F, 1 + 6 * 2 ^ 9 + 3 * 2 ^ 13 + 8 * 2 ^ 22 + 16 * 2 ^ 27, 1 + 2 ^ 33, 1 + 7 * 2 ^ 9, 1 + 2 ^ 6 + 24 * 2 ^ 22,
        2, 2 + 2 ^ 6, 2 + 2 * 2 ^ 6, 2 + 2 ^ 8, 2 + 3 * 2 ^ 6, 4, 6 + 127 * 2 ^ 6 + 2 ^ 13, 6, 6 + 2 ^ 6 + 128 * 2 ^ 13],
      Queued (withCmd 1 w {}) 95 1 (BitVec.ofNat 64 w) 3 ∧ ((withCmd 1 w {}).mcAt 95 1).halted = false ∧
        ((withCmd 1 w {}).mcAt 95 1).engineFree = true ∧ ((withCmd 1 w {}).mcAt 95 1).loading = none ∧
        ((withCmd 1 w {}).mcAt 95 1).addsDone = true) ∧
    (Queued (withCmd 1 4 { loading := some load1 }) 95 1 4 3 ∧
      ((withCmd 1 4 { loading := some load1 }).mcAt 95 1).loading.isSome = true) ∧
    (withCmd 1 0 {}).sec.features.getLsbD 5 = false ∧
    (wordField (BitVec.ofNat 64 (1 + 6 * 2 ^ 9 + 3 * 2 ^ 13 + 8 * 2 ^ 22 + 16 * 2 ^ 27)) 12 9 = 6 ∧
      wordField (BitVec.ofNat 64 (6 + 127 * 2 ^ 6 + 2 ^ 13)) 12 6 = 127) := by
  unfold Queued
  decide +kernel

theorem witness_MatrixSetupAndWeights_2 :
    (let w := 3 + 6 * 2 ^ 6
     let s := withCmd 1 w {}
     Queued s 95 1 (BitVec.ofNat 64 w) 3 ∧ wordField (BitVec.ofNat 64 w) 9 6 = 6 ∧ (s.mcAt 95 1).loading = none ∧
       (s.mcAt 95 1).noCastlePending = true ∧ 0 + imageBytes 6 0 32 ≤ s.unitTop 95) ∧
    (let w := 3 + 7 * 2 ^ 6
     Queued (withCmd 1 w {}) 95 1 (BitVec.ofNat 64 w) 3 ∧ 6 < wordField (BitVec.ofNat 64 w) 9 6) ∧
    (let w := 3 + 6 * 2 ^ 6 + 32767 * 2 ^ 16
     Queued (withCmd 1 w {}) 95 1 (BitVec.ofNat 64 w) 3 ∧
       (withCmd 1 w {}).unitTop 95 < wordField (BitVec.ofNat 64 w) 36 16 * 64 + imageBytes 6 0 32) ∧
    (let s := withCmd 1 0 { loading := some load1 }
     s.blockLive 95 = true ∧ (s.mcAt 95 1).loading = some load1 ∧ (s.mcAt 95 1).noCastlePending = true) ∧
    (let s := withCmd 1 0 { loading := some load1, streams := [{ stream1 with castled := false }] }
     s.blockLive 95 = true ∧ (s.mcAt 95 1).loading = some load1 ∧ (s.mcAt 95 1).noCastlePending = false) := by
  unfold Queued
  decide +kernel

theorem witness_MatrixSetupAndWeights_device :
    (let w := 3 + 6 * 2 ^ 6 + 2 ^ 14
     let s := held (withCmd 1 w {}) 2
     Queued s 95 1 (BitVec.ofNat 64 w) 3 ∧ (s.mcAt 95 1).halted = false ∧ (s.mcAt 95 1).loading = none ∧
       (s.mcAt 95 1).noCastlePending = true ∧ (s.mcAt 95 1).baseLoad = 0 ∧ imageBytes 6 0 32 = 2048 ∧
       s.unitWaits 95 3 true false 0 2048 = false ∧ (∀ e ∈ s.ccd.words, e.2.poison = false)) ∧
    HeldRange (held (withCmd 1 (3 + 6 * 2 ^ 6 + 2 ^ 14) {}) 2) 0 2048 := by
  refine ⟨?_, held_lines _ rfl 2 _ _ (by omega) (by omega)⟩
  unfold Queued
  decide +kernel

theorem witness_MatrixStreams_1 :
    (let w := 5 + 2 ^ 6 + 127 * 2 ^ 16
     let s := withCmd 1 w { cfg := { ifmt := 6 } }
     Queued s 95 1 (BitVec.ofNat 64 w) 3 ∧ (s.mcAt 95 1).engineFree = true ∧ (s.mcAt 95 1).noCastlePending = true) ∧
    (let w := 5 + 2 ^ 40 + 2 ^ 41 + 2047 * 2 ^ 16
     let s := withCmd 1 w { cfg := { ifmt := 6 }, loading := some load1 }
     Queued s 95 1 (BitVec.ofNat 64 w) 3 ∧ (s.mcAt 95 1).engineFree = true ∧ (s.mcAt 95 1).noCastlePending = true) ∧
    (let w := 5 + 3 * 2 ^ 7
     Queued (withCmd 1 w {}) 95 1 (BitVec.ofNat 64 w) 3 ∧ wordField (BitVec.ofNat 64 w) 8 7 = 3) ∧
    (let s := withCmd 1 5 { cfg := { mode := 7, topk := 1 } }
     Queued s 95 1 5 3 ∧ mcForbidden (s.mcAt 95 1).cfg (wordField 5 8 7) = true) ∧
    (let w := 5 + 2 ^ 7 + 128 * 2 ^ 16
     let s := withCmd 1 w { cfg := { ifmt := 6 } }
     Queued s 95 1 (BitVec.ofNat 64 w) 3 ∧ wordField (BitVec.ofNat 64 w) 8 7 ≠ 0 ∧ wordField (BitVec.ofNat 64 w) 8 7 < 3 ∧
       mcForbidden (s.mcAt 95 1).cfg (wordField (BitVec.ofNat 64 w) 8 7) = false ∧
       128 ≤ wordField (BitVec.ofNat 64 w) 39 16) := by
  unfold Queued
  decide +kernel

/-- Those two words pass the checks. -/
theorem witness_MatrixStreams_legal :
    StreamLegal (withCmd 1 0 {}) 95 { cfg := { ifmt := 6 } } (BitVec.ofNat 64 (5 + 2 ^ 6 + 127 * 2 ^ 16)) ∧
    StreamLegal (withCmd 1 0 {}) 95 { cfg := { ifmt := 6 }, loading := some load1 }
      (BitVec.ofNat 64 (5 + 2 ^ 40 + 2 ^ 41 + 2047 * 2 ^ 16)) := by
  unfold StreamLegal RangeInside
  constructor <;> decide +kernel

theorem witness_MatrixStreams_2 :
    (let s := withCmd 1 0 { streams := [{ stream1 with next := 127 }] }
     s.blockLive 95 = true ∧ (s.mcAt 95 1).halted = false ∧
       (s.mcAt 95 1).streams.getLast? = some { stream1 with next := 127 } ∧ 127 < stream1.rows ∧
       pairOk 0 6 (s.mcAt 95 1).active.fmt = true) ∧
    (let s := withCmd 1 0 { streams := [stream1], active := { fmt := 0 } }
     s.blockLive 95 = true ∧ (s.mcAt 95 1).streams.getLast? = some stream1 ∧ stream1.next = 0 ∧
       s.unitWaits 95 3 stream1.sspace false (stream1.rowAt 0).1.1 (stream1.rowAt 0).1.2 = false ∧
       s.unitWaits 95 3 stream1.sspace false (stream1.rowAt 0).2.1 (stream1.rowAt 0).2.2 = false ∧
       pairOk stream1.cfg.mode stream1.cfg.ifmt (s.mcAt 95 1).active.fmt = false) ∧
    (let x := { stream1 with inFlight := [badRow], next := 1 }
     let s := withCmd 1 0 { streams := [x] }
     s.blockLive 95 = true ∧ (s.mcAt 95 1).streams = [x] ∧ x.cfg.topk = 0 ∧ x.cfg.ofmt = 0 ∧ x.cfg.mode < 6) ∧
    (let x := { stream1 with inFlight := [badRow], next := 1, acc := 1 }
     let s := withCmd 1 0 { streams := [x] }
     (s.mcAt 95 1).streams = [x] ∧ x.acc = 1 ∧ x.cfg.mode = 0 ∧ badRow.poisoned = false) ∧
    (let s := withCmd 1 0 { streams := [{ stream1 with next := 128 }] }
     s.blockLive 95 = true ∧ (s.mcAt 95 1).streams = [{ stream1 with next := 128 }] ∧ stream1.cfg.topk = 0) ∧
    (let x := { stream1 with next := 128, cfg := { ifmt := 6, topk := 16 } }
     let s := withCmd 1 0 { streams := [x] }
     s.blockLive 95 = true ∧ (s.mcAt 95 1).streams = [x] ∧ 0 < x.cfg.topk ∧ x.inFlight = []) := by
  decide +kernel

/-- That row in the pipeline of a stream that writes to device address 0. -/
def rowOf (acc topk : Nat) (dspace : Bool) : McStream :=
  { stream1 with
    inFlight := [badRow], next := 1, acc := acc, dspace := dspace, dst := if dspace then 0 else 0x10000
    cfg := { ifmt := 6, topk := topk } }

/-- The states in which the oldest row of the only stream, or of the second one, is due. -/
theorem row_due (q : List McStream) (j : Nat) (x : McStream) (hq : q[j]? = some x) (hx : x.inFlight = [badRow])
    (h : ∀ i y, i < j → q[i]? = some y → y.inFlight = []) : RowDue (held (withCmd 1 0 { streams := q }) 2) 95 1 j x badRow [] :=
  ⟨by decide, by decide, rfl, hq, hx, h⟩

theorem witness_MatrixStreams_3 :
    (∀ acc topk dspace, RowDue (held (withCmd 1 0 { streams := [rowOf acc topk dspace] }) 2) 95 1 0 (rowOf acc topk dspace) badRow []) ∧
    RowDue (held (withCmd 1 0 { streams := [stream1, rowOf 0 0 false] }) 2) 95 1 1 (rowOf 0 0 false) badRow [] ∧
    (∀ acc ∈ [0, 2], let x := rowOf acc 0 true
      let s := held (withCmd 1 0 { streams := [x] }) 2
      x.cfg.topk = 0 ∧ x.acc ≠ 1 ∧ x.dspace = true ∧ x.dst % 1024 = 0 ∧ outRowBytes x.cfg = 512 ∧
        s.unitWaits 95 x.cls true true (x.dst + badRow.i * outRowBytes x.cfg) (outRowBytes x.cfg) = false) ∧
    HeldRange (held (withCmd 1 0 { streams := [rowOf 0 0 true] }) 2) 0 512 ∧
    HeldRange (held (withCmd 1 0 { streams := [rowOf 2 0 true] }) 2) 0 512 ∧
    (let x := { rowOf 0 1 true with next := 128, inFlight := [] }
     let s := held (withCmd 1 0 { streams := [x] }) 2
     s.blockLive 95 = true ∧ (s.mcAt 95 1).streams = [x] ∧ x.rows ≤ x.next ∧ 0 < x.cfg.topk ∧ x.dst % 1024 = 0 ∧
       x.dstLen = 1024 ∧ s.unitWaits 95 x.cls true true x.dst x.dstLen = false) ∧
    HeldRange (held (withCmd 1 0 { streams := [{ rowOf 0 1 true with next := 128, inFlight := [] }] }) 2) 0 1024 := by
  refine ⟨fun acc topk dspace => row_due _ 0 _ rfl rfl fun i y h => absurd h (Nat.not_lt_zero i),
    row_due _ 1 _ rfl rfl fun i y h e => ?_, by decide +kernel, held_lines _ rfl 2 _ _ (by omega) (by omega),
    held_lines _ rfl 2 _ _ (by omega) (by omega), by decide +kernel, held_lines _ rfl 2 _ _ (by omega) (by omega)⟩
  obtain rfl : i = 0 := by omega
  cases e
  rfl

/-- Rows of a stream that reads device memory and of one in a distance mode. -/
theorem witness_MatrixStreams_4 :
    ∀ x ∈ [{ stream1 with sspace := true }, { stream1 with cfg := { mode := 1, ifmt := 5, kq := 0 }, next := 127 }],
      let s := held (withCmd 1 0 { streams := [x], active := { fmt := x.cfg.ifmt, depth := 128 } }) 2
      s.blockLive 95 = true ∧ (s.mcAt 95 1).halted = false ∧ (s.mcAt 95 1).streams.getLast? = some x ∧
        x.castled = true ∧ x.next < x.rows ∧
        s.unitWaits 95 x.cls x.sspace false (x.rowAt x.next).1.1 (x.rowAt x.next).1.2 = false ∧
        s.unitWaits 95 x.cls x.sspace false (x.rowAt x.next).2.1 (x.rowAt x.next).2.2 = false ∧
        pairOk x.cfg.mode x.cfg.ifmt (s.mcAt 95 1).active.fmt = true := by
  decide +kernel

theorem witness_MatrixStreams_check :
    (match mcCheck stream1.cfg.tol badRow.vals with | .fail col => col == 0 | _ => false) = true := by
  decide +kernel

/-- Block 95's channel 3 has a command; the cache die holds lines 0 and 1. -/
def withDma (w : Nat) : State := held (withCmd 5 w {}) 2

theorem held_dma (w A m : Nat) (h : A + m ≤ 2048) : HeldRange (withDma w) A m :=
  held_lines (withCmd 5 w {}) rfl 2 A m (by omega) (by omega)

theorem witness_DmaCommands_1 :
    (∀ w ∈ [0, 0x3F, 2, 2 + 2 ^ 6, 2 + 2 * 2 ^ 6, 8 + 15 * 2 ^ 46, 8 + 2 ^ 6 + 15 * 2 ^ 46, 8 + 2 * 2 ^ 6 + 2 ^ 23, 8 + 3 * 2 ^ 6,
        8 + 2 * 2 ^ 6 + 32767 * 2 ^ 8 + 2 ^ 46, 9 + 2047 * 2 ^ 40, 10, 10 + 9 * 2 ^ 6, 10 + 2 ^ 6, 10 + 2 * 2 ^ 6,
        10 + 10 * 2 ^ 6, 10 + 3 * 2 ^ 6, 10 + 11 * 2 ^ 6, 10 + 12 * 2 ^ 6, 10 + 4 * 2 ^ 6, 10 + 5 * 2 ^ 6],
      ChannelReady (withDma w) 95 3 (BitVec.ofNat 64 w) 3) ∧
    (let w := BitVec.ofNat 64 (8 + 15 * 2 ^ 46)
     (wordField w 63 46 + 1) * 64 = 1024 ∧ 0 + 1024 ≤ memBytes ∧
       0 + 1024 ≤ (withDma 0).unitTop 95 ∧ ∀ e ∈ (withDma 0).ccd.words, e.2.poison = false) ∧
    (let w := BitVec.ofNat 64 (8 + 2 * 2 ^ 6 + 32767 * 2 ^ 8 + 2 ^ 46)
     (withDma 0).unitTop 95 < wordField w 22 8 * 64 + (wordField w 63 46 + 1) * 64) ∧
    (let w := BitVec.ofNat 64 (9 + 2047 * 2 ^ 40)
     wordField w 50 40 * 1024 + (wordField w 61 51 + 1) * 1024 ≤ (withDma 0).unitTop 95) ∧
    (∀ w ∈ [8 + 15 * 2 ^ 46, 8 + 2 ^ 6 + 15 * 2 ^ 46, 10, 10 + 9 * 2 ^ 6, 10 + 2 ^ 6, 10 + 2 * 2 ^ 6, 10 + 10 * 2 ^ 6,
        10 + 3 * 2 ^ 6, 10 + 11 * 2 ^ 6, 10 + 12 * 2 ^ 6], (withDma w).dmaWaits 95 3 (BitVec.ofNat 64 w) = false) := by
  unfold ChannelReady Queued
  decide +kernel

theorem witness_DmaCommands_2 :
    (let s : State := (withDma 10).updTg 95 fun g => { g with
       kernel := some { entry := 0, args := 0, groups := 1, width := 8, regs := 16, l1 := 1, cls := 0 } }
     ChannelReady s 95 3 10 3 ∧ 0 < s.l1Units 95 ∧ s.dmaWaits 95 3 10 = false) ∧
    (let s := (withDma 0).updBlk 95 fun B => { B with dma := [(3, { busy := some 0 })] }
     s.blockLive 95 = true ∧ (s.dmaAt 95 3).busy = some 0) := by
  unfold ChannelReady Queued
  decide +kernel

theorem witness_DmaCommands_range :
    (let w := 10 + 8 * 2 ^ 6 + 2 ^ 10
     let s := stored (withCmd 5 w {}) 1
     ChannelReady s 95 3 (BitVec.ofNat 64 w) 3 ∧ Absent s 1 ∧ s.dmaWaits 95 3 (BitVec.ofNat 64 w) = false ∧
       (s.dmaAt 95 3).baseDst + wordField (BitVec.ofNat 64 w) 31 10 * 1024 = 1024) ∧
    (∀ r ∈ [9, 11], let w := 10 + r * 2 ^ 6 + 2 ^ 10
     let s : State := { withCmd 5 w {} with ccd := { lines := [(1, { way := 0, valid := 0xF, dirty := 8, use := 1 })] } }
     ChannelReady s 95 3 (BitVec.ofNat 64 w) 3 ∧ s.dmaWaits 95 3 (BitVec.ofNat 64 w) = false ∧ (s.line 1).isSome = true ∧
       (s.chan (place 1).stk (place 1).ch).state ≠ 2 ∧ (s.serveAs 3 95).placeFree (place 1) true = true ∧
       (s.chan (place 1).stk (place 1).ch).crcDue = 0 ∧ (8 : BitVec 4).getLsbD (1023 / 256) = true) := by
  unfold ChannelReady Queued Absent
  decide +kernel

/-! ### Thread-group words, written out from Tables 6.2 to 6.4 -/

theorem test_tg_words :
    tgOp 0x0000000312100 = 0 ∧ tgCheck 16 0 = 0 ∧
    (let w := 0x01 + 5 * 2 ^ 12 + 6 * 2 ^ 20 + 7 * 2 ^ 28
     tgOp w = 0x01 ∧ tgRd w = 5 ∧ tgRa w = 6 ∧ tgRb w = 7 ∧ tgCheck 8 w = 0 ∧ tgCheck 7 w = 1) ∧
    (let w := 0x12 + 5 * 2 ^ 12 + 0xFFFFFFFF * 2 ^ 32
     tgImm w = 0xFFFFFFFF ∧ tgFunc w = 0 ∧ tgCheck 6 w = 0) ∧
    tgCheck 16 (0x02 + 2 ^ 52) = 1 ∧ tgCheck 16 0x10 = 1 ∧ tgCheck 16 (0x01 + 2 ^ 11) = 1 ∧
    tgCheck 16 (0x50 + 2 ^ 12 + 3 * 2 ^ 36) = 2 := by
  decide

/-! ### Witnesses: thread groups -/

/-- Block 95 in a ply runs group 5 of a kernel with 16 registers, with word w at 0 and threads ths. -/
def tgState (w : Nat) (ths : SMap Thread) : State :=
  { alone with
    blocks := [(95, {
      seq := { st := .run, pc := 0x4000 }, baSt := [(0, { written := true })]
      tg := { kernel := some { entry := 0, args := 0, groups := 6, width := 8, regs := 16, l1 := 0, cls := 5, started := true
                               next := 6, live := [(5, { set := 0, ctx := 0, threads := ths })] } } })]
    ccd := { plyCode := bytesAt 0 8 w } }

/-- Thread 0 alone at counter 0. -/
def one : SMap Thread := [(0, { pc := 0 })]

/-- Threads 0 and 1 at counter 0. -/
def two : SMap Thread := [(0, { pc := 0 }), (1, { pc := 0 })]

/-- Thread 0 at counter 0 and thread 1 ahead of it. -/
def apart : SMap Thread := [(0, { pc := 0 }), (1, { pc := 8 })]

/-- The group of those threads. -/
def grp (ths : SMap Thread) : Group := { set := 0, ctx := 0, threads := ths }

/-- TgIssues and TgClear, in a form that can be evaluated. -/
def issuesB (s : State) (ths : SMap Thread) (w : Nat) : Bool :=
  s.blockLive 95 && (s.blk 95).tg.trapped == false && (s.blk 95).tg.wdFall == false && s.tgGroup 95 5 == some (grp ths) &&
  (grp ths).nextPc == some 0 && (s.blk 95).tg.icChk.isEmpty && s.ccd.plyChk.isEmpty &&
  Mem.rd s.ccd.plyCode (s.blobBase + 0) 8 == w &&
  ((s.blk 95).tg.kernel.map fun k => tgCheck k.regs w) == some 0 &&
  ((grp ths).atPc 0).all (fun i => (s.thread 95 5 i).flagPsn (tgGf w) == false &&
    ((regList (tgSrcs w)).all fun r => ((s.thread 95 5 i).reg r).chk == .good) && (s.thread 95 5 i).pend.isEmpty)

theorem issues (s : State) (ths : SMap Thread) (w : Nat) (h : issuesB s ths w = true) :
    TgIssues s 95 5 (grp ths) 0 w ∧ TgClear s 95 5 (grp ths) 0 w := by
  simp only [issuesB, Bool.and_eq_true, beq_iff_eq, List.all_eq_true, List.isEmpty_iff] at h
  obtain ⟨⟨⟨⟨⟨⟨⟨⟨⟨h1, h2⟩, h3⟩, h4⟩, h5⟩, h6⟩, h0⟩, h7⟩, h8⟩, h9⟩ := h
  refine ⟨⟨by decide, h1, h2, h3, h4, h5, by decide, ?_, ?_, ?_, h7, ?_⟩, fun i hi => (h9 i hi).1.1, fun i hi => ⟨?_, ?_⟩⟩
  · simp [h6, SMap.get]
  · simp [h6, SMap.get]
  · simp [h0, SMap.get]
  · match hk : (s.blk 95).tg.kernel with
    | some k => exact ⟨k, rfl, by simpa [hk] using h8⟩
    | none => simp [hk] at h8
  · exact (h9 i (List.mem_of_mem_filter hi)).1.2
  · simp [(h9 i (List.mem_of_mem_filter hi)).2]

/-- A legal word of each row that writes a register. -/
def valueWords : List Nat :=
  ([0x01, 0x02, 0x03, 0x04, 0x05, 0x06, 0x07, 0x08, 0x09, 0x0A, 0x0B, 0x0F, 0x20, 0x21, 0x22, 0x23, 0x24, 0x28, 0x39].map
    fun op => op + 2 ^ 12 + 2 * 2 ^ 20 + 15 * 2 ^ 28) ++
  ([0x11, 0x12, 0x13, 0x14, 0x16, 0x17, 0x18, 0x19, 0x1A, 0x1B, 0x30, 0x31, 0x33].map
    fun op => op + 2 ^ 12 + 15 * 2 ^ 20 + 0x80000000 * 2 ^ 32) ++
  [0x0C + 2 ^ 12 + 2 ^ 20, 0x0D + 2 ^ 12 + 2 ^ 20, 0x1F + 15 * 2 ^ 12 + 0x80000000 * 2 ^ 32]

theorem witness_ThreadRegisterInstructions :
    (∀ x ∈ tgValueRows 95 5, ∃ w ∈ valueWords, tgOp w = x.1) ∧
    (∀ w ∈ valueWords ++ [0, 0x38 + 2 ^ 12, 0x0E + 2 ^ 12 + 7 * 2 ^ 44], issuesB (tgState w two) two w = true) := by
  decide +kernel

/-- Thread 0 at a MOVR of register 15, which a corrected error is in, to register 1. -/
theorem witness_ThreadRegisterInstructions_single :
    let w := 0x0F + 2 ^ 12 + 15 * 2 ^ 20
    let ths : SMap Thread := [(0, { pc := 0, regs := [(15, { val := 7, chk := .single })] })]
    let s := tgState w ths
    TgIssues s 95 5 (grp ths) 0 w ∧ tgOp w = 0x0F ∧ (∀ j ∈ (grp ths).atPc 0, (s.thread 95 5 j).flagPsn (tgGf w) = false) ∧
      acting s 95 5 (grp ths) 0 w = [0] ∧ (s.thread 95 5 0).pend = [] ∧
      ((s.thread 95 5 0).reg (tgRa w)).chk = .single ∧ tgRd w ≠ tgRa w := by
  refine ⟨?_, by decide +kernel⟩
  unfold TgIssues
  refine ⟨by decide, by decide, by decide, by decide, by decide +kernel, by decide +kernel, by decide, by decide, by decide,
    by decide, by decide +kernel, _, rfl, by decide⟩

theorem witness_ThreadFlagAndLaneInstructions :
    (∀ w ∈ [0x40 + 7 * 2 ^ 12, 0x41 + 5 * 2 ^ 44, 0x42 + 3 * 2 ^ 44, 0x48 + 3 * 2 ^ 44, 0x49, 0x49 + 2 * 2 ^ 12 + 2 * 2 ^ 44, 0x4A,
        0x4A + 3 * 2 ^ 44, 0x4C + 7 * 2 ^ 44, 0x4C + 8 * 2 ^ 44],
      issuesB (tgState w two) two w = true ∧ acting (tgState w two) 95 5 (grp two) 0 w = [0, 1] ∧
        ∀ i ∈ acting (tgState w two) 95 5 (grp two) 0 w, (((tgState w two).thread 95 5 i).reg (tgRb w)).poison = false) := by
  decide +kernel

theorem witness_ThreadScratchpadInstructions :
    ∀ w ∈ [0x50 + 2 ^ 12 + 2 * 2 ^ 36, 0x50 + 2 ^ 39, 0x51 + 4 * 2 ^ 36, 0x54 + 2 * 2 ^ 36 + 12 * 2 ^ 39],
      issuesB (tgState w one) one w = true ∧ tgSem w = 0 ∧ acting (tgState w one) 95 5 (grp one) 0 w = [0] ∧
        (((tgState w one).thread 95 5 0).reg (tgRa w)).poison = false ∧ spOf (tgState w one) 95 5 0 w % 2 ^ tgSize w = 0 ∧
        spOf (tgState w one) 95 5 0 w < (tgState w one).scratchTop 95 ∧ ((tgState w one).thread 95 5 0).pend = [] ∧
        ∀ j, j < tgWords w →
          ((tgState w one).blk 95).wordSt (spOf (tgState w one) 95 5 0 w / 4 + j) = { written := true } := by
  decide +kernel

/-- A line of the L1 with sector 0. -/
def l1line : L1Line := { sector := 0, way := 0, data := [(0, 7)], words := [] }

/-- The state with sector 0 in the L1. -/
def inL1 (s : State) : State := s.updTg 95 fun g => { g with l1 := [l1line] }

/-- A pending load of thread 0 to register 1, and a response that serves it. -/
def pend1 (v : Option (W64 × Bool)) : PendLoad := { rd := 1, addr := 0, size := 2, signed := false, value := v, acq := 0 }

/-- See pend1. -/
def resp1 : CResp := { who := .thread 95 5 0, addr := 0, len := 4, data := [], words := [], fill := true }

theorem witness_ThreadDeviceInstructions_1 :
    ∀ w ∈ [0x52 + 2 ^ 12 + 2 * 2 ^ 36, 0x53 + 3 * 2 ^ 36, 0x55 + 2 * 2 ^ 36 + 12 * 2 ^ 39],
      let s := held (inL1 (tgState w one)) 1
      let s : State := { s with ccd := { s.ccd with plyCode := bytesAt 0 8 w } }
      issuesB s one w = true ∧ tgSem w = 0 ∧ acting s 95 5 (grp one) 0 w = [0] ∧ dvOf s 95 5 0 w = 0 ∧
        0 + 2 ^ tgSize w ≤ memBytes ∧ s.storeOpen 95 0 (2 ^ tgSize w) = false ∧ s.loadOpen 95 0 (2 ^ tgSize w) = false ∧
        s.l1Line 95 0 = some l1line ∧ s.atomicFree 95 5 0 4 = true ∧ (tgState w one).l1Line 95 0 = none ∧
        s.ccd.words = [] := by
  decide +kernel

theorem witness_ThreadDeviceInstructions_2 :
    (let s : State := { tgState 0 [(0, { pc := 8, pend := [pend1 none] })] with ccd := { responses := [resp1] } }
     s.blockLive 95 = true ∧ (s.blk 95).tg.trapped = false ∧ (s.blk 95).tg.wdFall = false ∧
       (s.tgGroup 95 5).isSome = true ∧ (s.thread 95 5 0).pend = [pend1 none] ∧ s.ccd.responses = [resp1] ∧
       resp1.addr ≤ (pend1 none).addr ∧ (pend1 none).addr + 4 ≤ resp1.addr + resp1.len ∧
       (∀ e ∈ resp1.words, e.2.poison = false)) ∧
    (let s := tgState 0 [(0, { pc := 8, pend := [pend1 (some (9, false))] })]
     s.blockLive 95 = true ∧ (s.tgGroup 95 5).isSome = true ∧ (s.thread 95 5 0).pend = [pend1 (some (9, false))]) := by
  decide +kernel

theorem witness_ThreadControlInstructions :
    (∀ w ∈ [0x60 + 0x80000000 * 2 ^ 32, 0x61 + 15 * 2 ^ 12, 0x62, 0x68 + 15 * 2 ^ 28, 0x69, 0x69 + 3 * 2 ^ 44, 0x6A,
        0x63], issuesB (tgState w apart) apart w = true ∧ acting (tgState w apart) 95 5 (grp apart) 0 w = [0] ∧
        ((tgState w apart).thread 95 5 0).pend = []) ∧
    (∃ e ∈ (grp apart).threads, e.2.st = .run ∧ e.1 ∉ [0]) ∧
    (issuesB (tgState 0x63 one) one 0x63 = true ∧ (∀ e ∈ (grp one).threads, e.2.st = .exited ∨ e.1 ∈ [0])) ∧
    (issuesB (tgState 0x68 one) one 0x68 = true ∧ (∀ e ∈ (grp one).threads, e.2.st = .run ∧ e.1 ∈ [0])) ∧
    ((tgState 0x69 one).anyStoreOpen 95 = false ∧ (tgState 0x6A one).uwaitDone 95 0 = true) ∧
    (let w := 0x69 + 2 * 2 ^ 44
     let s := tgState w one
     let s : State := { s with ccd := { s.ccd with slices := [(0, { writes := [
       { addr := 0, len := 4, write := true, bytes := [], poison := false, who := .blockStore 95, cls := 5 }] })] } }
     issuesB s one w = true ∧ s.anyStoreOpen 95 = true) ∧
    (let w := 0x6A + 63 * 2 ^ 28
     let s := (tgState w one).updSeq 95 fun q => { q with issued := [(0, 1)] }
     let s := s.updTg 95 fun g => { g with kernel := g.kernel.map fun k => { k with issued := [(0, 1)] } }
     issuesB s one w = true ∧ s.uwaitDone 95 63 = false) := by
  decide +kernel

theorem witness_ThreadControlInstructions_fence :
    let w := 0x69 + 2 * 2 ^ 44
    issuesB (tgState w one) one w = true ∧ tgFunc w = 2 ∧ acting (tgState w one) 95 5 (grp one) 0 w = [0] ∧
      (tgState w one).anyStoreOpen 95 = false ∧ ((tgState w one).thread 95 5 0).pend = [] := by
  decide +kernel

theorem witness_ThreadTraps_1 :
    (issuesB (tgState (0x6F + 127 * 2 ^ 28) one) one (0x6F + 127 * 2 ^ 28) = true ∧ (grp one).atPc 0 = [0]) ∧
    (∀ op ∈ [0x50, 0x51, 0x54],
      (let w := op + 2 * 2 ^ 36 + 2 ^ 48
       issuesB (tgState w one) one w = true ∧ spOf (tgState w one) 95 5 0 w % 2 ^ tgSize w ≠ 0) ∧
      (let w := op + 2 * 2 ^ 36 + 0xFFFC * 2 ^ 48
       issuesB (tgState w one) one w = true ∧ spOf (tgState w one) 95 5 0 w % 2 ^ tgSize w = 0 ∧
         (tgState w one).scratchTop 95 ≤ spOf (tgState w one) 95 5 0 w) ∧
      (let ths : SMap Thread := [(0, { pc := 0, regs := [(0, { val := 0, poison := true })] })]
       let w := op + 2 * 2 ^ 36
       issuesB (tgState w ths) ths w = true ∧ acting (tgState w ths) 95 5 (grp ths) 0 w = [0] ∧
         (((tgState w ths).thread 95 5 0).reg (tgRa w)).poison = true)) := by
  decide +kernel

theorem witness_ThreadTraps_2 :
    (∀ op ∈ [0x52, 0x53, 0x55],
      (let w := op + 2 * 2 ^ 36 + 2 ^ 48
       issuesB (tgState w one) one w = true ∧ dvOf (tgState w one) 95 5 0 w % 2 ^ tgSize w ≠ 0) ∧
      (let ths : SMap Thread := [(0, { pc := 0, regs := [(1, { val := 0xA0 })] })]
       let w := op + 2 * 2 ^ 36
       issuesB (tgState w ths) ths w = true ∧ dvOf (tgState w ths) 95 5 0 w % 2 ^ tgSize w = 0 ∧
         memBytes < dvOf (tgState w ths) 95 5 0 w + 2 ^ tgSize w)) ∧
    (let s := tgState 0x10 one
     s.blockLive 95 = true ∧ s.tgGroup 95 5 = some (grp one) ∧ (grp one).nextPc = some 0 ∧
       ((grp one).atPc 0).head? = some 0 ∧ (s.blk 95).tg.icChk = [] ∧ Mem.rd s.ccd.plyCode 0 8 = 0x10 ∧
       ((s.blk 95).tg.kernel.map fun k => tgCheck k.regs 0x10) = some 1) ∧
    (let s : State := { tgState 0 one with tick := 80660 }
     let s := s.updTg 95 fun g => { g with kernel := g.kernel.map fun k => { k with
       live := [(5, { grp one with meetAt := some 0 })] } }
     s.blockLive 95 = true ∧ s.tgGroup 95 5 = some { grp one with meetAt := some 0 } ∧
       2 ^ (s.region (95 / 12)).wdExp ≤ (s.tick - 0) * 13) := by
  decide +kernel

theorem witness_KernelDispatchAndCompletion :
    (let k : Kernel := { entry := 0, args := 0, groups := 6, width := 8, regs := 16, l1 := 0, cls := 5 }
     let s := (tgState 0 []).updTg 95 fun g => { g with kernel := some k }
     s.blockLive 95 = true ∧ (s.blk 95).tg.kernel = some k ∧ k.next < k.groups ∧ k.place = some (0, 0)) ∧
    (let k : Kernel := { entry := 0, args := 0, groups := 1, width := 64, regs := 255, l1 := 8, cls := 5, next := 1 }
     let s := (tgState 0 []).updTg 95 fun g => { g with kernel := some k }
     s.blockLive 95 = true ∧ (s.blk 95).tg.kernel = some k ∧ k.groups ≤ k.next ∧ k.live = [] ∧
       s.anyStoreOpen 95 = false ∧ k.l1 ≤ 8) := by
  decide +kernel

theorem witness_KernelDispatchAndCompletion_l1 :
    (let k : Kernel := { entry := 0, args := 0, groups := 6, width := 8, regs := 16, l1 := 1, cls := 5 }
     let s := (tgState 0 []).updTg 95 fun g => { g with kernel := some k }
     s.blockLive 95 = true ∧ (s.blk 95).tg.kernel = some k ∧ k.next < k.groups ∧ k.place = some (0, 0) ∧ k.started = false ∧
       s.startedRanges 95 = []) ∧
    (let k : Kernel := { entry := 0, args := 0, groups := 6, width := 8, regs := 16, l1 := 1, cls := 5 }
     let s := (tgState 0 []).updTg 95 fun g => { g with kernel := some k }
     let s := s.updBlk 95 fun B => { B with mc := [(1, { loading := some { load1 with addr := 0x1BF040 } })] }
     (s.blk 95).tg.kernel = some k ∧ k.started = false ∧ k.l1 ≠ 0 ∧
       ∃ r ∈ s.startedRanges 95, 0 < r.2 ∧ (8 - k.l1) * 0x40000 < r.1 + r.2) := by
  decide +kernel

/-! ### Witnesses: cache die and HBM -/

/-- Work in slice 7; line 7 is of it. -/
def withSlice (k : Slice) : State := { inState .running with ccd := { slices := [(7, k)] } }

/-- Requests of a thread for a word of line 7, and of a block for part of one. -/
def readReq : CReq :=
  { addr := 7 * 1024 + 512, len := 4, write := false, bytes := [], poison := false, who := .thread 95 1 2, cls := 7 }

/-- See readReq. -/
def writeReq : CReq :=
  { addr := 7 * 1024 + 1016, len := 8, write := true, bytes := [(0, 1)], poison := false, who := .blockStore 95, cls := 0 }

/-- Line 7 alone is held whole. -/
def hold7 (s : State) : State :=
  { s with ccd := { s.ccd with lines := [(7, { way := 0, valid := 0xF, dirty := 0, use := 1 })] } }

theorem held7 (k : Slice) (A m : Nat) (h0 : 7 * 1024 ≤ A) (h1 : A + m ≤ 8 * 1024) :
    HeldRange (hold7 (withSlice k)) A m := by
  refine ⟨by simp [hold7, withSlice, inState, State.reset], fun L h2 h3 => ?_⟩
  obtain rfl : L = 7 := by omega
  exact ⟨_, rfl, rfl⟩

theorem witness_CacheDieRequests_read :
    HeldRange (hold7 (withSlice { reads := [readReq] })) readReq.addr readReq.len ∧
    (∀ s ∈ [withSlice { reads := [readReq] }, hold7 (withSlice { reads := [readReq] })],
      s.dev ≠ .fault ∧ (s.slice 7).reads = [readReq] ∧ readReq.addr % 1024 + readReq.len ≤ 1024 ∧
        s.qos.ceiling 0 95 = false ∧ s.reqHeld readReq = false ∧ (∀ h ∈ s.ccd.waiting, HeldAccess.sched h = false)) ∧
    (inState .fault).dev = .fault ∧
    (∀ l, (hold7 (withSlice { reads := [readReq] })).line 7 = some l → l.fetching = false) ∧
    ((withSlice { reads := [readReq] }).line (readReq.addr / 1024) = none ∧
      (withSlice {}).setLines 7 = [] ∧ 0 < (withSlice {}).cacheWays) := by
  refine ⟨held7 _ _ _ (by decide) (by decide), by decide, rfl, fun l h => ?_, by decide⟩
  cases h
  rfl

theorem witness_CacheDieRequests_write :
    HeldRange (hold7 (withSlice { writes := [writeReq] })) writeReq.addr writeReq.len ∧
    (∀ s ∈ [withSlice { writes := [writeReq] }, hold7 (withSlice { writes := [writeReq] })],
      s.dev ≠ .fault ∧ (s.slice 7).writes = [writeReq] ∧ writeReq.addr % 1024 + writeReq.len ≤ 1024 ∧
        s.qos.ceiling 1 95 = false ∧ s.reqHeld writeReq = false ∧ (∀ h ∈ s.ccd.waiting, HeldAccess.sched h = false)) ∧
    ((withSlice { writes := [writeReq] }).line 7 = none ∧
      (withSlice { writes := [writeReq] }).firstWrite (.line (writeReq.addr / 1024)) = true) := by
  exact ⟨held7 _ _ _ (by decide) (by decide), by decide, by decide⟩

/-- A set of slice 0 whose ways are all taken; used in the order of their ways, the first pinned. -/
def fullSet : State :=
  { inState .ready with ccd := { lines := (List.range 44).map fun w =>
      (w <<< 16, { way := w, valid := 0xF, dirty := 0, use := w + 1, pinned := w == 0 }) } }

theorem witness_CacheDieRequests_fill :
    (let k : Slice := { fills := [7], merged := [readReq] }
     HeldRange (hold7 (withSlice k)) readReq.addr readReq.len ∧
       (hold7 (withSlice k)).dev ≠ .fault ∧ ((hold7 (withSlice k)).slice 7).fills.head? = some 7 ∧ (hold7 (withSlice k)).claimed 7 = false ∧
       (hold7 (withSlice k)).evicting 7 = false ∧ (k.merged.filter fun q => q.line == 7) = [readReq]) ∧
    fullSet.victim 0x1000000 44 = some (1, some 0x10000) :=
  ⟨⟨held7 _ _ _ (by decide) (by decide), by decide, by decide, by decide, by decide, by decide⟩, by decide +kernel⟩

/-- A reduction of BF16 sources by sum into 512 bytes of line 7. -/
def red7 : RedReq := { step := 0, cls := 1, op := 1, src := [], srcPoison := 0, dest := 7 * 1024 + 512, first := false }

theorem witness_ReductionsAndScrubbers_1 :
    (∀ op, op < 6 → (7 * 1024) % redDest op 256 = 0) ∧
    (let s := hold7 (withSlice { reds := [red7] })
     HeldRange s red7.dest (redDest 1 256) ∧ (s.slice 7).reds = [red7] ∧ red7.dest % redDest red7.op 256 = 0 ∧
       s.dev ≠ .fault ∧ s.redWaits red7 = false ∧ (∀ e ∈ s.ccd.words, e.2.poison = false)) ∧
    (∀ c ∈ [Chk.single, Chk.bad], ∀ d ∈ [(0 : BitVec 4), 0xF],
      let e : Nat × Line := (7, { way := 47, valid := 0xF, dirty := d, use := 1 })
      let s : State := withSlice { scrubPos := 1 }
      let s : State := { s with ccd := { s.ccd with lines := [e], words := RMap.fill {} [] 1023 1 { chk := c } } }
      s.served = true ∧ s.ccd.scrubEn = true ∧ (s.slice 7).scrubPos ≠ 0 ∧ s.scrubFrom 7 (s.slice 7).scrubPos = [e] ∧
        s.reservedKeys 7 = [] ∧ s.ccd.stuck = [] ∧
        (s.slice 7).bankIdle (lineSet e.1 % 32) = true ∧ s.line e.1 = some e.2 ∧ e.1 * 128 ≤ 1023 ∧
        1023 < e.1 * 128 + 128) ∧
    (let s : State := { inState .ready with ccd := { scrubEn := false } }
     s.served = true ∧ s.ccd.scrubEn = false) := by
  refine ⟨by decide, ⟨held7 _ _ _ (by decide) (by decide), by decide, by decide, by decide, by decide, by decide⟩,
    by decide, by decide⟩

theorem witness_ReductionsAndScrubbers_2 :
    let w := 2047 * 256 + 248 + 7
    let s : State := { inState .ready with blocks := [(95, {
      scrubRow := [(31, 2047)]
      baSt := [(0, { written := true }), (w, { written := true, chk := .bad }), (w + 1, { written := true })] })] }
    s.served = true ∧ (s.region (95 / 12)).scrubEn = true ∧ s.slotOf 95 = some (7, 11) ∧ (s.blk 95).tg.l1 = [] ∧
      w / 8 = SMap.get 0 (s.blk 95).scrubRow 31 % 2048 * 32 + 31 := by
  decide +kernel

/-- The last sector of the L1 in the last row of its range, in a block whose kernel has all eight units. -/
theorem witness_ReductionsAndScrubbers_3 :
    let l : L1Line := { sector := 1023, way := 7, data := [], words := RMap.fill {} [] 63 1 { chk := .bad } }
    let s : State := { inState .ready with blocks := [(95, {
      scrubRow := [(31, 2047)]
      tg := { l1 := [l], kernel := some { entry := 0, args := 0, groups := 1, width := 8, regs := 16, l1 := 8, cls := 0 } } })] }
    s.served = true ∧ (s.region (95 / 12)).scrubEn = true ∧ s.slotOf 95 = some (7, 11) ∧ (s.blk 95).baSt = [] ∧
      (s.blk 95).tg.l1 = [l] ∧
      SMap.get 0 (s.blk 95).scrubRow 31 % 2048 * 1024 + 31 * 32 =
        (8 - 8) * 0x40000 + (l.sector % (128 * 8) * 8 + l.way) * 256 + 32 * 7 := by
  decide

/-- A channel's only request is r, at its place. -/
def withReq (r : HReq) (ws : RMap HWord) : State :=
  { inState .ready with
    hbmStacks := [((place r.line).stk, { chans := [((place r.line).ch, { queue := [r] })] })], hbmWords := ws
    ccd := { lines := [(r.line, { way := 0, valid := 0, dirty := 0, use := 1, fetching := true })] } }

/-- A fetch and a write-back of the last line of installed memory. -/
def lastLine (write retried : Bool) : HReq :=
  { line := 671088639, sectors := 0xF, write := write, data := [], words := [], cls := 7, master := 0, forLine := none
    arrived := 0, retried := retried }

theorem witness_HbmChannels_service :
    ∀ w ∈ [true, false], ∀ b ∈ [true, false],
      let r := lastLine w b
      let p := place r.line
      let s := withReq r [(0, { mark := .data })]
      p.stk < 8 ∧ p.ch < 32 ∧ s.alive = true ∧ (s.chan p.stk p.ch).state = 0 ∧ (s.chan p.stk p.ch).retrainDue = false ∧
        (s.chan p.stk p.ch).bypass = [] ∧ (s.chan p.stk p.ch).queue = [r] ∧ (s.nbStack p.stk).run = none ∧
        (s.chan p.stk p.ch).window = none ∧ s.sharedHolds = false ∧ (∀ x, x < 32 → RMap.get {} s.hbmWords (p.store * 32 + x) = { mark := .data }) ∧
        (s.line r.line).isSome = true ∧ (∀ c, c < 32 → (s.chan p.stk c).state ≠ 1) := by
  decide +kernel

theorem witness_HbmChannels_scrub :
    (let s : State := { inState .ready with tick := 195 }
     s.mainOn = true ∧ (s.nbStack 7).run = none ∧ (∃ ch < 32, s.refreshDue 7 ch = true)) ∧
    (∀ c ∈ [Chk.single, Chk.bad],
      let m := chanLines - 1
      let p := place (lineAt 7 31 m)
      let s : State := { inState .ready with
        hbmStacks := [(7, { chans := [(31, { scrubPos := m })] })]
        hbmWords := [(0, { mark := .data }), (p.store * 32 + 31, { mark := .data, chk := c }), (p.store * 32 + 32, { mark := .data })] }
      s.served = true ∧ (s.stack 7).scrubEn = true ∧ m = s.scrubLine 7 31 (s.chan 7 31).scrubPos ∧ m < chanLines ∧
        s.bankHeld 7 31 p.b = false ∧ (s.chan p.stk p.ch).crcDue = 0 ∧ (s.nextSpare p.stk p.ch p.b).isSome = true ∧ (s.chan p.stk p.ch).candidates = [] ∧
        (s.chan p.stk p.ch).window = none ∧ (s.chan p.stk p.ch).remapped = [] ∧ (s.chan p.stk p.ch).refusedRows = [] ∧ s.flash.remaps = [] ∧
        (∀ x, x < 31 → RMap.get {} s.hbmWords (p.store * 32 + x) = { mark := .data }) ∧
        RMap.get {} s.hbmWords (p.store * 32 + 31) = { mark := .data, chk := c }) := by
  decide +kernel

theorem witness_HbmChannels_retrain :
    (∀ f, f < 3 →
      let s : State := { inState .running with hbmStacks := [(7, { chans := [(31, { state := 1, failsInRow := f })] })] }
      s.alive = true ∧ (s.chan 7 31).state = 1 ∧ (s.chan 7 31).retrainDue = false ∧ (s.chan 7 31).failsInRow = f ∧
        (∀ c, c < 32 → c ≠ 31 → (s.chan 7 c).state ≠ 1 ∧ (s.chan 7 c).retrainDue = false) ∧ s.err.phase = 0) ∧
    (∀ l ∈ [true, false],
      let s : State := { inState .ready with
        hbmStacks := [(7, { liveRemap := l, chans := [(0, { candidates := [{ bank := 31, row := 40959 }] })] })] }
      s.alive = true ∧ (s.chan 7 0).candidates = [{ bank := 31, row := 40959 }] ∧ (s.chan 7 0).state = 0 ∧
        (s.chan 7 0).window = none ∧ (s.nextSpare 7 0 31).isSome = true ∧ s.refreshDue 7 0 = true ∧ (s.nbStack 7).run = none) ∧
    (let s : State := { inState .ready with
       hbmStacks := [(7, { chans := [(31, { window := some { bank := 31, row := 40959 } })] })] }
     s.alive = true ∧ (s.chan 7 31).window = some { bank := 31, row := 40959 }) := by
  decide +kernel

/-! ### Witnesses: near-bank processing and the collective engine -/

/-- A ply-code command record at 0, with its micro-program, the word w, at 0x40. -/
def nbRec (w : Nat) : Mem := [(0, 0x14), (24, 0x40)] ++ bytesAt 0x40 4 w

/-- The state of withCmd with a licence and that record. -/
def nbState (w : Nat) : State :=
  let s := withCmd 6 0 {}
  { s with sec := { features := 0xFFFFFFFF }, blocks := s.blocks.map fun e => (e.1, { e.2 with ba := nbRec w }) }

/-- Near-bank command of one micro-op word w in the last unit of a stack, on the last row of bank bk. -/
def nbCmd (iss : NbIssuer) (w : Nat) : NbCmd :=
  { issuer := iss, dieLo := 15, dieHi := 15, pairLo := 31, pairHi := 31, fmt := 0, prog := [BitVec.ofNat 32 w], colStart := 63, cols := 1
    steps := 1, rowE := 40959, rowO := 40959, strideE := 0, strideO := 0, cls := 0 }

/-- Stack 7's sequencer with that content. -/
def withNb (k : NbStack) (g : BitVec 80) : State :=
  { inState .running with pim := { seqs := [(7, k)] }, hbmStacks := [(7, { openGran := g })] }

/-- Micro-op words: op in bits 3 to 0, destination in 6 to 4, a in 9 to 7, b in 12 to 10. -/
theorem test_micro_op_words :
    microOp (1 + 4 * 2 ^ 4 + 3 * 2 ^ 7) = { op := 1, dst := 4, a := 3, b := 0, res := 0, imm := 0 } ∧
    microOp (2 + 5 * 2 ^ 4 + 3 * 2 ^ 7 + 2 * 2 ^ 10) = { op := 2, dst := 5, a := 3, b := 2, res := 0, imm := 0 } ∧
    (microOp (1 + 4 * 2 ^ 4 + 5 * 2 ^ 7)).ok 0 = false ∧ (microOp 0).ok 0 = false ∧
    (microOp (5 + 4 * 2 ^ 16)).ok 0 = true ∧ (microOp (5 + 5 * 2 ^ 16)).ok 0 = false := by
  decide

theorem witness_NearBankCommands_accept :
    ((withCmd 6 0 {}).nbLicensed = false ∧
      ∃ more, SMap.get [] ((withCmd 6 0 {}).blk 95).seq.queues 6 = (0, 3) :: more) ∧
    ((nbState 1).inPly = true ∧ ((nbState 1).blk 95).halted = false ∧
      SMap.get [] ((nbState 1).blk 95).seq.queues 6 = [(0, 3)] ∧ 0 + 64 ≤ (nbState 1).scratchTop 95 ∧
      (nbState 1).nbLicensed = true ∧ (nbState 1).sec.nbFailed = false ∧
      (let dws := (List.range 16).map fun i => ((nbState 1).blk 95).word i
       let prog := [((nbState 1).blk 95).word 16]
       dwN dws 7 = 0 ∧ dwN dws 3 % 64 + 1 = 1 ∧ dwN dws 6 = 0x40 ∧
         (nbBuild (.block 95 0 (nbState 1).sch.ply) true 3 dws prog).isRight = true) ∧
      ((nbState 1).nbStack 0).devQ.length < 16) ∧
    (GoodWords ((nbState 1).blk 95) 0 16 ∧ GoodWords ((nbState 1).blk 95) 16 1) := by
  exact ⟨⟨by decide, [], by decide⟩, by decide +kernel,
    allWritten (nbState 1) 95 0 16 rfl, allWritten (nbState 1) 95 16 1 rfl⟩

theorem witness_NearBankCommands_start :
    (∀ w ∈ [0x41, 0x51], ∀ iss ∈ [NbIssuer.host 4, .block 95 63 9],
      let c := nbCmd iss w
      let s := withNb (if iss.device then { devQ := [c] } else { hostQ := [c] }) (BitVec.allOnes 80)
      (s.nbStack 7).run = none ∧ s.mainOn = true ∧ s.pim.compat = false ∧ (∀ u ∈ c.units, (s.chan 7 u.2).state ≠ 2) ∧
        (if iss.device then (s.nbStack 7).devQ = [c] else (s.nbStack 7).devQ = [] ∧ (s.nbStack 7).hostQ = [c]) ∧
        (∀ r ∈ c.rows, (s.stack 7).isOpen (r.2 * 64) = true) ∧ s.nbStartWaits 7 c = false) ∧
    (let c := nbCmd (.block 95 63 9) 0x41
     (withNb { devQ := [c] } 0).pim.heldGran = [] ∧ ∃ r ∈ c.rows, ((withNb { devQ := [c] } 0).stack 7).isOpen (r.2 * 64) = false) := by
  decide +kernel

theorem witness_NearBankCommands_run :
    (∀ p ∈ [NbPhase.journal, .window, .segment 1, .refresh], ∀ iss ∈ [NbIssuer.host 4, .block 95 63 9],
      let r : NbRun := { cmd := nbCmd iss 0x41, phase := p }
      let s := withNb { run := some r } (BitVec.allOnes 80)
      (s.nbStack 7).run = some r ∧ r.phase = p ∧ s.pim.heldGran = []) ∧
    (let r : NbRun := { cmd := nbCmd (.host 4) 0x41, phase := .window, winAt := 100 }
     let s : State := { withNb { run := some r } 0 with tick := 150, pim := { seqs := [(7, { run := some r })], svcWin := 50 } }
     (s.nbStack 7).run = some r ∧ r.winAt + s.pim.svcWin ≤ s.tick) ∧
    (∀ w ∈ [0x41, 0x51, 2 + 16 + 2 ^ 7 + 4 * 2 ^ 10, 3 + 5 * 2 ^ 4 + 2 * 2 ^ 7 + 3 * 2 ^ 10, 4 + 2 ^ 16, 5 + 2 ^ 16],
      (nbCmd (.host 4) w).ops = [microOp (BitVec.ofNat 32 w)] ∧ (microOp (BitVec.ofNat 32 w)).ok 0 = true ∧
        (microOp (BitVec.ofNat 32 w)).op ≠ 6 ∧ (microOp (BitVec.ofNat 32 w)).dst < 6) := by
  decide +kernel

/-- Dwords of a step record: step kind and further fields of dword 0, dword 1, queues, local, dest, bytes. -/
def ceRec (d0 d1 q loc dest n : W32) : List W32 := dws [d0, d1, q, 0, loc, 0, dest, 0, n, 0xC1D]

/-- Bytes of a list of dwords. -/
def dwBytes (l : List W32) : Mem := Mem.ofBytes 0 (l.flatMap fun (v : W32) => (List.range 4).map fun i => (v >>> (8 * i)).setWidth 8)

/-- A record of each kind: SEND and RECV of a triple, REDUCE, COMBINE, MIRROR. -/
def ceRecs : List (List W32) :=
  [ceRec 0x401 0x200000 63 0 0 144, ceRec 2 63 0 0 256 131072, ceRec 0x2000003 0x100 5 0 0x400 256,
   ceRec 0x3000404 0x200000 0 0 0x100 144, ceRec 5 0 0 0x200 0x400 0x1000000]

/-- The state of withCmd with that record at 0 and every feature. -/
def ceState (l : List W32) : State :=
  let s := withCmd 7 0 {}
  { s with sec := { features := 0xFFFFFFFF }, blocks := s.blocks.map fun e => (e.1, { e.2 with ba := dwBytes l }) }

theorem witness_CollectiveEngine_accept :
    (∀ l ∈ ceRecs,
      let s := ceState l
      s.inPly = true ∧ (s.blk 95).halted = false ∧ SMap.get [] (s.blk 95).seq.queues 7 = [(0, 3)] ∧
        s.ce.stepQ.length < 64 ∧ 0 + 64 ≤ s.scratchTop 95 ∧ l = (List.range 16).map (fun i => (s.blk 95).word (0 / 4 + i)) ∧
        ceCheck s l (decide (64 ≤ 0)) (ceStepOf 95 3 s.sch.ply (0 % 64) l) = none) ∧
    (∀ k ∈ [0, 6, 255], let l := ceRec (BitVec.ofNat 32 k) 0 0 0 0 16
      l = (List.range 16).map (fun i => ((ceState l).blk 95).word (0 / 4 + i))) ∧
    (∀ l, GoodWords ((ceState l).blk 95) 0 16) :=
  ⟨by decide +kernel, by decide +kernel, fun l => allWritten (ceState l) 95 0 16 rfl⟩

/-- A step of a kind with queue 63. -/
def ceStep (kind etype d bytes : Nat) : CeStep :=
  { i := 0, block := 95, sem := 63, ply := 0, cls := 7, kind := kind, etype := etype, rop := 0, first := false
    useLocal := true, declare := false, addSlot := false, slot := 0, nin := 0, d := d, queues := [63], localAddr := 0
    dest := 1024, bytes := bytes, cid := 1 }

/-- A ply with that step queued, or running, and an input queue that entry 0 filled. -/
def withStep (q : List CeStep) (r : List (CeStep × CeSt)) (inq : List CeFrame) : State :=
  { held alone 2 with ce := { stepQ := q, running := r, inQ := [(63, inq)] }, fab := { received := [(0, [1, 0])] } }

/-- A contribution of 512 zero bytes with a digest that fits a RECV of etype 0, of a given count of bytes. -/
def frames (n : Nat) : List CeFrame :=
  [{ payload := [], pmask := 0, port := 1 },
   { payload := bytesAt 0 4 0x44475354 ++ bytesAt 4 4 1 ++ bytesAt 8 4 n ++ bytesAt 0x10 8 1, pmask := 0, port := 1
     seq := 1, last := true }]

/-- The CRC of zeros is zero, so that of a digest that holds another does not agree. -/
theorem crc64_zeros : ∀ bs : List Byte, (∀ b ∈ bs, b = 0) → crc64 bs = 0 := by
  have h0 : crc64Shift 8 0 = 0 := by decide
  have h : ∀ bs : List Byte, (∀ b ∈ bs, b = 0) → bs.foldl (fun c b => crc64Shift 8 (c ^^^ b.toNat * 2 ^ 56)) 0 = 0 := by
    intro bs
    induction bs with
    | nil => exact fun _ => rfl
    | cons b bs ih =>
      intro hb
      have hz : b = 0 := hb b (by simp)
      subst hz
      simpa [h0] using ih fun x hx => hb x (by simp [hx])
  exact fun bs hb => by simp only [crc64, h bs hb]; rfl

theorem witness_CollectiveEngine_run :
    (∀ c ∈ [ceStep 1 0 0 1024, ceStep 3 0 0 256, ceStep 4 4 32 144, ceStep 5 0 0 512],
      let s := withStep [c] [] []
      s.inPly = true ∧ s.ce.running.length < 16 ∧ s.ce.stepQ = [c] ∧ c.i = 0 ∧ c.queues.getD 0 0 = 63 ∧ 0 < c.bytes ∧
        (SMap.get [] s.ce.outQ 63).length + c.frames + 1 ≤ 512 ∧ s.localWaits c = false ∧ s.destWaits c = false ∧ (c.kind = 4 → c.bytes % (16 + 4 * c.d) = 0)) ∧
    (∀ q r i, HeldRange (withStep q r i) 0 1024 ∧ HeldRange (withStep q r i) 1024 1024) ∧
    (let c := ceStep 2 0 0 512
     (∃ x, (withStep [c] [] (frames 512)).contribution c 63 = some x ∧ x.malformed c = false ∧
       (∀ b ∈ Mem.span x.data 0 (512 * c.frames), b = 0) ∧ Mem.rd64 x.digest 0x10 = 1) ∧
     (∃ x, (withStep [c] [] (frames 256)).contribution c 63 = some x ∧ x.malformed c = true) ∧
     (withStep [c] [] []).contribution c 63 = none) := by
  refine ⟨by decide +kernel, fun q r i => ?_, ⟨_, rfl, by decide +kernel, by decide +kernel, by decide +kernel⟩, ⟨_, rfl, by decide +kernel⟩,
    by decide +kernel⟩
  exact ⟨held_lines alone rfl 2 0 1024 (by omega) (by omega), held_lines alone rfl 2 1024 1024 (by omega) (by omega)⟩

theorem witness_CollectiveEngine_end :
    (let c := { ceStep 3 0 0 512 with nin := 2, queues := [63, 63] }
     ∀ k, k < 2 →
      let s := withStep [] [(c, .waiting k)] (frames 512)
      s.inPly = true ∧ s.ceRunning 0 = some (c, .waiting k) ∧ s.redsOf 0 = false ∧ c.queues.getD k 0 = 63 ∧
        (match s.contribution c 63 with | some x => x.malformed c == false | none => false) = true) ∧
    (let s := withStep [] [(ceStep 5 0 0 512, .finished)] []
     s.inPly = true ∧ s.ceRunning 0 = some (ceStep 5 0 0 512, .finished) ∧ s.redsOf 0 = false) := by
  decide +kernel

/-! ### Witnesses: the fabric -/

/-- Device 1 of two in a ply, whose port 19 is k; its ports 18 and 19 are the two of dimension 0. -/
def on19 (k : Port) (xs : List Xfer) : State :=
  { inState .running with
    image := some { image (member (List.replicate 18 0xFF ++ [1, 0]) xs) with
      dims := [2, 1, 1, 1], nActive := 2, checkDiam := 2, hopBudget := 10, ldev := 1 }
    fab := { ports := [(18, { state := 2, fn := 1, partner := 1 }), (19, k)] }
    sch := { live := true, len := 1024, locked := true } }

/-- A port that is up, of function 0. -/
def up : Port := { state := 2, fn := 0, partner := 1 }

/-- A frame header with nothing to return. -/
def hdr : FrameHdr := { sent0 := 0, sent1 := 0, freed0 := 0, freed1 := 0, reservedSet := false, relay := 0 }

theorem hears (k : Port) (xs : List Xfer) (h1 : k.isUp = true) (h2 : k.realigning = false) (h3 : k.sent0 = 0) (h4 : k.sent1 = 0) :
    Hears (on19 k xs) 19 hdr := by
  have hp : (on19 k xs).port 19 = k := rfl
  unfold Hears
  rw [hp, h1, h2, h3, h4]
  exact ⟨by decide, rfl, rfl, rfl, rfl, rfl, rfl, rfl, by decide, by decide⟩

/-- An expect entry of port 19: its last frame is number 2, and it applies in every other ply. -/
def entry (kind off : Nat) : Xfer :=
  { tick := 512, expect := true, port := 19, frames := 3, period := 2, phase := 0, flow := 9, kind := kind, offset := off }

/-- Frame seq of that flow. -/
def data9 (seq : BitVec 16) (ply : W32) : SData := { flow := 9, seq := seq, plyLo := ply, pmask := 0, payload := [(511, 1)] }

/-- A frame of each type, with payloads and masks at their bounds. -/
def fitting : List Frame :=
  [.idle, .sData { flow := 0xFFFF, seq := 1, plyLo := 2, pmask := 0xFFFF, payload := [(0, 1), (511, 0xFF)] },
   .sCheck { clean := true, replayable := false, stop := true, stretch := 0xFF, blame := true, round := 255, plyLo := 7 },
   .sArm true 0xFFFFFFFFFFFFFFFF, .tBeacon 256 0x7FFF true, .join 0x77 1, .link .laneMove 16 true 0xFFFFFFFF,
   .v { op := .read, tag := 4095, gen := 3, dst := 1, src := 2, len512 := true, addr := 0xFFFFFFFF, pmask := 0, reason := 0
        bwclass := 7, vc := true, payload := [] },
   .v { op := .response, tag := 0, gen := 0, dst := 1, src := 2, len512 := false, addr := 0, pmask := 0xFF, reason := 0
        bwclass := 0, vc := false, payload := [(255, 1)] },
   .v { op := .nak, tag := 0, gen := 0, dst := 1, src := 2, len512 := false, addr := 0, pmask := 0, reason := 0xFF
        bwclass := 0, vc := false, payload := [] }]

theorem witness_FabricFramesReceived_bytes :
    (∀ f ∈ fitting, FrameFits f) ∧ hdr.reservedSet = false ∧
    (∀ i, i < 8 → (∀ c ∈ frameCodewords i, ([] : List Nat).getD c 0 ≤ 15) ∧
      ∃ c ∈ frameCodewords i, 15 < (List.replicate 32 16).getD c 0) := by
  unfold FrameFits
  refine ⟨?_, rfl, by decide⟩
  simp only [fitting, List.forall_mem_cons]
  refine ⟨?_, ?_, ?_, ?_, ?_, ?_, ?_, ?_, ?_, ?_, fun _ h => by cases h⟩ <;> decide +kernel

theorem witness_FabricFramesReceived_1 :
    Hears (on19 up []) 19 hdr ∧ PortUp (on19 up []) 19 ∧ { hdr with reservedSet := true }.reservedSet = true ∧
    (∀ x ∈ [(0, 0x400), (2, 95 * 2 ^ 48 + 0x1FFA00), (4, 63)],
      let k := x.1
      let o := x.2
      let s := on19 up [entry k o]
      s.running = true ∧ s.inPly = true ∧ (s.port 19).joinDue = false ∧
        s.plan.map Section.xfers = some [entry k o] ∧ s.xferApplies (entry k o) = true ∧
        (data9 2 0).plyLo.toNat = s.sch.ply.toNat % 2 ^ 32 ∧ (data9 2 0).seq.toNat < (entry k o).frames ∧
        (entry k o).frames ≤ (data9 3 0).seq.toNat ∧ (data9 2 1).plyLo.toNat ≠ s.sch.ply.toNat % 2 ^ 32 ∧
        (data9 2 0).seq.toNat ∉ SMap.get [] s.fab.accepted 0 ∧ s.plyTick ≤ (entry k o).tick ∧
        (SMap.get [] s.ce.inQ 63).length < 512) ∧
    (held (on19 up [entry 0 0x200]) 2).serveSched.waits true (0x200 + 512 * 2) 512 = false ∧
    0x1FFA00 % 2 ^ 21 + 512 * 2 + 512 ≤ (on19 up []).unitTop 95 ∧
    HeldRange (held (on19 up [entry 0 0x200]) 2) (0x200 + 512 * 2) 512 := by
  refine ⟨hears _ _ rfl rfl rfl rfl, by unfold PortUp; decide, rfl, by decide +kernel, by decide +kernel,
    by decide +kernel, held_lines _ rfl 2 _ _ (by omega) (by omega)⟩

theorem witness_FabricFramesReceived_2 :
    (let f := flood .check {}
     let c : SCheck := { clean := false, replayable := true, stop := false, stretch := 0, blame := true, round := 1, plyLo := 3 }
     let s : State := { on19 up [] with tick := 40, sch := { (on19 up []).sch with flood := some f } }
     Hears s 19 hdr ∧ s.running = true ∧ f.kind ≠ .arm ∧ 19 ∈ s.floodPorts ∧ s.roundDue f = some c.round.toNat ∧
       c.plyLo.toNat = f.ply.toNat % 2 ^ 32) ∧
    (let s : State := { on19 up [] with dev := .joined, sch := { flood := some (flood .arm {}) } }
     Hears s 19 hdr ∧ s.dev = .joined ∧ 19 ∈ s.floodPorts ∧ s.sch.laterArms = []) ∧
    (let s : State := { on19 up [] with dev := .ready, sch := { join := some { uid := 4, startTick := 0 } } }
     Hears s 19 hdr ∧ (∃ im, s.image = some im ∧ im.imageId = 0x77) ∧ (s.port 19).fn ≠ 0xFF ∧ (1 : BitVec 15).toNat = s.partnerOf 19 ∧
       (2 : BitVec 15).toNat ≠ s.partnerOf 19) ∧
    (let s := on19 { up with joinDue := true } []
     Hears s 19 hdr ∧ s.sch.join = none ∧ s.inDomain = true ∧ (s.port 19).joinDue = true) ∧
    (let s := on19 { up with remeasure := true, joinOwed := 1 } []
     Hears s 19 hdr ∧ s.sch.join = none ∧ s.inDomain = true ∧ (s.port 19).remeasure = true ∧
       (s.port 19).joinDue = false) := by
  unfold Hears
  refine ⟨by decide, by decide, ⟨by decide, ⟨_, rfl, rfl⟩, by decide⟩, by decide, by decide⟩

theorem witness_FabricFramesReceived_echo (own due : Bool) :
    let k : Port := { up with echo := some 9, joinOwn := own, remeasure := due, budget := 5 }
    Hears (on19 k []) 19 hdr ∧ ((on19 k []).port 19).echo = some 9 ∧ ((on19 k []).port 19).linkQ = [] ∧
      ((on19 k []).port 19).joinOwn = own ∧ ((on19 k []).port 19).remeasure = due ∧ 101 / 2 ≤ 10 * ((on19 k []).port 19).budget :=
  ⟨hears _ _ rfl rfl rfl rfl, rfl, rfl, rfl, rfl, by show 101 / 2 ≤ 10 * 5; decide⟩

theorem witness_FabricFramesReceived_lanes :
    Hears (on19 up []) 19 hdr ∧
    (up.mirror = none ∧ up.wait = [] ∧ up.txWidths = [] ∧ 15 ≠ up.txSpare ∧ 16 = up.txSpare ∧ up.txUsed = false ∧
      up.echo ≠ some 0) ∧
    (let k : Port := { up with mirror := some (3, 0) }
     Hears (on19 k []) 19 hdr ∧ ((on19 k []).port 19).mirror.isSome = true) :=
  ⟨hears _ _ rfl rfl rfl rfl, by decide, hears _ _ rfl rfl rfl rfl, rfl⟩

theorem witness_FabricFramesReceived_3 :
    (∀ free ∈ [0, 1, 2],
     let k : Port := { up with wait := [.laneAck 0 16 7 0], lanes := [(0, { position := 7 }), (16, { state := free })] }
     (((on19 k []).port 19).lane 0).position = 7 ∧ (((on19 k []).port 19).lane 16).state = free ∧
     Hears (on19 k []) 19 hdr ∧ ((on19 k []).port 19).wait = [.laneAck 0 16 7 0] ∧ 0 ≤ (on19 k []).rxGroup 19 ∧
       (on19 k []).rxGroup 19 ≤ 0 + 1) ∧
    (let k : Port := { up with wait := [.width true 0] }
     Hears (on19 k []) 19 hdr ∧ ((on19 k []).port 19).wait = [.width true 0] ∧ 0 % 2 ^ 32 = (0 : W32).toNat ∧
       0 ≤ (on19 k []).rxGroup 19 ∧ (on19 k []).rxGroup 19 ≤ 0 + 1) ∧
    (let k : Port := { up with budget := 5, echo := some 9 }
     let s : State := { on19 k [] with dev := .ready, sch := { join := some { uid := 4, startTick := 0 } } }
     Hears s 19 hdr ∧ 100 / 2 ≤ 10 * (s.port 19).budget ∧ 0 < (s.port 19).budget ∧ 10 * (s.port 19).budget < 102 / 2 ∧
       s.sch.join.isSome = true) := by
  unfold Hears
  decide

/-- A request of 512 bytes at 0x400 with tag 4095. -/
def ask (op : VOp) : VFrame :=
  { op := op, tag := 4095, gen := 2, dst := 1, src := 0, len512 := true, addr := 4, pmask := 0, reason := 0, bwclass := 0
    vc := true, payload := [(0, 9)] }

/-- A copy descriptor of 512 bytes to device address 0. -/
def copyDesc : Active := { uid := 6, sq := 0, dws := dws [4, 0, 0, 0, 0, 0, 512], st := .running }

/-- A READ to device 0 for the bytes of that copy. -/
def asks : VFrame := { ask .read with dst := 0, src := 1 }

/-- Device 1 in a ply, with that request of tag 4095 sent a number of times. -/
def asked (sends : Nat) (tick : Nat) : State :=
  let s := held (on19 up []) 2
  { s with
    tick := tick, hif := { active := [copyDesc] }
    fab := { s.fab with tags := [(4095, { gen := 2, st := .out asks sends 0 (.copy 6 0) 0 })], copies := [(6, 512)] } }

/-- The member whose time comes upstream on port 19. -/
def timed (s : State) : State := { s with image := s.image.map fun im => { im with own := { im.own with timeUp := 19 } } }

theorem witness_DomainTime_beacon :
    (let s := timed (on19 up [])
     Hears s 19 hdr ∧ (s.port 19).joinDue = false ∧ s.inDomain = true ∧ s.image.map (fun im => im.own.timeUp) = some 19 ∧
       s.image.map Image.timeMaster = some (0 : BitVec 15).toNat) ∧
    (let s : State := timed { on19 up [] with dev := .ready, sch := { join := some { uid := 4, startTick := 0 } } }
     Hears s 19 hdr ∧ s.sch.join.isSome = true ∧ s.image.map (fun im => im.own.timeUp) = some 19) ∧
    (let s := on19 up []
     Hears s 19 hdr ∧ s.inDomain = true ∧ s.image.map (fun im => im.own.timeUp) = some 0xFF) ∧
    (1 : BitVec 15).toNat ≠ 0 := by
  unfold Hears
  decide

theorem witness_ServiceTraffic_1 :
    (let s := held (on19 up []) 2
     let f := ask .read
     Hears s 19 hdr ∧ (s.port 19).joinDue = false ∧
       ((if f.vc then (s.port 19).got1 - (s.port 19).freed1 else (s.port 19).got0 - (s.port 19).freed0) + 1).toNat ≤ 64 ∧
       (s.serveAs f.bwclass.toNat 99).waits false 0x400 (vBytes f) = false ∧
       (s.serveAs f.bwclass.toNat 99).waits true 0x400 (vBytes f) = false ∧
       s.isMe f.dst.toNat = true ∧ s.inDomain = true ∧ s.inPly = true ∧ 256 * f.addr.toNat = 0x400 ∧
       0x400 % vBytes f = 0 ∧ 0x400 + vBytes f ≤ memBytes ∧ (s.route f.src.toNat f.tag.toNat none).isSome = true) ∧
    HeldRange (held (on19 up []) 2) 0x400 512 ∧
    (∀ n, n ≤ 2 →
      let s := asked n 0
      let f := ask .response
      Hears s 19 hdr ∧ s.isMe f.dst.toNat = true ∧ s.fab.waiting = [] ∧
        (s.tag f.tag.toNat).st = .out asks n 0 (.copy 6 0) 0 ∧ f.gen = (s.tag f.tag.toNat).gen ∧
        f.src = asks.dst ∧ asks.op = .read ∧ s.desc 6 = some copyDesc ∧ dwQ copyDesc.dws 4 + 0 = 0 ∧
        SMap.get 0 s.fab.copies 6 = vBytes asks ∧ f.pmask = 0 ∧ 6 ∉ s.fab.copyPoison ∧ f.reason ≠ 6) ∧
    ((asked 1 0).serveAs asks.bwclass.toNat 96).waits true (dwQ copyDesc.dws 4 + 0) (vBytes asks) = false ∧
    (∀ n, HeldRange (asked n 0) 0 512) := by
  refine ⟨?_, held_lines _ rfl 2 _ _ (by omega) (by omega), ?_, ?_, fun n => held_lines (on19 up []) rfl 2 _ _ (by omega) (by omega)⟩
  all_goals try unfold Hears
  all_goals decide +kernel

theorem witness_ServiceTraffic_2 :
    (let s := on19 up []
     Hears s 19 hdr ∧ s.isMe (ask .nak).dst.toNat = true ∧ (s.tag (ask .nak).tag.toNat).st = .free) ∧
    (∀ n ∈ [1, 3, 4],
      let s := asked n 1000
      s.fabricOn = true ∧ (s.tag 4095).st = .out asks n 0 (.copy 6 0) 0 ∧ 0 + 100 * s.fab.retry ≤ s.tick ∧
        s.fab.waiting = [] ∧ s.mainOn = true) ∧
    (asked 3 0).fab.retries = 3 ∧
    ((asked 1 0).route asks.dst.toNat asks.tag.toNat none).isSome = true ∧
    (let s : State := { on19 up [] with tick := 4000, fab := { tags := [(4095, { st := .quarantine 0 })] } }
     (s.tag 4095).st = .quarantine 0 ∧ s.fab.waiting = [] ∧ 0 + 100 * s.fab.quarantine ≤ s.tick) := by
  unfold Hears
  decide +kernel

/-- A send entry of port 19 with two frames from device address 0. -/
def send : Xfer :=
  { tick := 1000, expect := false, port := 19, frames := 2, period := 1, phase := 0, flow := 9, kind := 0, offset := 0 }

theorem witness_FabricTransmission_1 :
    (let s : State := { held (on19 up [send]) 2 with tick := 980 }
     s.xferNow 0 = some send ∧ s.sendTick send ≤ s.plyTick + 20 ∧ s.fab.led.lookup 0 = none ∧
       s.serveSched.waits false send.offset (512 * send.frames) = false) ∧
    HeldRange { held (on19 up [send]) 2 with tick := 980 } send.offset (512 * send.frames) ∧
    (let s : State := { on19 up [send] with tick := 1000 }
     s.xferNow 0 = some send ∧ s.sendTick send ≤ s.plyTick ∧ 0 ∉ s.fab.released ∧ s.standby.place = none ∧
       (s.port send.port).isUp = true) ∧
    (let s : State := { on19 up [entry 0 0] with tick := 512 }
     s.xferNow 0 = some (entry 0 0) ∧ (entry 0 0).tick + s.relayShift ≤ s.plyTick ∧ 0 ∉ s.fab.deadlines ∧
       s.xferDone 0 = false) ∧
    (let s : State := { on19 up [entry 0 0] with tick := 512, fab := { received := [(0, [0, 1, 2])] } }
     s.xferNow 0 = some (entry 0 0) ∧ s.xferDone 0 = true) := by
  refine ⟨by decide +kernel, held_lines (on19 up [send]) rfl 2 _ _ (by omega) (by decide), by decide, by decide, by decide⟩

theorem witness_FabricTransmission_2 :
    (∀ k ∈ [{ up with due := [(.idle, 0)], mirror := some (0, 5) }, { up with linkQ := [(.idle, 0)] }, { up with mirror := some (16, 0) },
        { up with vQ := [(.v (ask .read), 3, none)], sent1 := 63 },
        { up with vQ := [(.v (ask .read), 3, some { port := 19, vc := true, upAt := 0 })] }, up],
      PortUp (on19 k []) 19 ∧ ((on19 k []).port 19) = k ∧ k.joinDue = false ∧ k.joinOwn = false ∧ k.txWidths = []) ∧
    (let k : Port := { up with txWidths := [(true, 0)] }
     PortUp (on19 k []) 19 ∧ ((on19 k []).port 19).txWidths = [(true, 0)] ∧ 0 ≤ (on19 k []).txGroup 19) ∧
    0 ≤ (on19 { up with mirror := some (16, 0) } []).txGroup 19 ∧
    (if (ask .read).vc then (63 : BitVec 8) - 0 else 0).toNat < 64 ∧
    (let s := on19 { up with sched := [(.entry 0 1, 0)] } [send]
     let s : State := { s with fab := { s.fab with
       led := [(0, [{ payload := [], pmask := 0, port := 0 }, { payload := [(0, 1)], pmask := 1, port := 0 }])] } }
     PortUp s 19 ∧ (s.port 19).sched = [(.entry 0 1, 0)] ∧ (s.plan.bind fun pl => pl.xfers[0]?) = some send ∧
       send.kind ≠ 4 ∧ (s.fab.led.lookup 0).bind (fun l => l[1]?) = some { payload := [(0, 1)], pmask := 1, port := 0 }) := by
  unfold PortUp
  decide +kernel

/-- A port on 16 lanes with the spare free. -/
def lanes16 : Port :=
  { up with lanes := (List.range 16).map (fun l => (l, { position := l })) ++ [(16, { state := 1 })] }

theorem witness_PortsAndLanes :
    (PortUp (on19 lanes16 [entry 0 0]) 19 ∧ lanes16.realigning = false ∧ (on19 lanes16 [entry 0 0]).inPly = true ∧
      (on19 lanes16 [entry 0 0]).expecting 19 = true) ∧
    ((on19 { up with badSync := 3, realigning := true } []).port 19).realigning = true ∧
    (let s : State := { on19 up [] with tick := 1000 }
     PortUp s 19 ∧ (s.port 19).lastValid + 1000 ≤ s.tick) ∧
    (on19 up []).tick < ((on19 up []).port 19).lastValid + 1000 ∧
    (let s : State := { on19 { up with wait := [.width true 1] } [] with tick := 1000 }
     ∃ w ∈ (s.port 19).wait, w.group + 1 < s.rxGroup 19) ∧
    (∀ w ∈ ((on19 { up with wait := [.width true 1] } []).port 19).wait,
      (on19 { up with wait := [.width true 1] } []).rxGroup 19 ≤ w.group + 1) ∧
    (let s : State := { on19 up [] with tick := 100000 }
     PortUp s 19 ∧ (s.port 19).echoAt + 100000 ≤ s.tick) ∧
    (let s : State := { on19 { up with state := 1 } [] with sec := { features := 3 } }
     s.fabricOn = true ∧ s.portLicensed 19 = true ∧ (s.port 19).state = 1 ∧ (s.port 19).barred = false ∧
       ((s.port 19).train (List.range 10)).goodLanes.length < 8 ∧
       (s.port 19).failedBoot = false ∧ (∀ l, l < 17 → ((s.port 19).lane l).failedRetrains < 3) ∧ (s.port 19).budget = 0 ∧
       s.inDomain = true ∧ (s.port 19).fn ≠ 0xFF) ∧
    (let s := on19 lanes16 []
     (s.port 19).state = 2 ∧ ((s.port 19).lane 15).state = 0 ∧ ((s.port 19).lane 15).position ≠ 0x1F ∧
       (∀ m, m < 17 → m ≠ 15 → ((s.port 19).lane m).state < 2) ∧ (s.port 19).spare = some 16 ∧ (s.port 19).wait = [] ∧
       0x400 ≤ s.fab.laneThresh) ∧
    (∀ n, n < 3 →
      let s := on19 { up with lanes := [(16, { state := 2, failedRetrains := n })] } []
      s.fabricOn = true ∧ ((s.port 19).lane 16).state = 2 ∧ (s.port 19).state ≠ 3 ∧
        ((s.port 19).lane 16).failedRetrains = n ∧ (s.port 19).wait = []) := by
  unfold PortUp
  decide +kernel

/-! ### Check values of the CRCs (the digits 1 to 9), and small numbers worked out by hand -/

/-- The ASCII digits 1 to 9. -/
def digits : List Byte := [0x31, 0x32, 0x33, 0x34, 0x35, 0x36, 0x37, 0x38, 0x39]

/-- Table 16.6: 153 domains, 123 at 1.3 GHz, 8 at 800 MHz and 20 at 650 MHz. -/
theorem test_clock_domains :
    clockDomains.length = 153 ∧ (clockDomains.filter fun d => d.kHz == 1300000).length = 123 ∧
    (clockDomains.filter fun d => d.kHz == 800000).length = 8 ∧ (clockDomains.filter fun d => d.kHz == 650000).length = 20 := by
  decide +kernel

theorem test_crc_check_values : crc32 digits = 0xCBF43926 ∧ crc64 digits = 0x6C40DF5F0B497347 := by
  decide +kernel

theorem test_sha256_of_abc :
    sha256 [0x61, 0x62, 0x63] = 0xba7816bf8f01cfea414140de5dae2223b00361a396177a9cb410ff61f20015ad := by
  decide +kernel

/-! ### Witnesses: bandwidth windows, the management port, reset -/

/-- The management firmware serves a port with its address. -/
def port1 (d : DevState) : State := { inState d with mgmt := { addr := some 0x7F, fwRuns := true } }

theorem witness_BandwidthWindows :
    let s : State := { inState .ready with tick := 10000, qos := { res := [(0, { bytes := [(95, 64)] })], counting := [(87, 1)] } }
    s.mainOn = true ∧ s.dev ≠ .fault ∧ s.qosTick % 100 = 0 ∧ s.qos.epochAt ≠ some s.tick ∧
      s.qosTick % (100 * s.qos.win) = 0 ∧ s.qos.winAt ≠ some s.tick ∧ s.qos.used 0 95 = 64 ∧ (∀ e ∈ s.qos.res, e.2.excess = []) := by
  decide

theorem witness_BandwidthWindows_over :
    let k : QosRes := { bytes := [(95, 500000)], excess := [(95, 500001)] }
    let s : State := { inState .ready with tick := 10000, qos := { res := [(0, k)] } }
    s.mainOn = true ∧ s.dev ≠ .fault ∧ s.qosTick % 100 = 0 ∧ s.qos.epochAt ≠ some s.tick ∧ s.qos.res = [(0, k)] ∧
      k.excess = [(95, 500001)] := by
  decide

theorem witness_ManagementTransport :
    stby.dev ≠ .off ∧
    (let s := port1 .standby
     s.dev ≠ .off ∧ s.mgmt.addr.isSome = true ∧ s.sec.staging = none ∧
       fwCheck (Mem.take [] 0) 0 s.flash.floor = .inl 1) ∧
    ({ port1 .ready with sec := { staging := some (fw7, none) } } : State).sec.staging.isSome = true ∧
    Served (port1 .standby) ∧ Served (port1 .fault) ∧
    (let s : State := { inState .boot with mgmt := { addr := some 0x08, fwRuns := false } }
     s.dev ≠ .off ∧ s.mgmt.addr.isSome = true ∧ s.mgmt.fwRuns = false ∧
       (∀ x ∈ [Sensor.diode 95, .hbm 7, .ext 1, .therm 3, .inputPower, .inputVoltage, .deviceState],
         (Instr.pldmSensorRead x).wf = true)) := by
  unfold Served
  refine ⟨by decide, ⟨by decide, by decide, by decide, ?_⟩, by decide, by decide, by decide, by decide⟩
  rw [show fwCheck (Mem.take [] 0) 0 (port1 .standby).flash.floor = .inl 1 by rfl]

theorem witness_ManagementTransport_packets :
    (let s : State := { port1 .ready with mgmt := { addr := some 0x7F, assembly := some 8192 } }
     s.dev ≠ .off ∧ s.mgmt.addr.isSome = true ∧ s.mgmt.assembly = some 8192 ∧ 0 ≤ s.mgmt.unit ∧ 64 ≤ s.mgmt.unit ∧
       8192 + 0 ≤ 8192 ∧ ¬ 8192 + 1 ≤ 8192) ∧
    (64 ≤ 256 ∧ ¬ (64 ≤ 63) ∧ ¬ (257 ≤ 256)) := by
  decide

theorem witness_ManagementCommands_turns :
    (∀ d ∈ [DevState.standby, .boot, .ready, .fault], VendorTurn (port1 d) ∧ Served (port1 d)) ∧
    (∀ h ∈ [({ pad := 1 } : VendorHdr), { badLen := true }, { badParam := true }],
      h.pad ≠ 0 ∨ h.badLen = true ∨ h.badParam = true) ∧
    HeaderOk { inst := 0xFF } ∧
    (let s : State := { port1 .fault with mgmt := { addr := some 0x7F, salvage := some (0, 256) } }
     s.dev ≠ .off ∧ s.mgmt.salvage.isSome = true ∧ s.mgmt.waiting = []) ∧
    (port1 .fault).licClash true [] = false ∧ (∀ k c, ((port1 .fault).chan k c).bypass = [] ∧ ((port1 .fault).chan k c).queue = []) := by
  unfold VendorTurn Served HeaderOk
  refine ⟨by decide, by decide, by decide, by decide, by decide, fun k c => ⟨rfl, rfl⟩⟩

/-- As for fwStage: for any image that passes. -/
theorem witness_ManagementTransport_fw (m : Mem) (n : Nat) (f : FwInfo)
    (hc : fwCheck (Mem.take m n) n State.reset.flash.floor = .inr f) :
    ∃ s : State, s.dev ≠ .off ∧ s.mgmt.addr.isSome = true ∧ s.sec.staging = none ∧
      fwCheck (Mem.take m n) n s.flash.floor = .inr f :=
  ⟨port1 .standby, by decide, by decide, rfl, hc⟩

theorem witness_SpdmResponder :
    (let s : State := { inState .boot with sec := { stepsDone := [1] } }
     SpdmReached true s ∧ ¬ Signs s) ∧
    (let s : State := { port1 .ready with sec := { stepsDone := [1], idValid := true } }
     SpdmReached true s ∧ SpdmReached false s ∧ Signs s) ∧
    (SpdmReached false (port1 .standby) ∧ ¬ Signs (port1 .standby)) ∧ ¬ Signs (inState .drained) := by
  unfold SpdmReached Signs Served
  decide

theorem witness_SpdmResponder_key :
    let s : State := { port1 .ready with sec := { stepsDone := [1], idValid := true, idKey := some (3, 5) } }
    SpdmReached true s ∧ Signs s ∧ s.sec.idKey = some (3, 5) ∧ ∃ c, s.flash.chain.get = some c :=
  ⟨⟨by decide, by decide, by decide⟩, ⟨by decide, rfl⟩, rfl, _, rfl⟩

theorem witness_ManagementCommands_1 :
    (∀ d ∈ [DevState.standby, .boot, .recovery, .ready, .joined, .running, .drained, .fault],
      (port1 d).dev = d ∧ d ≠ .off ∧ (port1 d).mgmt.addr.isSome = true ∧
        ((port1 d).mainOn = true ↔ d ≠ .standby) ∧ (port1 d).sec.staging = none ∧ (port1 d).inEndgame = false ∧
        (port1 d).mgmt.salvage = none ∧ (port1 d).standby.relaying = false) ∧
    Served (port1 .standby) ∧ Served (port1 .ready) ∧ (7 : Byte).toNat < 8 ∧ (0xA5 : Byte) ≠ 0xA4 ∧
    (let s : State := { port1 .ready with sec := { staging := some (fw7, none) } }
     s.mainOn = true ∧ s.sec.staging.isSome = true ∧ s.mgmt.salvage = none) ∧
    (let s : State := { port1 .running with err := { phase := 4 } }
     s.mainOn = true ∧ s.inEndgame = true ∧ s.mgmt.salvage = none) := by
  unfold Served
  decide

/-- Firmware that holds the trust key (2^3072 - 1, 1), and a device in STANDBY that has verified it. -/
def keyed : FwInfo := { fw7 with trustModulus := 2 ^ 3072 - 1 }

def verifying : State :=
  { port1 .standby with
    flash := { State.reset.flash with identity := { c0 := some (0, { idHash := 0, serial := 0 }) } }
    mgmt := { addr := some 0x7F, fwRuns := true, verified := some keyed } }

theorem verifying_idHash : verifying.flash.idHash = some 0 := rfl

theorem keyed_passes :
    licCheck (Mem.take lic1 512) 512 verifying.flash.idHash keyed.trustModulus keyed.trustExponent 7 = none := by
  rw [verifying_idHash]
  exact lic1_passes

theorem keyed_fails :
    licCheck (Mem.take [] 512) 512 verifying.flash.idHash keyed.trustModulus keyed.trustExponent 7 = some 1 := by
  decide +kernel

theorem keyed_slot : verifying.flash.licSlot (Mem.take lic1 512) = .inr 0 := by decide +kernel

theorem witness_ManagementCommands_2 :
    (∃ (s : State) (f : FwInfo), Served s ∧ s.dev ≠ .boot ∧ s.mgmt.verified = some f ∧ s.sec.running = none ∧
       s.flash.licSlot (Mem.take lic1 512) = .inr 0 ∧
       licCheck (Mem.take lic1 512) 512 s.flash.idHash f.trustModulus f.trustExponent 7 = none ∧
       licCheck (Mem.take [] 512) 512 s.flash.idHash f.trustModulus f.trustExponent 7 = some 1) ∧
    (∀ d ∈ [DevState.drained, .fault], Served (port1 d) ∧ (port1 d).mgmt.salvage = none) ∧
    (let a := memBytes - 4096
     a % 4096 = 0 ∧ a + 4096 * 1 ≤ memBytes ∧ memBytes < a + 4096 * 2) ∧
    (let s : State := { port1 .fault with mgmt := { addr := some 0x7F, salvage := some (memBytes - 4096, 1) } }
     s.dev ≠ .off ∧ s.mgmt.salvage = some (memBytes - 4096, 1) ∧ s.mgmt.resetAfterPage = false) := by
  refine ⟨⟨verifying, keyed, ⟨by decide, rfl, rfl⟩, by decide, rfl, rfl, keyed_slot, keyed_passes, keyed_fails⟩, ?_, by decide, by decide⟩
  unfold Served
  decide

theorem witness_ResetValues : ∃ s : State, s = State.reset ∨ ∃ s0 : State, s = s0.mainReset := ⟨_, .inl rfl⟩

theorem witness_FirmwareFloorNeverFalls :
    (∃ t, 0 ≤ State.reset.flash.floor.toNat ∧ step State.reset = .next t) ∧ (inState .ready).served = true ∧
    (Mem.rd32 [] 0xC).toNat < (1 : W32).toNat :=
  ⟨⟨_, Nat.zero_le _, rfl⟩, by decide, by decide⟩

theorem witness_FirmwareFloorNeverFalls_licence :
    (let s := licensed .ready
     let d : List W32 := dws [0x18, 0, 0, 0, 512]
     Starts (ring s 0 d) 0 d ∧ s.sec.running = some { fw7 with trustModulus := 2 ^ 3072 - 1 } ∧ s.validId = some 0 ∧
       s.sec.licAt = none ∧ s.flash.licSlot (Mem.take lic1 512) = .inr 0) ∧
    licCheck (Mem.take lic1 512) 512 (some 0) (2 ^ 3072 - 1) 1 7 = none ∧
    (Served verifying ∧ VendorTurn verifying ∧ verifying.dev ≠ .boot ∧ verifying.mgmt.verified = some keyed ∧
      verifying.sec.running = none ∧ verifying.sec.licAt = none) := by
  refine ⟨?_, lic1_passes, ?_⟩
  · unfold Starts
    decide +kernel
  · exact ⟨⟨by decide, rfl, rfl⟩, ⟨rfl, rfl⟩, by decide, rfl, rfl, rfl⟩

/-- Flash whose floor is 8. -/
def floor8 : Flash := { State.reset.flash with lic := { c0 := some (0, { floor := 8 }) } }

theorem witness_FirmwareFloorNeverFalls_images :
    floor8.floor = 8 ∧
    (let d : List W32 := dws [0x1C, 0, 0, 0, 16]
     Starts (ring { inState .ready with flash := floor8 } 0 d) 0 d ∧
       (Mem.rd32 (Mem.take [(12, 7)] (dwQ d 4)) 0xC).toNat < floor8.floor.toNat) ∧
    (let s : State := { booting [1] with flash := { floor8 with store := some fw7 } }
     s.dev = .boot ∧ s.bootReady 2 = true ∧ s.flash.store = some fw7 ∧
       (Mem.rd32 fw7.bytes 0xC).toNat < s.flash.floor.toNat) := by
  unfold Starts
  decide +kernel

end Sys2Proof.Tests
end

/-! PROOFS. The supply sides (chapter 16) and what reset leaves (R6): the rules of the main side's reset and loss, of the
records of the limited classes, and of reading the configuration registers in BOOT, with the statements settled from
them. -/

namespace Sys2Proof.Machine

section Resets

variable (s : State)

/-! ### What a main-side reset and a loss of the 48 V side leave -/

@[simp] theorem State.mainReset_dev : s.mainReset.dev = .boot := rfl
@[simp] theorem State.mainReset_supply : s.mainReset.supply = s.supply := rfl
@[simp] theorem State.mainReset_pwr : s.mainReset.pwr = State.reset.pwr := rfl
@[simp] theorem State.mainReset_flash : s.mainReset.flash = s.flash := rfl
@[simp] theorem State.mainReset_image : s.mainReset.image = none := rfl
@[simp] theorem State.mainReset_blocks : s.mainReset.blocks = [] := rfl
@[simp] theorem State.mainReset_regions : s.mainReset.regions = [] := rfl
@[simp] theorem State.mainReset_hbmStacks : s.mainReset.hbmStacks = [] := rfl
@[simp] theorem State.mainReset_err : s.mainReset.err = State.reset.err := rfl
@[simp] theorem State.mainReset_stepsDone : s.mainReset.sec.stepsDone = [] := rfl
@[simp] theorem State.mainReset_bootAt : s.mainReset.sec.bootAt = s.tick := rfl
@[simp] theorem State.mainReset_mgmt_store : s.mainReset.mgmt.store = s.mgmt.store := rfl
@[simp] theorem State.mainReset_mgmt_addr : s.mainReset.mgmt.addr = s.mgmt.addr := rfl
@[simp] theorem State.mainReset_hif_expert : s.mainReset.hif.expert = false := rfl
@[simp] theorem State.mainReset_hif_ceEvents : s.mainReset.hif.ceEvents = false := rfl

@[simp] theorem State.answer_mgmt_store (r : MgmtResp) : (s.answer r).mgmt.store = s.mgmt.store := rfl
@[simp] theorem State.answer_mgmt_addr (r : MgmtResp) : (s.answer r).mgmt.addr = s.mgmt.addr := rfl

@[simp] theorem State.mainOff_dev : s.mainOff.dev = .standby := rfl
@[simp] theorem State.mainOff_supply :
    s.mainOff.supply = { s.supply with v48 := false, convEnabled := false, bcGood := 0 } := rfl
@[simp] theorem State.mainOff_flash : s.mainOff.flash =
    if s.sec.staging.isSome && s.dev != .standby then { s.flash with store := none } else s.flash := rfl
@[simp] theorem State.mainOff_staging :
    s.mainOff.sec.staging = if s.dev == .standby then s.sec.staging else none := rfl
@[simp] theorem State.mainOff_image : s.mainOff.image = none := by
  unfold State.mainOff; dsimp only; split <;> simp
@[simp] theorem State.mainOff_blocks : s.mainOff.blocks = [] := by
  unfold State.mainOff; dsimp only; split <;> simp
@[simp] theorem State.mainOff_err : s.mainOff.err = State.reset.err := by
  unfold State.mainOff; dsimp only; split <;> simp
@[simp] theorem State.mainOff_mgmt_store : s.mainOff.mgmt.store = s.mgmt.store := by
  unfold State.mainOff; dsimp only; split <;> simp
@[simp] theorem State.mainOff_mgmt_addr : s.mainOff.mgmt.addr = s.mgmt.addr := by
  unfold State.mainOff; dsimp only; split <;> simp

end Resets

section PostedRecords

variable (s : State)

/-! ### Records of the limited classes (R457) -/

@[simp] theorem State.rollWindow_err_ce : s.rollWindow.err.ce = s.err.ce := by
  unfold State.rollWindow; split <;> rfl

@[simp] theorem State.rollWindow_err_ceLimit : s.rollWindow.err.ceLimit = s.err.ceLimit := by
  unfold State.rollWindow; split <;> rfl

@[simp] theorem Err.count_ceLimit (e : Err) (c : Nat) : (e.count c).ceLimit = e.ceLimit := by
  unfold Err.count; split <;> rfl

/-- A new window starts with no record in it, so none are in it where there were none. -/
theorem State.rollWindow_recent_eq_nil (h : s.err.recent = []) : s.rollWindow.err.recent = [] := by
  unfold State.rollWindow; split
  · exact h
  · rfl

/-- Every corrected error is counted, also one that the limit keeps out of the log. -/
theorem State.post_err_ce (a : RecArg) (h : s.mainOn = true) (hc : a.cls = 1) :
    (s.post a).err.ce = satAdd s.err.ce 1 := by
  unfold State.post
  simp only [h, hc, Bool.not_true, Bool.false_eq_true, if_false]
  (repeat' split) <;> simp [Err.count]

/-- The first CE or DE record of a window enters the log. -/
theorem State.post_first_newRecord (a : RecArg) (h : s.mainOn = true) (hc : a.cls < 3)
    (hr : s.err.recent = []) (hl : 0 < s.err.ceLimit) :
    NewRecord s (s.post a) a.cls a.level a.unit a.code := by
  have hwin := s.rollWindow_recent_eq_nil hr
  have hlog : (s.post a).err.log = (s.mkRec a :: s.err.log).take 16384 ∧
      (s.post a).err.next = s.err.next + 1 := by
    unfold State.post
    simp [h, hc, hwin, Nat.ne_of_gt hl]
    split <;> simp
  exact ⟨s.mkRec a, by simp [hlog.1], rfl, hlog.2, rfl, rfl, rfl, rfl⟩

end PostedRecords

section Converters

/-! ### Bus converters (R413, Table 16.2) -/

/-- Taking the bit of converter k out of the mask leaves the others. -/
theorem getLsbD_and_not_two_pow (v : BitVec 4) (k j : Nat) :
    (v &&& ~~~ BitVec.ofNat 4 (2 ^ k)).getLsbD j = (v.getLsbD j && decide (j ≠ k)) := by
  by_cases hj : j < 4
  · simp only [BitVec.getLsbD_and, BitVec.getLsbD_not, BitVec.getLsbD_ofNat, Nat.testBit_two_pow, hj, decide_true,
      Bool.true_and, ne_eq, eq_comm, decide_not]
  · simp [BitVec.getLsbD_of_ge v j (by omega)]

/-- A converter that drops out was one of those counted. -/
theorem goodCount_and_not_two_pow {v : BitVec 4} {k : Nat} (hk : k < 4) (hv : v.getLsbD k = true) :
    goodCount (v &&& ~~~ BitVec.ofNat 4 (2 ^ k)) = goodCount v - 1 := by
  have hall : ∀ (v : BitVec 4) (k : Fin 4), v.getLsbD k = true →
      goodCount (v &&& ~~~ BitVec.ofNat 4 (2 ^ k.val)) = goodCount v - 1 := by decide
  exact hall v ⟨k, hk⟩ hv

/-- Converter k has dropped its power-good, and nothing else has changed. -/
def State.withoutConverter (s : State) (k : Nat) : State :=
  { s with supply := { s.supply with bcGood := s.supply.bcGood &&& ~~~ BitVec.ofNat 4 (2 ^ k) } }

/-- What the record of a converter's failure gives. -/
def State.converterRec (s : State) (k cls : Nat) : RecArg :=
  { cls := cls, level := 3, unit := 0x27, code := 1, loc := k, data0 := s.pwr.pIn }

@[simp] theorem State.converterRec_cls (s : State) (k cls : Nat) : (s.converterRec k cls).cls = cls := rfl

@[simp] theorem State.withoutConverter_mainOn (s : State) (k : Nat) : (s.withoutConverter k).mainOn = s.mainOn := rfl
@[simp] theorem State.withoutConverter_dev (s : State) (k : Nat) : (s.withoutConverter k).dev = s.dev := rfl
@[simp] theorem State.withoutConverter_flash (s : State) (k : Nat) : (s.withoutConverter k).flash = s.flash := rfl
@[simp] theorem State.withoutConverter_err (s : State) (k : Nat) : (s.withoutConverter k).err = s.err := rfl

theorem State.withoutConverter_bcGood (s : State) (k j : Nat) :
    (s.withoutConverter k).supply.bcGood.getLsbD j = (s.supply.bcGood.getLsbD j && decide (j ≠ k)) :=
  getLsbD_and_not_two_pow s.supply.bcGood k j

/-- The failure of converter k, recorded by what the number of good ones was before it. -/
def State.afterConverterFault (s : State) (k : Nat) : State :=
  if goodCount s.supply.bcGood = 4 then (s.withoutConverter k).post (s.converterRec k 1)
  else if goodCount s.supply.bcGood = 3 then (s.withoutConverter k).post (s.converterRec k 3)
  else (s.withoutConverter k).postMgmtOnly (s.converterRec k 3)

@[simp] theorem State.afterConverterFault_supply (s : State) (k : Nat) :
    (s.afterConverterFault k).supply = (s.withoutConverter k).supply := by
  unfold State.afterConverterFault; split
  · simp
  · split <;> simp

@[simp] theorem State.afterConverterFault_dev (s : State) (k : Nat) : (s.afterConverterFault k).dev = s.dev := by
  unfold State.afterConverterFault; split
  · simp
  · split <;> simp

@[simp] theorem State.afterConverterFault_flash (s : State) (k : Nat) : (s.afterConverterFault k).flash = s.flash := by
  unfold State.afterConverterFault; split
  · simp
  · split <;> simp

/-- The number of converters left, which chooses the record in the model, is one below the number before. -/
theorem exec_busConverterFault {s : State} {k : Nat} (hk : k < 4) (he : s.supply.convEnabled = true)
    (hg : s.supply.bcGood.getLsbD k = true) :
    exec (.busConverterFault k) s = .next (s.afterConverterFault k) := by
  have hcount := goodCount_and_not_two_pow hk hg
  show execBusConverterFault k s = _
  simp only [execBusConverterFault, onUnit, hk, he, hg, hcount, decide_true, Bool.not_true, Bool.or_self,
    Bool.false_eq_true, if_true, if_false, State.afterConverterFault,
    State.withoutConverter, State.converterRec]
  split
  · rw [if_pos (by omega)]
  · rw [if_neg (by omega), if_pos (by omega)]
  case h_3 h3 h2 => rw [if_neg fun h => h3 (by omega), if_neg fun h => h2 (by omega)]

end Converters

section SupplyCommands

variable {s : State}

/-! ### Start and loss of the sides (R411, R412, R508): each command where its guard holds -/

theorem exec_auxSupplyValid (hold readable : Bool) (hdev : s.dev = .off) :
    exec (.auxSupplyValid hold readable) s = .next { s with
      dev := .standby
      supply := { aux := true, v48 := false, hold := hold, convEnabled := false, bcGood := 0, perst := s.supply.perst }
      mgmt := Mgmt.boot (mgmtImage s.flash.store readable) } := by
  show execAuxSupplyValid hold s readable = _
  simp [execAuxSupplyValid, hdev]

/-- An image that cannot be read does not verify (R475). -/
@[simp] theorem mgmtImage_unreadable (store : Option FwInfo) : mgmtImage store false = none := by
  simp [mgmtImage]

theorem exec_inputValidHold (hdev : s.dev = .standby) (hhold : s.supply.hold = false)
    (hlock : s.supply.lockedOff = false) (hretry : s.supply.retryFrom = none) (hconv : s.supply.convEnabled = false) :
    exec .inputValidHold s =
      .next { s with supply := { s.supply with convEnabled := true, enabledAt := s.tick, bcGood := 0xF } } := by
  show execInputValidHold s = _
  simp [execInputValidHold, hdev, hhold, hlock, hretry, hconv]

theorem exec_suppliesValid (hdev : s.dev = .standby) (hconv : s.supply.convEnabled = true)
    (hin : s.tick ≤ s.supply.enabledAt + 2000000) :
    exec .suppliesValid s = .next { s.mainReset with
      supply := { s.supply with v48 := true, startFails := 0 }
      sec := { s.mainReset.sec with staging := s.sec.staging } } := by
  show execSuppliesValid s = _
  simp [execSuppliesValid, hdev, hconv, Nat.not_lt.mpr hin]

/-- What the management port records of a start that is not valid in time. -/
def State.startFailRec (s : State) : RecArg :=
  { cls := 4, level := 3, unit := 0x27, code := 2, loc := s.freeNat % 22, data0 := s.pwr.pIn }

@[simp] theorem State.startFailRec_cls (s : State) : s.startFailRec.cls = 4 := rfl

theorem exec_supplyStartTimeout (hdev : s.dev = .standby) (hconv : s.supply.convEnabled = true)
    (hlate : s.supply.enabledAt + 2000000 ≤ s.tick) :
    exec .supplyStartTimeout s = .next { (s.postMgmtOnly s.startFailRec).tookFree with
      supply := { s.supply with
        convEnabled := false, bcGood := 0, startFails := s.supply.startFails + 1
        retryFrom := if s.supply.startFails = 0 then some s.tick else none
        lockedOff := decide (0 < s.supply.startFails) } } := by
  show execSupplyStartTimeout s = _
  simp [execSupplyStartTimeout, hdev, hconv, Nat.not_lt.mpr hlate, State.startFailRec]

theorem exec_startRetry {f : Nat} (hretry : s.supply.retryFrom = some f) (hlate : f + 100000000 ≤ s.tick) :
    exec .startRetry s = .next { s with supply := { s.supply with retryFrom := none } } := by
  show execStartRetry s = _
  simp [execStartRetry, hretry, hlate]

theorem exec_input48vLoss (c : LossCause) (hconv : s.supply.convEnabled = true)
    (hfew : c = .fewConverters → goodCount s.supply.bcGood ≤ 1) : exec (.input48vLoss c) s = .next s.mainOff := by
  show execInput48vLoss c s = _
  have hguard : (c == .fewConverters && decide (1 < goodCount s.supply.bcGood)) = false := by simpa using hfew
  simp [execInput48vLoss, hconv, hguard]

theorem exec_auxSupplyLost (hdev : s.dev ≠ .off) :
    exec .auxSupplyLost s = .next { s.mainOff with
      dev := .off
      supply := { aux := false, v48 := false, convEnabled := false, bcGood := 0, perst := s.supply.perst }
      sec := { s.mainOff.sec with staging := none }
      flash := if s.sec.staging.isSome then { s.flash with store := none } else s.flash
      mgmt := {} } := by
  show execAuxSupplyLost s = _
  simp [execAuxSupplyLost, hdev]

end SupplyCommands

/-- Settles O4, from what each supply command does where its guard holds, and from what the main side's reset, its loss
and the posting of a record keep. -/
theorem supplySidesStartAndLoss : Obligations.SupplySidesStartAndLoss := by
  unfold Obligations.SupplySidesStartAndLoss
  refine ⟨?auxValid, ?inputHeld, ?valid, ?timeout, ?retry, ?loss48, ?auxLost, ?converter⟩
  case auxValid =>
    intro s h r hdev
    refine ⟨_, exec_auxSupplyValid h r hdev, rfl, rfl, rfl, rfl, rfl, ?_, rfl, rfl, rfl⟩
    rintro rfl
    simp [Mgmt.boot]
  case inputHeld =>
    intro s hdev hhold hlock hretry hconv
    exact ⟨_, exec_inputValidHold hdev hhold hlock hretry hconv, rfl⟩
  case valid =>
    intro s hdev hconv hin
    exact ⟨_, exec_suppliesValid hdev hconv hin, rfl, rfl, rfl, rfl, rfl, rfl, rfl, rfl, rfl⟩
  case timeout =>
    intro s hdev hconv hlate
    refine ⟨_, exec_supplyStartTimeout hdev hconv hlate, ?_, rfl, rfl, rfl, ?_, ?_, ?_, ?_, ?_⟩
    · simpa using hdev
    · intro hfirst; simp [hfirst]
    · intro hagain; simp [hagain, Nat.ne_of_gt hagain]
    · exact s.postMgmtOnly_newStored s.startFailRec (by simp)
    · simp
    · simp
  case retry =>
    intro s f hretry hlate
    exact ⟨_, exec_startRetry hretry hlate, rfl⟩
  case loss48 =>
    intro s c hconv hfew
    refine ⟨_, exec_input48vLoss c hconv hfew, ?_⟩
    simp +contextual
  case auxLost =>
    intro s hdev
    exact ⟨_, exec_auxSupplyLost hdev, rfl, rfl, rfl, rfl, rfl, rfl⟩
  case converter =>
    intro s k hk hconv hgood
    refine ⟨_, exec_busConverterFault hk hconv hgood, fun j => ?bits, by simp, by simp, ?four, ?three, ?two⟩
    case bits => rw [State.afterConverterFault_supply, s.withoutConverter_bcGood]
    case four =>
      intro hon hfour
      rw [State.afterConverterFault, if_pos hfour]
      exact ⟨State.post_err_ce _ _ hon rfl,
        State.post_first_newRecord (s.withoutConverter k) (s.converterRec k 1) hon (by simp)⟩
    case three =>
      intro hon hthree
      rw [State.afterConverterFault, if_neg (by omega), if_pos hthree]
      exact State.post_newRecord _ (s.converterRec k 3) hon (by simp)
    case two =>
      intro htwo
      rw [State.afterConverterFault, if_neg (by omega), if_neg (by omega)]
      exact ⟨State.postMgmtOnly_newStored _ (s.converterRec k 3) (by simp), by simp⟩

section RegisterValues

/-! ### The values of the configuration registers -/

variable (s : State)

@[simp] theorem State.regValue_hifCtrl : s.regValue .hifCtrl = b2n s.hif.expert + 2 * b2n s.hif.ceEvents := rfl
@[simp] theorem State.regValue_schJournal : s.regValue .schJournal = s.sch.journalSize.toNat := rfl
@[simp] theorem State.regValue_fabCfg : s.regValue .fabCfg =
    s.fab.quarantine + s.fab.retry <<< 10 + s.fab.retries <<< 18 + s.fab.laneThresh <<< 20 := rfl
@[simp] theorem State.regValue_ceCfg : s.regValue .ceCfg = s.ce.resTol := rfl
@[simp] theorem State.regValue_hbmCfg (k : Nat) : s.regValue (.hbmCfg k) =
    b2n (s.stack k).scrubEn + (s.stack k).scrubGap <<< 1 + b2n (s.stack k).liveRemap <<< 5 +
      (s.stack k).remapThresh <<< 6 := rfl
@[simp] theorem State.regValue_ccdCfg : s.regValue .ccdCfg =
    s.ccd.pinMax + b2n s.ccd.strict <<< 6 + b2n s.ccd.scrubEn <<< 7 + s.ccd.scrubGap <<< 8 := rfl
@[simp] theorem State.regValue_ckCfg (g : Nat) : s.regValue (.ckCfg g) =
    b2n (s.region g).ckAction + 2 * b2n (s.region g).ckAcc := rfl
@[simp] theorem State.regValue_tgCfg (g : Nat) : s.regValue (.tgCfg g) = (s.region g).wdExp := rfl
@[simp] theorem State.regValue_baCfg (g : Nat) : s.regValue (.baCfg g) =
    b2n (s.region g).scrubEn + 2 * (s.region g).scrubGap := rfl
@[simp] theorem State.regValue_pwrCfg : s.regValue .pwrCfg = s.pwr.capW + b2n s.pwr.peakEn <<< 12 := rfl
@[simp] theorem State.regValue_thmCfg : s.regValue .thmCfg =
    s.thm.tComp + s.thm.tHbm <<< 8 + s.thm.slope <<< 16 := rfl
@[simp] theorem State.regValue_errCfg : s.regValue .errCfg = s.err.ceLimit := rfl
@[simp] theorem State.regValue_qosCfg : s.regValue .qosCfg = s.qos.win := rfl
@[simp] theorem State.regValue_qosWeight : s.regValue .qosWeight = s.qos.weights.toNat := rfl
@[simp] theorem State.regValue_qosWinSeq : s.regValue .qosWinSeq = s.qos.winSeq.toNat := rfl
@[simp] theorem State.regValue_qosMin (g m : Nat) : s.regValue (.qosMin g m) = s.qos.min g m := rfl
@[simp] theorem State.regValue_pimCfg : s.regValue .pimCfg =
    b2n s.pim.compat + 2 * b2n s.pim.hostInRun + s.pim.svcWin <<< 2 := rfl
@[simp] theorem State.regValue_dbgScratch : s.regValue .dbgScratch = s.dbgScratch.toNat := rfl

/-! What BOOT shows of the units that its steps do not fill in: their Reset columns (R386). -/

@[simp] theorem State.bootView_sch : s.bootView.sch = { timeOff := -(s.tick : Int) } := rfl
@[simp] theorem State.bootView_ccd :
    s.bootView.ccd = { bundles := s.ccd.bundles, bundleBand := s.ccd.bundleBand } := rfl
@[simp] theorem State.bootView_pim : s.bootView.pim = {} := rfl
@[simp] theorem State.bootView_ce : s.bootView.ce = {} := rfl
@[simp] theorem State.bootView_qos : s.bootView.qos = { discard := true } := rfl
@[simp] theorem State.bootView_err : s.bootView.err = {} := rfl
@[simp] theorem State.bootView_dbgScratch : s.bootView.dbgScratch = 0 := rfl
@[simp] theorem State.bootView_capW : s.bootView.pwr.capW = 0xA28 := rfl
@[simp] theorem State.bootView_peakEn : s.bootView.pwr.peakEn = true := rfl

/-- Each field is read on its own before the word is computed: the kernel would count out a numeral of this size if it
compared it with the unfolded register. -/
theorem State.bootView_fabCfg : s.bootView.regValue .fabCfg = 0x400C2828 := by
  rw [State.regValue_fabCfg]
  show 0x28 + 0x0A <<< 10 + 3 <<< 18 + 0x400 <<< 20 = 0x400C2828
  decide

/-- By its fields, as FAB_CFG above. -/
theorem State.bootView_thmCfg : s.bootView.regValue .thmCfg = 0x0C5F64 := by
  rw [State.regValue_thmCfg]
  show 0x64 + 0x5F <<< 8 + 0x0C <<< 16 = 0x0C5F64
  decide

end RegisterValues

section ResetColumns

/-! ### The configuration registers' Reset columns (R6) -/

/-- The Reset column of a configuration register. -/
def Reg.resetColumn (r : Reg) : Option Nat :=
  match r with
  | .hifCtrl => some 0
  | .schJournal => some 2
  | .fabCfg => some 0x400C2828
  | .ceCfg => some 0x0A
  | .hbmCfg _ => some 0x12D
  | .ccdCfg => some 0x498
  | .ckCfg _ => some 2
  | .tgCfg _ => some 0x14
  | .baCfg _ => some 0x11
  | .pwrCfg => some 0x1A28
  | .thmCfg => some 0x0C5F64
  | .errCfg => some 1
  | .qosCfg => some 100
  | .qosWeight => some 0x0102040810102040
  | .qosWinSeq => some 0
  | .qosMin g m => some (
      if g = 2 then if m < 96 then 8 else 64
      else if m < 96 then 10 else if m = 97 then 8 else if m = 98 then 24 else 16)
  | .pimCfg => some 0x50
  | .dbgScratch => some 0
  | _ => none

/-- What the reads of configuration registers rest on: BOOT, with the units that BOOT itself fills in still as a reset
leaves them. -/
structure State.LeftReset (s : State) : Prop where
  boot : s.dev = .boot
  expert : s.hif.expert = false
  ceEvents : s.hif.ceEvents = false
  regions : s.regions = []
  hbmStacks : s.hbmStacks = []

theorem State.reset_leftReset : State.reset.LeftReset := ⟨rfl, rfl, rfl, rfl, rfl⟩

theorem State.mainReset_leftReset (s : State) : s.mainReset.LeftReset := ⟨rfl, rfl, rfl, rfl, rfl⟩

theorem State.regRead_of_isHif {s : State} {r : Reg} (hr : r.isHif = true) : s.regRead r = s.regValue r := if_pos hr

namespace State.LeftReset

variable {s : State} {r : Reg} {o v : Nat}

theorem mainOn (hs : s.LeftReset) : s.mainOn = true := by simp [State.mainOn, hs.boot]

/-- Outside HIF a read shows BOOT's view. -/
theorem regRead_of_not_isHif (hs : s.LeftReset) (hr : r.isHif = false) : s.regRead r = s.bootView.regValue r := by
  simp [State.regRead, hr, hs.boot]

@[simp] theorem bootView_region (hs : s.LeftReset) (k : Nat) : s.bootView.region k = {} := by
  simp [State.region, State.bootView, hs.regions, SMap.mapVals, SMap.get]

@[simp] theorem bootView_stack (hs : s.LeftReset) (k : Nat) : s.bootView.stack k = {} := by
  simp [State.stack, State.bootView, hs.hbmStacks, SMap.mapVals, SMap.get]

theorem regRead_eq_resetColumn (hs : s.LeftReset) (hr : r.resetColumn = some v) : s.regRead r = v := by
  cases r <;> cases hr
  case hifCtrl => rw [State.regRead_of_isHif rfl]; simp [hs.expert, hs.ceEvents, b2n]
  all_goals rw [hs.regRead_of_not_isHif rfl]
  case fabCfg => exact s.bootView_fabCfg
  case thmCfg => exact s.bootView_thmCfg
  all_goals simp [hs, b2n]
  case qosMin g m =>
    show minReset g m = _
    unfold minReset
    grind

/-- A register of 32 bits reads its Reset column at its offset. -/
theorem readBar0_dword (hs : s.LeftReset) (hr : (regAt o).bind Reg.resetColumn = some v) (hv : v < 2 ^ 32) :
    s.readBar0 o 4 = some v := by
  obtain ⟨r, hat, hcol⟩ := Option.bind_eq_some_iff.mp hr
  simpa [State.readBar0, hs.mainOn, State.readDword, regOf, hat, hs.regRead_eq_resetColumn hcol] using hv

/-- A register of 64 bits reads its Reset column in one read of 8 bytes. -/
theorem readBar0_qword (hs : s.LeftReset) (hat : regAt o = some r) (hnext : regAt (o + 4) = none)
    (hwide : r.wide = true) (hcol : r.resetColumn = some v) : s.readBar0 o 8 = some v := by
  simp [State.readBar0, hs.mainOn, State.readDword, regOf, hat, hnext, hwide, hs.regRead_eq_resetColumn hcol,
    Nat.mod_add_div]

end State.LeftReset


/-- Where QOS_MIN of master m stands in its group's table (Table 20.12). -/
theorem regAt_qosMin {g m : Nat} (hg : g < 3) (hm : m < 100) :
    regAt (0x2201000 + 0x200 * g + 4 * m) = some (.qosMin g m) := by
  have hbase : 0x2201000 + 0x200 * g + 4 * m - 0x2200000 = 0x1000 + (0x200 * g + 4 * m) := by omega
  have hgroup : (0x200 * g + 4 * m) / 0x200 = g := by omega
  have hmaster : (0x1000 + (0x200 * g + 4 * m)) % 0x200 / 4 = m := by omega
  have hqos : qosAt (0x1000 + (0x200 * g + 4 * m)) = some (.qosMin g m) := by
    unfold qosAt
    split
    · omega
    · omega
    · omega
    · simp only [hmaster, Nat.add_sub_cancel_left, hgroup, hm]
      rw [if_pos ⟨by omega, by omega⟩, if_pos ⟨trivial, by omega⟩]
  unfold regAt
  rw [if_neg (by omega), if_neg (by omega), if_neg (by omega), if_neg (by omega), if_neg (by omega), if_neg (by omega),
    if_neg (by omega), if_neg (by omega), if_neg (by omega), if_pos (by omega), hbase, hqos]

end ResetColumns

/-- Settles O59: right after reset, and after a main-side reset, the device stands in BOOT as a reset leaves it, where
each configuration register reads its Reset column. -/
theorem resetValues : Obligations.ResetValues := by
  unfold Obligations.ResetValues
  refine ⟨rfl, rfl, rfl, rfl, rfl, rfl, fun s hs => ?_⟩
  have hleft : s.LeftReset := by
    rcases hs with rfl | ⟨s0, rfl⟩
    · exact State.reset_leftReset
    · exact s0.mainReset_leftReset
  refine ⟨?dwords, ?weights, ?windows, ?guarantees⟩
  case dwords =>
    intro x hx
    suffices hcol : (regAt x.1).bind Reg.resetColumn = some x.2 ∧ x.2 < 2 ^ 32 from
      hleft.readBar0_dword hcol.1 hcol.2
    revert x
    decide
  case weights => exact hleft.readBar0_qword (r := .qosWeight) (by decide) (by decide) rfl rfl
  case windows => exact hleft.readBar0_qword (r := .qosWinSeq) (by decide) (by decide) rfl rfl
  case guarantees =>
    intro m hm
    have hread (g : Nat) (hg : g < 3) {v : Nat} (hcol : (Reg.qosMin g m).resetColumn = some v) (hv : v < 2 ^ 32) :
        s.readBar0 (0x2201000 + 0x200 * g + 4 * m) 4 = some v :=
      hleft.readBar0_dword (by rw [regAt_qosMin hg hm]; exact hcol) hv
    exact ⟨hread 0 (by omega) rfl (by grind), hread 1 (by omega) rfl (by grind), hread 2 (by omega) rfl (by grind)⟩

end Sys2Proof.Machine

namespace Sys2Proof.Machine

/-! ### Refusals -/

theorem onUnit_of_exists {ok : Bool} (h : ok = true) (t : State) : onUnit ok t = .next t := if_pos h

theorem onUnit_of_missing {ok : Bool} (h : ok = false) (t : State) : onUnit ok t = .refused .noSuchUnit := by
  subst h
  rfl

/-- A command's meaning guards one state with the check of WellFormed: the arm of a command that names units is an
`onUnit` of the range check that `Instr.wf` writes for it, through `descRow` for a ring and `onTg` for a thread group,
and an arm that names none answers `.next`, which is `onUnit true`. -/
theorem exec_eq_onUnit (i : Instr) (s : State) : ∃ t, exec i s = onUnit i.wf t := by
  cases i <;> exact ⟨_, rfl⟩

/-- Settles O3: what a command answers is `onUnit` of whether the units it names exist (`exec_eq_onUnit`). -/
theorem onlyMissingUnitsAreRefused : Obligations.OnlyMissingUnitsAreRefused := by
  unfold Obligations.OnlyMissingUnitsAreRefused
  intro i s
  obtain ⟨t, ht⟩ := exec_eq_onUnit i s
  exact ⟨fun hwf => ⟨t, ht.trans (onUnit_of_exists hwf t)⟩, fun hwf => ht.trans (onUnit_of_missing hwf t)⟩

end Sys2Proof.Machine

/-! PROOFS. Reading byte stores and piecewise constant maps after a range was replaced, and the laws of folds over lists
of numbers that the later statements share. -/

namespace Sys2Proof.Machine

section Containers

/-! ### Byte stores -/

theorem Mem.get_append_of_not_mem {m : Mem} {x : Nat} (h : ∀ e ∈ m, e.1 ≠ x) (n : Mem) :
    Mem.get (m ++ n) x = Mem.get n x := by
  induction m with
  | nil => rfl
  | cons e m ih =>
    have he : e.1 ≠ x := h e (by simp)
    simpa [Mem.get, he] using ih fun y hy => h y (by simp [hy])

theorem Mem.get_eq_zero {m : Mem} {x : Nat} (h : ∀ e ∈ m, e.1 ≠ x) : Mem.get m x = 0 := by
  simpa [Mem.get] using Mem.get_append_of_not_mem h []

theorem Mem.get_append_of_absent {n : Mem} {x : Nat} (h : ∀ e ∈ n, e.1 ≠ x) (m : Mem) :
    Mem.get (m ++ n) x = Mem.get m x := by
  induction m with
  | nil => exact Mem.get_eq_zero h
  | cons e m ih => simp [Mem.get, ih]

/-- Dropping other addresses leaves a byte as it was. -/
theorem Mem.get_filter {p : Nat × Byte → Bool} {x : Nat} (h : ∀ v, p (x, v) = true) (m : Mem) :
    Mem.get (m.filter p) x = Mem.get m x := by
  induction m with
  | nil => rfl
  | cons e m ih =>
    obtain ⟨j, v⟩ := e
    rw [List.filter_cons]
    split
    · simp [Mem.get, ih]
    · have hj : j ≠ x := by rintro rfl; exact absurd (h v) ‹_›
      simp [Mem.get, hj, ih]

theorem Mem.get_shift (m : Mem) (a x : Nat) : Mem.get (m.map fun e => (e.1 + a, e.2)) (x + a) = Mem.get m x := by
  induction m with
  | nil => rfl
  | cons e m ih => simp [Mem.get, ih]

theorem Mem.get_unshift {m : Mem} {a : Nat} (h : ∀ e ∈ m, a ≤ e.1) (x : Nat) :
    Mem.get (m.map fun e => (e.1 - a, e.2)) x = Mem.get m (a + x) := by
  induction m with
  | nil => rfl
  | cons e m ih =>
    have he : a ≤ e.1 := h e (by simp)
    have hiff : e.1 - a = x ↔ e.1 = a + x := by omega
    simp [Mem.get, hiff, ih fun y hy => h y (by simp [hy])]

/-- Reading part of a slice reads the store it was cut from. -/
theorem Mem.get_slice (m : Mem) (a : Nat) {n x : Nat} (hx : x < n) : Mem.get (Mem.slice m a n) x = Mem.get m (a + x) := by
  unfold Mem.slice
  rw [Mem.get_unshift (by simp +contextual), Mem.get_filter (by simp [hx])]

/-- Reading after n bytes from address a were replaced. -/
theorem Mem.get_splice (m sub : Mem) (a n x : Nat) :
    Mem.get (Mem.splice m a n sub) x = if a ≤ x ∧ x < a + n then Mem.get sub (x - a) else Mem.get m x := by
  have hlow (h : x < a) : Mem.get (m.filter fun e => decide (e.1 < a)) x = Mem.get m x := Mem.get_filter (by simpa) m
  have hhigh (h : a + n ≤ x) : Mem.get (m.filter fun e => decide (a + n ≤ e.1)) x = Mem.get m x :=
    Mem.get_filter (by simpa) m
  unfold Mem.splice
  by_cases h1 : x < a
  · rw [Mem.get_append_of_absent, Mem.get_append_of_absent, hlow h1, if_neg (by omega)]
    · simp only [List.mem_map, forall_exists_index, and_imp]; rintro e y - rfl; simp only; omega
    · simp only [List.mem_filter, decide_eq_true_eq]; omega
  · rw [List.append_assoc, Mem.get_append_of_not_mem]
    · by_cases h2 : x < a + n
      · rw [Mem.get_append_of_absent, if_pos ⟨by omega, h2⟩]
        · obtain ⟨y, rfl⟩ : ∃ y, x = y + a := ⟨x - a, by omega⟩
          rw [Mem.get_shift, Nat.add_sub_cancel]
          exact Mem.get_filter (by intro v; simp only [decide_eq_true_eq]; omega) sub
        · simp only [List.mem_filter, decide_eq_true_eq]; omega
      · rw [Mem.get_append_of_not_mem, hhigh (by omega), if_neg (by omega)]
        simp only [List.mem_map, List.mem_filter, decide_eq_true_eq, forall_exists_index, and_imp]
        rintro e y - hy rfl; simp only; omega
    · simp only [List.mem_filter, decide_eq_true_eq]; omega

/-- Reading after a number was written into a canonical store. -/
theorem Mem.get_wr (n : Nat) : ∀ (m : Mem) (a v x : Nat), Mem.wf m = true →
    Mem.get (Mem.wr m a n v) x =
      if a ≤ x ∧ x < a + n then BitVec.ofNat 8 (v / 2 ^ (8 * (x - a))) else Mem.get m x := by
  induction n with
  | zero => intro m a v x _; rw [if_neg (by omega)]; rfl
  | succ n ih =>
    intro m a v x hm
    rw [Mem.wr, ih _ _ _ _ (Mem.wf_set _ _ hm)]
    rcases Nat.lt_trichotomy x a with hx | rfl | hx
    · rw [if_neg (by omega), if_neg (by omega), Mem.get_set_other _ _ (by omega)]
    · rw [if_neg (by omega), if_pos (by omega), Mem.get_set_self _ _ _ 0 hm]; simp
    · by_cases hn : x < a + (n + 1)
      · have hexp : 8 * (x - a) = 8 + 8 * (x - (a + 1)) := by omega
        rw [if_pos (by omega), if_pos (by omega), hexp, Nat.pow_add, ← Nat.div_div_eq_div_mul]
      · rw [if_neg (by omega), if_neg (by omega), Mem.get_set_other _ _ (by omega)]

/-! ### Piecewise constant maps -/

section
variable {α : Type}

theorem RMap.get_of_forall_lt {m : RMap α} {k : Nat} (h : ∀ e ∈ m, k < e.1) (d : α) : RMap.get d m k = d := by
  cases m with
  | nil => rfl
  | cons e m => simp [RMap.get, h e (by simp)]

theorem RMap.norm_subset [DecidableEq α] (m : RMap α) : ∀ d : α, ∀ e ∈ RMap.norm d m, e ∈ m := by
  induction m with
  | nil => simp [RMap.norm]
  | cons e m ih =>
    intro d x hx
    unfold RMap.norm at hx
    split at hx
    · exact List.mem_cons_of_mem _ (ih d x hx)
    · rcases List.mem_cons.mp hx with rfl | hx
      · simp
      · exact List.mem_cons_of_mem _ (ih _ x hx)

/-- The value at a key whose entry stands between lower and higher keys, also where dropping repetitions has dropped
the entry. -/
theorem RMap.get_norm_append_cons [DecidableEq α] {a : Nat} (v : α) {post : RMap α} (hpost : ∀ e ∈ post, a < e.1) :
    ∀ (pre : RMap α) (d : α), (∀ e ∈ pre, e.1 < a) → RMap.get d (RMap.norm d (pre ++ (a, v) :: post)) a = v := by
  intro pre
  induction pre with
  | nil =>
    intro d _
    have hrest (w : α) : RMap.get w (RMap.norm w post) a = w :=
      RMap.get_of_forall_lt (fun e he => hpost e (RMap.norm_subset post w e he)) w
    rw [List.nil_append, RMap.norm]
    split
    · rw [hrest]; exact Eq.symm ‹_›
    · simp [RMap.get, hrest]
  | cons e pre ih =>
    intro d hpre
    obtain ⟨j, w⟩ := e
    have hj : ¬ a < j := Nat.not_lt.mpr (Nat.le_of_lt (hpre (j, w) (by simp)))
    have hih (d : α) := ih d fun x hx => hpre x (by simp [hx])
    rw [List.cons_append, RMap.norm]
    split
    · exact hih d
    · simp [RMap.get, hj, hih]

/-- Reading the first key of a part that was replaced. -/
theorem RMap.get_splice_start [DecidableEq α] (d ds : α) (m sub : RMap α) (a : Nat) {n : Nat} (hn : 0 < n) :
    RMap.get d (RMap.splice d m a n ds sub) a = RMap.get ds sub 0 := by
  unfold RMap.splice
  rw [if_neg (by omega), List.append_assoc, List.cons_append]
  refine RMap.get_norm_append_cons _ ?_ _ _ (by simp)
  intro e he
  simp only [List.mem_append, List.mem_map, List.mem_filter, List.mem_cons, Bool.and_eq_true, decide_eq_true_eq] at he
  rcases he with ⟨y, ⟨-, hy⟩, rfl⟩ | rfl | ⟨-, he⟩
  · show a < y.1 + a; omega
  · show a < a + n; omega
  · omega

/-- One key's value, as a part of its own. -/
theorem RMap.slice_one (d : α) (m : RMap α) (a : Nat) : RMap.slice d m a 1 = [(0, RMap.get d m a)] := by
  simp [RMap.slice]

theorem RMap.segs_one (d : α) (m : RMap α) (a : Nat) (p : α → Bool) :
    RMap.segs d m a 1 p = if p (RMap.get d m a) then [(a, 1)] else [] := by
  simp only [RMap.segs, RMap.slice_one]
  by_cases h : p (RMap.get d m a) <;> simp [h]

theorem RMap.get_mapRange_one [DecidableEq α] (d : α) (m : RMap α) (a : Nat) (f : α → α) :
    RMap.get d (RMap.mapRange d m a 1 f) a = f (RMap.get d m a) := by
  rw [RMap.mapRange, RMap.get_splice_start _ _ _ _ _ Nat.one_pos, RMap.slice_one]
  rfl

end

end Containers

end Sys2Proof.Machine

/-! PROOFS. The ply sequencers (chapter 3): one rule for the instruction that a sequencer executes next, one for a trap,
and the statements about memory, waits and semaphores settled from them. -/

namespace Sys2Proof.Machine

section SequencerRules

variable {s : State} {b : Nat} {i : SeqIns}

@[simp] theorem State.blk_post (s : State) (a : RecArg) (c : Nat) : (s.post a).blk c = s.blk c := by simp [State.blk]

theorem State.blk_updBlk_of_ne (s : State) {b c : Nat} (h : c ≠ b) (f : Block → Block) : (s.updBlk b f).blk c = s.blk c := by
  rw [State.blk_updBlk, if_neg h]

@[simp] theorem State.blk_updSeq_self (s : State) (b : Nat) (f : Seq → Seq) :
    (s.updSeq b f).blk b = { s.blk b with seq := f (s.blk b).seq } := State.blk_updBlk_self s b _

theorem State.blk_updSeq_of_ne (s : State) {b c : Nat} (h : c ≠ b) (f : Seq → Seq) : (s.updSeq b f).blk c = s.blk c :=
  s.blk_updBlk_of_ne h _

theorem State.mainOn_of_blockLive (h : s.blockLive b = true) : s.mainOn = true := by
  simp only [State.blockLive, State.inPly, State.running, Bool.and_eq_true, beq_iff_eq] at h
  simp [State.mainOn, h.1.1.1.1.1]

theorem State.inPly_of_blockLive (h : s.blockLive b = true) : s.inPly = true := by
  simp only [State.blockLive, Bool.and_eq_true] at h
  exact h.1.1.1

/-- The state that the instruction which block b has fetched acts on: its class is served, and its word is corrected
(R84). -/
def State.fetched (s : State) (b : Nat) : State :=
  (s.serveAs (s.blk b).seq.bwclass b).updSeq b fun q => { q with imemChk := SMap.set .good q.imemChk (q.pc / 4) .good }

@[simp] theorem State.blk_fetched_self (s : State) (b : Nat) : (s.fetched b).blk b = { s.blk b with
    seq := { (s.blk b).seq with imemChk := SMap.set .good (s.blk b).seq.imemChk ((s.blk b).seq.pc / 4) .good } } :=
  State.blk_updSeq_self _ _ _

theorem State.blk_fetched_of_ne (s : State) {b c : Nat} (h : c ≠ b) : (s.fetched b).blk c = s.blk c :=
  State.blk_updSeq_of_ne _ h _

@[simp] theorem State.seqReg_fetched (s : State) (b r : Nat) : (s.fetched b).seqReg b r = s.seqReg b r := by
  simp [State.seqReg, Seq.reg]

/-- The instruction at the pc of a running sequencer acts on the fetched state. -/
theorem SeqAt.seqStep_eq (h : SeqAt s b i) {f : SeqIns → State → Option State} {t : State}
    (hf : f i (s.fetched b) = some t) : s.seqStep b f = t := by
  obtain ⟨-, hlive, hrun, hpc, hovl, hchk, hdec⟩ := h
  have hfault : (s.blk b).seq.fetchFault = none := by
    unfold Seq.fetchFault
    rw [if_neg (by omega), if_neg (by simpa using hovl), if_neg (by simpa using hchk)]
  unfold State.seqStep
  simp only [hlive, hrun, hfault, hdec, BEq.rfl, Bool.and_self, Bool.not_true, Bool.false_eq_true, if_false]
  show (f i (s.fetched b)).getD s = t
  rw [hf]; rfl

theorem SeqAt.lt (h : SeqAt s b i) : b < 96 := h.1
theorem SeqAt.blockLive (h : SeqAt s b i) : s.blockLive b = true := h.2.1
theorem SeqAt.run (h : SeqAt s b i) : (s.blk b).seq.st = .run := h.2.2.1

/-- A row of a sequencer's instruction answers what the instruction does. -/
theorem SeqAt.runs (h : SeqAt s b i) {c : Instr} {f : SeqIns → State → Option State} {t : State} {P : State → Prop}
    (hexec : exec c s = onUnit (decide (b < 96)) (s.seqStep b f)) (hf : f i (s.fetched b) = some t) (hP : P t) :
    Runs c s P := by
  refine ⟨t, ?_, hP⟩
  rw [hexec, onUnit_of_exists (decide_eq_true h.lt), h.seqStep_eq hf]

/-- An 18-bit immediate is extended by its sign (R88). -/
theorem imm18s_eq (i : Nat) : imm18s i = BitVec.ofInt 32 (imm18 i) := by
  unfold imm18s BitVec.signExtend imm18
  congr 1
  rw [BitVec.toInt_eq_toNat_cond, BitVec.toNat_ofNat]
  split <;> split <;> omega

theorem seqAddr_eq (s : State) (b ra imm : Nat) : (s.seqReg b ra + imm18s imm).toNat = seqAddr s b ra imm := by
  rw [seqAddr, BitVec.ofInt_add, BitVec.ofInt_toInt, imm18s_eq]

/-- A UC record is new also over an earlier state whose log has the same next index. -/
theorem State.post_newRecord_of_next {s s' : State} (a : RecArg) {cls level unit code : Nat}
    (hnext : s'.err.next = s.err.next) (h : s'.mainOn = true) (hc : 3 ≤ cls)
    (ha : (a.cls, a.level, a.unit, a.code) = (cls, level, unit, code)) : NewRecord s (s'.post a) cls level unit code := by
  simp only [Prod.mk.injEq] at ha
  obtain ⟨rfl, rfl, rfl, rfl⟩ := ha
  obtain ⟨r, hlog, hindex, hnew⟩ := s'.post_newRecord a h hc
  exact ⟨r, hlog, hindex.trans hnext, by rw [hnew.1, hnext], hnew.2⟩

/-- A trap of an instruction's, other than that of an uncorrectable word. -/
theorem SeqAt.seqTraps (h : SeqAt s b i) {cause : Nat} (hc : cause ≠ 4) :
    SeqTraps s ((s.fetched b).seqTrap b cause) b cause := by
  have hmain : s.mainOn = true := State.mainOn_of_blockLive h.blockLive
  unfold State.seqTrap
  simp only [hc, if_false]
  refine ⟨by simp, by simp, by simp, fun r => ?_, fun c hne => ?_, ?_, ?_, ?_⟩
  · simp [State.seqReg, Seq.reg]
  · rw [State.blk_post, State.blk_updSeq_of_ne _ hne, s.blk_fetched_of_ne hne]
  · refine State.post_newRecord_of_next _ ?_ ?_ (by decide) rfl
    · simp [State.fetched]
    · exact hmain
  · simp [MemorySame, State.fetched]
  · simp [State.fetched]

end SequencerRules

section SequencerWords

variable {s : State} {b : Nat}

/-! ### Words of the block array as a sequencer meets them (R196, R200) -/

@[simp] theorem State.blk_tookFree (s : State) (c : Nat) : s.tookFree.blk c = s.blk c := rfl

@[simp] theorem State.blk_baCeRec (s : State) (b w c : Nat) : (s.baCeRec b w).blk c = s.blk c := by
  simp [State.baCeRec, State.postSyndrome]

theorem State.baCorrect_one_of_ne {w : Nat} (h : ((s.blk b).wordSt w).chk ≠ .single) : s.baCorrect b w 1 = s := by
  have hsegs : RMap.segs {} (s.blk b).baSt w 1 (fun c => c.chk == .single) = [] := by
    rw [RMap.segs_one, if_neg (by simpa [Block.wordSt] using h)]
  unfold State.baCorrect
  simp [hsegs]

/-- A singly wrong word is corrected in place, counted and recorded. -/
theorem State.baCorrect_one_of_single {w : Nat} (h : ((s.blk b).wordSt w).chk = .single) :
    s.baCorrect b w 1 = (s.updBlk b fun B => { B with
      baCe := satAdd B.baCe 1
      baSt := RMap.mapRange {} B.baSt w 1 fun c => if c.chk == .single then { c with chk := .good } else c }).baCeRec b w := by
  have hsegs : RMap.segs {} (s.blk b).baSt w 1 (fun c => c.chk == .single) = [(w, 1)] := by
    rw [RMap.segs_one, if_pos (by simpa [Block.wordSt] using h)]
  unfold State.baCorrect
  simp [hsegs]

theorem State.blk_strike_of_ne (s : State) {b c : Nat} (h : c ≠ b) (u r : Nat) : (s.strike b u r).blk c = s.blk c := by
  unfold State.strike
  split
  · rfl
  · exact s.blk_updBlk_of_ne h _

/-- A strike is noted with the block, and changes nothing else of it. -/
theorem State.blk_strike_self (s : State) (b u r : Nat) :
    (s.strike b u r).blk b = { s.blk b with strikes := ((s.strike b u r).blk b).strikes } := by
  unfold State.strike
  split
  · rfl
  · rw [State.blk_updBlk_self]; dsimp only; split <;> rfl

theorem State.blk_baCount_of_ne (s : State) {b c : Nat} (h : c ≠ b) (st : WordSt) : (s.baCount b st).blk c = s.blk c := by
  unfold State.baCount
  dsimp only
  split
  · rw [State.blk_strike_of_ne _ h, s.blk_updBlk_of_ne h]
  · exact s.blk_updBlk_of_ne h _

@[simp] theorem State.seq_baCount (s : State) (b : Nat) (st : WordSt) : ((s.baCount b st).blk b).seq = (s.blk b).seq := by
  unfold State.baCount
  dsimp only
  split
  · rw [State.blk_strike_self]; simp
  · simp

@[simp] theorem State.strike_err (s : State) (b u r : Nat) : (s.strike b u r).err = s.err := by
  unfold State.strike; split <;> simp

@[simp] theorem State.strike_dev (s : State) (b u r : Nat) : (s.strike b u r).dev = s.dev := by
  unfold State.strike; split <;> simp

@[simp] theorem State.baCount_err (s : State) (b : Nat) (st : WordSt) : (s.baCount b st).err = s.err := by
  unfold State.baCount; dsimp only; split <;> simp

@[simp] theorem State.baCount_dev (s : State) (b : Nat) (st : WordSt) : (s.baCount b st).dev = s.dev := by
  unfold State.baCount; dsimp only; split <;> simp

/-- A sequencer that stops keeps its place and its registers, and a UC record of its block is posted (Table 7.10). -/
theorem State.seqStop_spec (s : State) (b o : Nat) (h : s.mainOn = true) :
    ((s.seqStop b o).blk b).seq.st = .stopped ∧ ((s.seqStop b o).blk b).seq.pc = (s.blk b).seq.pc ∧
    ((s.seqStop b o).blk b).seq.regs = (s.blk b).seq.regs ∧ NewRecord s (s.seqStop b o) 3 1 0x01 0x200 ∧
    ∀ c, c ≠ b → (s.seqStop b o).blk c = s.blk c := by
  unfold State.seqStop
  refine ⟨by simp, by simp, by simp, ?_, fun c hc => ?_⟩
  · exact State.post_newRecord_of_next _ rfl h (by decide) rfl
  · rw [State.blk_updSeq_of_ne _ hc, State.blk_post]

/-- Writing a register and going on sets that register only. -/
theorem Seq.reg_setReg (q : Seq) (rd r : Nat) (v : W32) : (q.setReg rd v).reg r = if r = rd ∧ r ≠ 0 then v else q.reg r := by
  unfold Seq.setReg Seq.reg
  by_cases h0 : r = 0
  · simp [h0]
  · by_cases hd : rd = 0
    · simp [hd, h0]
    · by_cases h : r = rd
      · subst h; simp [h0]
      · simp [h0, hd, h, SMap.get_set_other]

theorem State.setsReg_seqWrite {s0 : State} (h : (s.blk b).seq.regs = (s0.blk b).seq.regs) (rd : Nat) (v : W32) :
    SetsReg s0 (s.seqWrite b rd v) b rd v := by
  intro r
  have hadv : (s.seqWrite b rd v).seqReg b r = ((s.blk b).seq.setReg rd v).reg r := by
    simp [State.seqReg, State.seqWrite, Seq.advance, Seq.reg]
  rw [hadv, Seq.reg_setReg]
  simp [State.seqReg, Seq.reg, h]

@[simp] theorem Seq.setReg_pc (q : Seq) (rd : Nat) (v : W32) : (q.setReg rd v).pc = q.pc := by
  unfold Seq.setReg; split <;> rfl

/-- Of the sequencer a register write changes the registers only. -/
theorem Seq.setReg_eq (q : Seq) (rd : Nat) (v : W32) : q.setReg rd v = { q with regs := (q.setReg rd v).regs } := by
  unfold Seq.setReg; split <;> rfl

/-- What an instruction does that ends in a change of the sequencer's place, run state and registers only. -/
theorem State.seqDoes_updSeq_fetched (s : State) {b pc : Nat} {st : SeqSt} {f : Seq → Seq}
    (hf : ∀ q, q.pc = (s.blk b).seq.pc → f q = { q with pc := pc, st := st, regs := (f q).regs }) :
    SeqDoes s ((s.fetched b).updSeq b f) b pc st := by
  refine ⟨?_, fun c hc => ?_, rfl⟩
  · rw [State.blk_updSeq_self, hf _ (by simp), s.blk_fetched_self]
  · rw [State.blk_updSeq_of_ne _ hc, s.blk_fetched_of_ne hc]

end SequencerWords

section Journal

variable {s : State}

/-! ### The journal at a first write (R56, R227) -/

theorem length_filter_lt_succ {α : Type} (f : α → Nat) (n : Nat) (l : List α) :
    (l.filter fun e => decide (f e < n + 1)).length =
      (l.filter fun e => decide (f e < n)).length + (l.filter fun e => f e == n).length := by
  induction l with
  | nil => rfl
  | cons e l ih => grind

/-- Where each of n classes has at least c entries, there are at least n c. -/
theorem mul_le_length_filter_lt {α : Type} (f : α → Nat) (c : Nat) (l : List α) :
    ∀ n, (∀ k, k < n → c ≤ (l.filter fun e => f e == k).length) →
      n * c ≤ (l.filter fun e => decide (f e < n)).length := by
  intro n
  induction n with
  | zero => simp
  | succ n ih =>
    intro h
    have hn := h n (by omega)
    have hrest := ih fun k hk => h k (by omega)
    rw [length_filter_lt_succ, Nat.succ_mul]
    omega

/-- A generation that holds fewer entries than all halves together has a half with room. -/
theorem State.journalHome_isSome (key : JKey) (h : s.genNow.length < s.journalCap) : ∃ k, s.journalHome key = some k := by
  rw [← Option.isSome_iff_exists, State.journalHome, List.find?_isSome]
  by_contra hnone
  have hfull : ∀ k, k < 8 → s.halfCap ≤ (s.genNow.filter fun e => e.home == k).length := by
    intro k hk
    by_contra hroom
    refine hnone ⟨k, List.mem_map.mpr ⟨(k + 8 - key.slice % 8) % 8, ?_, by omega⟩, ?_⟩
    · rw [List.mem_range]; omega
    · simpa [State.halfRoom] using hroom
  have hsum := mul_le_length_filter_lt JEntry.home s.halfCap s.genNow 8 hfull
  have hle := List.length_filter_le (fun e : JEntry => decide (e.home < 8)) s.genNow
  rw [State.journalCap] at h
  omega

@[simp] theorem State.qosAdd_eq_qos (s : State) (r n : Nat) : { s with qos := (s.qosAdd r n).qos } = s.qosAdd r n := by
  unfold State.qosAdd; split <;> rfl

/-- Journalling changes the ply unit's and the counters' state only. -/
theorem State.journalAdd_eq (s : State) (e : JEntry) :
    s.journalAdd e = { s with sch := (s.journalAdd e).sch, qos := (s.journalAdd e).qos } := by
  unfold State.journalAdd
  split
  · dsimp only
    rw [← s.qosAdd_eq_qos 1 1024]
    split <;> rfl
  · rfl

/-- Where a half has room, the entry is the newest of the generation in use. -/
theorem State.genNow_journalAdd {e : JEntry} {k : Nat} (h : s.journalHome e.key = some k) :
    (s.journalAdd e).genNow = { e with home := k } :: s.genNow := by
  unfold State.journalAdd
  rw [h]
  dsimp only
  by_cases hg : s.sch.gen = true <;> simp [State.genNow, hg]

theorem State.journalGranule_eq (s : State) (b g : Nat) :
    s.journalGranule b g = { s with sch := (s.journalGranule b g).sch, qos := (s.journalGranule b g).qos } := by
  unfold State.journalGranule
  split
  · rfl
  · exact State.journalAdd_eq _ _

@[simp] theorem State.journalGranule_blk (s : State) (b g c : Nat) : (s.journalGranule b g).blk c = s.blk c := by
  rw [State.journalGranule_eq]; rfl

theorem State.journalGranule_of_present {b g : Nat} (h : ∃ e ∈ s.genNow, e.key = .granule b g) :
    s.journalGranule b g = s := by
  unfold State.journalGranule State.firstWrite
  rw [if_pos]
  obtain ⟨e, he, hkey⟩ := h
  have hany : s.genNow.any (fun e => e.key == .granule b g) = true := List.any_eq_true.mpr ⟨e, he, by simp [hkey]⟩
  simp [hany]

/-- The first write of a ply to a granule copies it (R56). -/
theorem State.genNow_journalGranule {b g : Nat} (hply : s.inPly = true) (h : ∀ e ∈ s.genNow, e.key ≠ .granule b g)
    (hcap : s.genNow.length < s.journalCap) : ∃ e, (s.journalGranule b g).genNow = e :: s.genNow ∧
      e.key = .granule b g ∧ e.data = Mem.slice (s.blk b).ba (g * 1024) 1024 := by
  have hfirst : s.firstWrite (.granule b g) = true := by
    simpa [State.firstWrite, hply] using h
  obtain ⟨k, hk⟩ := State.journalHome_isSome (.granule b g) hcap
  unfold State.journalGranule
  rw [if_neg (by simp [hfirst])]
  exact ⟨_, State.genNow_journalAdd hk, rfl, rfl⟩

theorem State.journalGranules_word (s : State) (b : Nat) {a : Nat} (h : a % 4 = 0) :
    s.journalGranules b a 4 = s.journalGranule b (a / 1024) := by
  have hone : (a + 4 - 1) / 1024 - a / 1024 + 1 = 1 := by omega
  unfold State.journalGranules
  rw [hone]
  rfl

end Journal

section SequencerMemory

variable {s : State} {b rd ra imm a : Nat}

theorem SeqAt.runs_of_misaligned {i : Instr} (h : SeqAt s b (.lw rd ra imm) ∧ i = .seqLw b ∨ SeqAt s b (.sw rd ra imm) ∧ i = .seqSw b)
    (ha : seqAddr s b ra imm % 4 ≠ 0) : Runs i s fun t => SeqTraps s t b 2 := by
  rcases h with ⟨h, rfl⟩ | ⟨h, rfl⟩ <;>
  · refine h.runs rfl ?_ (h.seqTraps (by decide))
    simp only [State.seqReg_fetched, seqAddr_eq]
    rw [if_pos ha]

theorem State.scratchTop_fetched (s : State) (b : Nat) : (s.fetched b).scratchTop b = s.scratchTop b := by
  simp [State.scratchTop]

theorem SeqAt.runs_of_outside {i : Instr} (h : SeqAt s b (.lw rd ra imm) ∧ i = .seqLw b ∨ SeqAt s b (.sw rd ra imm) ∧ i = .seqSw b)
    (ha : seqAddr s b ra imm % 4 = 0) (ht : s.scratchTop b ≤ seqAddr s b ra imm) :
    Runs i s fun t => SeqTraps s t b 3 := by
  rcases h with ⟨h, rfl⟩ | ⟨h, rfl⟩ <;>
  · refine h.runs rfl ?_ (h.seqTraps (by decide))
    simp only [State.seqReg_fetched, seqAddr_eq, State.scratchTop_fetched]
    rw [if_neg (by omega), if_pos ht]

/-- LW of a word that needs no correction and may be used. -/
theorem SeqAt.runs_lw_good (h : SeqAt s b (.lw rd ra imm)) (hadr : seqAddr s b ra imm = a) (h4 : a % 4 = 0)
    (htop : a < s.scratchTop b) (hst : (s.blk b).wordSt (a / 4) = { written := true }) : Runs (.seqLw b) s fun t =>
    SeqDoes s t b ((s.blk b).seq.pc + 4) .run ∧ SetsReg s t b rd (Mem.rd32 (s.blk b).ba a) := by
  have hword : ((s.fetched b).blk b).wordSt (a / 4) = { written := true } := by simpa [Block.wordSt] using hst
  have hval : ((s.fetched b).blk b).word (a / 4) = Mem.rd32 (s.blk b).ba a := by
    simp [Block.word, Nat.mul_div_cancel' (Nat.dvd_of_mod_eq_zero h4)]
  refine h.runs (t := (s.fetched b).seqWrite b rd (Mem.rd32 (s.blk b).ba a)) rfl ?_ ⟨?_, ?_⟩
  · simp only [State.seqReg_fetched, seqAddr_eq, State.scratchTop_fetched, hadr]
    rw [if_neg (by omega), if_neg (by omega), State.baCorrect_one_of_ne (by rw [hword]; decide), hword, if_neg (by decide), hval]
  · refine s.seqDoes_updSeq_fetched fun q hq => ?_
    rw [Seq.setReg_eq]; simp [Seq.advance, hq]
  · exact State.setsReg_seqWrite (by simp) rd _

/-- LW of a singly wrong word: corrected in place, then read. -/
theorem SeqAt.runs_lw_single (h : SeqAt s b (.lw rd ra imm)) (hadr : seqAddr s b ra imm = a) (h4 : a % 4 = 0)
    (htop : a < s.scratchTop b) (hst : (s.blk b).wordSt (a / 4) = { written := true, chk := .single }) :
    Runs (.seqLw b) s fun t =>
      (t.blk b).seq.pc = (s.blk b).seq.pc + 4 ∧ (t.blk b).seq.st = .run ∧
      SetsReg s t b rd (Mem.rd32 (s.blk b).ba a) ∧ (t.blk b).wordSt (a / 4) = { written := true } ∧
      (t.blk b).baCe = satAdd (s.blk b).baCe 1 ∧ (t.blk b).ba = (s.blk b).ba ∧ ∀ c, c ≠ b → t.blk c = s.blk c := by
  have hword : ((s.fetched b).blk b).wordSt (a / 4) = { written := true, chk := .single } := by
    simpa [Block.wordSt] using hst
  have hfixed : (((s.fetched b).baCorrect b (a / 4) 1).blk b).wordSt (a / 4) = { written := true } := by
    rw [State.baCorrect_one_of_single (by rw [hword])]
    rw [Block.wordSt] at hword
    simp only [Block.wordSt, State.blk_baCeRec, State.blk_updBlk_self, RMap.get_mapRange_one, hword]
    rfl
  have hval : (((s.fetched b).baCorrect b (a / 4) 1).blk b).word (a / 4) = Mem.rd32 (s.blk b).ba a := by
    rw [State.baCorrect_one_of_single (by rw [hword])]
    simp [Block.word, Nat.mul_div_cancel' (Nat.dvd_of_mod_eq_zero h4)]
  refine h.runs (t := ((s.fetched b).baCorrect b (a / 4) 1).seqWrite b rd (Mem.rd32 (s.blk b).ba a)) rfl ?_ ?_
  · simp only [State.seqReg_fetched, seqAddr_eq, State.scratchTop_fetched, hadr]
    rw [if_neg (by omega), if_neg (by omega), hfixed, if_neg (by decide), hval]
  · refine ⟨?_, ?_, State.setsReg_seqWrite ?_ rd _, ?_, ?_, ?_, fun c hc => ?_⟩
    case refine_4 => simpa [State.seqWrite, Block.wordSt] using hfixed
    case refine_7 =>
      rw [State.seqWrite, State.blk_updSeq_of_ne _ hc, State.baCorrect_one_of_single (by rw [hword]), State.blk_baCeRec,
        State.blk_updBlk_of_ne _ hc, s.blk_fetched_of_ne hc]
    all_goals
      rw [State.baCorrect_one_of_single (by rw [hword])]
      simp [State.seqWrite, Seq.advance]

/-- LW of a dark word stops the sequencer (Table 7.10). -/
theorem SeqAt.runs_lw_dark (h : SeqAt s b (.lw rd ra imm)) (hadr : seqAddr s b ra imm = a) (h4 : a % 4 = 0)
    (htop : a < s.scratchTop b) (hchk : ((s.blk b).wordSt (a / 4)).chk ≠ .single)
    (hdark : ((s.blk b).wordSt (a / 4)).dark = true) : Runs (.seqLw b) s fun t =>
      (t.blk b).seq.st = .stopped ∧ (t.blk b).seq.pc = (s.blk b).seq.pc ∧ RegsSame s t b ∧
      NewRecord s t 3 1 0x01 0x200 ∧ ∀ c, c ≠ b → t.blk c = s.blk c := by
  have hword : ((s.fetched b).blk b).wordSt (a / 4) = (s.blk b).wordSt (a / 4) := by simp [Block.wordSt]
  have hmain : s.mainOn = true := State.mainOn_of_blockLive h.blockLive
  have hmeet {u : State} (hu : u.dev = s.dev) (herr : u.err = s.err) (hseq : (u.blk b).seq = ((s.fetched b).blk b).seq)
      (hoth : ∀ c, c ≠ b → u.blk c = s.blk c) :
      ((u.seqStop b a).blk b).seq.st = .stopped ∧ ((u.seqStop b a).blk b).seq.pc = (s.blk b).seq.pc ∧
      RegsSame s (u.seqStop b a) b ∧ NewRecord s (u.seqStop b a) 3 1 0x01 0x200 ∧
      ∀ c, c ≠ b → (u.seqStop b a).blk c = s.blk c := by
    obtain ⟨h1, h2, h3, h4, h5⟩ := u.seqStop_spec b a (by simpa [State.mainOn, hu] using hmain)
    refine ⟨h1, by simp [h2, hseq], fun r => ?_, ?_, fun c hc => (h5 c hc).trans (hoth c hc)⟩
    · simp [State.seqReg, Seq.reg, h3, hseq]
    · simpa [NewRecord, herr] using h4
  refine h.runs rfl (t := (if ((s.blk b).wordSt (a / 4)).chk == .bad || !((s.blk b).wordSt (a / 4)).written then
    (s.fetched b).baCount b ((s.blk b).wordSt (a / 4)) else s.fetched b).seqStop b a) ?_ ?_
  · simp only [State.seqReg_fetched, seqAddr_eq, State.scratchTop_fetched, hadr]
    rw [if_neg (by omega), if_neg (by omega), State.baCorrect_one_of_ne (by rwa [hword]), hword, if_pos hdark]
  · split
    · refine hmeet (by simp [State.fetched]) (by simp [State.fetched]) (by simp) fun c hc => ?_
      rw [State.blk_baCount_of_ne _ hc, s.blk_fetched_of_ne hc]
    · exact hmeet (by simp [State.fetched]) (by simp [State.fetched]) rfl fun c hc => s.blk_fetched_of_ne hc

/-- Writing one aligned word of the array (R196). -/
theorem State.blk_baWrite_word (s : State) (b : Nat) {a : Nat} (v : W32) (h : a % 4 = 0) :
    (s.baWrite b a 4 (Mem.wr32 [] 0 v) []).blk b = { s.blk b with
      ba := Mem.splice (s.blk b).ba a 4 (Mem.wr32 [] 0 v)
      baSt := RMap.splice {} (s.blk b).baSt (a / 4) 1 { written := true } [(0, { written := true })] } := by
  unfold State.baWrite
  rw [if_neg (by omega), s.journalGranules_word b h, State.blk_updBlk_self, State.journalGranule_blk]
  rfl

theorem State.baWrite_word_eq (s : State) (b : Nat) {a : Nat} (m : Mem) (h : a % 4 = 0) :
    s.baWrite b a 4 m [] = { s with
      blocks := (s.baWrite b a 4 m []).blocks
      sch := (s.journalGranule b (a / 1024)).sch
      qos := (s.journalGranule b (a / 1024)).qos } := by
  have hj := s.journalGranule_eq b (a / 1024)
  unfold State.baWrite
  rw [if_neg (by omega), s.journalGranules_word b h]
  generalize s.journalGranule b (a / 1024) = u at hj
  rw [hj]
  rfl

theorem State.blk_baWrite_word_of_ne (s : State) {b c : Nat} {a : Nat} (m : Mem) (h : a % 4 = 0) (hc : c ≠ b) :
    (s.baWrite b a 4 m []).blk c = s.blk c := by
  unfold State.baWrite
  rw [if_neg (by omega), s.journalGranules_word b h, State.blk_updBlk_of_ne _ hc, State.journalGranule_blk]

theorem State.genNow_baWrite_word (s : State) (b : Nat) {a : Nat} (m : Mem) (h : a % 4 = 0) :
    (s.baWrite b a 4 m []).genNow = (s.journalGranule b (a / 1024)).genNow := by
  rw [State.baWrite_word_eq s b m h]
  rfl

/-- SW writes its word and nothing beside it, after the granule's first write in the ply was journalled. -/
theorem SeqAt.runs_sw (h : SeqAt s b (.sw rd ra imm)) (hadr : seqAddr s b ra imm = a) (h4 : a % 4 = 0)
    (htop : a < s.scratchTop b) : Runs (.seqSw b) s fun t =>
      (t.blk b).seq.pc = (s.blk b).seq.pc + 4 ∧ (t.blk b).seq.st = .run ∧ RegsSame s t b ∧
      (∀ x, Mem.get (t.blk b).ba x = if a ≤ x ∧ x < a + 4
        then BitVec.ofNat 8 ((s.seqReg b rd).toNat / 2 ^ (8 * (x - a))) else Mem.get (s.blk b).ba x) ∧
      (t.blk b).wordSt (a / 4) = { written := true } ∧
      (∀ c, c ≠ b → t.blk c = s.blk c) ∧ t = { s with blocks := t.blocks, sch := t.sch, qos := t.qos } ∧
      ((∀ e ∈ s.genNow, e.key ≠ .granule b (a / 1024)) → s.genNow.length < s.journalCap →
        ∃ e, t.genNow = e :: s.genNow ∧ e.key = .granule b (a / 1024) ∧
          ∀ j, j < 1024 → Mem.get e.data j = Mem.get (s.blk b).ba (1024 * (a / 1024) + j)) ∧
      ((∃ e ∈ s.genNow, e.key = .granule b (a / 1024)) → t.genNow = s.genNow) := by
  have hply : s.inPly = true := State.inPly_of_blockLive h.blockLive
  have hgen : (((s.fetched b).baWrite b a 4 (Mem.wr32 [] 0 (s.seqReg b rd)) []).updSeq b Seq.advance).genNow =
      ((s.fetched b).journalGranule b (a / 1024)).genNow :=
    State.genNow_baWrite_word _ b (Mem.wr32 [] 0 (s.seqReg b rd)) h4
  refine h.runs (t := ((s.fetched b).baWrite b a 4 (Mem.wr32 [] 0 (s.seqReg b rd)) []).updSeq b Seq.advance) rfl ?step ?_
  case step =>
    simp only [State.seqReg_fetched, seqAddr_eq, State.scratchTop_fetched, hadr]
    rw [if_neg (by omega), if_neg (by omega)]
  refine ⟨?pc, ?run, fun r => ?regs, fun x => ?bytes, ?word, fun c hc => ?others, ?rest, ?first, ?again⟩
  case pc => simp [State.blk_baWrite_word _ _ _ h4, Seq.advance]
  case run => simp [Seq.advance]
  case regs => simp [State.seqReg, Seq.reg, State.blk_baWrite_word _ _ _ h4, Seq.advance]
  case bytes =>
    rw [State.blk_updSeq_self, State.blk_baWrite_word _ _ _ h4]
    simp only [Mem.get_splice, State.blk_fetched_self]
    refine ite_congr rfl (fun hx => ?_) fun _ => rfl
    rw [Mem.wr32, Mem.get_wr _ _ _ _ _ rfl, if_pos (by omega), Nat.sub_zero]
  case word =>
    rw [State.blk_updSeq_self, State.blk_baWrite_word _ _ _ h4]
    exact RMap.get_splice_start _ _ _ _ _ Nat.one_pos
  case others =>
    rw [State.blk_updSeq_of_ne _ hc, State.blk_baWrite_word_of_ne _ _ h4 hc, s.blk_fetched_of_ne hc]
  case rest =>
    rw [State.baWrite_word_eq _ b _ h4]
    rfl
  case first =>
    intro hnew hcap
    obtain ⟨e, hlist, hkey, hdata⟩ := State.genNow_journalGranule (s := s.fetched b) hply hnew hcap
    refine ⟨e, hgen.trans hlist, hkey, fun j hj => ?_⟩
    rw [hdata, Mem.get_slice _ _ hj, s.blk_fetched_self, Nat.mul_comm]
  case again =>
    intro hold
    rw [hgen, State.journalGranule_of_present (s := s.fetched b) hold]
    rfl

end SequencerMemory

/-- Settles O31: the traps, then LW by the state of its word, and SW. -/
theorem sequencerMemory : Obligations.SequencerMemory := by
  unfold Obligations.SequencerMemory
  refine ⟨fun s b rd ra imm i h => ?traps, fun s b rd ra imm a h hadr h4 htop => ?lw,
    fun s b rd ra imm a h hadr h4 htop => h.runs_sw hadr h4 htop⟩
  case traps => exact ⟨SeqAt.runs_of_misaligned h, SeqAt.runs_of_outside h⟩
  case lw => exact ⟨h.runs_lw_good hadr h4 htop, h.runs_lw_single hadr h4 htop, h.runs_lw_dark hadr h4 htop⟩

section SequencerWaits

variable {s : State} {b : Nat}

/-! ### Waits (R91) -/

/-- Whether a block runs depends on the ply, on its region and on two of its own fields. -/
theorem State.blockLive_congr {s t : State} {c : Nat} (hply : t.inPly = s.inPly) (hregions : t.regions = s.regions)
    (hhalted : (t.blk c).halted = (s.blk c).halted) (hlost : (t.blk c).lost = (s.blk c).lost) :
    t.blockLive c = s.blockLive c := by
  unfold State.blockLive State.region
  rw [hply, hregions, hhalted, hlost]

theorem State.blockLive_fetched (s : State) (b c : Nat) : (s.fetched b).blockLive c = s.blockLive c := by
  by_cases h : c = b
  · subst h; exact State.blockLive_congr rfl rfl (by simp) (by simp)
  · exact State.blockLive_congr rfl rfl (by rw [s.blk_fetched_of_ne h]) (by rw [s.blk_fetched_of_ne h])

theorem State.unitDone_fetched (s : State) (b u : Nat) : (s.fetched b).unitDone b u = s.unitDone b u := by
  simp [State.unitDone, State.targetHalted, State.mcAt, State.dmaAt]

/-- WAITC's condition by the bits of its mask. -/
theorem State.seqCond_units_iff (s : State) (b m : Nat) : s.seqCond b (.units (BitVec.ofNat 8 m)) = true ↔
    ∀ u, u < 7 → m.testBit u = true → s.unitDone b u = true := by
  simp only [State.seqCond, List.all_eq_true, List.mem_range, Bool.or_eq_true, Bool.not_eq_true', BitVec.getLsbD_ofNat]
  refine forall₂_congr fun u hu => ?_
  have h8 : decide (u < 8) = true := by simp; omega
  rw [h8, Bool.true_and, ← Bool.not_eq_true, imp_iff_not_or]

theorem State.regsSame_seqWaitFor_fetched (s : State) (b : Nat) (w : SeqWait) :
    RegsSame s ((s.fetched b).seqWaitFor b w) b := by
  intro r
  unfold State.seqWaitFor
  split <;> simp [State.seqReg, Seq.reg, Seq.advance]

theorem State.seqDoes_seqWaitFor_of_cond {w : SeqWait} (h : (s.fetched b).seqCond b w = true) :
    SeqDoes s ((s.fetched b).seqWaitFor b w) b ((s.blk b).seq.pc + 4) .run := by
  rw [State.seqWaitFor, if_pos h]
  exact s.seqDoes_updSeq_fetched fun q hq => by simp [Seq.advance, hq]

theorem State.seqDoes_seqWaitFor_of_not_cond {w : SeqWait} (h : (s.fetched b).seqCond b w = false) :
    SeqDoes s ((s.fetched b).seqWaitFor b w) b (s.blk b).seq.pc (.wait w) := by
  rw [State.seqWaitFor, if_neg (by simp [h])]
  exact s.seqDoes_updSeq_fetched fun q hq => by rw [← hq]

theorem SeqAt.runs_waitc {m : Nat} (h : SeqAt s b (.waitc m)) : Runs (.seqWaitc b) s fun t =>
    RegsSame s t b ∧
    ((∀ u, u < 7 → m.testBit u = true → s.unitDone b u = true) → SeqDoes s t b ((s.blk b).seq.pc + 4) .run) ∧
    ((∃ u, u < 7 ∧ m.testBit u = true ∧ s.unitDone b u = false) →
      SeqDoes s t b (s.blk b).seq.pc (.wait (.units (BitVec.ofNat 8 m)))) := by
  have hcond := (s.fetched b).seqCond_units_iff b m
  simp only [State.unitDone_fetched] at hcond
  refine h.runs rfl rfl ⟨s.regsSame_seqWaitFor_fetched b _, fun hall => ?_, fun ⟨u, hu, hbit, hopen⟩ => ?_⟩
  · exact State.seqDoes_seqWaitFor_of_cond (hcond.mpr hall)
  · refine State.seqDoes_seqWaitFor_of_not_cond (Bool.eq_false_iff.mpr fun hall => ?_)
    exact absurd (hcond.mp hall u hu hbit) (by simp [hopen])

theorem SeqAt.runs_waitk {ra imm : Nat} (h : SeqAt s b (.waitk ra imm)) : Runs (.seqWaitk b) s fun t =>
    RegsSame s t b ∧
    (if seqAddr s b ra imm ≤ s.dom - s.sch.start then SeqDoes s t b ((s.blk b).seq.pc + 4) .run
     else SeqDoes s t b (s.blk b).seq.pc (.wait (.tick (seqAddr s b ra imm)))) := by
  refine h.runs (t := (s.fetched b).seqWaitFor b (.tick (seqAddr s b ra imm))) rfl ?_
    ⟨s.regsSame_seqWaitFor_fetched b _, ?_⟩
  · simp only [State.seqReg_fetched, seqAddr_eq]
  · split
    · exact State.seqDoes_seqWaitFor_of_cond (decide_eq_true ‹_›)
    · exact State.seqDoes_seqWaitFor_of_not_cond (decide_eq_false ‹_›)

/-- WAITX's condition where its entry is in the plan in force. -/
theorem State.xferDone_iff {pl : Section} {e : Nat} {x : Xfer} (hpl : s.plan = some pl) (hx : pl.xfers[e]? = some x) :
    s.xferDone e = true ↔
      s.sch.ply.toNat % x.period ≠ x.phase ∨ x.frames ≤ (SMap.get [] s.fab.received e).length := by
  simp [State.xferDone, hpl, hx, State.xferApplies]

theorem SeqAt.runs_waitx {ra imm : Nat} {pl : Section} {x : Xfer} (h : SeqAt s b (.waitx ra imm)) (hpl : s.plan = some pl)
    (hx : pl.xfers[seqAddr s b ra imm]? = some x) (hexp : x.expect = true) : Runs (.seqWaitx b) s fun t =>
    RegsSame s t b ∧
    (if s.sch.ply.toNat % x.period ≠ x.phase ∨ x.frames ≤ (SMap.get [] s.fab.received (seqAddr s b ra imm)).length
     then SeqDoes s t b ((s.blk b).seq.pc + 4) .run
     else SeqDoes s t b (s.blk b).seq.pc (.wait (.xfer (seqAddr s b ra imm)))) := by
  have hplf : (s.fetched b).plan = some pl := hpl
  have hcond := State.xferDone_iff (s := s.fetched b) hplf hx
  refine h.runs (t := (s.fetched b).seqWaitFor b (.xfer (seqAddr s b ra imm))) rfl ?_
    ⟨s.regsSame_seqWaitFor_fetched b _, ?_⟩
  · simp only [State.seqReg_fetched, seqAddr_eq, hplf, Option.bind_some, hx, hexp, if_true]
  · split
    case isTrue hdone => exact State.seqDoes_seqWaitFor_of_cond (hcond.mpr hdone)
    case isFalse hopen => exact State.seqDoes_seqWaitFor_of_not_cond (Bool.eq_false_iff.mpr fun hd => hopen (hcond.mp hd))

theorem SeqAt.runs_waitx_trap {ra imm : Nat} {pl : Section} (h : SeqAt s b (.waitx ra imm)) (hpl : s.plan = some pl)
    (hx : pl.xfers.length ≤ seqAddr s b ra imm ∨
      ∃ x, pl.xfers[seqAddr s b ra imm]? = some x ∧ x.expect = false) :
    Runs (.seqWaitx b) s fun t => SeqTraps s t b 8 := by
  have hplf : (s.fetched b).plan = some pl := hpl
  refine h.runs rfl ?_ (h.seqTraps (by decide))
  rcases hx with hlen | ⟨x, hx, hsend⟩
  · simp only [State.seqReg_fetched, seqAddr_eq, hplf, Option.bind_some, List.getElem?_eq_none hlen]
  · simp only [State.seqReg_fetched, seqAddr_eq, hplf, Option.bind_some, hx, hsend, Bool.false_eq_true, if_false]

/-- A wait ends when its condition holds (R91). -/
theorem State.seqWaitRelease_eq {w : SeqWait} (hb : b < 96) (hlive : s.blockLive b = true)
    (hw : (s.blk b).seq.st = .wait w) (hkind : ∀ n k t, w ≠ .sem n k ∧ w ≠ .queue t ∧ w ≠ .kernel)
    (hcond : s.seqCond b w = true) : exec (.seqWaitRelease b) s = .next (s.updSeq b Seq.advance) := by
  show execSeqWaitRelease b s = _
  unfold execSeqWaitRelease
  rw [onUnit_of_exists (decide_eq_true hb), if_neg (by simp [hlive]), hw]
  cases w
  case units => simp only [hcond, if_true]
  case tick => simp only [hcond, if_true]
  case xfer => simp only [hcond, if_true]
  case sem n k => exact absurd rfl (hkind n k 0).1
  case queue t => exact absurd rfl (hkind 0 0 t).2.1
  case kernel => exact absurd rfl (hkind 0 0 0).2.2

/-- EOP becomes the end-of-ply point when the block is idle (R36). -/
theorem exec_endOfPlyPoint (hb : b < 96) (hlive : s.blockLive b = true) (hst : (s.blk b).seq.st = .eopHold) :
    exec (.endOfPlyPoint b) s =
      .next (if s.blockIdle b = true then s.updSeq b fun q => { q with st := .eop } else s) := by
  show execEndOfPlyPoint b s = _
  simp [execEndOfPlyPoint, onUnit_of_exists (decide_eq_true hb), hlive, hst]

/-! ### The stall of CISSUE (R91) -/

/-- A command word is made of two registers, the second the upper half (R83). -/
theorem ofNat_add_mul_eq_append (x y : W32) : BitVec.ofNat 64 (x.toNat + 2 ^ 32 * y.toNat) = (y ++ x : BitVec 64) := by
  refine BitVec.eq_of_toNat_eq ?_
  have hx := x.isLt
  have hy := y.isLt
  rw [BitVec.toNat_append, ← Nat.shiftLeft_add_eq_or_of_lt hx, Nat.shiftLeft_eq, BitVec.toNat_ofNat]
  omega

/-- CISSUE to a unit that runs and has room. -/
theorem State.seqCissue_of_room {g ra rb : Nat} (hhalt : s.targetHalted b g = false)
    (hroom : (SMap.get [] (s.blk b).seq.queues g).length < 4) :
    s.seqCissue b g ra rb = s.updSeq b fun q =>
      ({ q with queues := SMap.set [] q.queues g (SMap.get [] (s.blk b).seq.queues g ++
                  [((s.seqReg b rb ++ s.seqReg b ra : BitVec 64), q.bwclass)])
                issued := SMap.upd 0 q.issued g (· + 1) } : Seq).advance := by
  unfold State.seqCissue
  simp only [hhalt, Nat.not_le.mpr hroom, Bool.false_eq_true, if_false, ofNat_add_mul_eq_append]
  rfl

theorem exec_seqStallRelease_queue {g ra rb : Nat} (hb : b < 96) (hlive : s.blockLive b = true)
    (hst : (s.blk b).seq.st = .wait (.queue g)) (hdec : seqDecode (s.blk b).seq.word = .cissue g ra rb)
    (hcond : s.seqCond b (.queue g) = true) : exec (.seqStallRelease b) s = .next (s.seqCissue b g ra rb) := by
  show execSeqStallRelease b s = _
  unfold execSeqStallRelease
  rw [onUnit_of_exists (decide_eq_true hb)]
  simp only [hlive, hst, hdec, hcond, Bool.not_true, Bool.false_eq_true, if_false, if_true]

end SequencerWaits

section Semaphores

variable {s : State} {b n k : Nat}

/-! ### Semaphores (R90) -/

@[simp] theorem State.blk_setSem (s : State) (n v c : Nat) : (s.setSem n v).blk c = s.blk c := rfl

theorem State.sem_setSem (s : State) (n v m : Nat) : (s.setSem n v).sem m = if m = n then v else s.sem m := by
  by_cases h : m = n
  · subst h; simp [State.sem, State.setSem]
  · simp [State.sem, State.setSem, h, SMap.get_set_other]

/-- What a block waits for depends on that block alone. -/
theorem State.semNeed_congr {s t : State} {c : Nat} (hlive : t.blockLive c = s.blockLive c)
    (hst : (t.blk c).seq.st = (s.blk c).seq.st) (n : Nat) : t.semNeed c n = s.semNeed c n := by
  unfold State.semNeed
  rw [hlive, hst]

theorem State.semNeed_fetched (s : State) (b c n : Nat) : (s.fetched b).semNeed c n = s.semNeed c n := by
  refine State.semNeed_congr (s.blockLive_fetched b c) ?_ n
  by_cases h : c = b
  · subst h; simp
  · rw [s.blk_fetched_of_ne h]

/-- The state in which block b has been granted k of semaphore n. -/
def State.semGrant (s : State) (b n k : Nat) : State := (s.setSem n (s.sem n - k)).updSeq b Seq.advance

theorem State.sem_semGrant (s : State) (b n k m : Nat) :
    (s.semGrant b n k).sem m = if m = n then s.sem n - k else s.sem m := s.sem_setSem n _ m

theorem State.blk_semGrant_of_ne (s : State) {b c : Nat} (n k : Nat) (h : c ≠ b) : (s.semGrant b n k).blk c = s.blk c :=
  State.blk_updSeq_of_ne _ h _

theorem State.semNeed_semGrant_of_ne (s : State) {b c : Nat} (n k m : Nat) (h : c ≠ b) :
    (s.semGrant b n k).semNeed c m = s.semNeed c m := by
  have hblk := s.blk_semGrant_of_ne n k h
  have hlive : (s.semGrant b n k).blockLive c = s.blockLive c :=
    State.blockLive_congr rfl rfl (congrArg Block.halted hblk) (congrArg Block.lost hblk)
  exact State.semNeed_congr hlive (congrArg (fun B => B.seq.st) hblk) m

theorem SeqAt.runs_sempost (h : SeqAt s b (.sempost n k)) : Runs (.seqSempost b) s fun t =>
    (∀ m, t.sem m = if m = n then min 0x0FFFFFFF (s.sem n + k) else s.sem m) ∧
    (t.blk b).seq.pc = (s.blk b).seq.pc + 4 ∧ (t.blk b).seq.st = .run ∧ RegsSame s t b ∧
    ∀ c, c ≠ b → t.blk c = s.blk c := by
  refine h.runs rfl rfl ⟨fun m => ?_, by simp [State.postSem, Seq.advance], by simp [Seq.advance], fun r => ?_, fun c hc => ?_⟩
  · exact (s.fetched b).sem_setSem n _ m
  · simp [State.postSem, State.seqReg, Seq.reg, Seq.advance]
  · rw [State.blk_updSeq_of_ne _ hc, State.postSem, State.blk_setSem, s.blk_fetched_of_ne hc]

theorem SeqAt.runs_semwait_grant (h : SeqAt s b (.semwait n k)) (hk : k ≤ s.sem n)
    (hnone : ∀ c m, c < 96 → s.semNeed c n = some m → s.sem n < m) : Runs (.seqSemwait b) s fun t =>
    (∀ m, t.sem m = if m = n then s.sem n - k else s.sem m) ∧
    (t.blk b).seq.pc = (s.blk b).seq.pc + 4 ∧ (t.blk b).seq.st = .run ∧ RegsSame s t b := by
  refine h.runs (t := (s.fetched b).semGrant b n k) rfl ?_ ⟨fun m => ?_, ?_, ?_, fun r => ?_⟩
  · simp only [State.semNeed_fetched]
    refine if_pos ?_
    simp only [Bool.and_eq_true, decide_eq_true_eq, Bool.not_eq_true', List.any_eq_false, List.mem_range]
    refine ⟨hk, fun c hc => ?_⟩
    cases hneed : s.semNeed c n with
    | none => simp
    | some m => exact decide_eq_false (Nat.not_le.mpr (hnone c m hc hneed)) ▸ Bool.false_ne_true
  · exact (s.fetched b).sem_semGrant b n k m
  · simp [State.semGrant, Seq.advance]
  · simp [State.semGrant, Seq.advance]
  · simp [State.semGrant, State.seqReg, Seq.reg, Seq.advance]

theorem SeqAt.runs_semwait_wait (h : SeqAt s b (.semwait n k))
    (hwait : s.sem n < k ∨ ∃ c m, c < 96 ∧ s.semNeed c n = some m ∧ m ≤ s.sem n) : Runs (.seqSemwait b) s fun t =>
    SeqDoes s t b (s.blk b).seq.pc (.wait (.sem n k)) ∧ RegsSame s t b := by
  refine h.runs (t := (s.fetched b).updSeq b fun q => { q with st := .wait (.sem n k) }) rfl ?_ ⟨?_, fun r => ?_⟩
  · simp only [State.semNeed_fetched]
    refine if_neg ?_
    simp only [Bool.and_eq_true, decide_eq_true_eq, Bool.not_eq_true', List.any_eq_false, List.mem_range, not_and]
    intro hk hall
    rcases hwait with hlow | ⟨c, m, hc, hneed, hm⟩
    · exact absurd hk (Nat.not_le.mpr hlow)
    · exact hall c hc (by rw [hneed]; exact decide_eq_true hm)
  · exact s.seqDoes_updSeq_fetched fun q hq => by rw [← hq]
  · simp [State.seqReg, Seq.reg]

/-! ### A grant serves waiters in block order -/

theorem foldl_eq_self {α β : Type} {f : β → α → β} {s : β} (l : List α) (h : ∀ a ∈ l, f s a = s) : l.foldl f s = s := by
  induction l with
  | nil => rfl
  | cons a l ih => rw [List.foldl_cons, h a (by simp), ih fun x hx => h x (by simp [hx])]

/-- A fold over the numbers below m that changes its state at b only. -/
theorem foldl_range_eq {β : Type} {f : β → Nat → β} {s t : β} {b : Nat} (hbefore : ∀ c, c < b → f s c = s)
    (hat : f s b = t) : ∀ m, b < m → (∀ c, b < c → c < m → f t c = t) → (List.range m).foldl f s = t := by
  intro m
  induction m with
  | zero => intro hb; omega
  | succ m ih =>
    intro hb hafter
    rw [List.range_succ, List.foldl_append]
    rcases Nat.lt_or_ge b m with hlt | hge
    · rw [ih hlt fun c h1 h2 => hafter c h1 (by omega)]
      exact hafter m hlt (by omega)
    · have hbm : b = m := by omega
      subst hbm
      rw [foldl_eq_self _ fun c hc => hbefore c (List.mem_range.mp hc)]
      exact hat

/-- One block's turn in a grant of semaphore n. -/
def State.semTurn (n : Nat) (s : State) (b : Nat) : State :=
  match s.semNeed b n with
  | some k => if k ≤ s.sem n then s.semGrant b n k else s
  | none => s

theorem exec_semaphoreGrant (hn : n < 64) (s : State) :
    exec (.semaphoreGrant n) s = .next ((List.range 96).foldl (State.semTurn n) s) :=
  onUnit_of_exists (decide_eq_true hn) _

theorem State.semTurn_of_none (h : s.semNeed b n = none) : s.semTurn n b = s := by simp [State.semTurn, h]

theorem State.semTurn_of_lt (h : s.semNeed b n = some k) (hk : s.sem n < k) : s.semTurn n b = s := by
  simp [State.semTurn, h, Nat.not_le.mpr hk]

theorem State.semTurn_of_le (h : s.semNeed b n = some k) (hk : k ≤ s.sem n) : s.semTurn n b = s.semGrant b n k := by
  simp [State.semTurn, h, hk]

/-- A block whose need, if it has one, exceeds the count has no turn. -/
theorem State.semTurn_eq_self (h : ∀ k, s.semNeed b n = some k → s.sem n < k) : s.semTurn n b = s := by
  cases hneed : s.semNeed b n with
  | none => exact State.semTurn_of_none hneed
  | some k => exact State.semTurn_of_lt hneed (h k hneed)

theorem State.foldl_semTurn (hb : b < 96) (hneed : s.semNeed b n = some k) (hk : k ≤ s.sem n)
    (hbefore : ∀ c, c < b → s.semNeed c n = none)
    (hafter : ∀ c m, c < 96 → b < c → s.semNeed c n = some m → s.sem n - k < m) :
    (List.range 96).foldl (State.semTurn n) s = s.semGrant b n k := by
  refine foldl_range_eq (fun c hc => State.semTurn_of_none (hbefore c hc)) (State.semTurn_of_le hneed hk) 96 hb
    fun c hc h96 => State.semTurn_eq_self fun m hm => ?_
  rw [State.semNeed_semGrant_of_ne _ _ _ _ (Nat.ne_of_gt hc)] at hm
  rw [State.sem_semGrant, if_pos rfl]
  exact hafter c m h96 hc hm

end Semaphores

/-- Settles O34: what each wait does by its condition, the releases, and a grant by the fold over the blocks. -/
theorem sequencerWaits : Obligations.SequencerWaits := by
  unfold Obligations.SequencerWaits
  refine ⟨fun s b m h => h.runs_waitc, fun s b ra imm h => h.runs_waitk, fun s b ra imm pl h hpl => ⟨?waitx, ?trap⟩,
    fun s b n k h => h.runs_sempost, fun s b n k h => ⟨?now, ?later⟩, ?grant, ?noGrant, ?release, ?stall, ?eop⟩
  case waitx => exact fun x hx hexp => h.runs_waitx hpl hx hexp
  case trap => exact h.runs_waitx_trap hpl
  case now => exact h.runs_semwait_grant
  case later => exact h.runs_semwait_wait
  case grant =>
    intro s n b k hn hb hneed hk hbefore hafter
    refine ⟨s.semGrant b n k, ?_, s.sem_semGrant b n k, ?_, fun c hc => s.blk_semGrant_of_ne n k hc, rfl⟩
    · rw [exec_semaphoreGrant hn, State.foldl_semTurn hb hneed hk hbefore hafter]
    · simp [State.semGrant, Seq.advance]
  case noGrant =>
    intro s n hn hnone
    refine ⟨s, ?_, rfl⟩
    rw [exec_semaphoreGrant hn, foldl_eq_self]
    exact fun c hc => State.semTurn_eq_self fun k hk => hnone c k (List.mem_range.mp hc) hk
  case release =>
    intro s b w hb hlive hst hcond
    refine ⟨_, State.seqWaitRelease_eq hb hlive hst ?_ ?_, ?_, fun c hc => s.blk_updSeq_of_ne hc _, rfl⟩
    · cases w <;> simp_all
    · cases w <;> simp_all [State.seqCond, State.plyTick, imp_iff_not_or]
    · simp [Seq.advance]
  case stall =>
    intro s b g ra rb hb hlive hst hdec hhalt hroom
    refine ⟨_, exec_seqStallRelease_queue hb hlive hst hdec (by simp [State.seqCond, hroom]), ?_⟩
    rw [State.seqCissue_of_room hhalt hroom]
    refine ⟨?_, ?_, ?_, fun c hc => s.blk_updSeq_of_ne hc _, rfl⟩ <;> simp [Seq.advance]
  case eop =>
    intro s b hb hlive hst
    refine ⟨_, exec_endOfPlyPoint hb hlive hst, fun hidle => ?_, fun hbusy => by simp [hbusy]⟩
    rw [if_pos hidle]
    exact ⟨s.blk_updSeq_self b _, fun c hc => s.blk_updSeq_of_ne hc _, rfl⟩

end Sys2Proof.Machine

/-! PROOFS. The empty queue. -/

namespace Sys2Proof.Machine

/-- Settles O2: `step_nil`, with what `passTick` counts. -/
theorem emptyQueuePassesOneTick : Obligations.EmptyQueuePassesOneTick := by
  unfold Obligations.EmptyQueuePassesOneTick
  exact fun s hempty => step_nil s hempty

end Sys2Proof.Machine

/-! PROOFS. Frames that this member sends by itself: check rounds, beacons and joins (R40-R42, R50, R51, R81). What a
list of frames queued one after another leaves in each port, once; the statements about floods follow from it. -/

namespace Sys2Proof.Machine

/-! ### Queued frames -/

section PortsOnly

variable {s t u : State}

/-- Only the ports of the fabric changed. -/
def State.PortsOnly (s t : State) : Prop := t = { s with fab := { s.fab with ports := t.fab.ports } }

theorem State.PortsOnly.refl (s : State) : s.PortsOnly s := rfl

theorem State.PortsOnly.trans (h : s.PortsOnly t) (g : t.PortsOnly u) : s.PortsOnly u := by
  unfold State.PortsOnly at *
  rw [g, h]

theorem State.PortsOnly.sch (h : s.PortsOnly t) : t.sch = s.sch := by rw [h]

theorem State.PortsOnly.image (h : s.PortsOnly t) : t.image = s.image := by rw [h]

theorem State.PortsOnly.updPort (s : State) (p : Nat) (f : Port → Port) : s.PortsOnly (s.updPort p f) := rfl

theorem State.PortsOnly.sendDue (s : State) (p : Nat) (f : Frame) (r : Nat) : s.PortsOnly (s.sendDue p f r) := by
  unfold State.sendDue
  split
  · exact .updPort s p _
  · exact .refl s

theorem State.PortsOnly.sendLink (s : State) (p : Nat) (f : Frame) (r : Nat) : s.PortsOnly (s.sendLink p f r) := by
  unfold State.sendLink
  split
  · exact .updPort s p _
  · exact .refl s

theorem State.PortsOnly.foldl {α : Type} {f : State → α → State} (hf : ∀ (s : State) (a : α), s.PortsOnly (f s a)) (l : List α) :
    ∀ s : State, s.PortsOnly (l.foldl f s) := by
  induction l with
  | nil => exact fun s => .refl s
  | cons a l ih => exact fun s => (hf s a).trans (ih _)

end PortsOnly

section Queues

/-- Two folds agree whose steps agree wherever an invariant of the first holds. -/
theorem foldl_congr_of_inv {α β : Type} {f g : β → α → β} {I : β → Prop} (hI : ∀ b a, I b → I (f b a))
    (hfg : ∀ b a, I b → f b a = g b a) (l : List α) : ∀ {b : β}, I b → l.foldl f b = l.foldl g b := by
  induction l with
  | nil => exact fun _ => rfl
  | cons a l ih =>
    intro b hb
    rw [List.foldl_cons, List.foldl_cons, ← hfg b a hb]
    exact ih (hI b a hb)

theorem State.port_sendDue (s : State) (p q : Nat) (f : Frame) (r : Nat) : (s.sendDue p f r).port q =
    if q = p ∧ (s.port q).isUp = true then { s.port q with due := (s.port q).due ++ [(f, r)] } else s.port q := by
  unfold State.sendDue
  grind [State.port_updPort]

theorem State.port_sendLink (s : State) (p q : Nat) (f : Frame) (r : Nat) : (s.sendLink p f r).port q =
    if q = p ∧ (s.port q).isUp = true then { s.port q with linkQ := (s.port q).linkQ ++ [(f, r)] } else s.port q := by
  unfold State.sendLink
  grind [State.port_updPort]

/-- Due frames for several ports: a port that is up has its own of them, in order. -/
theorem State.port_foldl_sendDue (q : Nat) (l : List (Nat × Frame × Nat)) : ∀ s : State,
    (l.foldl (fun s e => s.sendDue e.1 e.2.1 e.2.2) s).port q = { s.port q with
      due := (s.port q).due ++ if (s.port q).isUp then (l.filter fun e => e.1 == q).map Prod.snd else [] } := by
  induction l with
  | nil => simp
  | cons e l ih =>
    intro s
    rw [List.foldl_cons, ih, State.port_sendDue]
    by_cases hup : (s.port q).isUp = true
    · by_cases hq : q = e.1
      · subst hq
        have : (s.port e.1).isUp = true := hup
        simp [Port.isUp] at this ⊢
        simp [this]
      · simp [hq, hup, Ne.symm hq]
    · simp [hup]

/-- Frames toward each port of a list without repetition. -/
theorem filter_map_of_nodup {α : Type} {l : List Nat} (hl : l.Nodup) (g : Nat → α) (q : Nat) :
    ((l.map fun p => (p, g p)).filter fun e => e.1 == q).map Prod.snd = if q ∈ l then [g q] else [] := by
  induction l with
  | nil => rfl
  | cons a l ih =>
    obtain ⟨ha, hl⟩ := List.nodup_cons.mp hl
    by_cases hq : a = q
    · subst hq
      simp [ih hl, ha]
    · simp [ih hl, hq, Ne.symm hq]

/-- Link frames for several ports, one each. -/
theorem State.port_foldl_sendLink {l : List Nat} (hl : l.Nodup) (g : Nat → Frame) (q : Nat) : ∀ s : State,
    (l.foldl (fun s p => s.sendLink p (g p) 0) s).port q =
      if q ∈ l ∧ (s.port q).isUp = true then { s.port q with linkQ := (s.port q).linkQ ++ [(g q, 0)] } else s.port q := by
  induction l with
  | nil => simp
  | cons a l ih =>
    intro s
    obtain ⟨ha, hl⟩ := List.nodup_cons.mp hl
    rw [List.foldl_cons, ih hl, State.port_sendLink]
    by_cases hq : q = a
    · subst hq
      simp [ha]
    · simp [hq]

end Queues

/-! ### Rounds of a flood (R50, R51) -/

section Rounds

variable {s : State} {f : Flood} {i p : Nat}

theorem State.expressPorts_nodup (s : State) : s.expressPorts.Nodup := List.nodup_range.filter _

/-- A port is either a torus port or an express port, so that no flood port is listed twice. -/
theorem State.floodPorts_nodup (s : State) : s.floodPorts.Nodup := by
  unfold State.floodPorts
  split
  · exact s.expressPorts_nodup
  · refine List.Nodup.append (List.nodup_range.filter _) ?_ ?_
    · split
      · exact s.expressPorts_nodup.filter _
      · exact List.nodup_nil
    · intro p htorus hexpress
      have h16 : (s.port p).fn < 16 := by simpa using (List.mem_filter.mp htorus).2
      have hp : p ∈ s.expressPorts := by
        split at hexpress
        · exact List.mem_of_mem_filter hexpress
        · simp at hexpress
      simp [State.expressPorts] at hp
      omega

theorem State.roundFrame_congr {s t : State} (h : t.sch.prev = s.sch.prev) (f : Flood) (i p : Nat) :
    t.roundFrame f i p = s.roundFrame f i p := by
  simp only [State.roundFrame, h]

theorem State.PortsOnly.sendRound (s : State) (f : Flood) (i : Nat) : s.PortsOnly (s.sendRound f i) :=
  .foldl (fun s p => .sendDue s p _ 0) _ s

theorem State.sendRound_eq (s : State) (f : Flood) (i : Nat) : s.sendRound f i =
    (s.floodPorts.map fun p => (p, s.roundFrame f i p, 0)).foldl (fun s e => s.sendDue e.1 e.2.1 e.2.2) s := by
  rw [List.foldl_map]
  exact foldl_congr_of_inv (I := fun t : State => t.sch = s.sch)
    (fun t p ht => (State.PortsOnly.sendDue t p _ 0).sch.trans ht)
    (fun t p ht => by rw [State.roundFrame_congr (s := s) (t := t) (by rw [ht])]) _ rfl

/-- Each flood port that is up sends the round's frame. -/
theorem State.port_sendRound (s : State) (f : Flood) (i p : Nat) : (s.sendRound f i).port p =
    if p ∈ s.floodPorts ∧ (s.port p).isUp = true then
      { s.port p with due := (s.port p).due ++ [(s.roundFrame f i p, 0)] } else s.port p := by
  rw [State.sendRound_eq, State.port_foldl_sendDue, filter_map_of_nodup s.floodPorts_nodup fun p => (s.roundFrame f i p, 0)]
  by_cases hup : (s.port p).isUp = true <;> by_cases hp : p ∈ s.floodPorts <;> simp [hup, hp]

theorem State.missingRound_of_received (h : f.kind = .arm ∨ ∀ p ∈ s.floodPorts, (p, i) ∈ f.received) :
    s.missingRound f i = s := by
  unfold State.missingRound
  split
  · rfl
  · next hkind =>
    refine foldl_eq_self _ fun p hp => ?_
    have hall := h.resolve_left (by simpa using hkind)
    rw [if_pos (by simpa using hall p hp)]

/-- The ply in flight is not clean, with the partner on port p among those blamed by cause i. -/
def State.blames (s : State) (i p : Nat) : Prop :=
  s.sch.cur.clean = false ∧ p ∈ s.sch.cur.blame ∧ s.sch.causes.getLsbD i = true

theorem State.getLsbD_causes_causeBit (s : State) (hi : i < 7) : (s.causeBit i).sch.causes.getLsbD i = true := by
  show (s.sch.causes ||| BitVec.ofNat 7 (2 ^ i)).getLsbD i = true
  rw [BitVec.getLsbD_or, BitVec.getLsbD_ofNat, Nat.testBit_two_pow_self, decide_eq_true hi]
  simp

theorem State.checkPort_eq (h : s.inPly = true) (i p : Nat) : s.checkPort i p =
    { s.causeBit i with sch := { (s.causeBit i).sch with
        cur := { s.sch.cur with
          clean := false
          blame := if s.sch.cur.blame.contains p then s.sch.cur.blame else s.sch.cur.blame ++ [p] } } } := by
  rw [State.checkPort, h]; rfl

theorem State.inPly_checkPort (s : State) (i p : Nat) : (s.checkPort i p).inPly = s.inPly := by
  unfold State.checkPort
  split <;> rfl

theorem State.blames_checkPort (h : s.inPly = true) (hi : i < 7) (p : Nat) : (s.checkPort i p).blames i p := by
  rw [State.checkPort_eq h]
  refine ⟨rfl, ?_, s.getLsbD_causes_causeBit hi⟩
  show p ∈ ite _ _ _
  split
  · next hp => simpa using hp
  · simp

theorem State.blames.checkPort {j q : Nat} (h : s.blames i p) : (s.checkPort j q).blames i p := by
  obtain ⟨hclean, hblame, hcause⟩ := h
  unfold State.checkPort
  split
  · exact ⟨hclean, hblame, hcause⟩
  · refine ⟨rfl, ?_, ?_⟩
    · show p ∈ ite _ _ _
      split
      · exact hblame
      · exact List.mem_append_left _ hblame
    · simp [State.causeBit, hcause]

/-- A flood port from which round i is missing is blamed (R51). -/
theorem State.blames_missingRound (hply : s.inPly = true) (hkind : f.kind ≠ .arm) (hp : p ∈ s.floodPorts)
    (hmiss : (p, i) ∉ f.received) : (s.missingRound f i).blames 3 p := by
  obtain ⟨l, r, hports⟩ := List.append_of_mem hp
  unfold State.missingRound
  rw [if_neg (by simpa using hkind), hports, List.foldl_append, List.foldl_cons, if_neg (by simpa using hmiss)]
  have hbefore := List.foldlRecOn (motive := fun t : State => t.inPly = true) l
    (fun s p => if f.received.contains (p, i) then s else s.checkPort 3 p) hply fun t ht q _ => by
      show State.inPly (ite _ _ _) = true
      split
      · exact ht
      · rw [State.inPly_checkPort, ht]
  refine List.foldlRecOn (motive := fun t : State => t.blames 3 p) r _
    (State.blames_checkPort hbefore (by omega) p) fun t ht q _ => ?_
  show State.blames (ite _ _ _) 3 p
  split
  · exact ht
  · exact ht.checkPort

/-- A round that is due leaves. -/
theorem exec_checkFloodRound (hflood : s.sch.flood = some f) (hround : f.round = i) (hdiam : i < s.diam)
    (hdue : f.t0 + 20 + i * s.hop ≤ s.dom) {m : State} (hm : (if i = 0 then s else s.missingRound f (i - 1)) = m) :
    exec (.checkFloodRound i) s =
      .next ({ m with sch := { m.sch with flood := some { f with round := i + 1 } } }.sendRound f i) := by
  have hleaves : s.roundLeaves f i = true := by simp [State.roundLeaves, hround, hdiam, hdue]
  show execCheckFloodRound i s = _
  simp only [execCheckFloodRound, hflood, hleaves, if_true, hm]

end Rounds

/-- Settles O26: the round's frames are those of `port_sendRound`, and `blames_missingRound` says whom a missing round
blames. -/
theorem checkFloodRounds : Obligations.CheckFloodRounds := by
  unfold Obligations.CheckFloodRounds
  refine ⟨fun s f i hflood hround hdiam hdue hcame => ?_, fun s f i p hflood hround hdiam hdue hkind hp hmiss hply => ?_⟩
  · have hsame : (if i = 0 then s else s.missingRound f (i - 1)) = s := by
      split
      · rfl
      · next hi => exact State.missingRound_of_received (hcame.resolve_left hi)
    refine ⟨_, exec_checkFloodRound hflood hround hdiam hdue hsame, fun p => ?_, ?_⟩
    · rw [State.port_sendRound]
      have hframe : s.roundFrame f i p = if f.kind = .arm then .sArm f.acc.armed (BitVec.ofNat 64 f.acc.start) else
          .sCheck { clean := f.acc.clean, replayable := f.acc.replayable, stop := f.acc.stop
                    stretch := BitVec.ofNat 8 f.acc.stretch, blame := s.sch.prev.blame.contains p
                    round := BitVec.ofNat 8 i, plyLo := BitVec.ofNat 32 f.ply.toNat } := by
        simp only [State.roundFrame, beq_iff_eq]
      rw [← hframe]
      rfl
    · rw [State.PortsOnly.sendRound]
  · refine ⟨_, exec_checkFloodRound hflood hround hdiam hdue (if_neg (Nat.succ_ne_zero i)), ?_⟩
    simp only [(State.PortsOnly.sendRound _ _ _).sch]
    obtain ⟨hclean, hblame, hcause⟩ := State.blames_missingRound (i := i) hply hkind hp hmiss
    exact ⟨hclean, hblame, hcause, trivial⟩

end Sys2Proof.Machine

/-! PROOFS. What a port does with a frame that it hears (R301), what its events and its misbehaviour leave as they were,
and domain time (R39-R43, R501). -/

namespace Sys2Proof.Machine

/-! ### Events of ports -/

section PortEvents

variable {s : State}

@[simp] theorem Err.count_phase (e : Err) (c : Nat) : (e.count c).phase = e.phase := by
  unfold Err.count
  split <;> rfl

@[simp] theorem State.rollWindow_phase (s : State) : s.rollWindow.err.phase = s.err.phase := by
  unfold State.rollWindow
  split <;> rfl

@[simp] theorem State.post_phase (s : State) (a : RecArg) : (s.post a).err.phase = s.err.phase := by
  unfold State.post
  grind [State.mgmtStore, State.postEvent_err, Err.count_phase, State.rollWindow_phase]

@[simp] theorem State.inPly_post (s : State) (a : RecArg) : (s.post a).inPly = s.inPly := by
  simp [State.inPly, State.running]

@[simp] theorem State.port_post (s : State) (a : RecArg) (q : Nat) : (s.post a).port q = s.port q := by simp [State.port]

/-- What a record leaves as it is. -/
structure State.RecordFrame (s t : State) : Prop where
  fab : t.fab = s.fab
  sch : t.sch = s.sch
  ccd : t.ccd = s.ccd
  hbm : t.hbm = s.hbm
  hbmWords : t.hbmWords = s.hbmWords
  blocks : t.blocks = s.blocks
  ce : t.ce = s.ce
  dev : t.dev = s.dev
  image : t.image = s.image

/-- A port event is a record, or none. -/
theorem State.portEvent_frame (s : State) (p code lane kind : Nat) : s.RecordFrame (s.portEvent p code lane kind) := by
  unfold State.portEvent
  split
  · constructor <;> simp
  · dsimp only
    split <;> constructor <;> simp

@[simp] theorem State.portEvent_fab (s : State) (p c l k : Nat) : (s.portEvent p c l k).fab = s.fab :=
  (s.portEvent_frame p c l k).fab
@[simp] theorem State.portEvent_sch (s : State) (p c l k : Nat) : (s.portEvent p c l k).sch = s.sch :=
  (s.portEvent_frame p c l k).sch
@[simp] theorem State.portEvent_ccd (s : State) (p c l k : Nat) : (s.portEvent p c l k).ccd = s.ccd :=
  (s.portEvent_frame p c l k).ccd
@[simp] theorem State.portEvent_hbm (s : State) (p c l k : Nat) : (s.portEvent p c l k).hbm = s.hbm :=
  (s.portEvent_frame p c l k).hbm
@[simp] theorem State.portEvent_hbmWords (s : State) (p c l k : Nat) : (s.portEvent p c l k).hbmWords = s.hbmWords :=
  (s.portEvent_frame p c l k).hbmWords
@[simp] theorem State.portEvent_blocks (s : State) (p c l k : Nat) : (s.portEvent p c l k).blocks = s.blocks :=
  (s.portEvent_frame p c l k).blocks
@[simp] theorem State.portEvent_ce (s : State) (p c l k : Nat) : (s.portEvent p c l k).ce = s.ce :=
  (s.portEvent_frame p c l k).ce
@[simp] theorem State.portEvent_dev (s : State) (p c l k : Nat) : (s.portEvent p c l k).dev = s.dev :=
  (s.portEvent_frame p c l k).dev
@[simp] theorem State.portEvent_image (s : State) (p c l k : Nat) : (s.portEvent p c l k).image = s.image :=
  (s.portEvent_frame p c l k).image

@[simp] theorem State.port_portEvent (s : State) (p c l k q : Nat) : (s.portEvent p c l k).port q = s.port q := by
  simp [State.port]

theorem State.port_misbehaved (s : State) (p kind q : Nat) : (s.misbehaved p kind).port q =
    if q = p then { s.port p with viol := satAdd (s.port p).viol 1 } else s.port q := by
  simp only [State.misbehaved, State.port_portEvent, State.port_updPort]

@[simp] theorem State.misbehaved_sch (s : State) (p kind : Nat) : (s.misbehaved p kind).sch = s.sch := by
  simp [State.misbehaved]

end PortEvents

/-! ### A frame that is heard (R301) -/

section Heard

variable {s : State} {p : Nat} {h : FrameHdr}

theorem port_heard (s : State) (p : Nat) (h : FrameHdr) (q : Nat) : (heard s p h).port q =
    if q = p then { s.port p with
      lastValid := s.tick, badSync := 0, got0 := h.sent0, got1 := h.sent1
      freed0 := (s.port p).freed0 + (h.sent0 - (s.port p).got0)
      freed1 := (s.port p).freed1 + (h.sent1 - (s.port p).got1), theirFreed0 := h.freed0, theirFreed1 := h.freed1 }
    else s.port q := State.port_updPort ..

/-- The freed count as the partner gives it, where it claims no more than was sent. -/
theorem credit_of_le {a b c : BitVec 8} (h : (a - c).toNat ≤ 64) : credit a b c = (c, false) := by
  unfold credit
  rw [if_neg (by omega)]
  split
  · next hbc => rw [hbc]
  · rfl

/-- The common work of a frame with its credits in order is `heard`. -/
theorem State.rxCommon_eq_heard (hon : s.fabricOn = true) (hup : (s.port p).isUp = true)
    (halign : (s.port p).realigning = false) (h0 : ((s.port p).sent0 - h.freed0).toNat ≤ 64)
    (h1 : ((s.port p).sent1 - h.freed1).toNat ≤ 64) : s.rxCommon p h none = some (heard s p h, false) := by
  unfold State.rxCommon
  simp only [hon, hup, halign, credit_of_le h0, credit_of_le h1, reduceCtorEq, if_false, freedNow, BitVec.ofNat_eq_ofNat,
    BitVec.sub_zero,
    Bool.not_true, Bool.or_self, Bool.false_eq_true]
  rw [heard]
  congr 2

theorem Hears.lt (hh : Hears s p h) : p < 20 := hh.1

theorem Hears.rxCommon_eq (hh : Hears s p h) : s.rxCommon p h none = some (heard s p h, false) := by
  obtain ⟨-, hon, hup, halign, -, -, -, -, h0, h1⟩ := hh
  exact State.rxCommon_eq_heard hon hup halign h0 h1

theorem Hears.rxReserved_eq (hh : Hears s p h) : (heard s p h).rxReserved p h = false := by
  obtain ⟨-, -, -, -, hres, hrel, -⟩ := hh
  simp [State.rxReserved, hres, hrel]

theorem Hears.relay_eq (hh : Hears s p h) (f : Frame) : (heard s p h).relay p h f = none := by
  obtain ⟨-, -, -, -, -, -, hrel, -⟩ := hh
  have : (heard s p h).standby.relaying = false := hrel
  simp [State.relay, State.relayTo, this]

/-- A heard frame has its own effect, on a port whose join has come or for a frame that may come before it. -/
theorem Hears.rx_eq (hh : Hears s p h) {early : Bool} (hjoin : (s.port p).joinDue = false ∨ early = true) (f : Frame)
    (act : State → State) : s.rx p h f early act = act (heard s p h) := by
  have hdue : ((heard s p h).port p).joinDue = (s.port p).joinDue := by simp [port_heard]
  have hpass : (((heard s p h).port p).joinDue && !early) = false := by
    rw [hdue]
    rcases hjoin with h | h <;> simp [h]
  simp only [State.rx, hh.rxCommon_eq, hh.rxReserved_eq, hpass, hh.relay_eq, Bool.false_eq_true, if_false]

theorem Hears.rxBoth_eq (hh : Hears s p h) (hjoin : (s.port p).joinDue = false) (f : Frame) (act : State → State) :
    s.rxBoth p h f act = act (heard s p h) := by
  simp [State.rxBoth, hh.rxCommon_eq, hh.relay_eq, hh.rx_eq (Or.inl hjoin)]

end Heard

/-! ### Beacons (R39-R42) -/

section Beacons

variable {s : State} {im : Image}

theorem State.PortsOnly.beaconDown (s : State) (tick : Nat) (ho : Bool) : s.PortsOnly (s.beaconDown tick ho) :=
  .foldl (fun (s : State) (e : Nat × Nat) => .sendDue s e.1 _ e.2) _ s

theorem State.port_beaconDown (him : s.image = some im) (tick : Nat) (ho : Bool) (q : Nat) :
    (s.beaconDown tick ho).port q = { s.port q with
      due := (s.port q).due ++ if (s.port q).isUp then
        (s.downstream.filter fun e => e.1 == q).map fun e =>
          (.tBeacon (BitVec.ofNat 64 tick) (BitVec.ofNat 15 im.timeMaster) ho, e.2) else [] } := by
  have h := State.port_foldl_sendDue q (s.downstream.map fun e =>
    (e.1, .tBeacon (BitVec.ofNat 64 tick) (BitVec.ofNat 15 im.timeMaster) ho, e.2)) s
  rw [List.foldl_map, List.filter_map, List.map_map] at h
  simp only [State.beaconDown, him]
  exact h

/-- A member that serves no place sends to each downstream port once. -/
theorem State.length_downstream (him : s.image = some im) (hplace : s.standby.place = none) (q : Nat) :
    (s.downstream.filter fun e => e.1 == q).length =
      if q < 20 ∧ Config.downstream im.imageId im.ldev q = true ∧ im.own.timeUp ≠ q ∧ (s.port q).fn ≠ 0xFF then 1
      else 0 := by
  have hone := filter_map_of_nodup (l := (List.range 20).filter fun p =>
    Config.downstream im.imageId im.ldev p && im.own.timeUp != p && (s.port p).fn != 0xFF)
    (List.nodup_range.filter _) (fun _ => (0 : Nat)) q
  have hlen := congrArg List.length hone
  simp only [List.length_map] at hlen
  simp only [State.downstream, him, hplace, hlen]
  simp only [List.mem_filter, List.mem_range, Bool.and_eq_true, bne_iff_ne, and_assoc]
  split <;> rfl

/-- The beacons that a member with its own count sends. -/
theorem sendsBeacons_beaconDown (him : s.image = some im) (ho : Bool) : SendsBeacons s (s.beaconDown s.dom ho) im ho := by
  refine ⟨State.PortsOnly.beaconDown s s.dom ho, fun p => ⟨_, State.port_beaconDown him s.dom ho p, ?_, fun hplace => ?_⟩⟩
  · intro e he
    split at he
    · obtain ⟨x, -, rfl⟩ := List.mem_map.mp he
      rfl
    · simp at he
  · by_cases hup : (s.port p).isUp = true
    · simp [hup, State.length_downstream him hplace]
    · simp [hup]

/-- The beacon is the first that a joining device takes (R39). -/
def State.beaconFirst (s : State) : Bool :=
  match s.sch.join with
  | some j => j.firstBeacon.isNone
  | none => false

/-- The state in which a valid beacon is sent on: the count steered, the beacon noted. -/
def State.steered (s : State) (tick : Nat) (holdover : Bool) : State := { s with
  sch := { s.sch with
    timeOff := (tick + s.hop : Int) - s.tick
    lastBeacon := s.tick
    holdover := if holdover then s.sch.holdover else false
    timeLost := if holdover then s.sch.timeLost else false
    join := s.sch.join.map fun (j : JoinSt) => if j.firstBeacon.isNone then { j with firstBeacon := some s.tick } else j
    fresh := s.sch.fresh + 1 }
  qos := if s.beaconFirst then { s.qos with discard := true } else s.qos
  pwr := { s.pwr with
    steer := if s.dev == .ready then 0 else BitVec.ofInt 16 ((s.freeNat % 40001 : Nat) - 20000 : Int) } }

theorem State.takeBeacon_eq (s : State) (tick : Nat) (ho : Bool) :
    s.takeBeacon tick ho = (s.steered tick ho).beaconDown (tick + s.hop + 1) ho := by
  unfold State.takeBeacon State.steered State.beaconFirst
  cases hj : s.sch.join with
  | none => rfl
  | some j => cases hb : j.firstBeacon.isNone <;> simp only [hb] <;> rfl

end Beacons

section Heard

variable {s : State} {p : Nat} {h : FrameHdr}

theorem port_heard_isUp (s : State) (p : Nat) (h : FrameHdr) (q : Nat) : ((heard s p h).port q).isUp = (s.port q).isUp := by
  rw [port_heard]
  split
  · next hq => subst hq; rfl
  · rfl

theorem Hears.relay_eq_zero (hh : Hears s p h) : h.relay = 0 := by
  obtain ⟨-, -, -, -, -, hrelay, -⟩ := hh
  exact hrelay

theorem Hears.place_eq_none (hh : Hears s p h) : s.standby.place = none := by
  obtain ⟨-, -, -, -, -, -, -, hplace, -⟩ := hh
  exact hplace

theorem port_heard_fn (s : State) (p : Nat) (h : FrameHdr) (q : Nat) : ((heard s p h).port q).fn = (s.port q).fn := by
  rw [port_heard]
  split
  · next hq => subst hq; rfl
  · rfl

theorem port_heard_due (s : State) (p : Nat) (h : FrameHdr) (q : Nat) : ((heard s p h).port q).due = (s.port q).due := by
  rw [port_heard]
  split
  · next hq => subst hq; rfl
  · rfl

theorem port_heard_of_ne {q : Nat} (hq : q ≠ p) : (heard s p h).port q = s.port q := by
  rw [port_heard, if_neg hq]

/-- A beacon from the upstream partner that names the master steers the count; any other is misbehaviour of kind 11. -/
theorem Hears.exec_tBeacon {im : Image} (hh : Hears s p h) (hjoin : (s.port p).joinDue = false) (him : s.image = some im)
    (hdom : s.inDomain = true ∨ s.sch.join.isSome = true) (tick : W64) (m : BitVec 15) (ho : Bool) :
    exec (.tBeacon p h tick m ho) s = .next (if im.own.timeUp = p ∧ im.timeMaster = m.toNat then
      (heard s p h).takeBeacon tick.toNat ho else (heard s p h).misbehaved p 11) := by
  have himage : (heard s p h).image = some im := him
  have hdomain : ((heard s p h).inDomain || (heard s p h).sch.join.isSome || (heard s p h).standby.relaying ||
      (heard s p h).standby.tracking) = true := by
    have : (s.inDomain || s.sch.join.isSome) = true := by simpa using hdom
    show (s.inDomain || s.sch.join.isSome || _ || _) = true
    simp [this]
  have hrel := hh.relay_eq_zero
  show execTBeacon p h tick m ho s = _
  rw [execTBeacon, onUnit_of_exists (by simpa using hh.lt), hh.rxBoth_eq hjoin]
  simp only [himage, hrel, hdomain, ne_eq, not_true_eq_false, if_false, if_true, Bool.and_eq_true, decide_eq_true_eq]

end Heard

section DomainTime

variable {s : State}

/-- An event changes the event ring and its count, the vectors and what is sent to the host, and nothing else. -/
theorem State.eqPush_eq (s : State) (e : EventRec) : s.eqPush e = { s with hif := { s.hif with
    eq := (s.eqPush e).hif.eq, msix := (s.eqPush e).hif.msix, messages := (s.eqPush e).hif.messages
    hostOut := (s.eqPush e).hif.hostOut } } := by
  unfold State.eqPush
  dsimp only
  split
  · unfold State.eqWrite State.raiseVec
    dsimp only
    split
    · split <;> rfl
    · rfl
  · split <;> rfl

theorem State.postEvent_eq (s : State) (c d : Nat) : s.postEvent c d = { s with hif := { s.hif with
    eq := (s.postEvent c d).hif.eq, msix := (s.postEvent c d).hif.msix, messages := (s.postEvent c d).hif.messages
    hostOut := (s.postEvent c d).hif.hostOut, eventSeq := (s.postEvent c d).hif.eventSeq
    pendTimeLost := (s.postEvent c d).hif.pendTimeLost
    pendUnrecoverable := (s.postEvent c d).hif.pendUnrecoverable } } := by
  unfold State.postEvent
  split
  · rfl
  · dsimp only
    rw [State.eqPush_eq]
    split
    · rfl
    · split <;> rfl

theorem State.postEvent_eventSeq (h : s.mainOn = true) (c d : Nat) :
    (s.postEvent c d).hif.eventSeq = s.hif.eventSeq + 1 := by
  have hseq : (s.countEvent.eqPush (s.mkEvent c d)).hif.eventSeq = s.hif.eventSeq + 1 := by
    rw [State.eqPush_eq]; rfl
  unfold State.postEvent
  simp only [h, Bool.not_true, Bool.false_eq_true, if_false]
  split
  · exact hseq
  · split <;> exact hseq

theorem State.postEvent_timeLost (h : s.mainOn = true) (d : Nat) : (s.postEvent 1 d).hif.pendTimeLost = true := by
  simp [State.postEvent, h]

theorem State.mainOn_of_inDomain (h : s.inDomain = true) : s.mainOn = true := by
  simp only [State.inDomain, Bool.or_eq_true, beq_iff_eq] at h
  rcases h with h | h <;> simp [State.mainOn, h]

theorem State.checkPort_eq_sch (s : State) (i p : Nat) : s.checkPort i p = { s with sch := (s.checkPort i p).sch } := by
  unfold State.checkPort
  split <;> rfl

end DomainTime

/-! ### Domain time -/

/-- The master's beacons, at multiples of 256 ticks. -/
theorem runs_timeBeaconEmit (s : State) (im : Image) (hdom : s.inDomain = true) (hphase : s.err.phase = 0)
    (him : s.image = some im) (hmaster : im.timeMaster = s.ldevSeen) (htick : s.dom % 256 = 0) :
    Runs .timeBeaconEmit s fun t => SendsBeacons s t im false := by
  refine ⟨s.beaconDown s.dom false, ?_, sendsBeacons_beaconDown him false⟩
  show execTimeBeaconEmit s = _
  simp [execTimeBeaconEmit, State.isMaster, hdom, hphase, him, hmaster, htick]

/-- Beacons in holdover, of the member's own count. -/
theorem runs_holdoverBeacon (s : State) (im : Image) (hdom : s.inDomain = true) (him : s.image = some im)
    (hover : s.sch.holdover = true) (htick : s.dom % 256 = 0) :
    Runs .holdoverBeacon s fun t => SendsBeacons s t im true := by
  refine ⟨s.beaconDown s.dom true, ?_, sendsBeacons_beaconDown him true⟩
  show execHoldoverBeacon s = _
  simp [execHoldoverBeacon, hdom, hover, htick]

end Sys2Proof.Machine

/-! PROOFS. Domain time: beacons, holdover and TICK_OUT (R39-R43, R501). -/

namespace Sys2Proof.Machine

section ValidBeacon

variable {s : State} {im : Image}

theorem State.port_steered (s : State) (tick : Nat) (ho : Bool) (q : Nat) : (s.steered tick ho).port q = s.port q := rfl

/-- What a valid beacon leaves in a port. -/
theorem Hears.port_takeBeacon {p : Nat} {h : FrameHdr} (hh : Hears s p h) (him : s.image = some im) {tick : Nat}
    {m : BitVec 15} (hm : im.timeMaster = m.toNat) (ho : Bool) (q : Nat) :
    ∃ l, ((heard s p h).takeBeacon tick ho).port q = { (heard s p h).port q with due := (s.port q).due ++ l } ∧
      (∀ e ∈ l, e.1 = .tBeacon (BitVec.ofNat 64 (tick + im.hopBudget + 1)) m ho) ∧
      l.length = if q < 20 ∧ Config.downstream im.imageId im.ldev q = true ∧ im.own.timeUp ≠ q ∧ (s.port q).fn ≠ 0xFF ∧
        (s.port q).isUp = true then 1 else 0 := by
  have hhop : (heard s p h).hop = im.hopBudget := by
    show State.hop s = _
    simp [State.hop, him]
  have himage : ((heard s p h).steered tick ho).image = some im := him
  have hplace : ((heard s p h).steered tick ho).standby.place = none := hh.place_eq_none
  have hmaster : BitVec.ofNat 15 im.timeMaster = m := by rw [hm, BitVec.ofNat_toNat, BitVec.setWidth_eq]
  have hport := State.port_beaconDown himage (tick + im.hopBudget + 1) ho q
  rw [← hhop, ← State.takeBeacon_eq, hhop, State.port_steered, hmaster, port_heard_isUp] at hport
  rw [hport]
  refine ⟨_, by rw [port_heard_due], fun e he => ?_, ?_⟩
  · split at he
    · obtain ⟨x, -, rfl⟩ := List.mem_map.mp he
      rfl
    · simp at he
  · by_cases hup : (s.port q).isUp = true
    · simp only [hup, if_true, List.length_map, and_true]
      rw [State.length_downstream himage hplace, State.port_steered, port_heard_fn]
    · simp [hup]

/-- A valid beacon steers the count to the carried one plus h (R40, R41). -/
theorem runs_tBeacon_valid (s : State) (p : Nat) (h : FrameHdr) (tick : W64) (m : BitVec 15) (ho : Bool) (im : Image)
    (hh : Hears s p h) (hjoin : (s.port p).joinDue = false) (him : s.image = some im)
    (hdom : s.inDomain = true ∨ s.sch.join.isSome = true) (hup : im.own.timeUp = p) (hm : im.timeMaster = m.toNat) :
    Runs (.tBeacon p h tick m ho) s fun t =>
      t.sch.timeOff = (tick.toNat + im.hopBudget : Int) - s.tick ∧ t.dom = tick.toNat + im.hopBudget ∧
      t.sch.lastBeacon = s.tick ∧ (ho = false → t.sch.holdover = false ∧ t.sch.timeLost = false) ∧
      (ho = true → t.sch.holdover = s.sch.holdover ∧ t.sch.timeLost = s.sch.timeLost) ∧
      (∀ j, s.sch.join = some j → j.firstBeacon = none → t.qos.discard = true ∧
        t.sch.join = some { j with firstBeacon := some s.tick }) ∧
      t.blocks = s.blocks ∧ t.ccd = s.ccd ∧ t.dev = s.dev ∧
      ∀ q, ∃ l, t.port q = { (heard s p h).port q with due := (s.port q).due ++ l } ∧
        (∀ e ∈ l, e.1 = .tBeacon (BitVec.ofNat 64 (tick.toNat + im.hopBudget + 1)) m ho) ∧
        l.length = if q < 20 ∧ Config.downstream im.imageId im.ldev q = true ∧ q ≠ p ∧ (s.port q).fn ≠ 0xFF ∧
          (s.port q).isUp = true then 1 else 0 := by
  have hhop : (heard s p h).hop = im.hopBudget := by
    show State.hop s = _
    simp [State.hop, him]
  refine ⟨_, (hh.exec_tBeacon hjoin him hdom tick m ho).trans (by rw [if_pos ⟨hup, hm⟩]), ?_⟩
  have hport := fun q => hh.port_takeBeacon him hm ho (tick := tick.toNat) q
  have hrest : State.PortsOnly ((heard s p h).steered tick.toNat ho) ((heard s p h).takeBeacon tick.toNat ho) := by
    rw [State.takeBeacon_eq]
    exact .beaconDown ..
  generalize (heard s p h).takeBeacon tick.toNat ho = t at hport hrest
  have hsch : t.sch = ((heard s p h).steered tick.toNat ho).sch := hrest.sch
  have htick : t.tick = s.tick := by rw [hrest]; rfl
  have hoff : t.sch.timeOff = (tick.toNat + im.hopBudget : Int) - s.tick := by rw [hsch, ← hhop]; rfl
  refine ⟨hoff, ?_, by rw [hsch]; rfl, fun hho => ?_, fun hho => ?_, fun j hj hfirst => ⟨?_, ?_⟩, by rw [hrest]; rfl,
    by rw [hrest]; rfl, by rw [hrest]; rfl, fun q => ?_⟩
  · rw [State.dom, hoff, htick]
    omega
  · subst hho
    rw [hsch]
    exact ⟨rfl, rfl⟩
  · subst hho
    rw [hsch]
    exact ⟨rfl, rfl⟩
  · have hb : (heard s p h).beaconFirst = true := by
      have hj' : (heard s p h).sch.join = some j := hj
      simp [State.beaconFirst, hj', hfirst]
    have hqos : t.qos = ((heard s p h).steered tick.toNat ho).qos := by rw [hrest]
    rw [hqos, State.steered]
    simp [hb]
  · rw [hsch]
    show Option.map _ s.sch.join = _
    simp only [hj, Option.map_some, hfirst, Option.isNone_none, if_true]
    rfl
  · obtain ⟨l, hl, hframes, hlen⟩ := hport q
    refine ⟨l, hl, hframes, ?_⟩
    rw [hlen, hup]
    simp only [ne_comm (a := p)]

/-- A beacon from another port or of another master is ignored and counted (Table 11.8, kind 11). -/
theorem runs_tBeacon_invalid (s : State) (p : Nat) (h : FrameHdr) (tick : W64) (m : BitVec 15) (ho : Bool) (im : Image)
    (hh : Hears s p h) (hjoin : (s.port p).joinDue = false) (him : s.image = some im)
    (hdom : s.inDomain = true ∨ s.sch.join.isSome = true) (hbad : im.own.timeUp ≠ p ∨ im.timeMaster ≠ m.toNat) :
    Runs (.tBeacon p h tick m ho) s fun t =>
      (t.port p).viol = satAdd (s.port p).viol 1 ∧ t.sch.timeOff = s.sch.timeOff ∧
      t.sch.lastBeacon = s.sch.lastBeacon ∧ OtherPorts s t p := by
  refine ⟨_, (hh.exec_tBeacon hjoin him hdom tick m ho).trans (by rw [if_neg (by tauto)]), ?_⟩
  simp only [State.misbehaved_sch]
  refine ⟨?_, rfl, rfl, fun q hq => ?_⟩
  · rw [State.port_misbehaved, if_pos rfl, port_heard, if_pos rfl]
  · rw [State.port_misbehaved, if_neg hq, port_heard_of_ne hq]

/-- 1,024 ticks without a beacon: the flag falls, the upstream partner is blamed, and holdover begins (R42). -/
theorem runs_timeWatchdogExpiry (s : State) (im : Image) (hdom : s.inDomain = true) (him : s.image = some im)
    (hmaster : im.timeMaster ≠ s.ldevSeen) (hover : s.sch.holdover = false) (hlate : s.sch.lastBeacon + 1024 ≤ s.tick) :
    Runs .timeWatchdogExpiry s fun t =>
      t.sch.holdover = true ∧ t.sch.holdoverAt = s.tick ∧ NewRecord s t 3 3 0x29 3 ∧
      (s.inPly = true → t.sch.cur.clean = false ∧ im.own.timeUp ∈ t.sch.cur.blame ∧ t.sch.causes.getLsbD 4 = true) ∧
      t.dev = s.dev ∧ t.blocks = s.blocks ∧ t.ccd = s.ccd ∧ t.fab = s.fab := by
  have hown : s.ownSec = some im.own := by simp [State.ownSec, him]
  have hexec : exec .timeWatchdogExpiry s = .next { (s.fallRec 3 none).checkPort 4 im.own.timeUp with
      sch := { ((s.fallRec 3 none).checkPort 4 im.own.timeUp).sch with holdover := true, holdoverAt := s.tick } } := by
    have htick : ((s.fallRec 3 none).checkPort 4 im.own.timeUp).tick = s.tick := by
      rw [State.checkPort_eq_sch]
      simp [State.fallRec]
    show execTimeWatchdogExpiry s = _
    have hnot : (s.tick < s.sch.lastBeacon + 1024) = False := by simpa using hlate
    simp only [execTimeWatchdogExpiry, hdom, hover, hown, State.isMaster, him, hnot, beq_eq_false_iff_ne.mpr hmaster,
      Bool.true_or, Bool.not_true, Bool.or_self, decide_false, Bool.false_eq_true, if_false, if_true, htick]
  refine ⟨_, hexec, rfl, rfl, ?_, fun hply => ?_, ?_⟩
  · obtain ⟨r, hr⟩ := s.post_newRecord { cls := 3, level := 3, unit := 0x29, code := 3, lblock := none }
      (State.mainOn_of_inDomain hdom) (by simp)
    rw [State.checkPort_eq_sch]
    exact ⟨r, hr⟩
  · exact State.blames_checkPort (by rw [State.fallRec, State.inPly_post, hply]) (by omega) _
  · rw [State.checkPort_eq_sch]
    simp [State.fallRec]

/-- 100 ms in holdover: the time-lost event, once (R43). -/
theorem runs_holdoverLimit (s : State) (hdom : s.inDomain = true) (hover : s.sch.holdover = true)
    (hlong : s.sch.holdoverAt + 10000000 ≤ s.tick) (hlost : s.sch.timeLost = false) : Runs .holdoverLimit s fun t =>
      t.hif.pendTimeLost = true ∧ t.hif.eventSeq = s.hif.eventSeq + 1 ∧
      t = { s with sch := { s.sch with timeLost := true }, hif := t.hif } := by
  have hlimit : s.longHoldover = true := by simp [State.longHoldover, hover, hlong]
  have hon : State.mainOn { s with sch := { s.sch with timeLost := true } } = true := State.mainOn_of_inDomain (s := s) hdom
  refine ⟨({ s with sch := { s.sch with timeLost := true } } : State).postEvent 1 0, ?_,
    State.postEvent_timeLost hon 0, State.postEvent_eventSeq hon 1 0, ?_⟩
  · show execHoldoverLimit s = _
    simp [execHoldoverLimit, hdom, hlimit, hlost]
  · rw [State.postEvent_eq]

/-- TICK_OUT falls 10 ticks after the ply start (R501). -/
theorem runs_tickOutFall (s : State) (hout : s.sch.tickOut = true) (hdue : s.sch.tickOutAt + 10 ≤ s.dom) :
    Runs .tickOutFall s fun t => t = { s with sch := { s.sch with tickOut := false } } := by
  refine ⟨_, ?_, rfl⟩
  show execTickOutFall s = _
  simp [execTickOutFall, hout, hdue]

end ValidBeacon

/-- Settles O22, a clause for each of the six commands above. -/
theorem domainTime : Obligations.DomainTime := by
  unfold Obligations.DomainTime
  exact ⟨runs_timeBeaconEmit,
    fun s p h tick m ho im hh hjoin him hdom =>
      ⟨runs_tBeacon_valid s p h tick m ho im hh hjoin him hdom, runs_tBeacon_invalid s p h tick m ho im hh hjoin him hdom⟩,
    runs_holdoverBeacon, runs_timeWatchdogExpiry, runs_holdoverLimit, runs_tickOutFall⟩

end Sys2Proof.Machine

/-! PROOFS. Joining the domain (R41, R81, R82). -/

namespace Sys2Proof.Machine

section Joining

variable {s t : State}

/-- A finished descriptor, in a state whose descriptors are those of s. -/
theorem State.finishes_finish (h : t.hif.active = s.hif.active) (uid st r q v : Nat) :
    Finishes s (t.finish uid st r q v) uid st r q v := by
  intro a ha
  show _ ∈ (t.hif.active.map _)
  refine List.mem_map.mpr ⟨a, h ▸ ha, ?_⟩
  simp only [Bool.and_eq_true, decide_eq_true_eq, beq_iff_eq]

/-- A state change is an event, so that it leaves the descriptors. -/
theorem State.enter_eq (s : State) (d : DevState) : s.enter d = { s with dev := d, hif := (s.enter d).hif } := by
  by_cases h : d = s.dev
  · subst h
    simp only [State.enter, if_true]
  · simp only [State.enter, h, if_false]
    rw [State.postEvent_eq]

theorem State.postEvent_active (s : State) (c d : Nat) : (s.postEvent c d).hif.active = s.hif.active := by
  rw [State.postEvent_eq]

theorem State.enter_active (s : State) (d : DevState) : (s.enter d).hif.active = s.hif.active := by
  by_cases h : d = s.dev
  · simp only [State.enter, h, if_true]
  · simp only [State.enter, h, if_false]
    exact State.postEvent_active ..

theorem State.port_foldl_updPort {l : List Nat} (hl : l.Nodup) (f : Port → Port) (q : Nat) : ∀ s : State,
    (l.foldl (fun s p => s.updPort p f) s).port q = if q ∈ l then f (s.port q) else s.port q := by
  induction l with
  | nil => simp
  | cons a l ih =>
    intro s
    obtain ⟨ha, hl⟩ := List.nodup_cons.mp hl
    rw [List.foldl_cons, ih hl, State.port_updPort]
    by_cases hq : q = a
    · subst hq
      simp [ha]
    · simp [hq]

theorem State.PortsOnly.freeBuf (s : State) (b : VBuf) : s.PortsOnly (s.freeBuf b) := .updPort s _ _

theorem State.fn_freeBuf (s : State) (b : VBuf) (q : Nat) : ((s.freeBuf b).port q).fn = (s.port q).fn := by
  rw [State.freeBuf, State.port_updPort]
  split
  · next hq => subst hq; split <;> [rfl; (split <;> rfl)]
  · rfl

theorem State.PortsOnly.unmapPorts (s : State) : s.PortsOnly s.unmapPorts :=
  (State.PortsOnly.foldl (fun s p => .updPort s p _) _ s).trans (.foldl .freeBuf _ _)

theorem State.fn_unmapPorts (s : State) {p : Nat} (hp : p < 20) : (s.unmapPorts.port p).fn = 0xFF := by
  unfold State.unmapPorts
  refine List.foldlRecOn (motive := fun t : State => (t.port p).fn = 0xFF) _ _ ?_ fun t ht b _ => ?_
  · rw [State.port_foldl_updPort List.nodup_range, if_pos (List.mem_range.mpr hp)]
  · rw [State.fn_freeBuf, ht]

/-- A join fails: its descriptor ends, every port is unmapped, and the count is the device's own again (R82). -/
theorem State.joinFail_spec {j : JoinSt} (hj : s.sch.join = some j) (status reason port : Nat) :
    Finishes s (s.joinFail status reason port) j.uid status reason port 0 ∧
    (∀ p, p < 20 → ((s.joinFail status reason port).port p).fn = 0xFF) ∧
    s.joinFail status reason port = { s with
      hif := (s.joinFail status reason port).hif, fab := (s.joinFail status reason port).fab, pwr := { s.pwr with steer := 0 }
      sch := { s.sch with join := none, locked := false, timeOff := s.sch.localOff } } := by
  simp only [State.joinFail, hj]
  have hunmap := State.PortsOnly.unmapPorts { s with
    sch := { s.sch with join := none, locked := false, timeOff := s.sch.localOff }, pwr := { s.pwr with steer := 0 } }
  refine ⟨State.finishes_finish ?_ _ _ _ _ _, fun p hp => ?_, ?_⟩
  · rw [hunmap]
  · exact State.fn_unmapPorts _ hp
  · unfold State.finish
    rw [hunmap]

theorem State.mem_mappedPorts {p : Nat} : p ∈ s.mappedPorts ↔ p < 20 ∧ (s.port p).fn ≠ 0xFF := by
  simp [State.mappedPorts]

end Joining

section JoinCommands

/-- The device is locked and has heard every partner (R41). -/
theorem runs_timeLockAchieved (s : State) (j : JoinSt) (hdev : s.dev = .ready) (hj : s.sch.join = some j)
    (hheard : ∀ p, p < 20 → (s.port p).fn ≠ 0xFF → p ∈ j.heard)
    (hlock : s.isMaster = true ∨ j.firstBeacon.isSome = true) : Runs .timeLockAchieved s fun t =>
      t.dev = .joined ∧ Finishes s t j.uid 0 0 0 0 ∧
      t = { s with dev := .joined, hif := t.hif, qos := { s.qos with discard := true }
                   sch := { s.sch with join := none, locked := true, lastBeacon := s.tick } } := by
  have hall : s.joinHeard j = true := by
    simp only [State.joinHeard, List.all_eq_true, List.contains_iff_mem]
    exact fun p hp => hheard p (State.mem_mappedPorts.mp hp).1 (State.mem_mappedPorts.mp hp).2
  have hlocked : (!s.isMaster && j.firstBeacon.isNone) = false := by
    rcases hlock with h | h
    · simp [h]
    · simp [Option.isNone_eq_false_iff.mpr h]
  have hexec : exec .timeLockAchieved s = .next ((({ s with
      sch := { s.sch with join := none, locked := true, lastBeacon := s.tick }
      qos := { s.qos with discard := true } } : State).enter .joined).finish j.uid 0 0 0 0) := by
    show execTimeLockAchieved s = _
    simp only [execTimeLockAchieved, hj, hdev, hall, hlocked]
    rfl
  refine ⟨_, hexec, by rw [State.finish_dev, State.enter_dev],
    State.finishes_finish (by rw [State.enter_active]) _ _ _ _ _, ?_⟩
  unfold State.finish
  rw [State.enter_eq]

/-- No lock in 100 ms of the first beacon, or no beacon in 1 s (R41). -/
theorem runs_timeLockTimeout (s : State) (j : JoinSt) (hj : s.sch.join = some j)
    (hlate : match j.firstBeacon with
       | some x => x + 10000000 ≤ s.tick
       | none => s.isMaster = false ∧ j.startTick + 100000000 ≤ s.tick) : Runs .timeLockTimeout s fun t =>
      Finishes s t j.uid 5 0 0 0 ∧ (∀ p, p < 20 → (t.port p).fn = 0xFF) ∧
      t = { s with hif := t.hif, fab := t.fab, pwr := { s.pwr with steer := 0 }
                   sch := { s.sch with join := none, locked := false, timeOff := s.sch.localOff } } := by
  refine ⟨s.joinFail 5 0 0, ?_, State.joinFail_spec hj 5 0 0⟩
  show execTimeLockTimeout s = _
  cases hb : j.firstBeacon with
  | none =>
    rw [hb] at hlate
    simp [execTimeLockTimeout, hj, hb, hlate]
  | some x =>
    rw [hb] at hlate
    simp only at hlate
    simp [execTimeLockTimeout, hj, hb, hlate]

/-- A mapped port has heard nothing in 1 s (R81). -/
theorem runs_joinFrameTimeout (s : State) (j : JoinSt) (p : Nat) (hj : s.sch.join = some j)
    (hlate : j.startTick + 100000000 ≤ s.tick) (hp : p < 20) (hfn : (s.port p).fn ≠ 0xFF) (hsilent : p ∉ j.heard)
    (hleast : ∀ q, q < p → (s.port q).fn ≠ 0xFF → q ∈ j.heard) : Runs .joinFrameTimeout s fun t =>
      Finishes s t j.uid 4 0x21 p 0 ∧ (∀ p, p < 20 → (t.port p).fn = 0xFF) ∧
      t = { s with hif := t.hif, fab := t.fab, pwr := { s.pwr with steer := 0 }
                   sch := { s.sch with join := none, locked := false, timeOff := s.sch.localOff } } := by
  have hfind : (s.mappedPorts.find? fun p => !j.heard.contains p) = some p := by
    rw [State.mappedPorts, List.find?_filter, List.find?_range_eq_some]
    simp only [List.mem_range, bne_iff_ne, Bool.not_eq_true']
    refine ⟨by simpa using ⟨hfn, hsilent⟩, hp, fun q hq => ?_⟩
    have := hleast q hq
    by_cases h : (s.port q).fn = 0xFF <;> simp_all
  refine ⟨s.joinFail 4 0x21 p, ?_, State.joinFail_spec hj 4 0x21 p⟩
  show execJoinFrameTimeout s = _
  simp only [execJoinFrameTimeout, hj, hfind]
  rw [if_neg (by omega)]

/-- JOIN leaves again every 1 ms where no answer has come (R81, R303). -/
theorem runs_joinResend (s : State) (j : JoinSt) (im : Image) (hj : s.sch.join = some j)
    (hdue : j.lastSent + 100000 ≤ s.tick) (him : s.image = some im) : Runs .joinResend s fun t =>
      t.sch.join = some { j with lastSent := s.tick } ∧
      (∀ p, t.port p =
        if p < 20 ∧ s.partnerOf p ≠ 0xFFFFFFFF ∧ p ∉ j.heard ∧ (s.port p).joinOwn = false ∧ (s.port p).isUp = true then
          { s.port p with linkQ := (s.port p).linkQ ++ [(.join im.imageId (BitVec.ofNat 15 im.ldev), 0)] }
        else s.port p) ∧
      t = { s with sch := t.sch, fab := t.fab } := by
  have hframe : ∀ (l : List Nat) (t : State), t.image = some im → l.foldl (fun s p => s.sendLink p s.joinOf 0) t =
      l.foldl (fun s p => s.sendLink p (.join im.imageId (BitVec.ofNat 15 im.ldev)) 0) t := fun l t ht =>
    foldl_congr_of_inv (I := fun t : State => t.image = some im)
      (fun t p ht => (State.PortsOnly.sendLink t p t.joinOf 0).image.trans ht)
      (fun t p ht => by simp only [State.joinOf, ht]) l ht
  have hexec : exec .joinResend s = .next
      ((s.joinPorts.filter fun p => !j.heard.contains p && !(s.port p).joinOwn).foldl
        (fun s p => s.sendLink p (.join im.imageId (BitVec.ofNat 15 im.ldev)) 0)
        { s with sch := { s.sch with join := some { j with lastSent := s.tick } } }) := by
    show execJoinResend s = _
    simp only [execJoinResend, hj]
    rw [if_neg (by omega), ← hframe]
    · rfl
    · exact him
  have honly := State.PortsOnly.foldl (f := fun s p => s.sendLink p (.join im.imageId (BitVec.ofNat 15 im.ldev)) 0)
    (fun t p => .sendLink t p (.join im.imageId (BitVec.ofNat 15 im.ldev)) 0) (s.joinPorts.filter fun p => !j.heard.contains p && !(s.port p).joinOwn)
    { s with sch := { s.sch with join := some { j with lastSent := s.tick } } }
  refine ⟨_, hexec, by rw [honly.sch], fun p => ?_, by rw [honly]⟩
  have hnodup : (s.joinPorts.filter fun p => !j.heard.contains p && !(s.port p).joinOwn).Nodup :=
    (List.nodup_range.filter _).filter _
  rw [State.port_foldl_sendLink hnodup fun _ => .join im.imageId (BitVec.ofNat 15 im.ldev)]
  have hmem : p ∈ (s.joinPorts.filter fun p => !j.heard.contains p && !(s.port p).joinOwn) ↔
      p < 20 ∧ s.partnerOf p ≠ 0xFFFFFFFF ∧ p ∉ j.heard ∧ (s.port p).joinOwn = false := by
    rw [List.mem_filter, State.joinPorts, List.mem_filter, List.mem_range, bne_iff_ne, and_assoc]
    simp
  simp only [hmem, and_assoc]
  rfl

end JoinCommands

/-- Settles O23, a clause for each of the four commands above. -/
theorem joiningTheDomain : Obligations.JoiningTheDomain := by
  unfold Obligations.JoiningTheDomain
  exact ⟨runs_timeLockAchieved, runs_timeLockTimeout, runs_joinFrameTimeout, runs_joinResend⟩

end Sys2Proof.Machine

/-! PROOFS. Arming and the first ply (R44, R47, R87): what cycle 0 leaves in a block, once, and the statements from it. -/

namespace Sys2Proof.Machine

/-! ### Cycle 0 -/

section CycleZero

variable {s : State} {b : Nat}

theorem State.blk_mapBlocks (s : State) {f : Block → Block} (hf : f {} = {}) (b : Nat) :
    State.blk { s with blocks := SMap.mapVals {} s.blocks f } b = f (s.blk b) := SMap.get_mapVals _ _ _ _ hf

/-- The clears of cycle 0, before the blocks start. -/
def State.cycle0Clear (s : State) : State :=
  ({ s with
    blocks := SMap.mapVals {} s.blocks Block.cycle0
    ccd := { s.ccd with bundles := SMap.mapVals {} s.ccd.bundles fun k => { k with moveDue := false } }
    ce := { s.ce with rho := [], mu := [] }
    fab := { s.fab with accepted := [], received := [], deadlines := [], led := [], released := [] }
    sch := { s.sch with sems := [], tickOut := true, tickOutAt := s.sch.start } } : State).qosTies

/-- Block b waits for its promotion. -/
def State.promoWaits (s : State) (b : Nat) : Bool :=
  match (s.region (b / 12)).promo with
  | some (l, _, _) => l == b % 12
  | none => false

/-- The boundary record of block b, written at cycle 0 (R87). -/
def State.recordBlock (s : State) (b : Nat) : State :=
  s.updSeq b fun q => { q with
    recPrevRegs := q.recRegs, recPrevOverlay := q.recOverlay, recRegs := q.regs, recOverlay := q.overlay
    queues := [], tgtHalted := [], issued := [], completed := [], st := .idle }

/-- What cycle 0 does to block b. -/
def State.cycle0Block (s : State) (b : Nat) : State :=
  if (s.slotOf b).isNone then s
  else if ((s.recordBlock b).blk b).halted || (s.recordBlock b).promoWaits b then s.recordBlock b
  else (s.recordBlock b).startBlock b

theorem State.cycle0_eq (s : State) : s.cycle0 = (List.range 96).foldl State.cycle0Block s.cycle0Clear := rfl

theorem State.startBlock_eq (s : State) (b : Nat) : s.startBlock b = { s with blocks := (s.startBlock b).blocks } := by
  unfold State.startBlock
  split <;> rfl

theorem State.cycle0Block_eq (s : State) (b : Nat) : s.cycle0Block b = { s with blocks := (s.cycle0Block b).blocks } := by
  unfold State.cycle0Block
  split
  · rfl
  · split
    · rfl
    · rw [State.startBlock_eq]; rfl

theorem State.blk_startBlock_of_ne {c : Nat} (h : c ≠ b) : (s.startBlock b).blk c = s.blk c := by
  unfold State.startBlock
  split
  · rfl
  · exact State.blk_updSeq_of_ne _ h _

theorem State.blk_cycle0Block_of_ne {c : Nat} (h : c ≠ b) : (s.cycle0Block b).blk c = s.blk c := by
  unfold State.cycle0Block
  split
  · rfl
  · split
    · exact State.blk_updSeq_of_ne _ h _
    · rw [State.blk_startBlock_of_ne h]
      exact State.blk_updSeq_of_ne _ h _

theorem State.foldl_cycle0Block_eq (l : List Nat) (s : State) :
    l.foldl State.cycle0Block s = { s with blocks := (l.foldl State.cycle0Block s).blocks } :=
  List.foldlRecOn (motive := fun t : State => t = { s with blocks := t.blocks }) l _ rfl fun t ht b _ => by
    rw [State.cycle0Block_eq, ht]

/-- Cycle 0 changes, beside the blocks, what its clears change. -/
theorem State.cycle0_eq_clear (s : State) : s.cycle0 = { s.cycle0Clear with blocks := s.cycle0.blocks } := by
  rw [State.cycle0_eq]
  exact State.foldl_cycle0Block_eq _ _

theorem State.blk_foldl_cycle0Block_of_not_mem {l : List Nat} (h : b ∉ l) (s : State) :
    (l.foldl State.cycle0Block s).blk b = s.blk b :=
  List.foldlRecOn (motive := fun t : State => t.blk b = s.blk b) l _ rfl fun t ht c hc => by
    rw [State.blk_cycle0Block_of_ne (ne_of_mem_of_not_mem hc h).symm, ht]

theorem State.blk_cycle0Clear (s : State) (b : Nat) : s.cycle0Clear.blk b = (s.blk b).cycle0 :=
  State.blk_mapBlocks s rfl b

/-- A block with a slot and code that may run starts at its entry address, its registers and overlay recorded. -/
theorem State.blk_cycle0 {c : CodeEntry} (hb : b < 96) (hslot : (s.slotOf b).isSome = true)
    (hhalt : (s.blk b).halted = false) (hpromo : (s.region (b / 12)).promo = none) (hcode : s.codeOf b = some c) :
    s.cycle0.blk b = { (s.blk b).cycle0 with seq := { (s.blk b).seq with
      recPrevRegs := (s.blk b).seq.recRegs, recPrevOverlay := (s.blk b).seq.recOverlay
      recRegs := (s.blk b).seq.regs, recOverlay := (s.blk b).seq.overlay
      queues := [], tgtHalted := [], issued := [], completed := [], pc := c.entry, st := .run, bwclass := 0 } } := by
  obtain ⟨l, r, hlist⟩ := List.append_of_mem (List.mem_range.mpr hb)
  have hnodup := hlist ▸ (List.nodup_range (n := 96))
  have hl : b ∉ l := fun h => (List.nodup_append.mp hnodup).2.2 b h b List.mem_cons_self rfl
  have hr : b ∉ r := (List.nodup_cons.mp (List.nodup_append.mp hnodup).2.1).1
  rw [State.cycle0_eq, hlist, List.foldl_append, List.foldl_cons, State.blk_foldl_cycle0Block_of_not_mem hr]
  have hblk : (l.foldl State.cycle0Block s.cycle0Clear).blk b = (s.blk b).cycle0 := by
    rw [State.blk_foldl_cycle0Block_of_not_mem hl, State.blk_cycle0Clear]
  have hrest := State.foldl_cycle0Block_eq l s.cycle0Clear
  generalize l.foldl State.cycle0Block s.cycle0Clear = t at hblk hrest
  have hslot' : (t.slotOf b).isNone = false := by
    rw [hrest, Option.isNone_eq_false_iff]
    exact hslot
  have hpromo' : (t.region (b / 12)).promo = none := by
    rw [hrest]
    exact hpromo
  have hcode' : t.codeOf b = some c := by
    rw [hrest]
    exact hcode
  have hhalt' : (t.blk b).halted = false := by
    rw [hblk]
    exact hhalt
  have hrec : (t.recordBlock b).blk b = { t.blk b with seq := { (t.blk b).seq with
      recPrevRegs := (t.blk b).seq.recRegs, recPrevOverlay := (t.blk b).seq.recOverlay
      recRegs := (t.blk b).seq.regs, recOverlay := (t.blk b).seq.overlay
      queues := [], tgtHalted := [], issued := [], completed := [], st := .idle } } := State.blk_updSeq_self ..
  have hwaits : (t.recordBlock b).promoWaits b = false := by
    have : ((t.recordBlock b).region (b / 12)).promo = none := hpromo'
    simp only [State.promoWaits, this]
  have hcodes : (t.recordBlock b).codeOf b = some c := hcode'
  unfold State.cycle0Block
  rw [hslot', hwaits, show ((t.recordBlock b).blk b).halted = false by rw [hrec]; exact hhalt', State.startBlock, hcodes]
  simp only [Bool.or_self, Bool.false_eq_true, if_false, State.blk_updSeq_self, hrec, hblk]
  rfl

end CycleZero

/-! ### The arm flood -/

section Arming

/-- An arm epoch begins a flood with this member's fields (R44). -/
theorem runs_armEpoch (s : State) (hdev : s.dev = .joined) (hrel : s.standby.relaying = false)
    (hlive : s.sch.live = false) (htick : s.dom % 4096 = 0) (hflood : s.sch.flood = none) (hlater : s.sch.laterArms = []) :
    Runs .armEpoch s fun t =>
      (∃ f, t.sch.flood = some f ∧ f.kind = .arm ∧ f.t0 = s.dom ∧ f.round = 0 ∧ f.received = [] ∧
        (s.sch.arming = none → f.acc.armed = false) ∧
        ∀ a, s.sch.arming = some a → f.acc.start = a.tick ∧
          (f.acc.armed = true ↔ a.withdrawn = none ∧
            ¬ (s.sch.holdover = true ∧ s.sch.holdoverAt + 10000000 ≤ s.tick))) ∧
      t = { s with sch := { s.sch with flood := t.sch.flood } } := by
  refine ⟨s.startFlood .arm s.dom 0 s.armFields, ?_,
    ⟨newFlood .arm s.dom 0 s.armFields, rfl, rfl, rfl, rfl, rfl, fun harm => ?_, fun a harm => ?_⟩, rfl⟩
  · show execArmEpoch s = _
    simp [execArmEpoch, hdev, hlive, htick, hflood, State.floodBegun, hlater]
  · simp [newFlood, State.armFields, hrel, harm]
  · cases hover : s.sch.holdover <;> simp [newFlood, State.armFields, hrel, harm, State.longHoldover, hover]

/-- The flood of a later epoch runs beside the one in progress (R44). -/
theorem runs_armEpoch_beside (s : State) (f : Flood) (hdev : s.dev = .joined) (_hrel : s.standby.relaying = false)
    (hlive : s.sch.live = false) (htick : s.dom % 4096 = 0) (hflood : s.sch.flood = some f) (ht0 : f.t0 ≠ s.dom)
    (hlater : ∀ g ∈ s.sch.laterArms, g.t0 ≠ s.dom) : Runs .armEpoch s fun t =>
      t = { s with sch := { s.sch with laterArms := s.sch.laterArms ++
              [{ kind := .arm, t0 := s.dom, ply := 0, acc := s.armFields }] } } := by
  refine ⟨_, ?_, rfl⟩
  have hbegun : s.floodBegun s.dom = false := by
    simp only [State.floodBegun, hflood, Option.toList_some, List.any_append, List.any_cons, List.any_nil,
      beq_eq_false_iff_ne.mpr ht0, Bool.or_false, Bool.false_or, List.any_eq_false, beq_iff_eq]
    exact hlater
  show execArmEpoch s = _
  simp [execArmEpoch, hdev, hlive, htick, hflood, hbegun, newFlood]

/-- The verdict of an arm flood that is due. -/
theorem exec_armVerdict {s : State} {f : Flood} (hdue : VerdictDue s f) (hkind : f.kind = .arm) :
    exec .armVerdict s = .next (if s.sch.firstStart.isSome then s.endFlood else
      if f.acc.armed then { s.endFlood with sch := { s.endFlood.sch with
        firstStart := some (max f.acc.start ((s.verdictTick f / 4096 + 1) * 4096))
        stopLatch := match s.sch.arming.bind fun a => a.withdrawn with
          | some w => some w.1
          | none => s.sch.stopLatch
        arming := s.sch.arming.map fun a => { a with withdrawn := none } } }
      else s.endFlood.withdraw f.t0) := by
  obtain ⟨hflood, htick⟩ := hdue
  have hlate : ¬ (s.dom < s.verdictTick f) := by
    rw [State.verdictTick]
    omega
  show execArmVerdict s = _
  simp only [execArmVerdict, hflood, hkind]
  simp only [hlate, decide_false, Bool.or_false]
  rfl

theorem runs_armVerdict_armed (s : State) (f : Flood) (hdue : VerdictDue s f) (hkind : f.kind = .arm)
    (harmed : f.acc.armed = true) (hfirst : s.sch.firstStart = none) : Runs .armVerdict s fun t =>
      t.sch.firstStart = some (max f.acc.start ((((f.t0 + 150 + s.diam * s.hop) / 4096) + 1) * 4096)) ∧
      t.sch.flood = s.sch.laterArms.head? ∧ t = { s with sch := t.sch } := by
  refine ⟨_, exec_armVerdict hdue hkind, ?_⟩
  simp only [hfirst, harmed, Option.isSome_none, Bool.false_eq_true, if_false, if_true]
  exact ⟨rfl, rfl, rfl⟩

/-- A verdict that changes nothing: the start tick is fixed, or no arming is withdrawn (log entry 65). -/
theorem runs_armVerdict_kept (s : State) (f : Flood) (hdue : VerdictDue s f) (hkind : f.kind = .arm)
    (hkept : s.sch.firstStart.isSome = true ∨
        (f.acc.armed = false ∧ ∀ a, s.sch.arming = some a → a.withdrawn = none)) : Runs .armVerdict s fun t =>
      t = { s with sch := { s.sch with flood := s.sch.laterArms.head?, laterArms := s.sch.laterArms.tail } } := by
  refine ⟨_, exec_armVerdict hdue hkind, ?_⟩
  by_cases hfirst : s.sch.firstStart.isSome = true
  · rw [if_pos hfirst]
    rfl
  · obtain ⟨harmed, hnone⟩ := hkept.resolve_left hfirst
    rw [if_neg hfirst, harmed]
    have hsame : s.endFlood.withdraw f.t0 = s.endFlood := by
      unfold State.withdraw
      cases harm : s.sch.arming with
      | none =>
        have : s.endFlood.sch.arming = none := harm
        simp only [this]
      | some a =>
        have : s.endFlood.sch.arming = some a := harm
        simp only [this, hnone a harm]
    simp only [Bool.false_eq_true, if_false, hsame]
    rfl

/-- A withdrawn PLY_RUN ends with status 0x0D (R47). -/
theorem runs_armVerdict_withdrawn (s : State) (f : Flood) (a : Arming) (x : Nat) (hdue : VerdictDue s f)
    (hkind : f.kind = .arm) (harmed : f.acc.armed = false) (hfirst : s.sch.firstStart = none)
    (harm : s.sch.arming = some a) (hwith : a.withdrawn = some (none, x)) (hx : x ≤ f.t0) :
    Runs .armVerdict s fun t =>
      t.sch.arming = none ∧ t.sch.flood = s.sch.laterArms.head? ∧ Finishes s t a.uid 0xD 0 0 0 ∧ t.dev = s.dev := by
  refine ⟨_, exec_armVerdict hdue hkind, ?_⟩
  have hgone : s.endFlood.withdraw f.t0 =
      ({ s.endFlood with sch := { s.endFlood.sch with arming := none } } : State).finish a.uid 0xD 0 0 0 := by
    have : s.endFlood.sch.arming = some a := harm
    simp only [State.withdraw, this, hwith]
    rw [if_neg (by omega)]
  simp only [hfirst, harmed, Option.isSome_none, Bool.false_eq_true, if_false, hgone]
  exact ⟨rfl, rfl, State.finishes_finish rfl _ _ _ _ _, rfl⟩

end Arming

/-! ### The first ply -/

section FirstPly

variable {s : State}

/-- The ply unit as ply n starts at tick x, the first since PLY_RUN. -/
def State.firstPly (s : State) (x : Nat) (n : W64) : State := { s with sch := { s.sch with
  firstStart := none, arming := none, live := true, ply := n, attempt := 0, prevAttempt := 0, start := x
  len := s.plyLen, stretch := 0, replays := 0, restartAt := none, gen0 := [], gen1 := [], cur := {}, prev := {}
  persistent := none, exclDue := 0, decider := none, drainCause := none, flood := none, laterArms := [] } }

/-- The member in RUNNING, its strikes, dark arrays and halts cleared. -/
def State.enterRunning (s : State) : State := (s.enter .running).clearStrikes.clearDark.unhalt

theorem State.enterRunning_eq (s : State) : s.enterRunning = { s with
    dev := .running, hif := (s.enter .running).hif, blocks := s.enterRunning.blocks
    pwr := s.enterRunning.pwr } := by
  unfold State.enterRunning State.unhalt State.clearDark State.clearStrikes
  rw [State.enter_eq]

theorem State.blk_enterRunning (s : State) (b : Nat) : s.enterRunning.blk b =
    { s.blk b with strikes := [], promotedDark := false, halted := (s.blk b).lost } := by
  have hunhalt := State.blk_mapBlocks ((s.enter .running).clearStrikes.clearDark)
    (f := fun B => { B with halted := B.lost }) rfl b
  have hdark := State.blk_mapBlocks (s.enter .running).clearStrikes (f := fun B => { B with promotedDark := false }) rfl b
  have hstrikes := State.blk_mapBlocks (s.enter .running) (f := fun B => { B with strikes := [] }) rfl b
  have hblocks : (s.enter .running).blk b = s.blk b := by simp [State.blk]
  rw [hblocks] at hstrikes
  exact hunhalt.trans (by rw [show State.blk (s.enter .running).clearStrikes.clearDark b = _ from hdark,
    show State.blk (s.enter .running).clearStrikes b = _ from hstrikes])

theorem exec_firstPlyStart {a : Arming} {x : Nat} (hdev : s.dev = .joined) (htrack : s.standby.tracking = false)
    (hlive : s.sch.live = false) (hfirst : s.sch.firstStart = some x) (hx : x ≤ s.dom) (harm : s.sch.arming = some a) :
    exec .firstPlyStart s = .next ((s.enterRunning.firstPly x a.ply).cycle0.finish a.uid 0 0 0 0) := by
  have hbefore : ¬ (s.dom < x) := by omega
  show execFirstPlyStart s = _
  simp only [execFirstPlyStart, hfirst, hlive, hbefore, State.tracking, htrack, hdev, harm, decide_false, Bool.or_self,
    Bool.false_eq_true, if_false]
  rfl

theorem runs_firstPlyStart (s : State) (a : Arming) (x : Nat) (hdev : s.dev = .joined) (htrack : s.standby.tracking = false)
    (hlive : s.sch.live = false) (hfirst : s.sch.firstStart = some x) (hx : x ≤ s.dom) (harm : s.sch.arming = some a) :
    Runs .firstPlyStart s fun t =>
      t.dev = .running ∧ t.sch.live = true ∧ t.sch.ply = a.ply ∧ t.sch.attempt = 0 ∧ t.sch.start = x ∧
      t.sch.len = s.plyLen ∧ t.sch.arming = none ∧ t.sch.firstStart = none ∧ t.sch.tickOut = true ∧ t.sch.sems = [] ∧
      Finishes s t a.uid 0 0 0 0 ∧ MemorySame s t ∧
      (∀ (b : Nat) (c : CodeEntry), b < 96 → (s.slotOf b).isSome = true → (s.blk b).lost = false →
        (s.region (b / 12)).promo = none → s.codeOf b = some c →
        StartsAt t b c ∧ (t.blk b).seq.regs = (s.blk b).seq.regs ∧
        (t.blk b).seq.recRegs = (s.blk b).seq.regs ∧ (t.blk b).seq.recOverlay = (s.blk b).seq.overlay) := by
  refine ⟨_, exec_firstPlyStart hdev htrack hlive hfirst hx harm, ?_⟩
  have hrun := State.enterRunning_eq s
  have hblks := State.blk_enterRunning s
  have hactive := State.enter_active s .running
  generalize s.enterRunning = u at hrun hblks
  have hlen : u.plyLen = s.plyLen := by rw [hrun]; rfl
  have hclear := (u.firstPly x a.ply).cycle0_eq_clear
  have hblk : ∀ {b : Nat} {c : CodeEntry}, b < 96 → (s.slotOf b).isSome = true → (s.blk b).lost = false →
      (s.region (b / 12)).promo = none → s.codeOf b = some c → _ := fun {b c} hb hslot hlost hpromo hcode =>
    State.blk_cycle0 (s := u.firstPly x a.ply) (b := b) (c := c) hb (by rw [hrun]; exact hslot)
      (by rw [show (u.firstPly x a.ply).blk b = u.blk b from rfl, hblks]; exact hlost)
      (by rw [hrun]; exact hpromo) (by rw [hrun]; exact hcode)
  generalize (u.firstPly x a.ply).cycle0 = t at hclear hblk
  have hsch : t.sch = (u.firstPly x a.ply).cycle0Clear.sch := by rw [hclear]
  have hmem : MemorySame s t := by
    refine ⟨?_, ?_, ?_⟩ <;> rw [hclear, hrun] <;> rfl
  refine ⟨?_, ?_, ?_, ?_, ?_, ?_, ?_, ?_, ?_, ?_, State.finishes_finish ?_ _ _ _ _ _, hmem,
    fun b c hb hslot hlost hpromo hcode => ?_⟩
  · rw [State.finish_dev, hclear, hrun]; rfl
  all_goals try rw [State.finish_sch, hsch]
  case refine_6 => exact hlen
  case refine_11 => rw [hclear, hrun]; exact hactive
  case refine_12 =>
    have hb := hblk hb hslot hlost hpromo hcode
    have hsame : (t.finish a.uid 0 0 0 0).blk b = t.blk b := rfl
    have hold : (u.firstPly x a.ply).blk b = _ := hblks b
    rw [hold] at hb
    unfold StartsAt
    rw [hsame, hb]
    exact ⟨⟨rfl, rfl, rfl, rfl, rfl⟩, rfl, rfl, rfl⟩
  all_goals rfl

end FirstPly

/-- Settles O24, a clause for each of the commands above. -/
theorem startingPlies : Obligations.StartingPlies := by
  unfold Obligations.StartingPlies
  exact ⟨runs_armEpoch, runs_armEpoch_beside, runs_armVerdict_armed, runs_armVerdict_kept, runs_armVerdict_withdrawn,
    runs_firstPlyStart⟩

end Sys2Proof.Machine

/-! PROOFS. The boundary (R37, R38, R49). Its statement speaks of every state and fails in one that no run reaches: a
granule write that a device-issued near-bank command held back takes effect when the boundary drops that command, and
discards the image (R490), so that the next ply has no length. -/

namespace Sys2Proof.Machine

/-! ### What the boundary's watchdogs leave -/

section KeepsImage

variable {s t u : State}

/-- The image and the held copies are as before. -/
def State.KeepsImage (s t : State) : Prop := t.image = s.image ∧ t.hif.heldCopies = s.hif.heldCopies

theorem State.KeepsImage.refl (s : State) : s.KeepsImage s := ⟨rfl, rfl⟩

theorem State.KeepsImage.trans (h : s.KeepsImage t) (g : t.KeepsImage u) : s.KeepsImage u :=
  ⟨g.1.trans h.1, g.2.trans h.2⟩

theorem State.KeepsImage.ite {c : Prop} [Decidable c] (h : s.KeepsImage t) (g : s.KeepsImage u) :
    s.KeepsImage (if c then t else u) := by
  split
  · exact h
  · exact g

theorem State.KeepsImage.updBlk (h : s.KeepsImage t) (b : Nat) (f : Block → Block) : s.KeepsImage (t.updBlk b f) := h

theorem State.KeepsImage.foldl {α : Type} {f : State → α → State} (hf : ∀ (s : State) (a : α), s.KeepsImage (f s a))
    (l : List α) (s : State) : s.KeepsImage (l.foldl f s) :=
  List.foldlRecOn (motive := s.KeepsImage) l f (.refl s) fun _ ht a _ => ht.trans (hf _ a)

theorem State.postEvent_heldCopies (s : State) (c d : Nat) : (s.postEvent c d).hif.heldCopies = s.hif.heldCopies := by
  rw [State.postEvent_eq]

theorem State.KeepsImage.post (s : State) (a : RecArg) : s.KeepsImage (s.post a) := by
  refine ⟨State.post_image s a, ?_⟩
  unfold State.post
  grind [State.mgmtStore, State.postEvent_heldCopies, State.rollWindow_hif]

theorem State.KeepsImage.checkSelf (s : State) (i : Nat) : s.KeepsImage (s.checkSelf i) := by
  unfold State.checkSelf
  split <;> exact ⟨rfl, rfl⟩

theorem State.KeepsImage.flagFall (s : State) (c : Nat) (b : Option Nat) : s.KeepsImage (s.flagFall c b) :=
  (State.KeepsImage.post s _).trans (.checkSelf _ 4)

theorem State.KeepsImage.strike (s : State) (b u r : Nat) : s.KeepsImage (s.strike b u r) := by
  unfold State.strike
  split <;> exact ⟨rfl, rfl⟩

theorem State.KeepsImage.fallBlock (s : State) (b : Nat) : s.KeepsImage (s.fallBlock b) :=
  .updBlk (.ite ((State.KeepsImage.flagFall s 1 (some b)).trans (.strike _ b 2 2)) (.flagFall s 1 (some b))) b _

theorem State.KeepsImage.portEvent (s : State) (p c l k : Nat) : s.KeepsImage (s.portEvent p c l k) := by
  refine ⟨State.portEvent_image s p c l k, ?_⟩
  unfold State.portEvent
  split
  · rfl
  · dsimp only
    split
    · simp
    · rw [(State.KeepsImage.post _ _).2]
      simp

theorem State.KeepsImage.boundaryPorts (s : State) : s.KeepsImage s.boundaryPorts := by
  refine State.KeepsImage.foldl (fun s p => ?_) _ s
  split
  · exact .refl s
  · exact State.KeepsImage.portEvent _ p 0xA 0x1F 0

theorem State.KeepsImage.ceFail (s : State) (b status : Nat) (cid : W32) : s.KeepsImage (s.ceFail b status cid) := by
  have hcount : s.KeepsImage { s with ce := { s.ce with
    stepFail := if s.ce.stepFail = 0xFF then 0xFF else s.ce.stepFail + 1, lastStatus := status } } := ⟨rfl, rfl⟩
  have hrec := State.KeepsImage.ite (c := (status = 7 || status = 8) = true) hcount (hcount.trans (.post _
    { cls := 3, level := 1, unit := 0x25, code := 0x100 + status, lblock := some b, data0 := cid.toNat }))
  exact .ite hrec (.updBlk hrec b _)

theorem State.KeepsImage.ceBoundary (s : State) : s.KeepsImage s.ceBoundary.1 := by
  unfold State.ceBoundary State.ceAbort
  dsimp only
  refine List.foldlRecOn (motive := s.KeepsImage) _ _ ?_ fun t ht x _ => ht.trans (.ceFail t x.block 6 x.cid)
  exact ⟨rfl, rfl⟩

/-- The watchdogs of block b at the boundary, when the near-bank commands of the blocks in nb and the steps of those in ce
end there. -/
def State.blockFalls (missed : Bool) (nb ce : List Nat) (s : State) (b : Nat) : State :=
  let s := if missed then s.fallBlock b else s
  let s := if nb.contains b then s.flagFall 5 (some b) else s
  if ce.contains b then s.flagFall 6 (some b) else s

/-- The watchdogs of the boundary are those of its blocks and the mirror's. -/
theorem State.boundaryFalls_eq (s : State) : ∃ c : Prop, ∃ _ : Decidable c, ∃ t : State,
    t = (List.range 96).foldl (fun t b => State.blockFalls (s.missedEop b) s.nbBoundary.2 s.nbBoundary.1.ceBoundary.2 t b)
      s.nbBoundary.1.ceBoundary.1.boundaryPorts ∧ s.boundaryFalls = if c then t.flagFall 4 none else t := by
  unfold State.boundaryFalls
  exact ⟨_, _, _, rfl, rfl⟩

theorem State.KeepsImage.blockFalls (missed : Bool) (nb ce : List Nat) (s : State) (b : Nat) :
    s.KeepsImage (State.blockFalls missed nb ce s b) := by
  have hmissed := State.KeepsImage.ite (c := missed = true) (.fallBlock s b) (.refl s)
  have hnb := State.KeepsImage.ite (c := nb.contains b = true) (hmissed.trans (.flagFall _ 5 (some b))) hmissed
  exact .ite (hnb.trans (.flagFall _ 6 (some b))) hnb

/-- Of the watchdogs of the boundary only the near-bank ones may change the image. -/
theorem State.KeepsImage.boundaryFalls (s : State) : s.nbBoundary.1.KeepsImage s.boundaryFalls := by
  obtain ⟨c, hc, t, ht, hfalls⟩ := s.boundaryFalls_eq
  have hblocks : s.nbBoundary.1.KeepsImage t := by
    rw [ht]
    exact ((State.KeepsImage.ceBoundary _).trans (.boundaryPorts _)).trans (.foldl (fun _ b => .blockFalls (s.missedEop b) _ _ _ b) _ _)
  rw [hfalls]
  exact .ite (hblocks.trans (.flagFall _ 4 none)) hblocks

end KeepsImage

/-! ### The ply that the boundary starts -/

section NextPly

variable {s : State}

theorem State.boundaryRamps_keeps (s : State) : s.boundaryRamps.sch = s.sch ∧ s.boundaryRamps.hif = s.hif := by
  refine List.foldlRecOn (motive := fun t : State => t.sch = s.sch ∧ t.hif = s.hif) _ _ ⟨rfl, rfl⟩ fun t ht i _ => ?_
  split
  · exact ht
  · exact ht

theorem State.applyAtBoundary_of_none (h : s.hif.heldCopies = []) : s.applyAtBoundary.sch = s.sch := by
  simp [State.applyAtBoundary, h]

/-- The ply unit as the ply after the one in flight starts at tick x, with the check flood of that one. -/
def State.nextPly (s : State) (x : Nat) : State :=
  let t : State := { s with sch := { s.sch with
    prev := s.endedCheck, cur := {}, prevAttempt := s.sch.attempt, attempt := 0, ply := s.sch.ply + 1, start := x
    len := s.plyLen, stretch := 0, gen := !s.sch.gen } }
  t.startFlood .check x s.sch.ply (t.ownFields s.endedCheck (demandCode s.slack s.leastGate))

/-- The next ply has the length that the image, as the watchdogs leave it, gives. -/
theorem exec_plyBoundary_len (hexec : Executes s) (hrestart : s.sch.restartAt = none) (hflood : s.sch.flood = none)
    (hdue : s.sch.start + s.sch.len ≤ s.dom) (hheld : s.boundaryFalls.hif.heldCopies = []) :
    ∃ t, exec .plyBoundary s = .next t ∧ t.sch.len = s.boundaryFalls.plyLen := by
  obtain ⟨hdev, hphase, hlive, htrack⟩ := hexec
  have hrun : s.executing = true := by simp [State.executing, State.running, hdev, hphase]
  have hlate : ¬ (s.dom < s.sch.start + s.sch.len) := by omega
  have hnext : exec .plyBoundary s = .next (s.boundaryFalls.nextPly (s.sch.start + s.sch.len)).cycle0.boundaryRamps.applyAtBoundary := by
    show execPlyBoundary s = _
    simp only [execPlyBoundary, hlive, hrestart, hflood, hlate, State.tracking, htrack, hrun, Option.isSome_none,
      decide_false, Bool.not_true, Bool.or_self, Bool.false_eq_true, if_false]
    generalize s.boundaryFalls = u
    rfl
  generalize s.boundaryFalls = u at hnext hheld ⊢
  refine ⟨_, hnext, ?_⟩
  have hclear := (u.nextPly (s.sch.start + s.sch.len)).cycle0_eq_clear
  rw [State.applyAtBoundary_of_none, (State.boundaryRamps_keeps _).1, hclear]
  · rfl
  · rw [(State.boundaryRamps_keeps _).2, hclear]
    exact hheld

end NextPly



/-- A section of a member without ports, code or transfers. -/
def bareSection : Section where
  ldev := 0
  standby := false
  coords := []
  timeUp := 0
  portFn := []
  portPartner := []
  standbyA := 0
  standbyB := 0
  code := []
  blob := []
  blobLen := 0
  xfers := []
  loads := []

/-- An image whose plies last one tick. -/
def bareImage : Image where
  imageId := 0
  plyLen := 1
  slack := 0
  checkDiam := 0
  hopBudget := 0
  dims := []
  nActive := 0
  nStandby := 0
  timeMaster := 0
  journalLines := 0
  rollbackAllow := 0
  takeoverAllow := 0
  xchg := []
  ldev := 0
  own := bareSection
  served := []
  digest := 0

/-- A command that block 0 issued and that its stack has not started. -/
def queuedCmd : NbCmd where
  issuer := .block 0 0 0
  dieLo := 0
  dieHi := 0
  pairLo := 0
  pairHi := 0
  fmt := 0
  prog := []
  colStart := 0
  cols := 1
  steps := 1
  rowE := 0
  rowO := 0
  strideE := 0
  strideO := 0
  cls := 0

/-- A member in RUNNING whose first granule of stack 0 closes once block 0's near-bank command is gone. -/
def heldGranState : State := { State.reset with
  dev := .running
  image := some bareImage
  sch := { live := true }
  hbmStacks := [(0, { openGran := 1 })]
  pim := { seqs := [(0, { devQ := [queuedCmd] })], heldGran := [(0, false, 0, 1)] } }

theorem executes_heldGranState : Executes heldGranState := ⟨rfl, rfl, rfl, rfl⟩

theorem image_nbBoundary_heldGranState : heldGranState.nbBoundary.1.image = none := by rfl

theorem heldCopies_nbBoundary_heldGranState : heldGranState.nbBoundary.1.hif.heldCopies = [] := by rfl

/-- Refutes O25: in `heldGranState`, which satisfies its hypotheses, the boundary drops the near-bank command that a
granule write waits for; the write discards the image, and the next ply has length 0 where the image gave 1. -/
theorem not_plyBoundary : ¬ Obligations.PlyBoundary := by
  unfold Obligations.PlyBoundary
  intro h
  obtain ⟨himage, hheld⟩ := State.KeepsImage.boundaryFalls heldGranState
  rw [image_nbBoundary_heldGranState] at himage
  rw [heldCopies_nbBoundary_heldGranState] at hheld
  obtain ⟨t, ht, hlen⟩ := exec_plyBoundary_len executes_heldGranState rfl rfl (by decide) hheld
  obtain ⟨u, hu, -, -, hlen', -⟩ := h heldGranState executes_heldGranState rfl rfl (by decide)
  rw [State.plyLen, himage] at hlen
  obtain rfl : t = u := Host.Outcome.next.inj (ht.symm.trans hu)
  exact absurd (hlen.symm.trans hlen') (by decide)

end Sys2Proof.Machine

/-! PROOFS. Frames that a port receives (chapter 11), but for scheduled data: idle frames and those with a reserved bit,
check and arm rounds, JOIN, and LINK. Each acts on `heard`, the state after the credit work. -/

namespace Sys2Proof.Machine

section TwoChanges

theorem SMap.del_del {α : Type} (m : SMap α) (k : Nat) : SMap.del (SMap.del m k) k = SMap.del m k := by
  induction m with
  | nil => rfl
  | cons e m ih =>
    by_cases hk : e.1 = k <;> simp [SMap.del, hk, ih]

theorem SMap.del_ins {α : Type} (m : SMap α) (k : Nat) (v : α) : SMap.del (SMap.ins k v m) k = SMap.del m k := by
  induction m with
  | nil => simp [SMap.ins, SMap.del]
  | cons e m ih =>
    by_cases hlt : k < e.1 <;> by_cases hk : e.1 = k <;> simp [SMap.ins, SMap.del, hlt, hk, ih]

/-- The later of two changes of one thing stands. -/
theorem SMap.set_set {α : Type} [DecidableEq α] (d : α) (m : SMap α) (k : Nat) (v w : α) :
    SMap.set d (SMap.set d m k v) k w = SMap.set d m k w := by
  have hdel : SMap.del (SMap.set d m k v) k = SMap.del m k := by
    unfold SMap.set
    split
    · exact SMap.del_del m k
    · rw [SMap.del_ins, SMap.del_del]
  unfold SMap.set at hdel ⊢
  rw [hdel]

theorem State.updPort_updPort (s : State) (p : Nat) (f g : Port → Port) :
    (s.updPort p f).updPort p g = s.updPort p fun k => g (f k) := by
  simp only [State.updPort, SMap.upd, SMap.set_set, SMap.get_set_self]

end TwoChanges

section HeardFrames

variable {s : State} {p : Nat} {h : FrameHdr}

theorem port_heard_self (s : State) (p : Nat) (h : FrameHdr) : (heard s p h).port p = { s.port p with
    lastValid := s.tick, badSync := 0, got0 := h.sent0, got1 := h.sent1
    freed0 := (s.port p).freed0 + (h.sent0 - (s.port p).got0)
    freed1 := (s.port p).freed1 + (h.sent1 - (s.port p).got1), theirFreed0 := h.freed0, theirFreed1 := h.freed1 } := by
  rw [port_heard, if_pos rfl]

theorem heard_otherPorts (s : State) (p : Nat) (h : FrameHdr) : OtherPorts s (heard s p h) p := fun _ hq => port_heard_of_ne hq

theorem Hears.isUp (hh : Hears s p h) : ((heard s p h).port p).isUp = true := by
  rw [port_heard_isUp]
  exact hh.2.2.1

theorem OtherPorts.trans {t u : State} (h : OtherPorts s t p) (g : OtherPorts t u p) : OtherPorts s u p :=
  fun q hq => (g q hq).trans (h q hq)

theorem OtherPorts.updPort (s : State) (p : Nat) (f : Port → Port) : OtherPorts s (s.updPort p f) p :=
  fun q hq => by rw [State.port_updPort, if_neg hq]

theorem OtherPorts.portEvent (s : State) (p c l k : Nat) : OtherPorts s (s.portEvent p c l k) p :=
  fun q _ => State.port_portEvent s p c l k q

theorem OtherPorts.sendLink (s : State) (p : Nat) (f : Frame) (r : Nat) : OtherPorts s (s.sendLink p f r) p :=
  fun q hq => by rw [State.port_sendLink, if_neg (fun hp => hq hp.1)]

theorem State.sendLink_of_isUp (hup : (s.port p).isUp = true) (f : Frame) (r : Nat) :
    s.sendLink p f r = s.updPort p fun k => { k with linkQ := k.linkQ ++ [(f, r)] } := if_pos hup

/-- Misbehaviour of a frame that was heard: counted with its port, and no memory changes. -/
theorem heard_misbehaved (s : State) (p : Nat) (h : FrameHdr) (kind : Nat) :
    (((heard s p h).misbehaved p kind).port p).viol = satAdd (s.port p).viol 1 ∧
    OtherPorts s ((heard s p h).misbehaved p kind) p ∧ MemorySame s ((heard s p h).misbehaved p kind) := by
  refine ⟨?_, fun q hq => ?_, ?_⟩
  · rw [State.port_misbehaved, if_pos rfl, port_heard_self]
  · rw [State.port_misbehaved, if_neg hq, port_heard_of_ne hq]
  · simp [MemorySame, State.misbehaved, heard]

/-- IDLE: its credit fields are reconciled (R301). -/
theorem runs_idleFrame (s : State) (p : Nat) (h : FrameHdr) (hh : Hears s p h) :
    Runs (.idleFrame p h) s fun t => t = heard s p h := by
  refine ⟨heard s p h, ?_, rfl⟩
  show execIdleFrame p h s = _
  simp only [execIdleFrame, onUnit_of_exists (decide_eq_true hh.lt), hh.rxCommon_eq, hh.rxReserved_eq, Bool.false_eq_true,
    if_false]

/-- A reserved bit is misbehaviour of kind 3 (Table 11.8). -/
theorem runs_idleFrame_reserved (s : State) (p : Nat) (h : FrameHdr) (hup : PortUp s p)
    (halign : (s.port p).realigning = false) (hres : h.reservedSet = true)
    (h0 : ((s.port p).sent0 - h.freed0).toNat ≤ 64) (h1 : ((s.port p).sent1 - h.freed1).toNat ≤ 64) :
    Runs (.idleFrame p h) s fun t => (t.port p).viol = satAdd (s.port p).viol 1 ∧ OtherPorts s t p ∧ MemorySame s t := by
  obtain ⟨hp, hon, hisUp⟩ := hup
  refine ⟨(heard s p h).misbehaved p 3, ?_, heard_misbehaved s p h 3⟩
  show execIdleFrame p h s = _
  have hreserved : (heard s p h).rxReserved p h = true := by simp [State.rxReserved, hres]
  simp only [execIdleFrame, onUnit_of_exists (decide_eq_true hp), State.rxCommon_eq_heard hon hisUp halign h0 h1, hreserved,
    if_true]

end HeardFrames

/-! ### Check and arm rounds (R44, R49-R51) -/

section Rounds

variable {s : State} {p : Nat}

theorem State.floodPorts_congr {s t : State} (him : t.image = s.image) (hfn : ∀ q, (t.port q).fn = (s.port q).fn) :
    t.floodPorts = s.floodPorts := by
  simp only [State.floodPorts, State.isStandby, State.ownSec, State.expressPorts, State.torusPorts, State.partnerOf, him, hfn]
  rfl

theorem floodPorts_heard (s : State) (p : Nat) (h : FrameHdr) : (heard s p h).floodPorts = s.floodPorts :=
  State.floodPorts_congr rfl (port_heard_fn s p h)

theorem Flood.mem_received_take (f : Flood) (p i : Nat) (b : CheckFields) (blame : Bool) :
    (p, i) ∈ (f.take p i b blame).received ∧ ∀ x ∈ f.received, x ∈ (f.take p i b blame).received := by
  unfold Flood.take
  dsimp only
  split
  · next hin => exact ⟨by simpa using hin, fun _ hx => hx⟩
  · exact ⟨by simp, fun _ hx => List.mem_append_left _ hx⟩

theorem State.flood_floodTake {fl : Flood} (hflood : s.sch.flood = some fl) (p i : Nat) (b : CheckFields) (blame : Bool) :
    (s.floodTake p i b blame).sch.flood = some (fl.take p i b blame) := by
  simp only [State.floodTake, hflood]

theorem runs_sCheckFrame (s : State) (p : Nat) (h : FrameHdr) (f : SCheck) (fl : Flood) (hh : Hears s p h)
    (hjoin : (s.port p).joinDue = false) (hrun : s.running = true) (hflood : s.sch.flood = some fl)
    (hkind : fl.kind ≠ .arm) (hp : p ∈ s.floodPorts) (hround : s.roundDue fl = some f.round.toNat)
    (hply : f.plyLo.toNat = fl.ply.toNat % 2 ^ 32) : Runs (.sCheckFrame p h f) s fun t =>
      ∃ g : Flood, t.sch.flood = some g ∧ g.acc.clean = (fl.acc.clean && f.clean) ∧
        g.acc.replayable = (fl.acc.replayable && f.replayable) ∧ g.acc.stop = (fl.acc.stop || f.stop) ∧
        g.acc.stretch = max fl.acc.stretch f.stretch.toNat ∧ (p, f.round.toNat) ∈ g.received ∧
        (∀ x ∈ fl.received, x ∈ g.received) ∧ g.blamed = (fl.blamed || f.blame) ∧ g.t0 = fl.t0 := by
  have hflood' : (heard s p h).sch.flood = some fl := hflood
  have hexec : exec (.sCheckFrame p h f) s = .next ((heard s p h).floodTake p f.round.toNat
      { clean := f.clean, replayable := f.replayable, stop := f.stop, stretch := f.stretch.toNat } f.blame) := by
    have hrun' : (heard s p h).running = true := hrun
    have hrel := hh.relay_eq_zero
    have hround' : (heard s p h).roundDue fl = some f.round.toNat := hround
    show execSCheckFrame p h f s = _
    simp [execSCheckFrame, onUnit_of_exists (decide_eq_true hh.lt), hh.rxBoth_eq hjoin, hrun', hrel, hflood', hkind,
      floodPorts_heard, hp, hround', hply]
  obtain ⟨hmem, hsub⟩ := fl.mem_received_take p f.round.toNat
    { clean := f.clean, replayable := f.replayable, stop := f.stop, stretch := f.stretch.toNat } f.blame
  exact ⟨_, hexec, _, State.flood_floodTake hflood' .., rfl, rfl, rfl, rfl, hmem, hsub, rfl, rfl⟩

theorem State.armTake_of_noLater (hlater : s.sch.laterArms = []) (p : Nat) (fl : Flood) (b : CheckFields) :
    s.armTake p fl b = s.floodTake p ((s.roundDue fl).getD 0) b false := by
  unfold State.armTake
  simp only [hlater, List.find?_nil, ite_self]

theorem runs_sArmFrame (s : State) (p : Nat) (h : FrameHdr) (a : Bool) (start : W64) (fl : Flood) (hh : Hears s p h)
    (hjoin : (s.port p).joinDue = false) (hdev : s.dev = .joined) (hflood : s.sch.flood = some fl)
    (hkind : fl.kind = .arm) (hp : p ∈ s.floodPorts) (hlater : s.sch.laterArms = []) :
    Runs (.sArmFrame p h a start) s fun t =>
      ∃ g : Flood, t.sch.flood = some g ∧ g.acc.armed = (fl.acc.armed && a) ∧
        g.acc.start = max fl.acc.start start.toNat ∧ g.t0 = fl.t0 := by
  have hflood' : (heard s p h).sch.flood = some fl := hflood
  have hexec : exec (.sArmFrame p h a start) s = .next ((heard s p h).armTake p fl { armed := a, start := start.toNat }) := by
    have hdev' : (heard s p h).dev = .joined := hdev
    have hrel := hh.relay_eq_zero
    show execSArmFrame p h a start s = _
    simp [execSArmFrame, onUnit_of_exists (decide_eq_true hh.lt), hh.rxBoth_eq hjoin, hdev', hrel, hflood', hkind,
      floodPorts_heard, hp]
  refine ⟨_, hexec, ?_⟩
  have hlater' : (heard s p h).sch.laterArms = [] := hlater
  rw [State.armTake_of_noLater hlater']
  exact ⟨_, State.flood_floodTake hflood' .., rfl, rfl, rfl⟩

end Rounds

/-! ### JOIN (R81, R296) -/

section Join

variable {s : State} {p : Nat} {h : FrameHdr} {im : Image}

/-- What a JOIN heard on a mapped port does. -/
theorem Hears.exec_joinFrame (hh : Hears s p h) (him : s.image = some im) (hfn : (s.port p).fn ≠ 0xFF) (id : W64)
    (ldev : BitVec 15) : exec (.joinFrame p h id ldev) s = .next (
      if s.sch.join.isSome then
        if id = im.imageId ∧ ldev.toNat = s.partnerOf p then
          { ((heard s p h).updPort p fun k => { k with partner := ldev.toNat }) with
            sch := { s.sch with join := s.sch.join.map fun j =>
              { j with heard := if j.heard.contains p then j.heard else j.heard ++ [p] } } }
        else ((heard s p h).updPort p fun k => { k with partner := ldev.toNat }).joinFail 4 0x22 p
      else if s.inDomain = false then heard s p h
      else if (s.port p).joinDue then
        if id = im.imageId ∧ ldev.toNat = s.partnerOf p then
          ((heard s p h).updPort p fun k => { k with partner := ldev.toNat, joinDue := false }).answerJoin p
        else ((((heard s p h).updPort p fun k => { k with partner := ldev.toNat, joinDue := false }).updPort p fun k =>
          { k with barred := true }).portEvent p 6 0x1F 0).portDown p
      else if id = im.imageId ∧ ldev.toNat = s.partnerOf p then
        ((heard s p h).updPort p fun k => { k with partner := ldev.toNat }).answerJoin p
      else (heard s p h).misbehaved p 12) := by
  have him' : (heard s p h).image = some im := him
  have hrel := hh.relay_eq_zero
  have hpartner : (heard s p h).partnerOf p = s.partnerOf p := rfl
  have hsch : (heard s p h).sch = s.sch := rfl
  have hdom : (heard s p h).inDomain = s.inDomain := rfl
  have hfn' : ((heard s p h).port p).fn ≠ 0xFF := by rw [port_heard_fn]; exact hfn
  have hdue : ((heard s p h).port p).joinDue = (s.port p).joinDue := by rw [port_heard_self]
  have hmapped : (s.partnerOf p = 0xFFFFFFFF && ((heard s p h).port p).fn = 0xFF : Bool) = false := by simp [hfn']
  have hmapped' : (!s.inDomain || ((heard s p h).port p).fn = 0xFF : Bool) = !s.inDomain := by simp [hfn']
  show execJoinFrame p h id ldev s = _
  rw [execJoinFrame, onUnit_of_exists (decide_eq_true hh.lt), hh.rx_eq (Or.inr rfl)]
  simp only [him', hrel, hpartner, hsch, hdom, hdue, ne_eq, not_true_eq_false, if_false]
  congr 1
  by_cases hok : id = im.imageId ∧ ldev.toNat = s.partnerOf p
  · have hok' : (id == im.imageId && ldev.toNat == s.partnerOf p) = true := by simpa using hok
    simp only [hok', if_pos hok, hmapped, hmapped', Bool.not_true, Bool.false_eq_true, if_false, if_true,
      Bool.not_eq_true']
    rfl
  · have hok' : (id == im.imageId && ldev.toNat == s.partnerOf p) = false := by
      rw [Bool.and_eq_false_iff, beq_eq_false_iff_ne, beq_eq_false_iff_ne]
      tauto
    simp only [hok', if_neg hok, hmapped, hmapped', Bool.not_false, Bool.false_eq_true, if_false, if_true,
      Bool.not_eq_true']

/-- The answer to a JOIN is one JOIN, or one owed until the latency is measured again (R81, R296). -/
theorem State.port_answerJoin_self (hup : (s.port p).isUp = true) : (s.answerJoin p).port p =
    if (s.port p).remeasure then { s.port p with joinOwed := (s.port p).joinOwed + 1 }
    else { s.port p with linkQ := (s.port p).linkQ ++ [(s.joinOf, 0)] } := by
  unfold State.answerJoin
  split
  · exact State.port_updPort_self ..
  · rw [State.port_sendLink, if_pos ⟨rfl, hup⟩]

theorem OtherPorts.answerJoin (s : State) (p : Nat) : OtherPorts s (s.answerJoin p) p := by
  unfold State.answerJoin
  split
  · exact .updPort s p _
  · exact .sendLink s p _ 0

/-- A port that goes down (R296). -/
theorem State.portDown_wentDown (hup : (s.port p).isUp = true) : WentDown s (s.portDown p) p ∧
    ((s.portDown p).port p).barred = (s.port p).barred := by
  have hself : (s.portDown p).port p = { s.port p with
      state := 4, due := [], linkQ := [], wait := [], mirror := none, txWidths := [], txEight := false
      joinDue := false, joinOwn := false, remeasure := false, joinOwed := 0, echo := none, badSync := 0
      realigning := false } := by
    simp [State.portDown, hup]
  have hother : OtherPorts s (s.portDown p) p := by
    unfold State.portDown
    split
    · exact fun _ _ => rfl
    · exact (OtherPorts.updPort s p _).trans (.portEvent _ p 4 0x1F 0)
  unfold WentDown
  rw [hself]
  exact ⟨⟨rfl, rfl, rfl, rfl, rfl, rfl, hother⟩, rfl⟩

theorem WentDown.of_before {t u : State} (hdown : WentDown u t p) (hsched : (u.port p).sched = (s.port p).sched)
    (hvQ : (u.port p).vQ = (s.port p).vQ) (hother : OtherPorts s u p) : WentDown s t p := by
  obtain ⟨hstate, hdue, hlink, hwait, hs, hv, ho⟩ := hdown
  exact ⟨hstate, hdue, hlink, hwait, hs.trans hsched, hv.trans hvQ, hother.trans ho⟩

/-- The answer of a port whose partner was noted by f. -/
theorem Hears.answers (hh : Hears s p h) (f : Port → Port) (hup : ∀ k, (f k).isUp = k.isUp)
    (hlinkQ : ∀ k, (f k).linkQ = k.linkQ) (hremeasure : ∀ k, (f k).remeasure = k.remeasure)
    (howed : ∀ k, (f k).joinOwed = k.joinOwed) :
    ((s.port p).remeasure = false →
      ((((heard s p h).updPort p f).answerJoin p).port p).linkQ = (s.port p).linkQ ++ [(s.joinOf, 0)]) ∧
    ((s.port p).remeasure = true →
      ((((heard s p h).updPort p f).answerJoin p).port p).linkQ = (s.port p).linkQ ∧
      ((((heard s p h).updPort p f).answerJoin p).port p).joinOwed = (s.port p).joinOwed + 1) := by
  rw [State.port_answerJoin_self (by rw [State.port_updPort_self, hup]; exact hh.isUp), State.port_updPort_self,
    hremeasure, hlinkQ, howed, port_heard_self]
  refine ⟨fun hr => ?_, fun hr => ?_⟩
  · simp only [hr, Bool.false_eq_true, if_false]
    rfl
  · simp only [hr, if_true, hlinkQ, and_self]

theorem runs_joinFrame (s : State) (p : Nat) (h : FrameHdr) (id : W64) (ldev : BitVec 15) (im : Image) (hh : Hears s p h)
    (him : s.image = some im) (hfn : (s.port p).fn ≠ 0xFF) :
      (∀ j, s.sch.join = some j → id = im.imageId → ldev.toNat = s.partnerOf p → Runs (.joinFrame p h id ldev) s fun t =>
        (∃ g, t.sch.join = some g ∧ p ∈ g.heard ∧ (∀ q ∈ j.heard, q ∈ g.heard) ∧ g.uid = j.uid) ∧
        (t.port p).partner = ldev.toNat) ∧
      (∀ j, s.sch.join = some j → (id ≠ im.imageId ∨ ldev.toNat ≠ s.partnerOf p) → Runs (.joinFrame p h id ldev) s fun t =>
        t.sch.join = none ∧ Finishes s t j.uid 4 0x22 p 0 ∧ t.dev = s.dev) ∧
      (s.sch.join = none → s.inDomain = true → (s.port p).joinDue = true → id = im.imageId →
        ldev.toNat = s.partnerOf p → Runs (.joinFrame p h id ldev) s fun t =>
        (t.port p).joinDue = false ∧ (t.port p).partner = ldev.toNat ∧ OtherPorts s t p) ∧
      (s.sch.join = none → s.inDomain = true → id = im.imageId → ldev.toNat = s.partnerOf p →
        Runs (.joinFrame p h id ldev) s fun t =>
        ((s.port p).remeasure = false → (t.port p).linkQ = (s.port p).linkQ ++ [(s.joinOf, 0)]) ∧
        ((s.port p).remeasure = true →
          (t.port p).linkQ = (s.port p).linkQ ∧ (t.port p).joinOwed = (s.port p).joinOwed + 1)) ∧
      (s.sch.join = none → s.inDomain = true → (s.port p).joinDue = true →
        (id ≠ im.imageId ∨ ldev.toNat ≠ s.partnerOf p) → Runs (.joinFrame p h id ldev) s fun t =>
        WentDown s t p ∧ (t.port p).barred = true) := by
  have hexec := hh.exec_joinFrame him hfn id ldev
  refine ⟨fun j hj hid hdev => ?_, fun j hj hbad => ?_, fun hj hdom hdue hid hdev => ?_, fun hj hdom hid hdev => ?_,
    fun hj hdom hdue hbad => ?_⟩
  · rw [hj, Option.isSome_some, if_pos rfl, if_pos ⟨hid, hdev⟩] at hexec
    refine ⟨_, hexec, ⟨_, rfl, ?_, fun q hq => ?_, rfl⟩, ?_⟩
    · dsimp only
      split
      · next hin => simpa using hin
      · simp
    · dsimp only
      split
      · exact hq
      · exact List.mem_append_left _ hq
    · show (State.port (State.updPort _ _ _) p).partner = _
      rw [State.port_updPort_self]
  · rw [hj, Option.isSome_some, if_pos rfl, if_neg (by tauto)] at hexec
    obtain ⟨hfin, -, heq⟩ := State.joinFail_spec
      (s := (heard s p h).updPort p fun k => { k with partner := ldev.toNat }) (j := j) hj 4 0x22 p
    exact ⟨_, hexec, by rw [heq], hfin, by rw [heq]; rfl⟩
  · rw [hj, Option.isSome_none, if_neg (by simp), if_neg (by simp [hdom]), if_pos hdue, if_pos ⟨hid, hdev⟩] at hexec
    refine ⟨_, hexec, ?_, ?_, ((heard_otherPorts s p h).trans (.updPort _ p _)).trans (.answerJoin _ p)⟩ <;>
    · rw [State.port_answerJoin_self (by rw [State.port_updPort_self]; exact hh.isUp), State.port_updPort_self]
      split <;> rfl
  · rw [hj, Option.isSome_none, if_neg (by simp), if_neg (by simp [hdom])] at hexec
    by_cases hdue : (s.port p).joinDue = true
    · rw [if_pos hdue, if_pos ⟨hid, hdev⟩] at hexec
      exact ⟨_, hexec, hh.answers _ (fun _ => rfl) (fun _ => rfl) (fun _ => rfl) (fun _ => rfl)⟩
    · rw [if_neg hdue, if_pos ⟨hid, hdev⟩] at hexec
      exact ⟨_, hexec, hh.answers _ (fun _ => rfl) (fun _ => rfl) (fun _ => rfl) (fun _ => rfl)⟩
  · rw [hj, Option.isSome_none, if_neg (by simp), if_neg (by simp [hdom]), if_pos hdue, if_neg (by tauto)] at hexec
    obtain ⟨hdown, hbarred⟩ := State.portDown_wentDown (p := p) (s := (((heard s p h).updPort p fun k =>
      { k with partner := ldev.toNat, joinDue := false }).updPort p fun k => { k with barred := true }).portEvent p 6 0x1F 0)
      (by rw [State.port_portEvent, State.port_updPort_self, State.port_updPort_self]; exact hh.isUp)
    refine ⟨_, hexec, hdown.of_before ?_ ?_ ?_, hbarred.trans ?_⟩
    · rw [State.port_portEvent, State.port_updPort_self, State.port_updPort_self, port_heard_self]
    · rw [State.port_portEvent, State.port_updPort_self, State.port_updPort_self, port_heard_self]
    · exact (((heard_otherPorts s p h).trans (.updPort _ p _)).trans (.updPort _ p _)).trans (.portEvent _ p 6 0x1F 0)
    · rw [State.port_portEvent, State.port_updPort_self]

end Join

/-! ### LINK (R297, R298, R303) -/

section Link

variable {s : State} {p : Nat} {h : FrameHdr}

theorem Hears.rxLink_eq (hh : Hears s p h) (act : State → State) : s.rxLink p h act = act (heard s p h) := by
  simp only [State.rxLink, hh.rxCommon_eq, hh.rxReserved_eq, Bool.false_eq_true, if_false]

theorem rxGroup_heard (s : State) (p : Nat) (h : FrameHdr) : (heard s p h).rxGroup p = s.rxGroup p := by
  simp only [State.rxGroup, State.upNs, port_heard_self]
  rfl

theorem txGroup_heard (s : State) (p : Nat) (h : FrameHdr) : (heard s p h).txGroup p = s.txGroup p := by
  simp only [State.txGroup, State.upNs, port_heard_self]
  rfl

/-- The partner asks this transmitter to mirror a lane onto the spare (R297). -/
theorem runs_laneMove (hh : Hears s p h) (l : Nat) (g : W32) (hl : l ≤ 16) (hspare : l ≠ (s.port p).txSpare)
    (hfree : (s.port p).txUsed = false) (hmirror : (s.port p).mirror = none) : Runs (.laneMove p h l g) s fun t =>
      t = (heard s p h).updPort p fun k => { k with
        mirror := some (l, groupNamed (s.txGroup p) g.toNat), txUsed := false } := by
  refine ⟨_, ?_, rfl⟩
  show execLaneMove p h l g s = _
  rw [execLaneMove, onUnit_of_exists (decide_eq_true hh.lt), hh.rxLink_eq]
  dsimp only
  rw [txGroup_heard, port_heard_self, if_neg (by simp [hmirror, hspare, hl]), if_pos (by simp [hfree])]

theorem runs_laneMove_invalid (hh : Hears s p h) (l : Nat) (g : W32)
    (hbad : 16 < l ∨ l = (s.port p).txSpare ∨ (s.port p).mirror.isSome = true) : Runs (.laneMove p h l g) s fun t =>
      (t.port p).viol = satAdd (s.port p).viol 1 ∧ (t.port p).mirror = (s.port p).mirror := by
  refine ⟨(heard s p h).misbehaved p 13, ?_, (heard_misbehaved s p h 13).1, ?_⟩
  · show execLaneMove p h l g s = _
    rw [execLaneMove, onUnit_of_exists (decide_eq_true hh.lt), hh.rxLink_eq, port_heard_self]
    dsimp only
    rw [if_pos (by simpa [or_assoc] using hbad)]
  · rw [State.port_misbehaved, if_pos rfl, port_heard_self]

/-- A port that waits for one move takes the position from the spare at its group, where the spare is good. -/
theorem Port.settled_laneAck {k : Port} {l sp pos g : Nat} (hwait : k.wait = [.laneAck l sp pos g]) (now : Nat) :
    k.settled now = if (g ≤ now && (k.lane l).position == pos && (k.lane sp).state == 1) = true then
      (k.updLane sp fun x => { x with state := 0, position := pos }).updLane l fun x => { x with position := 0x1F }
    else k := by
  simp only [Port.settled, hwait, List.foldl_cons, List.foldl_nil]

theorem Port.lane_updLane (k : Port) (l m : Nat) (f : Lane → Lane) :
    (k.updLane l f).lane m = if m = l then f (k.lane l) else k.lane m := SMap.get_upd _ _ _ _ _

/-- A LANE_ACK in its group, with the spare no longer good: no move is complete (R297). -/
theorem runs_laneAck_spent (hh : Hears s p h) (l sp pos g : Nat) (hwait : (s.port p).wait = [.laneAck l sp pos g])
    (hpos : ((s.port p).lane l).position = pos) (hspare : ((s.port p).lane sp).state ≠ 1) : Runs (.laneAck p h l) s fun t => t = heard s p h := by
  refine ⟨_, ?_, rfl⟩
  have hwait' : ((heard s p h).port p).wait = [.laneAck l sp pos g] := by rw [port_heard_self]; exact hwait
  have hlane : ∀ m, ((heard s p h).port p).lane m = (s.port p).lane m := fun m => by rw [port_heard_self]; rfl
  have hnow : (heard s p h).portNow p = (heard s p h).port p := by
    rw [State.portNow, Port.settled_laneAck hwait', hlane, hlane, if_neg (by simp [hspare])]
  show execLaneAck p h l s = _
  rw [execLaneAck, onUnit_of_exists (decide_eq_true hh.lt), hh.rxLink_eq]
  simp only [hnow, hwait', List.find?_cons, BEq.rfl, hlane, hpos, Bool.or_true, if_true]

/-- A LANE_ACK in its group: the lane's position is the spare's from here on (R297). -/
theorem runs_laneAck (hh : Hears s p h) (l sp pos g : Nat) (hwait : (s.port p).wait = [.laneAck l sp pos g])
    (hne : l ≠ sp) (hg : g ≤ s.rxGroup p) (hg' : s.rxGroup p ≤ g + 1) (hpos : ((s.port p).lane l).position = pos)
    (hused : pos ≠ 0x1F) (hspare : ((s.port p).lane sp).state = 1) : Runs (.laneAck p h l) s fun t =>
      ((t.port p).lane sp).position = pos ∧ ((t.port p).lane sp).state = 0 ∧
      ((t.port p).lane l).position = 0x1F ∧ (t.port p).wait = [] ∧ OtherPorts s t p ∧
      ∀ m, m ≠ l → m ≠ sp → (t.port p).lane m = (s.port p).lane m := by
  have hwait' : ((heard s p h).port p).wait = [.laneAck l sp pos g] := by rw [port_heard_self]; exact hwait
  have hlane : ∀ m, ((heard s p h).port p).lane m = (s.port p).lane m := fun m => by rw [port_heard_self]; rfl
  have hnow : (heard s p h).portNow p = (((heard s p h).port p).updLane sp fun x => { x with state := 0, position := pos }).updLane
      l fun x => { x with position := 0x1F } := by
    rw [State.portNow, Port.settled_laneAck hwait', hlane, hlane, rxGroup_heard, if_pos (by simp [hspare, hpos, hg])]
  have hnowLane : ∀ m, ((heard s p h).portNow p).lane m =
      if m = l then { (s.port p).lane l with position := 0x1F }
      else if m = sp then { (s.port p).lane sp with state := 0, position := pos } else (s.port p).lane m := fun m => by
    rw [hnow, Port.lane_updLane, Port.lane_updLane, Port.lane_updLane, hlane, hlane, hlane, if_neg hne]
  have hnowWait : ((heard s p h).portNow p).wait = [.laneAck l sp pos g] := by rw [hnow]; exact hwait'
  have htime : (heard s p h).inTime p (.laneAck l sp pos g) = true := by
    simp [State.inTime, LinkWait.group, rxGroup_heard, hg, hg']
  have hexec : exec (.laneAck p h l) s = .next (((heard s p h).updPort p fun _ =>
      { (heard s p h).portNow p with wait := [] }).portEvent p 1 l 0) := by
    show execLaneAck p h l s = _
    rw [execLaneAck, onUnit_of_exists (decide_eq_true hh.lt), hh.rxLink_eq]
    have hfree : (((heard s p h).portNow p).lane l).position ≠ pos := by
      rw [hnowLane, if_pos rfl]
      exact Ne.symm hused
    simp [hnowWait, htime, hfree]
  have hport : ∀ t : State, t = (((heard s p h).updPort p fun _ =>
      { (heard s p h).portNow p with wait := [] }).portEvent p 1 l 0) →
      t.port p = { (heard s p h).portNow p with wait := [] } := fun t ht => by
    rw [ht, State.port_portEvent, State.port_updPort_self]
  have hlanes : ∀ m, Port.lane { (heard s p h).portNow p with wait := [] } m = ((heard s p h).portNow p).lane m := fun _ => rfl
  refine ⟨_, hexec, ?_, ?_, ?_, ?_, ((heard_otherPorts s p h).trans (.updPort _ p _)).trans (.portEvent _ p 1 l 0),
    fun m hl hsp => ?_⟩ <;> rw [hport _ rfl]
  · rw [hlanes, hnowLane, if_neg hne.symm, if_pos rfl]
  · rw [hlanes, hnowLane, if_neg hne.symm, if_pos rfl]
  · rw [hlanes, hnowLane, if_pos rfl]
  · rw [hlanes, hnowLane, if_neg hl, if_neg hsp]

/-- ECHO_REQ is answered with its stamp (R303). -/
theorem runs_echoReq (hh : Hears s p h) (st : W32) : Runs (.echoReq p h st) s fun t =>
      t = (heard s p h).updPort p fun k => { k with linkQ := k.linkQ ++ [(.link .echoResp 0 false st, 0)] } := by
  refine ⟨_, ?_, rfl⟩
  show execEchoReq p h st s = _
  rw [execEchoReq, onUnit_of_exists (decide_eq_true hh.lt), hh.rxLink_eq, State.sendLink_of_isUp hh.isUp]

/-- An ECHO_RESP with another stamp measures nothing. -/
theorem runs_echoResp_other (hh : Hears s p h) (st : W32) (ns : Nat) (hst : (s.port p).echo ≠ some st) :
    Runs (.echoResp p h st ns) s fun t => t = heard s p h := by
  refine ⟨_, ?_, rfl⟩
  show execEchoResp p h st ns s = _
  rw [execEchoResp, onUnit_of_exists (decide_eq_true hh.lt), hh.rxLink_eq, port_heard_self, if_pos hst]

/-- The state in which a latency is known. -/
def measuredPort (s : State) (p : Nat) (h : FrameHdr) (ns : Nat) : State :=
  (heard s p h).updPort p fun k => { k with
    echo := none, latency := min 0xFFE (ns / 2), equaliser := 10 * k.budget - ns / 2 }

theorem port_measuredPort (s : State) (p : Nat) (h : FrameHdr) (ns : Nat) :
    (measuredPort s p h ns).port p = { (heard s p h).port p with
      echo := none, latency := min 0xFFE (ns / 2), equaliser := 10 * (s.port p).budget - ns / 2 } := by
  rw [measuredPort, State.port_updPort_self, port_heard_self]

/-- The stamp that was asked with: half of the round trip is the latency (R303). -/
theorem Hears.exec_echoResp (hh : Hears s p h) (st : W32) (ns : Nat) (hst : (s.port p).echo = some st) :
    exec (.echoResp p h st ns) s = .next ((
      if (s.port p).budget = 0 || ns / 2 ≤ 10 * (s.port p).budget then measuredPort s p h ns
      else if s.sch.join.isSome then (measuredPort s p h ns).joinFail 4 0x23 p
      else if s.inDomain then ((measuredPort s p h ns).portEvent p 7 0x1F 0).portDown p
      else measuredPort s p h ns).joinAfterEcho p) := by
  have hst' : ((heard s p h).port p).echo = some st := by rw [port_heard_self]; exact hst
  have htwo : ((heard s p h).updPort p fun k => { k with echo := none }).updPort p (fun k => { k with
      latency := min 0xFFE (ns / 2), equaliser := 10 * k.budget - ns / 2 }) = measuredPort s p h ns := by
    rw [State.updPort_updPort]; rfl
  have hbudget : ((measuredPort s p h ns).port p).budget = (s.port p).budget := by
    rw [port_measuredPort, port_heard_self]
  show execEchoResp p h st ns s = _
  rw [execEchoResp, onUnit_of_exists (decide_eq_true hh.lt), hh.rxLink_eq]
  simp only [hst', ne_eq, not_true_eq_false, if_false, State.measured, htwo, hbudget]
  rfl

theorem State.joinAfterEcho_of_measured (h : (s.port p).remeasure = false) : s.joinAfterEcho p = s := by
  simp [State.joinAfterEcho, h]

theorem runs_echoResp (hh : Hears s p h) (st : W32) (ns : Nat) (hst : (s.port p).echo = some st)
    (hknown : (s.port p).remeasure = false) (hns : (s.port p).budget = 0 ∨ ns / 2 ≤ 10 * (s.port p).budget) :
    Runs (.echoResp p h st ns) s fun t =>
      t = (heard s p h).updPort p fun k => { k with
        echo := none, latency := min 0xFFE (ns / 2), equaliser := 10 * k.budget - ns / 2 } := by
  have hexec := hh.exec_echoResp st ns hst
  rw [if_pos (by simpa using hns), State.joinAfterEcho_of_measured] at hexec
  · exact ⟨_, hexec, rfl⟩
  · rw [port_measuredPort, port_heard_self]
    exact hknown

/-- Several equal link frames join the queue of a port that is up. -/
theorem State.foldl_sendLink_same (n : Nat) (f : State → Frame) (hf : ∀ (s : State) (g : Port → Port), f (s.updPort p g) = f s) :
    ∀ {s : State}, (s.port p).isUp = true →
      (((List.range n).foldl (fun s _ => s.sendLink p (f s) 0) s).port p) =
        { s.port p with linkQ := (s.port p).linkQ ++ List.replicate n (f s, 0) } ∧
      OtherPorts s ((List.range n).foldl (fun s _ => s.sendLink p (f s) 0) s) p := by
  induction n with
  | zero => exact fun {s} _ => ⟨by simp, fun _ _ => rfl⟩
  | succ n ih =>
    intro s hup
    obtain ⟨hport, hother⟩ := ih hup
    have hkeep : f ((List.range n).foldl (fun s _ => s.sendLink p (f s) 0) s) = f s :=
      List.foldlRecOn (motive := fun t : State => f t = f s) _ _ rfl fun t ht _ _ => by
        unfold State.sendLink
        split
        · rw [hf, ht]
        · exact ht
    rw [List.range_succ, List.foldl_append, List.foldl_cons, List.foldl_nil, hkeep]
    refine ⟨?_, hother.trans (.sendLink _ p _ 0)⟩
    rw [State.port_sendLink, hport, if_pos ⟨rfl, hup⟩, List.replicate_succ', List.append_assoc]

/-- Once measured again, the port's own JOIN leaves, and the answers that it owes (R81, R296). -/
theorem State.joinAfterEcho_owed (hdue : (s.port p).remeasure = true) (hup : (s.port p).isUp = true) :
    (s.joinAfterEcho p).port p = { s.port p with
      remeasure := false, joinOwed := 0
      linkQ := (s.port p).linkQ ++ List.replicate (b2n (s.port p).joinOwn + (s.port p).joinOwed) (s.joinOf, 0) } ∧
    OtherPorts s (s.joinAfterEcho p) p := by
  obtain ⟨hsent, hother⟩ := State.foldl_sendLink_same (p := p) (b2n (s.port p).joinOwn + (s.port p).joinOwed)
    State.joinOf (fun _ _ => rfl) (s := s.updPort p fun k => { k with remeasure := false, joinOwed := 0 })
    (by rw [State.port_updPort_self]; exact hup)
  unfold State.joinAfterEcho
  simp only [hdue, Bool.not_true, Bool.false_eq_true, if_false]
  rw [hsent, State.port_updPort_self]
  exact ⟨rfl, (OtherPorts.updPort s p _).trans hother⟩

theorem runs_echoResp_owed (hh : Hears s p h) (st : W32) (ns : Nat) (hst : (s.port p).echo = some st)
    (hdue : (s.port p).remeasure = true) (hns : (s.port p).budget = 0 ∨ ns / 2 ≤ 10 * (s.port p).budget) :
    Runs (.echoResp p h st ns) s fun t =>
      (t.port p).linkQ = (s.port p).linkQ ++
        List.replicate ((if (s.port p).joinOwn then 1 else 0) + (s.port p).joinOwed) (s.joinOf, 0) ∧
      (t.port p).remeasure = false ∧ (t.port p).joinOwed = 0 ∧ OtherPorts s t p := by
  have hexec := hh.exec_echoResp st ns hst
  rw [if_pos (by simpa using hns)] at hexec
  refine ⟨_, hexec, ?_⟩
  have hport := port_measuredPort s p h ns
  obtain ⟨hsent, hother⟩ := State.joinAfterEcho_owed (s := measuredPort s p h ns) (p := p)
    (by rw [hport, port_heard_self]; exact hdue) (by rw [hport]; exact hh.isUp)
  have hjoinOf : (measuredPort s p h ns).joinOf = s.joinOf := rfl
  have hall := ((heard_otherPorts s p h).trans (.updPort _ p _)).trans hother
  have hcount : b2n (s.port p).joinOwn = if (s.port p).joinOwn then 1 else 0 := rfl
  rw [hjoinOf, hport, port_heard_self, hcount] at hsent
  generalize (measuredPort s p h ns).joinAfterEcho p = t at hsent hall ⊢
  dsimp only
  rw [hsent]
  exact ⟨rfl, rfl, rfl, hall⟩

theorem State.remeasure_freeBuf (s : State) (b : VBuf) (q : Nat) : ((s.freeBuf b).port q).remeasure = (s.port q).remeasure := by
  rw [State.freeBuf, State.port_updPort]
  split
  · next hq => subst hq; split <;> [rfl; (split <;> rfl)]
  · rfl

theorem State.remeasure_joinFail {j : JoinSt} (hj : s.sch.join = some j) (hp : p < 20) {status reason port : Nat} :
    ((s.joinFail status reason port).port p).remeasure = false := by
  simp only [State.joinFail, hj]
  show ((State.unmapPorts _).port p).remeasure = false
  unfold State.unmapPorts
  refine List.foldlRecOn (motive := fun t : State => (t.port p).remeasure = false) _ _ ?_ fun t ht b _ => ?_
  · rw [State.port_foldl_updPort List.nodup_range, if_pos (List.mem_range.mpr hp)]
  · rw [State.remeasure_freeBuf, ht]

/-- A latency above the hop budget fails the join (R303). -/
theorem runs_echoResp_late (hh : Hears s p h) (st : W32) (ns : Nat) (j : JoinSt) (hst : (s.port p).echo = some st)
    (hbudget : 0 < (s.port p).budget) (hns : 10 * (s.port p).budget < ns / 2) (hj : s.sch.join = some j) :
    Runs (.echoResp p h st ns) s fun t => t.sch.join = none ∧ Finishes s t j.uid 4 0x23 p 0 := by
  have hexec := hh.exec_echoResp st ns hst
  obtain ⟨hfin, -, heq⟩ := State.joinFail_spec (s := measuredPort s p h ns) (j := j) hj 4 0x23 p
  have hmeasured : (((measuredPort s p h ns).joinFail 4 0x23 p).port p).remeasure = false :=
    State.remeasure_joinFail (s := measuredPort s p h ns) hj hh.lt
  rw [if_neg (by simp; omega), hj, Option.isSome_some, if_pos rfl, State.joinAfterEcho_of_measured hmeasured] at hexec
  exact ⟨_, hexec, by rw [heq], hfin⟩

/-- The partner asks this transmitter to change its width (R298). -/
theorem runs_widthFrame_asked (hh : Hears s p h) (w : Bool) (g : W32) (hwait : (s.port p).wait = []) :
    Runs (.widthFrame p h w g) s fun t =>
      t = (heard s p h).updPort p fun k => { k with
        txWidths := k.txWidths ++ [(w, groupNamed (s.txGroup p) g.toNat)] } := by
  refine ⟨_, ?_, rfl⟩
  have hwait' : ((heard s p h).port p).wait = [] := by rw [port_heard_self]; exact hwait
  show execWidthFrame p h w g s = _
  rw [execWidthFrame, onUnit_of_exists (decide_eq_true hh.lt), hh.rxLink_eq]
  simp only [hwait', List.find?_nil, txGroup_heard]

/-- The answer that the receiver waits for changes its width at its group (R298). -/
theorem runs_widthFrame_answered (hh : Hears s p h) (w : Bool) (g : W32) (x : Nat) (hwait : (s.port p).wait = [.width w x])
    (hx : x % 2 ^ 32 = g.toNat) (hnow : x ≤ s.rxGroup p) (hnow' : s.rxGroup p ≤ x + 1) :
    Runs (.widthFrame p h w g) s fun t =>
      (t.port p).rxBase = x ∧ (t.port p).state = (if w then 3 else 2) ∧ (t.port p).wait = [] ∧ OtherPorts s t p := by
  have hwait' : ((heard s p h).port p).wait = [.width w x] := by rw [port_heard_self]; exact hwait
  have htime : (heard s p h).inTime p (.width w x) = true := by
    simp [State.inTime, LinkWait.group, rxGroup_heard, hnow, hnow']
  have hsettled : (heard s p h).portNow p = (heard s p h).port p := by
    rw [State.portNow, Port.settled, hwait']
    rfl
  have hport : ∀ t : State, (t = (heard s p h).updPort p fun _ =>
      { ((heard s p h).port p).rxWidth w x with wait := [] }) ∨ (∃ c, t = ((heard s p h).updPort p fun _ =>
      { ((heard s p h).port p).rxWidth w x with wait := [] }).portEvent p c 0x1F 0) →
      (t.port p).rxBase = x ∧ (t.port p).state = (if w then 3 else 2) ∧ (t.port p).wait = [] ∧ OtherPorts s t p := by
    rintro t (rfl | ⟨c, rfl⟩)
    · rw [State.port_updPort_self]
      exact ⟨rfl, rfl, rfl, (heard_otherPorts s p h).trans (.updPort _ p _)⟩
    · rw [State.port_portEvent, State.port_updPort_self]
      exact ⟨rfl, rfl, rfl, ((heard_otherPorts s p h).trans (.updPort _ p _)).trans (.portEvent _ p c 0x1F 0)⟩
  have hexec : exec (.widthFrame p h w g) s = .next (
      if ((heard s p h).port p).state = 2 && w then ((heard s p h).updPort p fun _ =>
        { ((heard s p h).port p).rxWidth w x with wait := [] }).portEvent p 2 0x1F 0
      else if ((heard s p h).port p).state = 3 && !w then ((heard s p h).updPort p fun _ =>
        { ((heard s p h).port p).rxWidth w x with wait := [] }).portEvent p 3 0x1F 0
      else (heard s p h).updPort p fun _ => { ((heard s p h).port p).rxWidth w x with wait := [] }) := by
    show execWidthFrame p h w g s = _
    rw [execWidthFrame, onUnit_of_exists (decide_eq_true hh.lt), hh.rxLink_eq]
    have hx' : x % 4294967296 = g.toNat := hx
    simp [hwait', htime, hsettled, hx', LinkWait.group]
  refine ⟨_, hexec, hport _ ?_⟩
  split
  · exact .inr ⟨2, rfl⟩
  · split
    · exact .inr ⟨3, rfl⟩
    · exact .inl rfl

end Link

end Sys2Proof.Machine

/-! PROOFS. The 544 bytes of a frame read back as the frame (R299, R300). -/

namespace Sys2Proof.Machine

section FrameLayout

theorem Mem.length_dense (n : Nat) : ∀ (a : Nat) (m : Mem), (Mem.dense a n m).length = n := by
  induction n with
  | zero => exact fun _ _ => rfl
  | succ n ih =>
    rintro a (_ | ⟨⟨j, b⟩, m⟩)
    · simp [Mem.dense, ih]
    · unfold Mem.dense
      split <;> simp [ih]

theorem length_frameFront (f : Frame) (h : FrameHdr) : (frameFront f h).length = 528 := by
  simp [frameFront, Mem.span, Mem.length_dense]

/-- A frame is its front, the CRC, the sync field and the tail (Table 11.2). -/
theorem length_frameBytes (f : Frame) (h : FrameHdr) : (frameBytes f h).length = 544 := by
  simp [frameBytes, length_frameFront]

end FrameLayout

section FieldReads

theorem b2n_le_one (b : Bool) : b2n b ≤ 1 := by cases b <;> simp [b2n]

theorem bodyField_eq {w v lo : Nat} {x : BitVec w} (h : v / 2 ^ lo % 2 ^ w = x.toNat) : bodyField w v lo = x :=
  BitVec.eq_of_toNat_eq (by rw [bodyField, BitVec.toNat_ofNat, h])

theorem beq_one_eq {n : Nat} {b : Bool} (h : n = b2n b) : (n == 1) = b := by
  subst h
  cases b <;> rfl

theorem bodyBit_eq {v i : Nat} {b : Bool} (h : v / 2 ^ i % 2 = b2n b) : bodyBit v i = b := beq_one_eq h

/-- A field of a body between a lower part and whatever stands above it. -/
theorem reservedFields_zero {v : Nat} {l : List (Nat × Nat)} (h : ∀ r ∈ l, v / 2 ^ r.1 % 2 ^ r.2 = 0) :
    (l.any fun r => v / 2 ^ r.1 % 2 ^ r.2 != 0) = false := by
  rw [List.any_eq_false]
  intro r hr
  simp [h r hr]

/-- What a frame's bytes have to say of it: its type's fields read back, its body fits, no reserved bit is set. -/
structure ReadsBack (f : Frame) (payload : Mem) : Prop where
  body : readBody (frameType f) (frameFlags f) (frameBody f) payload = some f
  fits : frameBody f < 2 ^ 80
  flags : frameFlags f < 64
  reserved : ∀ r ∈ reservedFields f, frameBody f / 2 ^ r.1 % 2 ^ r.2 = 0

theorem readsBack_idle (payload : Mem) : ReadsBack .idle payload := ⟨rfl, by decide, by decide, by decide⟩

theorem readsBack_sData (f : SData) : ReadsBack (.sData f) f.payload := by
  obtain ⟨flow, seq, plyLo, pmask, payload⟩ := f
  have hflow := flow.isLt
  have hseq := seq.isLt
  have hply := plyLo.isLt
  have hmask := pmask.isLt
  have hpoison := b2n_le_one (pmask != 0)
  refine ⟨?_, ?_, ?_, by simp [reservedFields]⟩
  · simp only [readBody, frameType, frameBody, Nat.reduceEqDiff, if_false, if_true]
    rw [bodyField_eq (x := flow) (by omega), bodyField_eq (x := seq) (by omega), bodyField_eq (x := plyLo) (by omega),
      bodyField_eq (x := pmask) (by omega)]
  · simp only [frameBody]
    omega
  · simp only [frameFlags, frameMask]
    omega

theorem readsBack_sCheck (f : SCheck) (payload : Mem) : ReadsBack (.sCheck f) payload := by
  obtain ⟨clean, replayable, stop, stretch, blame, round, plyLo⟩ := f
  have hclean := b2n_le_one clean
  have hreplay := b2n_le_one replayable
  have hstop := b2n_le_one stop
  have hblame := b2n_le_one blame
  have hstretch := stretch.isLt
  have hround := round.isLt
  have hply := plyLo.isLt
  refine ⟨?_, ?_, by simp [frameFlags, frameMask, b2n], ?_⟩
  · simp only [readBody, frameType, frameBody, Nat.reduceEqDiff, if_false, if_true]
    rw [bodyBit_eq (b := clean) (by omega), bodyBit_eq (b := replayable) (by omega), bodyBit_eq (b := stop) (by omega),
      bodyField_eq (x := stretch) (by omega), bodyBit_eq (b := blame) (by omega), bodyField_eq (x := round) (by omega),
      bodyField_eq (x := plyLo) (by omega)]
  · simp only [frameBody]
    omega
  · simp only [reservedFields, frameBody, List.forall_mem_cons, List.not_mem_nil, false_imp_iff, implies_true, and_true]
    refine ⟨?_, ?_, ?_⟩ <;> omega

theorem readsBack_sArm (armed : Bool) (start : W64) (payload : Mem) : ReadsBack (.sArm armed start) payload := by
  have harmed := b2n_le_one armed
  have hstart := start.isLt
  refine ⟨?_, ?_, by simp [frameFlags, frameMask, b2n], ?_⟩
  · simp only [readBody, frameType, frameBody, Nat.reduceEqDiff, if_false, if_true]
    rw [bodyBit_eq (b := armed) (by omega), bodyField_eq (x := start) (by omega)]
  · simp only [frameBody]
    omega
  · simp only [reservedFields, frameBody, List.forall_mem_cons, List.not_mem_nil, false_imp_iff, implies_true, and_true]
    omega

theorem readsBack_tBeacon (tick : W64) (master : BitVec 15) (ho : Bool) (payload : Mem) :
    ReadsBack (.tBeacon tick master ho) payload := by
  have htick := tick.isLt
  have hmaster := master.isLt
  have hho := b2n_le_one ho
  have hflags : frameFlags (.tBeacon tick master ho) = 16 * b2n ho := by simp [frameFlags, frameMask, b2n]
  refine ⟨?_, ?_, by rw [hflags]; omega, ?_⟩
  · simp only [readBody, frameType, frameBody, hflags, Nat.reduceEqDiff, if_false, if_true]
    rw [bodyField_eq (x := tick) (by omega), bodyField_eq (x := master) (by omega), beq_one_eq (b := ho) (by omega)]
  · simp only [frameBody]
    omega
  · simp only [reservedFields, frameBody, List.forall_mem_cons, List.not_mem_nil, false_imp_iff, implies_true, and_true]
    omega

theorem readsBack_join (id : W64) (ldev : BitVec 15) (payload : Mem) : ReadsBack (.join id ldev) payload := by
  have hid := id.isLt
  have hldev := ldev.isLt
  refine ⟨?_, ?_, by simp [frameFlags, frameMask, b2n], ?_⟩
  · simp only [readBody, frameType, frameBody, Nat.reduceEqDiff, if_false, if_true]
    rw [bodyField_eq (x := id) (by omega), bodyField_eq (x := ldev) (by omega)]
  · simp only [frameBody]
    omega
  · simp only [reservedFields, frameBody, List.forall_mem_cons, List.not_mem_nil, false_imp_iff, implies_true, and_true]
    omega

theorem linkCode_lt (c : LinkCmd) : linkCode c < 16 := by cases c <;> decide

theorem readLink_eq {v : Nat} {c : LinkCmd} (h : v % 16 = linkCode c) : readLink v = some c := by
  unfold readLink
  rw [h]
  cases c <;> rfl

theorem readsBack_link (c : LinkCmd) (lane : BitVec 5) (width : Bool) (value : W32) (payload : Mem) :
    ReadsBack (.link c lane width value) payload := by
  have hcode := linkCode_lt c
  have hlane := lane.isLt
  have hwidth := b2n_le_one width
  have hvalue := value.isLt
  refine ⟨?_, ?_, by simp [frameFlags, frameMask, b2n], ?_⟩
  · simp only [readBody, frameType, frameBody, Nat.reduceEqDiff, if_false, if_true]
    rw [readLink_eq (c := c) (by omega), Option.map_some, bodyField_eq (x := lane) (by omega),
      bodyBit_eq (b := width) (by omega), bodyField_eq (x := value) (by omega)]
  · simp only [frameBody]
    omega
  · simp only [reservedFields, frameBody, List.forall_mem_cons, List.not_mem_nil, false_imp_iff, implies_true, and_true]
    refine ⟨?_, ?_⟩ <;> omega

/-- The lower fields of a V body read back, whatever the upper part u holds. -/
theorem readV_eq (f : VFrame) (u flags : Nat) (payload : Mem) :
    readV flags (f.tag.toNat + 2 ^ 12 * f.gen.toNat + 2 ^ 14 * vOpCode f.op + 2 ^ 16 * f.dst.toNat + 2 ^ 31 * f.src.toNat +
      2 ^ 46 * b2n f.len512 + 2 ^ 47 * u) payload = { f with
        addr := match f.op with | .read | .write => BitVec.ofNat 32 u | _ => 0
        pmask := match f.op with | .response => BitVec.ofNat 16 u | _ => 0
        reason := match f.op with | .nak => BitVec.ofNat 8 (u / 2 ^ 16) | _ => 0
        bwclass := BitVec.ofNat 3 flags, vc := flags / 32 % 2 == 1
        payload := match f.op with | .read => [] | _ => payload } := by
  obtain ⟨op, tag, gen, dst, src, len512, addr, pmask, reason, bwclass, vc, _⟩ := f
  have htag := tag.isLt
  have hgen := gen.isLt
  have hdst := dst.isLt
  have hsrc := src.isLt
  have hlen := b2n_le_one len512
  have hcode : vOpCode op < 4 := by cases op <;> decide
  dsimp only
  generalize hv : tag.toNat + 2 ^ 12 * gen.toNat + 2 ^ 14 * vOpCode op + 2 ^ 16 * dst.toNat + 2 ^ 31 * src.toNat +
    2 ^ 46 * b2n len512 + 2 ^ 47 * u = v
  have hop : v / 2 ^ 14 % 4 = vOpCode op := by omega
  have hupper : v / 2 ^ 47 = u := by omega
  have hreason : v / 2 ^ 63 = u / 2 ^ 16 := by omega
  unfold readV
  rw [hop, bodyField_eq (x := tag) (by omega), bodyField_eq (x := gen) (by omega), bodyField_eq (x := dst) (by omega),
    bodyField_eq (x := src) (by omega), bodyBit_eq (b := len512) (by omega)]
  simp only [bodyField, hupper, hreason]
  cases op <;> rfl

theorem readsBack_v (f : VFrame) (hfits : FrameFits (.v f)) : ReadsBack (.v f) (framePayload (.v f)) := by
  have htag := f.tag.isLt
  have hgen := f.gen.isLt
  have hdst := f.dst.isLt
  have hsrc := f.src.isLt
  have hlen := b2n_le_one f.len512
  have haddr := f.addr.isLt
  have hmask := f.pmask.isLt
  have hreason := f.reason.isLt
  have hclass := f.bwclass.isLt
  have hvc := b2n_le_one f.vc
  have hpoison := b2n_le_one (frameMask (.v f) != 0)
  have hcode : vOpCode f.op < 4 := by cases f.op <;> decide
  have hflags : BitVec.ofNat 3 (frameFlags (.v f)) = f.bwclass ∧ (frameFlags (.v f) / 32 % 2 == 1) = f.vc ∧
      frameFlags (.v f) < 64 := by
    refine ⟨BitVec.eq_of_toNat_eq ?_, beq_one_eq ?_, ?_⟩ <;> simp only [frameFlags, BitVec.toNat_ofNat] <;> omega
  obtain ⟨hbw, hvc', hlt⟩ := hflags
  obtain ⟨-, hread, hop⟩ := hfits
  have hupper : vUpper f < 2 ^ 32 := by
    unfold vUpper
    cases f.op <;> dsimp only <;> omega
  refine ⟨?_, ?_, hlt, ?_⟩
  · simp only [readBody, frameType, frameBody, Nat.reduceEqDiff, if_false, if_true]
    rw [readV_eq, hbw, hvc']
    obtain ⟨op, tag, gen, dst, src, len512, addr, pmask, reason, bwclass, vc, payload⟩ := f
    cases op with
    | read =>
      obtain ⟨rfl, rfl⟩ := hop
      obtain rfl := hread rfl
      simp [vUpper]
    | write =>
      obtain ⟨rfl, rfl⟩ := hop
      simp [vUpper, framePayload]
    | response =>
      obtain ⟨rfl, rfl, -⟩ := hop
      simp [vUpper, framePayload]
    | nak =>
      obtain ⟨rfl, rfl⟩ := hop
      simp [vUpper, framePayload]
  · simp only [frameBody]
    omega
  · simp only [frameBody, vUpper, reservedFields]
    cases hcase : f.op with
    | read =>
      simp only [hcase, List.forall_mem_cons, List.not_mem_nil, false_imp_iff, implies_true, and_true] at hcode ⊢
      omega
    | write =>
      simp only [hcase, List.forall_mem_cons, List.not_mem_nil, false_imp_iff, implies_true, and_true] at hcode ⊢
      omega
    | response =>
      rw [hcase] at hop hcode
      obtain ⟨-, -, hshort⟩ := hop
      cases hlen512 : f.len512 with
      | true =>
        simp only [if_true, List.forall_mem_cons, List.not_mem_nil, false_imp_iff, implies_true, and_true]
        rw [hlen512] at hlen
        omega
      | false =>
        have hmask' := hshort hlen512
        simp only [Bool.false_eq_true, if_false, List.forall_mem_cons, List.not_mem_nil, false_imp_iff, implies_true, and_true]
        rw [hlen512] at hlen
        omega
    | nak =>
      rw [hcase] at hcode
      simp only [List.forall_mem_cons, List.not_mem_nil, false_imp_iff, implies_true, and_true]
      refine ⟨?_, ?_⟩ <;> omega

end FieldReads

section RoundTrip

variable {f : Frame} {h : FrameHdr}

theorem readsBack (hfits : FrameFits f) : ReadsBack f (framePayload f) := by
  cases f with
  | idle => exact readsBack_idle _
  | sData f => exact readsBack_sData f
  | sCheck f => exact readsBack_sCheck f _
  | sArm armed start => exact readsBack_sArm armed start _
  | v f => exact readsBack_v f hfits
  | tBeacon tick master ho => exact readsBack_tBeacon tick master ho _
  | join id ldev => exact readsBack_join id ldev _
  | link c lane width value => exact readsBack_link c lane width value _

/-- Where the parts of a frame stand among its bytes (Table 11.2). -/
theorem frameBytes_parts (f : Frame) (h : FrameHdr) :
    (frameBytes f h).take 0x210 = frameFront f h ∧
    ((frameBytes f h).drop 0x210).take 8 = leSplit 8 (crc64 (frameFront f h)).toNat ∧
    ((frameBytes f h).drop 0x218).take 2 = leSplit 2 0x6A95 ∧
    ((frameBytes f h).drop 0x21A).take 6 = h.relay :: List.replicate 5 0 := by
  have hfront := length_frameFront f h
  have hcrc := leSplit_length 8 (crc64 (frameFront f h)).toNat
  have hsync := leSplit_length 2 0x6A95
  unfold frameBytes
  generalize frameFront f h = front at hfront hcrc ⊢
  generalize leSplit 8 (crc64 front).toNat = crc at hcrc ⊢
  generalize leSplit 2 0x6A95 = sync at hsync ⊢
  simp [List.drop_append, hfront, hcrc, hsync, List.take_of_length_le, List.drop_of_length_le]

/-- The header, the body and the payload among the bytes (Tables 11.2, 11.3). -/
theorem frameBytes_front (f : Frame) (h : FrameHdr) :
    ((frameBytes f h).drop 6).take 10 = leSplit 10 (frameBody f) ∧
    ((frameBytes f h).drop 0x10).take 512 = Mem.span (framePayload f) 0 512 := by
  have hbody := leSplit_length 10 (frameBody f)
  have hpayload : (Mem.span (framePayload f) 0 512).length = 512 := Mem.length_dense ..
  unfold frameBytes frameFront
  generalize leSplit 10 (frameBody f) = body at hbody ⊢
  generalize Mem.span (framePayload f) 0 512 = payload at hpayload ⊢
  simp [List.drop_append, hbody, hpayload]

theorem frameBytes_relay (f : Frame) (h : FrameHdr) : (frameBytes f h).getD 0x21A 0 = h.relay := by
  obtain ⟨-, -, -, htail⟩ := frameBytes_parts f h
  have := congrArg (fun l => l[0]?) htail
  simp only [List.getElem?_take, List.getElem?_drop] at this
  simpa [List.getD_eq_getElem?_getD] using congrArg (·.getD 0) this

theorem toNat_frameType (f : Frame) : (BitVec.ofNat 8 (frameType f)).toNat = frameType f := by cases f <;> rfl

/-- The bytes of a frame without reserved bits read as its header and the frame. -/
theorem readFrame_frameBytes (hfits : FrameFits f) (hres : h.reservedSet = false) :
    readFrame (frameBytes f h) = .inr (h, f) := by
  obtain ⟨hfront, hcrc, hsync, htail⟩ := frameBytes_parts f h
  obtain ⟨hbody, hpayload⟩ := frameBytes_front f h
  obtain ⟨hread, hfit, hflags, hreserved⟩ := readsBack hfits
  have hflagByte : (BitVec.ofNat 8 (frameFlags f)).toNat = frameFlags f := by
    rw [BitVec.toNat_ofNat]
    omega
  have hbytes : (frameBytes f h).getD 0 0 = BitVec.ofNat 8 (frameType f) ∧
      (frameBytes f h).getD 1 0 = BitVec.ofNat 8 (frameFlags f) ∧ (frameBytes f h).getD 2 0 = h.sent0 ∧
      (frameBytes f h).getD 3 0 = h.sent1 ∧ (frameBytes f h).getD 4 0 = h.freed0 ∧
      (frameBytes f h).getD 5 0 = h.freed1 := ⟨rfl, rfl, rfl, rfl, rfl, rfl⟩
  obtain ⟨htype, hflag, h0, h1, h2, h3⟩ := hbytes
  have htailValue : leValue (h.relay :: List.replicate 5 0) / 256 = 0 := by
    have := h.relay.isLt
    show (h.relay.toNat + 256 * leValue (List.replicate 5 0)) / 256 = 0
    rw [show leValue (List.replicate 5 0) = 0 from rfl]
    omega
  have hmem : Mem.ofBytes 0 (Mem.span (framePayload f) 0 512) = framePayload f := by
    cases f <;> exact hfits.1
  have hclear : reservedBits (frameFlags f) (frameBody f) (leValue (h.relay :: List.replicate 5 0)) f = false := by
    rw [reservedBits, htailValue, reservedFields_zero hreserved, Nat.div_eq_of_lt hflags]
    rfl
  unfold readFrame
  rw [hsync, if_neg (by rw [leValue_leSplit _ _ (by decide)]; decide), hfront, hcrc,
    if_neg (by rw [leValue_leSplit _ _ (BitVec.isLt _)]; simp)]
  simp only [htype, hflag, h0, h1, h2, h3, hbody, hpayload, htail, frameBytes_relay, toNat_frameType, hflagByte, hmem,
    leValue_leSplit _ _ (show frameBody f < 256 ^ 10 from hfit), hread, hclear, ← hres]

/-- A frame arrives as its codewords were corrected: lost with one that was not, else received (R306). -/
theorem arrive_frameBytes (hfits : FrameFits f) (hres : h.reservedSet = false) (s : State) (p trip i : Nat) (errs : List Nat) :
    ((∀ c ∈ frameCodewords i, errs.getD c 0 ≤ 15) → s.arrive p trip i errs (frameBytes f h) = s.receive p trip h f) ∧
    ((∃ c ∈ frameCodewords i, 15 < errs.getD c 0) →
      s.arrive p trip i errs (frameBytes f h) = exec (.corruptFrame p (.fec (newlyLost errs i))) s) := by
  refine ⟨fun hgood => ?_, fun ⟨c, hc, hbad⟩ => ?_⟩
  · have : frameLost errs i = false := by
      simp only [frameLost, correctable, List.any_eq_false]
      intro c hc
      simpa using hgood c hc
    rw [State.arrive, this, if_neg (by simp), readFrame_frameBytes hfits hres]
  · have : frameLost errs i = true := by
      simp only [frameLost, correctable, List.any_eq_true]
      exact ⟨c, hc, by simpa using hbad⟩
    rw [State.arrive, this, if_pos rfl]
    rfl

end RoundTrip

end Sys2Proof.Machine

/-! PROOFS. Scheduled data (R305, R307): the frame that an expect entry waits for goes to its destination, once. -/

namespace Sys2Proof.Machine

section ScheduledData

variable {s : State} {p e : Nat} {h : FrameHdr} {f : SData} {x : Xfer}

/-- Entry e of the plan in force, x, is the one entry that a frame with f's flow on port p belongs to, in a ply in flight. -/
structure EntryOf (s : State) (p e : Nat) (f : SData) (x : Xfer) : Prop where
  running : s.running = true
  inPly : s.inPly = true
  entry : ∃ pl, s.plan = some pl ∧ pl.xfers[e]? = some x ∧
    ∀ e' y, pl.xfers[e']? = some y → y.expect = true → y.port = p → s.xferApplies y = true → y.flow = f.flow.toNat → e' = e
  expect : x.expect = true
  port : x.port = p
  applies : s.xferApplies x = true
  flow : x.flow = f.flow.toNat

/-- Frame seq of expect entry e has been accepted, beside those that had been in s. -/
def State.acceptFrom (t s : State) (e seq : Nat) : State :=
  { t with fab := { t.fab with accepted := SMap.set [] t.fab.accepted e (seq :: SMap.get [] s.fab.accepted e) } }

/-- What an S_DATA frame of an expect entry does: refused when it does not fit the entry, else written. -/
theorem Hears.exec_sDataFrame (hh : Hears s p h) (hjoin : (s.port p).joinDue = false) (hentry : EntryOf s p e f x) :
    exec (.sDataFrame p h f) s = .next (
      if f.plyLo.toNat ≠ s.sch.ply.toNat % 2 ^ 32 ∨ x.frames ≤ f.seq.toNat ∨
          f.seq.toNat ∈ SMap.get [] s.fab.accepted e ∨ x.tick < s.plyTick then (heard s p h).misbehaved p 5
      else ((heard s p h).writeFrame e x p f).elim (heard s p h) fun t => t.acceptFrom s e f.seq.toNat) := by
  obtain ⟨hrun, hply, ⟨pl, hplan, hx, huniq⟩, hexpect, hport, happlies, hflow⟩ := hentry
  have hplace : s.standby.place = none := hh.place_eq_none
  have hfind : ((List.range pl.xfers.length).find? fun e =>
      match pl.xfers[e]? with
      | some x => x.expect && x.port == p && s.xferApplies x && x.flow == f.flow.toNat
      | none => false) = some e := by
    rw [List.find?_range_eq_some]
    refine ⟨?_, ?_, fun e' he' => ?_⟩
    · simp [hx, hexpect, hport, happlies, hflow]
    · obtain ⟨hlt, -⟩ := List.getElem?_eq_some_iff.mp hx
      exact List.mem_range.mpr hlt
    · cases hy : pl.xfers[e']? with
      | none => rfl
      | some y =>
        by_contra hmatch
        simp only [Bool.not_eq_true', Bool.not_eq_false, Bool.and_eq_true, beq_iff_eq] at hmatch
        obtain ⟨⟨⟨hexpect', hport'⟩, happlies'⟩, hflow'⟩ := hmatch
        exact absurd (huniq e' y hy hexpect' hport' happlies' hflow') (by omega)
  have hrun' : (heard s p h).running = true := hrun
  have hply' : (heard s p h).inPly = true := hply
  have hplan' : (heard s p h).plan = some pl := hplan
  have hplace' : (heard s p h).standby.place = none := hplace
  have hport' : (heard s p h).entryPort p h.relay.toNat = p := by
    simp only [State.entryPort, hplace']
  have hshift : (heard s p h).relayShift = 0 := by
    simp only [State.relayShift, hplace']
  show execSDataFrame p h f s = _
  rw [execSDataFrame, onUnit_of_exists (decide_eq_true hh.lt), hh.rx_eq (Or.inl hjoin)]
  simp only [hrun', hply', hplan', hport', hshift, Bool.not_true, Bool.false_eq_true, if_false]
  generalize hhit : List.find? _ (List.range pl.xfers.length) = hit
  obtain rfl : hit = some e := hhit.symm.trans hfind
  simp only [Option.bind_some, hx]
  have hsch : (heard s p h).sch = s.sch := rfl
  have haccepted : (heard s p h).fab.accepted = s.fab.accepted := rfl
  have htick : (heard s p h).plyTick = s.plyTick := rfl
  simp only [hsch, haccepted, htick, Nat.add_zero]
  congr 1
  by_cases hbad : f.plyLo.toNat ≠ s.sch.ply.toNat % 2 ^ 32 ∨ x.frames ≤ f.seq.toNat ∨
      f.seq.toNat ∈ SMap.get [] s.fab.accepted e ∨ x.tick < s.plyTick
  · rw [if_pos hbad, if_pos (by simpa [or_assoc] using hbad)]
  · rw [if_neg hbad, if_neg (by simpa [or_assoc] using hbad)]
    cases (heard s p h).writeFrame e x p f with
    | none => rfl
    | some t => rfl

end ScheduledData

end Sys2Proof.Machine

/-! PROOFS. Bulk writes of scheduled traffic into lines that the cache die holds whole (R213-R215, R230, R375): the bytes
go in, and nothing else of the memories changes. -/

namespace Sys2Proof.Machine

/-! ### Replacing one key of a piecewise constant map, in a list of any order -/

section Sealed

variable {α : Type} {P : α → Prop} {B : Nat} {m : RMap α} {d : α}

/-- The map's first entry stands at B or below. -/
def RMap.StartsBy (B : Nat) (m : RMap α) : Prop := ∃ x ∈ m.head?, x.1 ≤ B

/-- No entry without P reaches beyond B: the entry after it stands at B or below, and all after it stand above it. -/
def RMap.Sealed (P : α → Prop) (B : Nat) : RMap α → Prop
  | [] => True
  | e :: m => (¬ P e.2 → (∀ x ∈ m, e.1 < x.1) ∧ RMap.StartsBy B m) ∧ RMap.Sealed P B m

theorem RMap.sealed_of_forall (h : ∀ e ∈ m, P e.2) : RMap.Sealed P B m := by
  induction m with
  | nil => trivial
  | cons e m ih => exact ⟨fun hbad => absurd (h e (by simp)) hbad, ih fun x hx => h x (by simp [hx])⟩

theorem RMap.startsBy_cons (e : Nat × α) : RMap.StartsBy B (e :: m) ↔ e.1 ≤ B := by simp [RMap.StartsBy]

theorem RMap.not_startsBy_nil : ¬ RMap.StartsBy B ([] : RMap α) := by simp [RMap.StartsBy]

theorem RMap.get_of_sealed_from {k : Nat} (hk : B ≤ k) :
    ∀ (m : RMap α) (d : α), RMap.Sealed P B m → (¬ P d → RMap.StartsBy B m) → P (RMap.get d m k)
  | [], d, _, hd => by
    by_contra hbad
    exact RMap.not_startsBy_nil (hd hbad)
  | (j, v) :: m, d, hm, hd => by
    rw [RMap.get]
    split
    · by_contra hbad
      have := (RMap.startsBy_cons _).mp (hd hbad)
      omega
    · exact RMap.get_of_sealed_from hk m v hm.2 fun hbad => (hm.1 hbad).2

/-- Beyond B every key has P. -/
theorem RMap.get_of_sealed {k : Nat} (hm : RMap.Sealed P B m) (hd : P d) (hk : B ≤ k) : P (RMap.get d m k) :=
  RMap.get_of_sealed_from hk m d hm fun hbad => absurd hd hbad

theorem RMap.get_of_forall {k : Nat} (hd : P d) (h : ∀ e ∈ m, P e.2) : P (RMap.get d m k) :=
  RMap.get_of_sealed (B := k) (RMap.sealed_of_forall h) hd le_rfl

theorem RMap.forall_splice [DecidableEq α] {ds : α} {sub : RMap α} (hd : P d) (h : ∀ e ∈ m, P e.2) (hds : P ds)
    (hsub : ∀ e ∈ sub, P e.2) (a n : Nat) : ∀ e ∈ RMap.splice d m a n ds sub, P e.2 := by
  unfold RMap.splice
  split
  · exact h
  · intro e he
    have hmem := RMap.norm_subset _ _ e he
    simp only [List.mem_append, List.mem_cons, List.mem_map, List.mem_filter] at hmem
    rcases hmem with (⟨hmem, -⟩ | rfl | ⟨x, ⟨hx, -⟩, rfl⟩) | rfl | ⟨hmem, -⟩
    · exact h e hmem
    · exact RMap.get_of_forall hds hsub
    · exact hsub x hx
    · exact RMap.get_of_forall hd h
    · exact h e hmem

theorem RMap.Sealed.norm [DecidableEq α] : ∀ (m : RMap α) (d : α), RMap.Sealed P B m → (¬ P d → RMap.StartsBy B m) →
    RMap.Sealed P B (RMap.norm d m) ∧ (¬ P d → RMap.StartsBy B (RMap.norm d m))
  | [], _, hm, hd => ⟨hm, hd⟩
  | (j, v) :: m, d, hm, hd => by
    have hrest := RMap.Sealed.norm m v hm.2 fun hbad => (hm.1 hbad).2
    rw [RMap.norm]
    split
    · next heq => exact heq ▸ hrest
    · refine ⟨⟨fun hbad => ⟨fun x hx => (hm.1 hbad).1 x (RMap.norm_subset m v x hx), hrest.2 hbad⟩, hrest.1⟩, fun hbad => ?_⟩
      exact (RMap.startsBy_cons _).mpr ((RMap.startsBy_cons _).mp (hd hbad))

theorem RMap.Sealed.filter_above (c : Nat) : ∀ m : RMap α, RMap.Sealed P B m →
    RMap.Sealed P B (m.filter fun e => decide (c < e.1))
  | [], hm => hm
  | (j, v) :: m, hm => by
    have hrest := RMap.Sealed.filter_above c m hm.2
    by_cases hj : c < j
    · rw [List.filter_cons_of_pos (by simpa using hj)]
      refine ⟨fun hbad => ?_, hrest⟩
      have hall : m.filter (fun e => decide (c < e.1)) = m :=
        List.filter_eq_self.mpr fun x hx => decide_eq_true (hj.trans ((hm.1 hbad).1 x hx))
      rw [hall]
      exact hm.1 hbad
    · rwa [List.filter_cons_of_neg (by simpa using hj)]

/-- Where the value at c lacks P, an entry above c ends it by B. -/
theorem RMap.Sealed.startsBy_filter_above {c : Nat} : ∀ (m : RMap α) (d : α), RMap.Sealed P B m →
    (¬ P d → RMap.StartsBy B m) → ¬ P (RMap.get d m c) → RMap.StartsBy B (m.filter fun e => decide (c < e.1))
  | [], _, _, hd, hbad => hd hbad
  | (j, v) :: m, d, hm, hd, hbad => by
    rw [RMap.get] at hbad
    by_cases hj : c < j
    · rw [if_pos hj] at hbad
      rw [List.filter_cons_of_pos (by simpa using hj), RMap.startsBy_cons]
      exact (RMap.startsBy_cons _).mp (hd hbad)
    · rw [if_neg hj] at hbad
      rw [List.filter_cons_of_neg (by simpa using hj)]
      exact RMap.Sealed.startsBy_filter_above m v hm.2 (fun h => (hm.1 h).2) hbad

theorem RMap.Sealed.filter_below_append {a : Nat} {t : RMap α} (ha : a ≤ B) (ht : RMap.Sealed P B t)
    (hstart : RMap.StartsBy B t) (hall : ∀ e ∈ t, a ≤ e.1) : ∀ m : RMap α, RMap.Sealed P B m →
      RMap.Sealed P B (m.filter (fun e => decide (e.1 < a)) ++ t)
  | [], _ => ht
  | (j, v) :: m, hm => by
    have hrest := RMap.Sealed.filter_below_append ha ht hstart hall m hm.2
    by_cases hj : j < a
    · rw [List.filter_cons_of_pos (by simpa using hj), List.cons_append]
      refine ⟨fun hbad => ⟨fun x hx => ?_, ?_⟩, hrest⟩
      · rcases List.mem_append.mp hx with hx | hx
        · exact (hm.1 hbad).1 x (List.mem_filter.mp hx).1
        · exact lt_of_lt_of_le hj (hall x hx)
      · cases hlow : m.filter fun e => decide (e.1 < a) with
        | nil => exact hstart
        | cons x low =>
          have hx : x ∈ m.filter fun e => decide (e.1 < a) := by simp [hlow]
          have hlt : x.1 < a := by simpa using (List.mem_filter.mp hx).2
          exact (RMap.startsBy_cons _).mpr (by omega)
    · rwa [List.filter_cons_of_neg (by simpa using hj)]

/-- Changing one key below B keeps what lies beyond B. -/
theorem RMap.Sealed.mapRange_one [DecidableEq α] {a : Nat} (ha : a < B) (hd : P d) (hm : RMap.Sealed P B m) (f : α → α) :
    RMap.Sealed P B (RMap.mapRange d m a 1 f) := by
  have hafter : RMap.Sealed P B ((a + 1, RMap.get d m (a + 1)) :: m.filter fun e => decide (a + 1 < e.1)) := by
    refine ⟨fun hbad => ⟨by simp, ?_⟩, hm.filter_above (a + 1) m⟩
    exact RMap.Sealed.startsBy_filter_above m d hm (fun h => absurd hd h) hbad
  have hat (v : α) : RMap.Sealed P B ((a, v) :: (a + 1, RMap.get d m (a + 1)) :: m.filter fun e => decide (a + 1 < e.1)) := by
    refine ⟨fun _ => ⟨fun x hx => ?_, (RMap.startsBy_cons _).mpr ha⟩, hafter⟩
    rcases List.mem_cons.mp hx with rfl | hx
    · exact Nat.lt_succ_self a
    · have := (List.mem_filter.mp hx).2
      simp only [decide_eq_true_eq] at this
      show a < x.1
      omega
  rw [RMap.mapRange, RMap.splice, if_neg Nat.one_ne_zero, RMap.slice_one]
  refine (RMap.Sealed.norm _ d ?_ fun h => absurd hd h).1
  have hnone : (((List.map (fun e => (e.1, f e.2)) [(0, RMap.get d m a)]).filter
      fun e => decide (0 < e.1) && decide (e.1 < 1)).map fun e => (e.1 + a, e.2)) = [] := by simp
  rw [hnone, List.append_assoc]
  refine RMap.Sealed.filter_below_append (Nat.le_of_lt ha) (hat _) ((RMap.startsBy_cons _).mpr (Nat.le_of_lt ha)) ?_ m hm
  intro e he
  simp only [List.mem_cons, List.mem_filter, decide_eq_true_eq] at he
  rcases he with rfl | rfl | ⟨-, he⟩
  · exact le_rfl
  · exact Nat.le_succ a
  · omega

end Sealed

end Sys2Proof.Machine

/-! PROOFS. Bulk writes of scheduled traffic into lines that the cache die holds whole (R213-R215, R230, R375): the bytes
go in, and nothing else of the memories changes. -/

namespace Sys2Proof.Machine

/-! ### Scheduled traffic has every grant (R375, R378) -/

section Grants

variable {s : State} {c m : Nat}

theorem State.bankGrant_of_sched (hwho : s.qos.who = some (c, m)) (hm : 100 ≤ m) (write : Bool) (L n : Nat)
    (out : CReq → Bool) : s.bankGrant write L n out = some s := by
  simp only [State.bankGrant, hwho, if_pos hm]

theorem State.granted_of_sched (hwho : s.qos.who = some (c, m)) (hm : 100 ≤ m) (write : Bool) (L n : Nat) :
    s.granted write L n = s := by
  rw [State.granted, State.bankGrant_of_sched hwho hm]; rfl

theorem State.routeGrant_of_sched (hwho : s.qos.who = some (c, m)) (hm : 100 ≤ m) (L : Nat) : s.routeGrant L = s := by
  simp only [State.routeGrant, hwho, if_pos (show 96 ≤ m by omega)]

@[simp] theorem State.qosTry_who (s : State) (r n : Nat) : (s.qosTry r n).qos.who = s.qos.who := by
  unfold State.qosTry
  split
  · rfl
  · split <;> rfl

theorem State.qosAdd_who (s : State) (r n : Nat) : (s.qosAdd r n).qos.who = s.qos.who := by
  unfold State.qosAdd
  split <;> rfl

theorem State.bankGrants_of_sched (hwho : s.qos.who = some (c, m)) (hm : 100 ≤ m) (write : Bool) (A n : Nat) :
    s.bankGrants write A n = true := by
  have hfold : ∃ t, ((pieces A n).foldl (fun (t : Option State) p => t.bind fun t =>
      (t.bankGrant write p.1 p.2.2.1 s.reqHeld).map fun t => t.qosTry (if write then 1 else 0) p.2.2.1) (some s)) =
        some t ∧ t.qos.who = some (c, m) := by
    refine List.foldlRecOn (motive := fun o : Option State => ∃ t, o = some t ∧ t.qos.who = some (c, m)) _ _
      ⟨s, rfl, hwho⟩ ?_
    rintro _ ⟨t, rfl, ht⟩ p -
    rw [Option.bind_some, State.bankGrant_of_sched ht hm]
    exact ⟨_, rfl, (State.qosTry_who t _ _).trans ht⟩
  obtain ⟨t, ht, -⟩ := hfold
  rw [State.bankGrants, ht]; rfl

/-- Whether a write of scheduled traffic waits does not depend on the ports. -/
theorem waits_heard (s : State) (p : Nat) (h : FrameHdr) (A n : Nat) :
    (heard s p h).serveSched.waits true A n = s.serveSched.waits true A n := by
  have hgrants (t : State) : t.serveSched.bankGrants true A n = true := State.bankGrants_of_sched rfl le_rfl true A n
  rw [State.waits, State.waits, hgrants, hgrants]
  rfl

end Grants

/-! ### A line that the cache die holds whole -/

section WholeLine

variable {s t u : State} {L M o n : Nat}

/-- The cache die holds every sector of line L. -/
def State.Whole (s : State) (L : Nat) : Prop := ∃ l, s.line L = some l ∧ l.valid = 0xF

/-- What no write of scheduled traffic changes, beside the bytes of the cache die: HBM, the fabric, the blocks, the ply in
flight, who is served, and what lines are whole. -/
structure State.WritesOnly (s t : State) : Prop where
  hbm : t.hbm = s.hbm
  hbmWords : t.hbmWords = s.hbmWords
  fab : t.fab = s.fab
  blocks : t.blocks = s.blocks
  inPly : t.inPly = s.inPly
  start : t.sch.start = s.sch.start
  who : t.qos.who = s.qos.who
  whole : ∀ L, s.Whole L → t.Whole L

theorem State.WritesOnly.refl (s : State) : s.WritesOnly s := ⟨rfl, rfl, rfl, rfl, rfl, rfl, rfl, fun _ => id⟩

theorem State.WritesOnly.trans (h : s.WritesOnly t) (g : t.WritesOnly u) : s.WritesOnly u :=
  ⟨g.hbm.trans h.hbm, g.hbmWords.trans h.hbmWords, g.fab.trans h.fab, g.blocks.trans h.blocks, g.inPly.trans h.inPly,
    g.start.trans h.start, g.who.trans h.who, fun L => g.whole L ∘ h.whole L⟩

theorem State.Whole.allocLine (h : s.Whole L) : s.allocLine L = s := by
  obtain ⟨l, hl, -⟩ := h
  simp only [State.allocLine, hl]

theorem State.Whole.fetchMissing (h : s.Whole L) (mask : BitVec 4) (first : Nat) : s.fetchMissing L mask first = s := by
  obtain ⟨l, hl, hvalid⟩ := h
  have hneed : mask &&& ~~~ l.valid = 0 := by rw [hvalid]; simp
  simp only [State.fetchMissing, hl, hneed, if_true]

theorem State.Whole.holds (h : s.Whole L) {q : Nat} (hq : q < 4) : s.holds L q = true := by
  obtain ⟨l, hl, hvalid⟩ := h
  simp only [State.holds, hl, hvalid]
  interval_cases q <;> rfl

/-- Words without a check error go through Table 8.8 unchanged. -/
theorem State.secded_of_good {w : Nat} (h : (RMap.get {} s.ccd.words w).chk = .good) (q : Nat) : s.secded L q w 1 = s := by
  have hsegs (c : Chk) (hc : c ≠ .good) : RMap.segs {} s.ccd.words w 1 (fun x => x.chk == c) = [] := by
    rw [RMap.segs_one, h, if_neg (by cases c <;> simp_all)]
  have hsingles : s.singles w 1 = 0 := by rw [State.singles, hsegs .single (by decide)]; rfl
  have hcount : s.countCe L w 1 = s := by simp only [State.countCe, hsingles, if_true]
  simp only [State.secded, hcount, hsingles, if_true, hsegs .bad (by decide), List.isEmpty_nil]

theorem State.Whole.checkLine_one (hL : s.Whole L)
    (h : (RMap.get {} s.ccd.words (L * 128 + o / 8)).chk = .good) : s.checkLine L o 1 = s := by
  unfold State.checkLine
  refine List.foldlRecOn (motive := (· = s)) _ _ rfl ?_
  rintro _ rfl q hq
  have hq4 : q < 4 := List.mem_range.mp hq
  by_cases hin : 256 * q ≤ o ∧ o < 256 * (q + 1)
  · have hwords : sectorWords L o 1 q = (L * 128 + o / 8, 1) := by
      have hmax : max o (256 * q) = o := by omega
      have hmin : min (o + 1) (256 * (q + 1)) = o + 1 := by omega
      simp only [sectorWords, hmax, hmin, Prod.mk.injEq, true_and]
      rw [if_pos (Nat.lt_succ_self o)]
      omega
    simp only [hwords, State.secded_of_good h, hL.holds hq4, if_true, ite_self]
  · have hwords : (sectorWords L o 1 q).2 = 0 := by
      simp only [sectorWords]
      split
      · omega
      · rfl
    simp only [hwords, if_true]

theorem State.lookup_updLine (s : State) (L M : Nat) (f : Line → Line) :
    (s.updLine L f).line M = (s.line M).map fun l => if M = L then f l else l := by
  show List.lookup M (s.ccd.lines.map _) = (List.lookup M s.ccd.lines).map _
  induction s.ccd.lines with
  | nil => rfl
  | cons e ls ih =>
    obtain ⟨k, l⟩ := e
    have hkey : (if k = L then (k, f l) else (k, l)) = (k, if k = L then f l else l) := by split <;> rfl
    show List.lookup M ((if k = L then (k, f l) else (k, l)) :: _) = _
    rw [hkey]
    by_cases hk : M = k
    · subst hk
      rw [List.lookup_cons_self, List.lookup_cons_self, Option.map_some]
    · have hne : (M == k) = false := beq_eq_false_iff_ne.mpr hk
      simp only [List.lookup_cons, hne]
      exact ih

theorem State.Whole.updLine (h : s.Whole M) {f : Line → Line} (hf : ∀ l : Line, l.valid = 0xF → (f l).valid = 0xF) :
    (s.updLine L f).Whole M := by
  obtain ⟨l, hl, hvalid⟩ := h
  refine ⟨if M = L then f l else l, ?_, ?_⟩
  · rw [State.lookup_updLine, hl]; rfl
  · split
    · exact hf l hvalid
    · exact hvalid

theorem State.Whole.touchLine (h : s.Whole M) : (s.touchLine L).Whole M :=
  State.Whole.updLine (L := L) (f := fun l => { l with use := s.ccd.stamp }) h fun _ => id

theorem State.WritesOnly.journalAdd (s : State) (e : JEntry) : s.WritesOnly (s.journalAdd e) := by
  unfold State.journalAdd
  split
  · dsimp only
    rw [← s.qosAdd_eq_qos 1 1024]
    split <;> exact ⟨rfl, rfl, rfl, rfl, rfl, rfl, State.qosAdd_who s _ _, fun _ => id⟩
  · exact ⟨rfl, rfl, rfl, rfl, rfl, rfl, rfl, fun _ => id⟩

theorem State.journalAdd_ccd (s : State) (e : JEntry) : (s.journalAdd e).ccd = s.ccd := by
  rw [State.journalAdd_eq]

theorem State.Whole.journalLine (h : s.Whole L) : s.WritesOnly (s.journalLine L) ∧ (s.journalLine L).ccd = s.ccd := by
  unfold State.journalLine
  split
  · exact ⟨.refl s, rfl⟩
  · rw [h.fetchMissing]
    exact ⟨.journalAdd s _, State.journalAdd_ccd s _⟩

theorem State.clearDead_keeps (s : State) (L : Nat) :
    s.WritesOnly (s.clearDead L).1 ∧ (s.clearDead L).1.ccd.mem = s.ccd.mem ∧ (s.clearDead L).1.ccd.words = s.ccd.words := by
  unfold State.clearDead
  dsimp only
  split
  · exact ⟨⟨rfl, rfl, rfl, rfl, rfl, rfl, rfl, fun _ => id⟩, rfl, rfl⟩
  · exact ⟨.refl s, rfl, rfl⟩

/-- A persisting fault in line L changes no word beyond the line. -/
theorem State.stuckAgain_keeps (s : State) (L w n : Nat) (hw : w + n ≤ 128) :
    s.WritesOnly (s.stuckAgain L w n) ∧ (s.stuckAgain L w n).ccd.mem = s.ccd.mem ∧
    ((∀ e ∈ s.ccd.words, e.2.chk = .good) → ∀ k, (L + 1) * 128 ≤ k →
      (RMap.get {} (s.stuckAgain L w n).ccd.words k).chk = .good) := by
  have hgood (m : RMap CWord) (hm : RMap.Sealed (fun c : CWord => c.chk = .good) ((L + 1) * 128) m) (k : Nat)
      (hk : (L + 1) * 128 ≤ k) : (RMap.get {} m k).chk = .good := RMap.get_of_sealed hm rfl hk
  unfold State.stuckAgain
  split
  · refine ⟨⟨rfl, rfl, rfl, rfl, rfl, rfl, rfl, fun _ => id⟩, rfl, fun hall => hgood _ ?_⟩
    dsimp only
    refine List.foldlRecOn (motive := RMap.Sealed (fun c : CWord => c.chk = .good) ((L + 1) * 128)) _ _
      (RMap.sealed_of_forall hall) fun m hm e _ => ?_
    split
    · next hin =>
      simp only [Bool.and_eq_true, decide_eq_true_eq] at hin
      refine RMap.Sealed.mapRange_one (P := fun c : CWord => c.chk = .good) ?_ rfl hm _
      omega
    · exact hm
  · exact ⟨.refl s, rfl, fun hall => hgood _ (RMap.sealed_of_forall hall)⟩

/-- The words of line L after a write of the words w0 to w1 - 1: data's poison, and that of a word covered in part. -/
def putWords (old : RMap CWord) (L o n : Nat) (psn : RMap Bool) : RMap CWord :=
  let w0 := o / 8
  let w1 := (o + n + 7) / 8
  let keep (i : Nat) : Bool :=
    (i == w0 && o % 8 != 0 || i + 1 == w1 && (o + n) % 8 != 0) && (RMap.get {} old (L * 128 + i)).poison
  let words := RMap.splice {} old (L * 128 + w0) (w1 - w0) { poison := false }
    (((RMap.slice false psn w0 (w1 - w0)).map fun e => (e.1, ({ poison := e.2 } : CWord))))
  let words := if keep w0 then RMap.fill {} words (L * 128 + w0) 1 { poison := true } else words
  if keep (w1 - 1) then RMap.fill {} words (L * 128 + w1 - 1) 1 { poison := true } else words

theorem putWords_good {old : RMap CWord} (h : ∀ e ∈ old, e.2.chk = .good) (psn : RMap Bool) :
    ∀ e ∈ putWords old L o n psn, e.2.chk = .good := by
  have hfill (m : RMap CWord) (hm : ∀ e ∈ m, e.2.chk = .good) (a : Nat) (c : Bool) :
      ∀ e ∈ (if c then RMap.fill {} m a 1 { poison := true } else m), e.2.chk = .good := by
    split
    · exact RMap.forall_splice (P := fun c : CWord => c.chk = .good) rfl hm rfl (by simp) _ _
    · exact hm
  refine hfill _ (hfill _ (RMap.forall_splice (P := fun c : CWord => c.chk = .good) rfl h rfl ?_ _ _) _ _) _ _
  intro e he
  obtain ⟨x, -, rfl⟩ := List.mem_map.mp he
  rfl

/-- The state after the bytes and the words of a write have gone in. -/
def State.putBytes (s : State) (L o n : Nat) (data : Mem) (psn : RMap Bool) : State :=
  { s with ccd := { s.ccd with
      mem := Mem.splice s.ccd.mem (L * 1024 + o) n data, words := putWords s.ccd.words L o n psn } }

/-- The state after line L is marked valid and dirty where a write went, and most recently used. -/
def State.markPut (s : State) (L o n : Nat) : State :=
  (s.updLine L fun l =>
    { l with valid := l.valid ||| sectorMask o n, dirty := l.dirty ||| sectorMask o n }).touchLine L

/-- A write to a whole line whose words at the edges have no check error. -/
theorem State.Whole.linePut (hL : s.Whole L) (hn : n ≠ 0) (data : Mem) (psn : RMap Bool)
    (hlo : o % 8 ≠ 0 → (RMap.get {} s.ccd.words (L * 128 + o / 8)).chk = .good)
    (hhi : (o + n) % 8 ≠ 0 → (RMap.get {} s.ccd.words (L * 128 + (o + n - 1) / 8)).chk = .good) :
    s.linePut L o n data psn = (((((s.clearDead L).1.journalLine L).putBytes L o n data psn).markPut L o n).stuckAgain L
      (o / 8) ((o + n + 7) / 8 - o / 8)) := by
  obtain ⟨hclear, -, hwords⟩ := s.clearDead_keeps L
  obtain ⟨hjournal, hccd⟩ := State.Whole.journalLine (hclear.whole L hL)
  have hwords' : ((s.clearDead L).1.journalLine L).ccd.words = s.ccd.words := by rw [hccd, hwords]
  rw [← hwords'] at hlo hhi
  have hwhole := hjournal.whole L (hclear.whole L hL)
  rw [State.linePut, if_neg hn]
  dsimp only
  rw [(hclear.whole L hL).allocLine]
  generalize (s.clearDead L).1.journalLine L = t at hlo hhi hwhole ⊢
  obtain ⟨l, hl, hvalid⟩ := id hwhole
  have hlack : sectorMask o n &&& ~~~ wholeMask o n &&& ~~~ l.valid = 0 := by rw [hvalid]; simp
  simp only [hl, hlack, if_true]
  have hfirst : (if o % 8 = 0 then t else t.checkLine L o 1) = t := by
    split
    · rfl
    · next hne => exact hwhole.checkLine_one (hlo hne)
  have hlast : (if (o + n) % 8 = 0 then t else t.checkLine L (o + n - 1) 1) = t := by
    split
    · rfl
    · next hne => exact hwhole.checkLine_one (hhi hne)
  rw [hfirst, hlast]
  rfl

end WholeLine

end Sys2Proof.Machine

/-! PROOFS. A scheduled frame's bytes go into the cache die, line by line (R213-R215, R305). -/

namespace Sys2Proof.Machine

section FrameBytes

variable {s t : State} {L A o n : Nat}

/-- From s to t a write changes the bytes n from address a into data's, and what a write of scheduled traffic keeps
stays. -/
structure State.Writes (s t : State) (a n : Nat) (data : Mem) : Prop extends s.WritesOnly t where
  mem : ∀ x, Mem.get t.ccd.mem x = if a ≤ x ∧ x < a + n then Mem.get data (x - a) else Mem.get s.ccd.mem x

theorem State.qosAdd_keeps (s : State) (r n : Nat) : s.WritesOnly (s.qosAdd r n) ∧ (s.qosAdd r n).ccd = s.ccd := by
  have hwho := s.qosAdd_who r n
  rw [← s.qosAdd_eq_qos r n] at hwho ⊢
  exact ⟨⟨rfl, rfl, rfl, rfl, rfl, rfl, hwho, fun _ => id⟩, rfl⟩

theorem State.putBytes_writes (s : State) (L o n : Nat) (data : Mem) (psn : RMap Bool) :
    s.Writes (s.putBytes L o n data psn) (L * 1024 + o) n data :=
  { State.WritesOnly.refl s with
    whole := fun _ => id
    mem := Mem.get_splice _ _ _ _ }

theorem State.markPut_keeps (s : State) (L o n : Nat) : s.WritesOnly (s.markPut L o n) ∧
    (s.markPut L o n).ccd.mem = s.ccd.mem ∧ (s.markPut L o n).ccd.words = s.ccd.words := by
  refine ⟨⟨rfl, rfl, rfl, rfl, rfl, rfl, rfl, fun M hM => ?_⟩, rfl, rfl⟩
  refine State.Whole.touchLine (State.Whole.updLine hM fun l hl => ?_)
  rw [hl]
  exact BitVec.allOnes_or

/-- A write to a whole line whose words at the edges have no check error puts its bytes there, and leaves the words beyond
the line without check errors. -/
theorem State.Whole.lineWrite (hL : s.Whole L) {c m : Nat} (hwho : s.qos.who = some (c, m)) (hm : 100 ≤ m) (hn : n ≠ 0)
    (hin : o + n ≤ 1024) (data : Mem) (psn : RMap Bool)
    (hlo : o % 8 ≠ 0 → (RMap.get {} s.ccd.words (L * 128 + o / 8)).chk = .good)
    (hhi : (o + n) % 8 ≠ 0 → (RMap.get {} s.ccd.words (L * 128 + (o + n - 1) / 8)).chk = .good) :
    s.Writes (s.lineWrite L o n data psn) (L * 1024 + o) n data ∧
    ((∀ e ∈ s.ccd.words, e.2.chk = .good) → ∀ k, (L + 1) * 128 ≤ k →
      (RMap.get {} (s.lineWrite L o n data psn).ccd.words k).chk = .good) := by
  obtain ⟨hcount, hcountCcd⟩ := s.qosAdd_keeps 1 n
  rw [State.lineWrite, if_neg hn, State.granted_of_sched hwho hm, State.routeGrant_of_sched hwho hm]
  rw [← hcountCcd] at hlo hhi
  rw [(hcount.whole L hL).linePut hn data psn hlo hhi]
  obtain ⟨hclear, hclearMem, hclearWords⟩ := (s.qosAdd 1 n).clearDead_keeps L
  obtain ⟨hjournal, hjournalCcd⟩ := State.Whole.journalLine (hclear.whole L (hcount.whole L hL))
  have hmem : ((((s.qosAdd 1 n).clearDead L).1).journalLine L).ccd.mem = s.ccd.mem := by
    rw [hjournalCcd, hclearMem, hcountCcd]
  have hwords : ((((s.qosAdd 1 n).clearDead L).1).journalLine L).ccd.words = s.ccd.words := by
    rw [hjournalCcd, hclearWords, hcountCcd]
  have hbefore := (hcount.trans hclear).trans hjournal
  generalize (((s.qosAdd 1 n).clearDead L).1).journalLine L = t at hmem hwords hbefore ⊢
  have hput := t.putBytes_writes L o n data psn
  obtain ⟨hmark, hmarkMem, hmarkWords⟩ := (t.putBytes L o n data psn).markPut_keeps L o n
  obtain ⟨hstuck, hstuckMem, hstuckWords⟩ := State.stuckAgain_keeps ((t.putBytes L o n data psn).markPut L o n) L (o / 8)
    ((o + n + 7) / 8 - o / 8) (by omega)
  refine ⟨⟨((hbefore.trans hput.toWritesOnly).trans hmark).trans hstuck, fun x => ?_⟩, fun hall => hstuckWords ?_⟩
  · rw [hstuckMem, hmarkMem, hput.mem, hmem]
  · rw [hmarkWords]
    exact putWords_good (hwords ▸ hall) psn

theorem State.Writes.of_slice {data : Mem} {a n : Nat} (h : s.Writes t a n (Mem.slice data 0 n)) : s.Writes t a n data := by
  refine ⟨h.toWritesOnly, fun x => ?_⟩
  rw [h.mem]
  split
  · rw [Mem.get_slice _ _ (by omega), Nat.zero_add]
  · rfl

/-- Two writes next to each other, of the two parts of the data. -/
theorem State.Writes.append {u : State} {data : Mem} {a n m : Nat} (h : s.Writes t a n (Mem.slice data 0 n))
    (g : t.Writes u (a + n) m (Mem.slice data n m)) : s.Writes u a (n + m) data := by
  refine ⟨h.toWritesOnly.trans g.toWritesOnly, fun x => ?_⟩
  rw [g.mem, h.mem]
  by_cases h1 : a + n ≤ x ∧ x < a + n + m
  · rw [if_pos h1, if_pos (by omega), Mem.get_slice _ _ (by omega)]
    congr 1
    omega
  · rw [if_neg h1]
    by_cases h2 : a ≤ x ∧ x < a + n
    · rw [if_pos h2, if_pos (by omega), Mem.get_slice _ _ (by omega), Nat.zero_add]
    · rw [if_neg h2, if_neg (by omega)]

theorem pieces_of_oneLine (h : A % 1024 + n ≤ 1024) (hn : n ≠ 0) : pieces A n = [(A / 1024, A % 1024, n, 0)] := by
  have hcount : (A + n - 1) / 1024 - A / 1024 + 1 = 1 := by omega
  have hlo : max A (A / 1024 * 1024) = A := by omega
  have hhi : min (A + n) ((A / 1024 + 1) * 1024) = A + n := by omega
  have hoff : A - A / 1024 * 1024 = A % 1024 := by omega
  have hlen : A + n - A = n := by omega
  rw [pieces, if_neg hn, hcount]
  simp only [List.range_one, List.map_cons, List.map_nil, Nat.add_zero, hlo, hhi, hoff, hlen, Nat.sub_self]

theorem pieces_of_twoLines (h : 1024 < A % 1024 + n) (hn : n ≤ 1024) : pieces A n =
    [(A / 1024, A % 1024, 1024 - A % 1024, 0), (A / 1024 + 1, 0, A % 1024 + n - 1024, 1024 - A % 1024)] := by
  have hcount : (A + n - 1) / 1024 - A / 1024 + 1 = 2 := by omega
  have hlow : A / 1024 * 1024 ≤ A := by omega
  have hhigh : A < A / 1024 * 1024 + 1024 := by omega
  have hmod : A % 1024 = A - A / 1024 * 1024 := by omega
  rw [pieces, if_neg (by omega), hcount]
  simp only [List.range_succ, List.range_zero, List.nil_append, List.cons_append, List.map_cons, List.map_nil, Nat.add_zero,
    Nat.add_mul, Nat.one_mul, Nat.zero_mul]
  rw [hmod] at h ⊢
  generalize A / 1024 * 1024 = X at h hlow hhigh ⊢
  have hlo0 : max A X = A := Nat.max_eq_left hlow
  have hhi0 : min (A + n) (X + 1024) = X + 1024 := Nat.min_eq_right (by omega)
  have hlo1 : max A (X + 1024) = X + 1024 := Nat.max_eq_right (by omega)
  have hhi1 : min (A + n) (X + 1024 + 1024) = A + n := Nat.min_eq_left (by omega)
  have hlen0 : X + 1024 - A = 1024 - (A - X) := by omega
  have hlen1 : A + n - (X + 1024) = A - X + n - 1024 := by omega
  simp only [hlo0, hhi0, hlo1, hhi1, hlen0, hlen1, Nat.sub_self]

theorem next_line (A : Nat) : (A / 1024 + 1) * 1024 + 0 = A + (1024 - A % 1024) := by
  rw [Nat.add_zero, Nat.succ_mul]
  omega

/-- A write of scheduled traffic to lines held whole, no word of which carries a check error. -/
theorem HeldRange.devWrite (h : HeldRange s A n) {c m : Nat} (hwho : s.qos.who = some (c, m)) (hm : 100 ≤ m)
    (hn : n ≠ 0) (hle : n ≤ 1024) (data : Mem) (psn : RMap Bool) :
    s.Writes (s.devWrite A n data psn) A n data := by
  obtain ⟨hgood, hlines⟩ := h
  have hword (k : Nat) : (RMap.get {} s.ccd.words k).chk = .good :=
    RMap.get_of_forall (P := fun c : CWord => c.chk = .good) rfl hgood
  have haddr : A / 1024 * 1024 + A % 1024 = A := by omega
  have hlen (h : 1024 < A % 1024 + n) : 1024 - A % 1024 + (A % 1024 + n - 1024) = n := by omega
  have hL : s.Whole (A / 1024) := hlines _ le_rfl (by omega)
  rw [State.devWrite]
  by_cases hone : A % 1024 + n ≤ 1024
  · have hwrite (psn : RMap Bool) :=
      (hL.lineWrite hwho hm hn hone (Mem.slice data 0 n) psn (fun _ => hword _) fun _ => hword _).1
    rw [haddr] at hwrite
    rw [pieces_of_oneLine hone hn, List.foldl_cons, List.foldl_nil]
    exact (hwrite _).of_slice
  · rw [pieces_of_twoLines (by omega) hle, List.foldl_cons, List.foldl_cons, List.foldl_nil]
    dsimp only
    have hfirst := fun psn => hL.lineWrite (o := A % 1024) (n := 1024 - A % 1024) hwho hm (by omega) (by omega)
      (Mem.slice data 0 (1024 - A % 1024)) psn (fun _ => hword _) fun _ => hword _
    generalize hpsn : RMap.splice false [] _ _ _ _ = psn0
    obtain ⟨hput, hbeyond⟩ := hfirst psn0
    have hL1 : s.Whole (A / 1024 + 1) := hlines _ (Nat.le_succ _) (by omega)
    generalize s.lineWrite _ _ _ _ psn0 = t at hput hbeyond ⊢
    have hsecond := fun psn => ((hput.whole _ hL1).lineWrite (o := 0) (n := A % 1024 + n - 1024) (hput.who.trans hwho) hm
      (by omega) (by omega) (Mem.slice data (1024 - A % 1024) (A % 1024 + n - 1024)) psn (fun h => absurd rfl h)
      fun _ => hbeyond hgood _ (by omega)).1
    rw [haddr] at hput
    rw [next_line] at hsecond
    have hboth := fun psn => hput.append (hsecond psn)
    rw [hlen (by omega)] at hboth
    exact hboth _

end FrameBytes

end Sys2Proof.Machine

/-! PROOFS. Where the bytes of a frame of scheduled data go: to the memory, a scratchpad or an input queue (R74, R305,
R319). -/

namespace Sys2Proof.Machine

/-! ### Destinations of a frame -/

section Destinations

variable {s t : State} {A e seq start b o n : Nat} {data : Mem}

/-- Frame seq of expect entry e counts as received. -/
def State.countIn (s : State) (e seq : Nat) : State :=
  { s with fab := { s.fab with received := SMap.set [] s.fab.received e (seq :: SMap.get [] s.fab.received e) } }

theorem State.frameIn_of_inPly (hply : s.inPly = true) (hstart : s.sch.start = start) (e seq : Nat) :
    s.frameIn e seq start = s.countIn e seq := by
  rw [State.frameIn, hply, hstart, beq_self_eq_true, Bool.and_self, if_pos rfl]
  rfl

/-- A frame whose lines are free: its bytes go in, and it counts as received. -/
theorem State.putFrame_of_free (hply : s.inPly = true) (hfree : s.serveSched.waits true A 512 = false)
    (hheld : HeldRange s A 512) (data : Mem) (pmask : BitVec 16) (e seq : Nat) :
    ∃ t, s.serveSched.Writes t A 512 data ∧ s.putFrame A data pmask e seq s.sch.start = t.countIn e seq := by
  have hheld' : HeldRange s.serveSched A 512 := hheld
  have hwrite := hheld'.devWrite (c := 0) (m := 100) rfl le_rfl (by decide) (by decide) data (maskUnits 4 pmask)
  refine ⟨_, hwrite, ?_⟩
  rw [State.putFrame, if_neg (by simp [hfree])]
  exact State.frameIn_of_inPly (hwrite.inPly.trans hply) hwrite.start e seq

theorem State.putFrame_of_waits (hwaits : s.serveSched.waits true A 512 = true) (data : Mem) (pmask : BitVec 16)
    (e seq start : Nat) : s.putFrame A data pmask e seq start = s.defer (.frame A data pmask e seq start) := by
  rw [State.putFrame, if_pos hwaits]

theorem State.journalGranules_keeps (s : State) (b o n : Nat) :
    (s.journalGranules b o n).blocks = s.blocks ∧ (s.journalGranules b o n).ccd = s.ccd ∧
    s.WritesOnly (s.journalGranules b o n) := by
  unfold State.journalGranules
  split
  · exact ⟨rfl, rfl, .refl s⟩
  · refine List.foldlRecOn (motive := fun t : State => t.blocks = s.blocks ∧ t.ccd = s.ccd ∧ s.WritesOnly t) _ _
      ⟨rfl, rfl, .refl s⟩ ?_
    rintro t ⟨hblocks, hccd, honly⟩ i -
    unfold State.journalGranule
    split
    · exact ⟨hblocks, hccd, honly⟩
    · exact ⟨(State.WritesOnly.journalAdd t _).blocks.trans hblocks, (State.journalAdd_ccd t _).trans hccd,
        honly.trans (.journalAdd t _)⟩

/-- Whole words written to a scratchpad: the bytes go in, and no other block and no memory changes. -/
theorem State.baWrite_keeps (hn : n ≠ 0) (b o : Nat) (data : Mem) (psn : RMap Bool) :
    ArrayAt s (s.baWrite b o n data psn) b o n (Mem.get data) ∧ MemorySame s (s.baWrite b o n data psn) ∧
    (∀ c, c ≠ b → (s.baWrite b o n data psn).blk c = s.blk c) ∧ (s.baWrite b o n data psn).fab = s.fab ∧
    (s.baWrite b o n data psn).inPly = s.inPly ∧ (s.baWrite b o n data psn).sch.start = s.sch.start := by
  obtain ⟨hblocks, hccd, honly⟩ := s.journalGranules_keeps b o n
  have hblk (c : Nat) : (s.journalGranules b o n).blk c = s.blk c := by rw [State.blk, hblocks]; rfl
  rw [State.baWrite, if_neg hn]
  generalize s.journalGranules b o n = u at hccd honly hblk ⊢
  refine ⟨fun a => ?_, ⟨congrArg (·.mem) hccd, honly.hbm, honly.hbmWords⟩, fun c hc => ?_, honly.fab, honly.inPly,
    honly.start⟩
  · rw [State.blk_updBlk_self, hblk]
    exact Mem.get_splice _ _ _ _ _
  · rw [State.blk_updBlk, if_neg hc, hblk]

/-- A frame stands in its queue after the frames of its entry that come before it, and at the end when its entry has no
other there. -/
theorem queueIn_inserts (f : CeFrame) (q : List CeFrame) : ∃ l r, q = l ++ r ∧ queueIn f q = l ++ f :: r ∧
    ((∀ y ∈ q, y.entry = f.entry → y.seq < f.seq) → ∀ y ∈ r, y.entry ≠ f.entry) ∧
    ((∀ y ∈ q, y.entry ≠ f.entry) → r = []) := by
  induction q with
  | nil => exact ⟨[], [], rfl, rfl, by simp, by simp⟩
  | cons g rest ih =>
    obtain ⟨l, r, hrest, hqueue, horder, hlast⟩ := ih
    have hskip : queueIn f (g :: rest) = g :: queueIn f rest → ∃ l r, g :: rest = l ++ r ∧
        queueIn f (g :: rest) = l ++ f :: r ∧
        ((∀ y ∈ g :: rest, y.entry = f.entry → y.seq < f.seq) → ∀ y ∈ r, y.entry ≠ f.entry) ∧
        ((∀ y ∈ g :: rest, y.entry ≠ f.entry) → r = []) := fun h =>
      ⟨g :: l, r, by rw [hrest, List.cons_append], by rw [h, hqueue, List.cons_append],
        fun hall => horder fun y hy => hall y (List.mem_cons_of_mem g hy),
        fun hall => hlast fun y hy => hall y (List.mem_cons_of_mem g hy)⟩
    by_cases hentry : g.entry = f.entry
    · by_cases hseq : f.seq < g.seq
      · refine ⟨[], g :: rest, rfl, by simp [queueIn, hentry, hseq], fun hall => ?_, fun hall => ?_⟩
        · have := hall g (by simp) hentry
          omega
        · exact absurd hentry (hall g (by simp))
      · by_cases hothers : ∀ y ∈ rest, y.entry ≠ f.entry
        · have hall : (rest.all fun x => x.entry != f.entry) = true := by simpa using hothers
          refine ⟨[g], rest, rfl, by simp [queueIn, hentry, hseq, hall], fun _ => hothers, fun h => ?_⟩
          exact absurd hentry (h g (by simp))
        · have hall : (rest.all fun x => x.entry != f.entry) = false := by simpa using hothers
          exact hskip (by simp [queueIn, hentry, hseq, hall])
    · exact hskip (by simp [queueIn, hentry])

end Destinations

end Sys2Proof.Machine

/-! PROOFS. Scheduled data at its destination, and what received frames do (R44, R50, R81, R296-R305, R314). -/

namespace Sys2Proof.Machine

section ScheduledFrame

variable {s : State} {p e : Nat} {h : FrameHdr} {f : SData} {x : Xfer}

/-- Frame f fits entry e of the plan, x: of the ply in flight, within its frames, new, and not too late. -/
structure FitsEntry (s : State) (e : Nat) (f : SData) (x : Xfer) : Prop where
  ply : f.plyLo.toNat = s.sch.ply.toNat % 2 ^ 32
  seq : f.seq.toNat < x.frames
  new : f.seq.toNat ∉ SMap.get [] s.fab.accepted e
  inTime : s.plyTick ≤ x.tick

theorem State.received_countIn (t : State) (e seq : Nat) : SMap.get [] (t.countIn e seq).fab.received e =
    seq :: SMap.get [] t.fab.received e := by
  simp [State.countIn]

theorem State.accepted_acceptFrom (t s : State) (e seq : Nat) : SMap.get [] (t.acceptFrom s e seq).fab.accepted e =
    seq :: SMap.get [] s.fab.accepted e := by
  simp [State.acceptFrom]

/-- A frame that does not fit its entry counts as misbehaviour. -/
theorem Hears.runs_sDataFrame_misfit (hh : Hears s p h) (hjoin : (s.port p).joinDue = false) (hentry : EntryOf s p e f x)
    (hbad : f.plyLo.toNat ≠ s.sch.ply.toNat % 2 ^ 32 ∨ x.frames ≤ f.seq.toNat ∨
      f.seq.toNat ∈ SMap.get [] s.fab.accepted e ∨ x.tick < s.plyTick) :
    Runs (.sDataFrame p h f) s fun t => (t.port p).viol = satAdd (s.port p).viol 1 ∧ t.fab.received = s.fab.received ∧
      MemorySame s t ∧ t.fab.accepted = s.fab.accepted ∧ t.blocks = s.blocks ∧ t.ce = s.ce := by
  refine ⟨_, by rw [hh.exec_sDataFrame hjoin hentry, if_pos hbad], ?_⟩
  obtain ⟨hviol, -, hmem⟩ := heard_misbehaved s p h 5
  refine ⟨hviol, ?_, hmem, ?_, ?_, ?_⟩ <;> simp [State.misbehaved, heard, State.updPort]

/-- A frame that fits its entry and is written is accepted. -/
theorem Hears.exec_sDataFrame_fits (hh : Hears s p h) (hjoin : (s.port p).joinDue = false) (hentry : EntryOf s p e f x)
    (hfits : FitsEntry s e f x) {t : State} (hwrite : (heard s p h).writeFrame e x p f = some t) :
    exec (.sDataFrame p h f) s = .next (t.acceptFrom s e f.seq.toNat) := by
  obtain ⟨hply, hseq, hnew, htime⟩ := hfits
  rw [hh.exec_sDataFrame hjoin hentry, if_neg, hwrite]
  · rfl
  · rintro (hbad | hbad | hbad | hbad)
    · exact hbad hply
    · omega
    · exact hnew hbad
    · omega

/-- The frame as it stands in a collective engine's input queue. -/
def queuedFrame (p e : Nat) (f : SData) (x : Xfer) : CeFrame :=
  { payload := Mem.take f.payload 512, pmask := f.pmask, port := p, entry := e, seq := f.seq.toNat
    last := decide (f.seq.toNat + 1 = x.frames) }

/-- Frame g is put into input queue q. -/
def State.enqueue (s : State) (q : Nat) (g : CeFrame) : State :=
  { s with ce := { s.ce with inQ := SMap.set [] s.ce.inQ q (queueIn g (SMap.get [] s.ce.inQ q)) } }

/-! ### Writing the frame to its destination -/

/-- In u, where the frame has been heard, the memories, the queues and the ply are those of s. -/
structure ArrivedFrom (s u : State) : Prop where
  ccd : u.ccd = s.ccd
  hbm : u.hbm = s.hbm
  hbmWords : u.hbmWords = s.hbmWords
  blocks : u.blocks = s.blocks
  ce : u.ce = s.ce
  inPly : u.inPly = s.inPly
  start : u.sch.start = s.sch.start
  received : u.fab.received = s.fab.received

theorem heard_arrivedFrom (s : State) (p : Nat) (h : FrameHdr) : ArrivedFrom s (heard s p h) := by
  constructor <;> rfl

theorem ArrivedFrom.serveSched {u : State} (hu : ArrivedFrom s u) : ArrivedFrom s u.serveSched :=
  ⟨hu.ccd, hu.hbm, hu.hbmWords, hu.blocks, hu.ce, hu.inPly, hu.start, hu.received⟩

theorem ArrivedFrom.heldRange {u : State} (hu : ArrivedFrom s u) {A n : Nat} (h : HeldRange s A n) : HeldRange u A n := by
  simpa only [HeldRange, State.line, hu.ccd] using h

section Destination

variable {u : State} (hu : ArrivedFrom s u) (hply : s.inPly = true)

include hu hply

/-- A frame of memory whose lines are free. -/
theorem ArrivedFrom.writeFrame_stored (h2 : x.kind ≠ 2) (h4 : x.kind ≠ 4)
    (hheld : HeldRange s (x.offset + 512 * f.seq.toNat) 512)
    (hfree : u.serveSched.waits true (x.offset + 512 * f.seq.toNat) 512 = false) : ∃ t, u.writeFrame e x p f = some t ∧
      StoredAt s t (x.offset + 512 * f.seq.toNat) 512 (Mem.get (Mem.take f.payload 512)) ∧
      SMap.get [] t.fab.received e = f.seq.toNat :: SMap.get [] s.fab.received e ∧ t.blocks = s.blocks := by
  have hw := hu.serveSched
  obtain ⟨t, ht, hput⟩ := State.putFrame_of_free (hw.inPly.trans hply) hfree (hw.heldRange hheld) (Mem.take f.payload 512)
    f.pmask e f.seq.toNat
  have hwv := hw.serveSched
  refine ⟨t.countIn e f.seq.toNat, ?_, ⟨fun a => ?_, ?_, ?_⟩, ?_, ?_⟩
  · simp only [State.writeFrame, if_neg h2, if_neg h4]
    exact congrArg some hput
  · exact (ht.mem a).trans (by rw [hwv.ccd])
  · exact ht.hbm.trans hwv.hbm
  · exact ht.hbmWords.trans hwv.hbmWords
  · rw [State.received_countIn, ht.fab, hwv.received]
  · exact ht.blocks.trans hwv.blocks

/-- A frame of a block's scratchpad. -/
theorem ArrivedFrom.writeFrame_scratchpad (h2 : x.kind = 2) {b o : Nat} (hb : b = x.offset / 2 ^ 48 % 256)
    (ho : o = x.offset % 2 ^ 21 + 512 * f.seq.toNat) (htop : o + 512 ≤ s.unitTop b) : ∃ t, u.writeFrame e x p f = some t ∧
      ArrayAt s t b o 512 (Mem.get (Mem.take f.payload 512)) ∧ MemorySame s t ∧
      SMap.get [] t.fab.received e = f.seq.toNat :: SMap.get [] s.fab.received e ∧ ∀ c, c ≠ b → t.blk c = s.blk c := by
  have hw := hu.serveSched
  have hblkw (c : Nat) : u.serveSched.blk c = s.blk c := by rw [State.blk, hw.blocks]; rfl
  obtain ⟨harray, ⟨hmem, hhbm, hhbmWords⟩, hblk, hfab, hinPly, hstart⟩ := State.baWrite_keeps (s := u.serveSched) (n := 512)
    (by decide) b o (Mem.take f.payload 512) (maskUnits 8 f.pmask)
  have hcount := State.frameIn_of_inPly (hinPly.trans (hw.inPly.trans hply)) hstart e f.seq.toNat
  have hparts : xferBlock x.offset = (b, x.offset % 2 ^ 21) := by
    rw [hb]
    simp only [xferBlock, bitsN, Nat.shiftRight_eq_div_pow, Nat.pow_zero, Nat.div_one]
    rfl
  have hout : u.serveSched.xferInL1 b o 512 = false := by
    rw [State.xferInL1, State.unitTop, hblkw]
    exact decide_eq_false (Nat.not_lt.mpr htop)
  have h4 : x.kind ≠ 4 := by omega
  refine ⟨(u.serveSched.baWrite b o 512 (Mem.take f.payload 512) (maskUnits 8 f.pmask)).countIn e f.seq.toNat, ?_,
    fun a => ?_, ⟨?_, ?_, ?_⟩, ?_, fun c hc => ?_⟩
  · simp only [State.writeFrame, if_neg h4, if_pos h2, hparts, ← ho, hout, Bool.false_eq_true, if_false]
    exact congrArg some hcount
  · exact (harray a).trans (by rw [hblkw])
  · exact hmem.trans (by rw [hw.ccd])
  · exact hhbm.trans hw.hbm
  · exact hhbmWords.trans hw.hbmWords
  · rw [State.received_countIn, hfab, hw.received]
  · exact (hblk c hc).trans (hblkw c)

/-- A frame of an input queue of the collective engines. -/
theorem ArrivedFrom.writeFrame_queue (hplace : u.standby.place = none) (h4 : x.kind = 4) {q : Nat}
    (hq : q = x.offset % 64) (hroom : (SMap.get [] s.ce.inQ q).length < 512) : ∃ t, u.writeFrame e x p f = some t ∧
      SMap.get [] t.ce.inQ q = queueIn (queuedFrame p e f x) (SMap.get [] s.ce.inQ q) ∧
      SMap.get [] t.fab.received e = f.seq.toNat :: SMap.get [] s.fab.received e ∧ MemorySame s t := by
  have hw := hu.serveSched
  have hplace' : u.serveSched.standby.place = none := hplace
  have hroom' : ¬ 512 ≤ (SMap.get [] u.serveSched.ce.inQ q).length := by rw [hw.ce]; omega
  have hcount := State.frameIn_of_inPly (s := u.serveSched.enqueue q (queuedFrame p e f x)) (hw.inPly.trans hply) rfl e
    f.seq.toNat
  refine ⟨(u.serveSched.enqueue q (queuedFrame p e f x)).countIn e f.seq.toNat, ?_, ?_, ?_, ?_, hw.hbm, hw.hbmWords⟩
  · simp only [State.writeFrame, if_pos h4, hplace', ← hq, if_neg hroom']
    exact congrArg some hcount
  · show SMap.get [] (SMap.set [] u.serveSched.ce.inQ q _) q = _
    rw [SMap.get_set_self, hw.ce]
  · rw [State.received_countIn]
    exact congrArg _ (by rw [← hw.received]; rfl)
  · exact congrArg (·.mem) hw.ccd

end Destination

/-- A frame of memory that must wait. -/
theorem ArrivedFrom.writeFrame_waits {u : State} (hu : ArrivedFrom s u) (h2 : x.kind ≠ 2) (h4 : x.kind ≠ 4)
    (hwaits : u.serveSched.waits true (x.offset + 512 * f.seq.toNat) 512 = true) : ∃ t, u.writeFrame e x p f = some t ∧
      SMap.get [] t.fab.received e = SMap.get [] s.fab.received e ∧ MemorySame s t ∧
      t.ccd.waiting = s.ccd.waiting ++ [.frame (x.offset + 512 * f.seq.toNat) (Mem.take f.payload 512) f.pmask e
        f.seq.toNat s.sch.start] := by
  have hw := hu.serveSched
  have hput := State.putFrame_of_waits (s := u.serveSched) hwaits (Mem.take f.payload 512) f.pmask e f.seq.toNat s.sch.start
  refine ⟨u.serveSched.defer (.frame (x.offset + 512 * f.seq.toNat) (Mem.take f.payload 512) f.pmask e f.seq.toNat
    s.sch.start), ?_, ?_, ⟨congrArg (·.mem) hw.ccd, hw.hbm, hw.hbmWords⟩, ?_⟩
  · simp only [State.writeFrame, if_neg h2, if_neg h4, hw.start]
    exact congrArg some hput
  · exact congrArg (fun m => SMap.get [] m e) hw.received
  · exact congrArg (fun c => c.waiting ++ _) hw.ccd

/-! ### The four destinations -/

section Fits

variable (hh : Hears s p h) (hjoin : (s.port p).joinDue = false) (hentry : EntryOf s p e f x) (hfits : FitsEntry s e f x)

include hh hjoin hentry hfits

theorem Hears.runs_sDataFrame_stored (h2 : x.kind ≠ 2) (h4 : x.kind ≠ 4)
    (hheld : HeldRange s (x.offset + 512 * f.seq.toNat) 512)
    (hfree : s.serveSched.waits true (x.offset + 512 * f.seq.toNat) 512 = false) : Runs (.sDataFrame p h f) s fun t =>
      StoredAt s t (x.offset + 512 * f.seq.toNat) 512 (Mem.get (Mem.take f.payload 512)) ∧
      SMap.get [] t.fab.received e = f.seq.toNat :: SMap.get [] s.fab.received e ∧
      SMap.get [] t.fab.accepted e = f.seq.toNat :: SMap.get [] s.fab.accepted e ∧ t.blocks = s.blocks := by
  obtain ⟨t, hwrite, hstored, hreceived, hblocks⟩ := (heard_arrivedFrom s p h).writeFrame_stored (e := e) (p := p)
    hentry.inPly h2 h4 hheld ((waits_heard s p h _ 512).trans hfree)
  exact ⟨_, hh.exec_sDataFrame_fits hjoin hentry hfits hwrite, hstored, hreceived, State.accepted_acceptFrom t s e _,
    hblocks⟩

/-- The frame is accepted, and comes to be received when its lines are free. -/
theorem Hears.runs_sDataFrame_waits (h2 : x.kind ≠ 2) (h4 : x.kind ≠ 4)
    (hwaits : s.serveSched.waits true (x.offset + 512 * f.seq.toNat) 512 = true) : Runs (.sDataFrame p h f) s fun t =>
      SMap.get [] t.fab.received e = SMap.get [] s.fab.received e ∧
      SMap.get [] t.fab.accepted e = f.seq.toNat :: SMap.get [] s.fab.accepted e ∧ MemorySame s t ∧
      t.ccd.waiting = s.ccd.waiting ++ [.frame (x.offset + 512 * f.seq.toNat) (Mem.take f.payload 512) f.pmask e
        f.seq.toNat s.sch.start] := by
  obtain ⟨t, hwrite, hreceived, hmem, hwaiting⟩ := (heard_arrivedFrom s p h).writeFrame_waits (e := e) (p := p) h2 h4
    ((waits_heard s p h _ 512).trans hwaits)
  exact ⟨_, hh.exec_sDataFrame_fits hjoin hentry hfits hwrite, hreceived, State.accepted_acceptFrom t s e _, hmem, hwaiting⟩

theorem Hears.runs_sDataFrame_scratchpad (h2 : x.kind = 2) {b o : Nat} (hb : b = x.offset / 2 ^ 48 % 256)
    (ho : o = x.offset % 2 ^ 21 + 512 * f.seq.toNat) (htop : o + 512 ≤ s.unitTop b) : Runs (.sDataFrame p h f) s fun t =>
      ArrayAt s t b o 512 (Mem.get (Mem.take f.payload 512)) ∧ MemorySame s t ∧
      SMap.get [] t.fab.received e = f.seq.toNat :: SMap.get [] s.fab.received e ∧ ∀ c, c ≠ b → t.blk c = s.blk c := by
  obtain ⟨t, hwrite, hkeeps⟩ := (heard_arrivedFrom s p h).writeFrame_scratchpad (e := e) (p := p) hentry.inPly h2 hb ho htop
  exact ⟨_, hh.exec_sDataFrame_fits hjoin hentry hfits hwrite, hkeeps⟩

theorem Hears.runs_sDataFrame_queue (h4 : x.kind = 4) {q : Nat} (hq : q = x.offset % 64)
    (hroom : (SMap.get [] s.ce.inQ q).length < 512) : Runs (.sDataFrame p h f) s fun t =>
      (∃ l r, SMap.get [] s.ce.inQ q = l ++ r ∧ SMap.get [] t.ce.inQ q = l ++ queuedFrame p e f x :: r ∧
        ((∀ y ∈ l ++ r, y.entry = e → y.seq < f.seq.toNat) → ∀ y ∈ r, y.entry ≠ e) ∧
        ((∀ y ∈ l ++ r, y.entry ≠ e) → r = [])) ∧
      SMap.get [] t.fab.received e = f.seq.toNat :: SMap.get [] s.fab.received e ∧ MemorySame s t := by
  obtain ⟨t, hwrite, hqueue, hreceived, hmem⟩ := (heard_arrivedFrom s p h).writeFrame_queue (e := e) (p := p) (f := f)
    hentry.inPly hh.place_eq_none h4 hq hroom
  obtain ⟨l, r, hlist, hinserted, horder, hlast⟩ := queueIn_inserts (queuedFrame p e f x) (SMap.get [] s.ce.inQ q)
  refine ⟨_, hh.exec_sDataFrame_fits hjoin hentry hfits hwrite, ⟨l, r, hlist, hqueue.trans hinserted, ?_, ?_⟩, hreceived,
    hmem⟩
  · rw [← hlist]; exact horder
  · rw [← hlist]; exact hlast

end Fits

end ScheduledFrame

end Sys2Proof.Machine

/-! PROOFS. What received frames do (R44, R50, R81, R296-R305, R314). -/

namespace Sys2Proof.Machine

/-- Settles O51: the lemmas about each type of frame, put together. Of the S_DATA frames a stored one keeps the lines of
its range whole and the words beyond each line good, so that no check of Table 8.8 changes a byte outside its range. -/
theorem fabricFramesReceived : Obligations.FabricFramesReceived := by
  unfold Obligations.FabricFramesReceived
  refine ⟨fun f h hfits hres => ?_, fun s p h hh => runs_idleFrame s p h hh,
    fun s p h hup hal hres h0 h1 => runs_idleFrame_reserved s p h hup hal hres h0 h1, ?_,
    fun s p h f fl hh hjoin hrun hflood hkind hp hround hply =>
      runs_sCheckFrame s p h f fl hh hjoin hrun hflood hkind hp hround hply,
    fun s p h a start fl hh hjoin hdev hflood hkind hp hlater =>
      runs_sArmFrame s p h a start fl hh hjoin hdev hflood hkind hp hlater,
    fun s p h id ldev im hh him hfn => runs_joinFrame s p h id ldev im hh him hfn, fun s p h hh => ?_⟩
  · exact ⟨length_frameBytes f h, readFrame_frameBytes hfits hres, fun s p trip i errs =>
      arrive_frameBytes hfits hres s p trip i errs⟩
  · intro s p e h f pl x hh hjoin hrun hply hplan hx hexpect hport happlies hflow huniq
    have hentry : EntryOf s p e f x := ⟨hrun, hply, ⟨pl, hplan, hx, huniq⟩, hexpect, hport, happlies, hflow⟩
    refine ⟨fun hlo hseq hnew htime => ?_, fun hbad => hh.runs_sDataFrame_misfit hjoin hentry hbad⟩
    have hfits : FitsEntry s e f x := ⟨hlo, hseq, hnew, htime⟩
    refine ⟨fun h2 h4 hheld hfree => hh.runs_sDataFrame_stored hjoin hentry hfits h2 h4 hheld hfree,
      fun h2 h4 hwaits => hh.runs_sDataFrame_waits hjoin hentry hfits h2 h4 hwaits,
      fun b o h2 hb ho htop => hh.runs_sDataFrame_scratchpad hjoin hentry hfits h2 hb ho htop, ?_⟩
    rintro q g h4 hq hroom rfl
    exact hh.runs_sDataFrame_queue hjoin hentry hfits h4 hq hroom
  · exact ⟨runs_laneMove hh, runs_laneMove_invalid hh,
      fun l sp pos g hwait _ _ _ hpos _ hspare => runs_laneAck_spent hh l sp pos g hwait hpos hspare,
      runs_laneAck hh, runs_echoResp hh, runs_echoResp_other hh, runs_echoResp_owed hh, runs_echoReq hh,
      runs_echoResp_late hh, runs_widthFrame_asked hh, runs_widthFrame_answered hh⟩

end Sys2Proof.Machine

/-! PROOFS. Sequencer arithmetic (R88, R89, Table 3.11): results as numbers, and the register that they go to. -/

namespace Sys2Proof.Machine

section Arithmetic

/-! ### Results as numbers (Table 3.11) -/

theorem shiftLeft_eq_ofNat (x : W32) (k : Nat) : x <<< k = BitVec.ofNat 32 (x.toNat * 2 ^ k) :=
  BitVec.eq_of_toNat_eq (by rw [BitVec.toNat_shiftLeft, Nat.shiftLeft_eq, BitVec.toNat_ofNat])

theorem ushiftRight_eq_ofNat (x : W32) (k : Nat) : x >>> k = BitVec.ofNat 32 (x.toNat / 2 ^ k) := by
  refine BitVec.eq_of_toNat_eq ?_
  rw [BitVec.toNat_ushiftRight, Nat.shiftRight_eq_div_pow, BitVec.toNat_ofNat,
    Nat.mod_eq_of_lt (Nat.lt_of_le_of_lt (Nat.div_le_self _ _) x.isLt)]

theorem sshiftRight_eq_ofInt (x : W32) (k : Nat) : x.sshiftRight k = BitVec.ofInt 32 (x.toInt / 2 ^ k) := by
  rw [BitVec.sshiftRight_eq, Int.shiftRight_eq_div_pow]
  norm_cast

/-- The lesser of two words under a reading of them as numbers. -/
theorem ite_lt_eq_min {α β : Type} [LinearOrder β] {f : α → β} {g : β → α} (hg : ∀ x, g (f x) = x) {c : Bool} {x y : α}
    (hc : c = true ↔ f x < f y) : (if c then x else y) = g (min (f x) (f y)) := by
  by_cases h : f x < f y
  · rw [if_pos (hc.mpr h), min_eq_left h.le, hg]
  · rw [if_neg (mt hc.mp h), min_eq_right (le_of_not_gt h), hg]

/-- The greater of two words under a reading of them as numbers. -/
theorem ite_lt_eq_max {α β : Type} [LinearOrder β] {f : α → β} {g : β → α} (hg : ∀ x, g (f x) = x) {c : Bool} {x y : α}
    (hc : c = true ↔ f x < f y) : (if c then y else x) = g (max (f x) (f y)) := by
  by_cases h : f x < f y
  · rw [if_pos (hc.mpr h), max_eq_right h.le, hg]
  · rw [if_neg (mt hc.mp h), max_eq_left (le_of_not_gt h), hg]

theorem aluOp_eq_aluSpec (f : AluFn) (x y : W32) : aluOp f x y = aluSpec f x y := by
  cases f with
  | add => simp [aluOp, aluSpec, BitVec.ofNat_add]
  | sub => exact BitVec.eq_of_toInt_eq (by simp [aluOp, aluSpec, BitVec.toInt_sub])
  | mul => simp [aluOp, aluSpec, BitVec.ofNat_mul]
  | sll => exact shiftLeft_eq_ofNat x _
  | srl => exact ushiftRight_eq_ofNat x _
  | sra => exact sshiftRight_eq_ofInt x _
  | slt => simp [aluOp, aluSpec, BitVec.slt_eq_decide]
  | sltu => simp [aluOp, aluSpec, BitVec.ult_eq_decide]
  | min => exact ite_lt_eq_min (fun _ => BitVec.ofInt_toInt) BitVec.slt_iff_toInt_lt
  | max => exact ite_lt_eq_max (fun _ => BitVec.ofInt_toInt) BitVec.slt_iff_toInt_lt
  | minu => exact ite_lt_eq_min (fun x => BitVec.ofNat_toNat 32 x) BitVec.ult_iff_toNat_lt
  | maxu => exact ite_lt_eq_max (fun x => BitVec.ofNat_toNat 32 x) BitVec.ult_iff_toNat_lt
  | and | or | xor | mulhu => rfl

theorem toInt_imm18s (i : Nat) : (imm18s i).toInt = imm18 i := by
  rw [imm18s_eq, BitVec.toInt_ofInt, imm18]
  split <;> simp only [Int.bmod] <;> omega

theorem immResult_eq_immSpec (f : ImmOp) (x : W32) (i : Nat) : immResult f x i = immSpec f x i := by
  cases f with
  | addi => simp only [immResult, immSpec, BitVec.ofInt_add, BitVec.ofInt_toInt, imm18s_eq]
  | slli => exact shiftLeft_eq_ofNat x _
  | srli => exact ushiftRight_eq_ofNat x _
  | srai => exact sshiftRight_eq_ofInt x _
  | slti => simp [immResult, immSpec, BitVec.slt_eq_decide, toInt_imm18s]
  | sltiu => simp [immResult, immSpec, BitVec.ult_eq_decide, imm18s_eq]
  | andi | ori | xori => rfl

variable {s : State} {b : Nat}

/-- A row that writes a result writes that register and goes on, and nothing else changes. -/
theorem SeqAt.runs_seqWrite {i : SeqIns} {c : Instr} {f : SeqIns → State → Option State} {rd : Nat} {v : W32}
    (h : SeqAt s b i) (hexec : exec c s = onUnit (decide (b < 96)) (s.seqStep b f))
    (hf : f i (s.fetched b) = some ((s.fetched b).seqWrite b rd v)) :
    Runs c s fun t => SeqDoes s t b ((s.blk b).seq.pc + 4) .run ∧ SetsReg s t b rd v := by
  refine h.runs hexec hf ⟨s.seqDoes_updSeq_fetched fun q hq => ?_, State.setsReg_seqWrite (by simp) rd v⟩
  rw [Seq.setReg_eq]
  simp [Seq.advance, hq]

theorem SeqAt.runs_immOp {f : ImmOp} {i : Instr} {rd ra imm : Nat} (h : SeqAt s b (.immOp f rd ra imm))
    (hi : exec i s = onUnit (decide (b < 96)) (s.seqImm b f)) : Runs i s fun t =>
    SeqDoes s t b ((s.blk b).seq.pc + 4) .run ∧ SetsReg s t b rd (immSpec f (s.seqReg b ra) imm) := by
  refine h.runs_seqWrite hi ?_
  simp only [if_true, State.seqReg_fetched, immResult_eq_immSpec]

end Arithmetic

/-- Settles O29: what each row writes is the table's result (`aluOp_eq_aluSpec`, `immResult_eq_immSpec`), and
`SeqAt.runs_seqWrite` says that nothing else changes. -/
theorem sequencerArithmetic : Obligations.SequencerArithmetic := by
  unfold Obligations.SequencerArithmetic
  refine ⟨fun s b f rd ra rb h => ?alu, fun s b f i rd ra imm h hrow => ?imm, fun s b rd imm h => ?lui⟩
  case alu =>
    refine h.runs_seqWrite rfl ?_
    simp only [State.seqReg_fetched, aluOp_eq_aluSpec]
  case imm =>
    refine h.runs_immOp ?_
    simp only [List.mem_cons, Prod.mk.injEq, List.not_mem_nil, or_false] at hrow
    rcases hrow with ⟨rfl, rfl⟩ | ⟨rfl, rfl⟩ | ⟨rfl, rfl⟩ | ⟨rfl, rfl⟩ | ⟨rfl, rfl⟩ | ⟨rfl, rfl⟩ | ⟨rfl, rfl⟩ | ⟨rfl, rfl⟩ |
      ⟨rfl, rfl⟩ <;> rfl
  case lui =>
    refine h.runs_seqWrite rfl ?_
    simp only [Nat.shiftLeft_eq]

end Sys2Proof.Machine

/-! PROOFS. Sequencer control flow (R88, R89, R92, Table 3.13): traps at the fetch, and where each jump goes on. -/

namespace Sys2Proof.Machine

section ControlFlow

variable {s u : State} {b : Nat}

/-! ### Traps at the fetch (R92, Table 3.13) -/

/-- A strike leaves the memories. -/
theorem State.memorySame_strike (s : State) (b n r : Nat) : MemorySame s (s.strike b n r) := by
  unfold State.strike
  split
  · exact ⟨rfl, rfl, rfl⟩
  · exact ⟨rfl, rfl, rfl⟩

/-- A strike beside a trap changes nothing of it. -/
theorem SeqTraps.ite_strike {cause n r : Nat} {c : Prop} [Decidable c] (h : SeqTraps s u b cause) :
    SeqTraps s (if c then u.strike b n r else u) b cause := by
  split
  · obtain ⟨hst, hcause, hpc, hregs, hother, hnew, ⟨hccd, hhbm, hwords⟩, hdev⟩ := h
    obtain ⟨hccd', hhbm', hwords'⟩ := u.memorySame_strike b n r
    have hblk := u.blk_strike_self b n r
    refine ⟨by rw [hblk]; exact hst, by rw [hblk]; exact hcause, by rw [hblk]; exact hpc, fun k => ?_, fun k hk => ?_, ?_,
      ⟨hccd'.trans hccd, hhbm'.trans hhbm, hwords'.trans hwords⟩, (u.strike_dev b n r).trans hdev⟩
    · rw [State.seqReg, hblk]; exact hregs k
    · rw [State.blk_strike_of_ne _ hk, hother k hk]
    · simpa only [NewRecord, State.strike_err] using hnew
  · exact h

/-- A trap before a word is fetched, an uncorrectable word's among them. -/
theorem State.seqTraps_serveAs (hmain : s.mainOn = true) (cls cause : Nat) :
    SeqTraps s ((s.serveAs cls b).seqTrap b cause) b cause := by
  unfold State.seqTrap
  refine SeqTraps.ite_strike ⟨by simp, by simp, by simp; rfl, fun r => ?_, fun c hc => ?_, ?_, ?_, by simp⟩
  · simp only [State.seqReg, State.blk_post, State.blk_updSeq_self]
    rfl
  · rw [State.blk_post, State.blk_updSeq_of_ne _ hc]
    rfl
  · exact State.post_newRecord_of_next _ rfl hmain (by decide) rfl
  · simp [MemorySame]

/-- Every row of the sequencer's instructions executes the word at the pc, if it takes it. -/
theorem exec_of_mem_seqRows {i : Instr} (hi : i ∈ seqRows b) : ∃ f : SeqIns → State → Option State,
    ∀ s, exec i s = onUnit (decide (b < 96)) (s.seqStep b f) := by
  simp only [seqRows, List.mem_cons, List.not_mem_nil, or_false] at hi
  rcases hi with rfl | rfl | rfl | rfl | rfl | rfl | rfl | rfl | rfl | rfl | rfl | rfl | rfl | rfl | rfl | rfl | rfl | rfl |
    rfl | rfl | rfl | rfl | rfl | rfl | rfl | rfl | rfl | rfl | rfl | rfl | rfl | rfl | rfl | rfl <;>
  exact ⟨_, fun _ => rfl⟩

/-- A fetch that fails traps with its cause, whichever row is asked. -/
theorem runs_of_fetchFault {i : Instr} {cause : Nat} (hb : b < 96) (hi : i ∈ seqRows b) (hlive : s.blockLive b = true)
    (hrun : (s.blk b).seq.st = .run) (hfault : (s.blk b).seq.fetchFault = some cause) :
    Runs i s fun t => SeqTraps s t b cause := by
  obtain ⟨f, hexec⟩ := exec_of_mem_seqRows hi
  refine ⟨_, ?_, State.seqTraps_serveAs (State.mainOn_of_blockLive hlive) (s.blk b).seq.bwclass cause⟩
  rw [hexec, onUnit_of_exists (decide_eq_true hb)]
  simp only [State.seqStep, hlive, hrun, hfault, BEq.rfl, Bool.and_self, Bool.not_true, Bool.false_eq_true, if_false]

/-- A block that does not run executes nothing. -/
theorem runs_of_not_run {i : Instr} (hb : b < 96) (hi : i ∈ seqRows b)
    (hstop : s.blockLive b = false ∨ (s.blk b).seq.st ≠ .run) : Runs i s fun t => t = s := by
  obtain ⟨f, hexec⟩ := exec_of_mem_seqRows hi
  refine ⟨s, ?_, rfl⟩
  rw [hexec, onUnit_of_exists (decide_eq_true hb), State.seqStep, if_pos]
  rcases hstop with hdead | hst
  · simp [hdead]
  · simp [hst]

/-! ### Targets of jumps and branches -/

theorem sgn_18_eq (off : Nat) : sgn 18 off = imm18 off := by
  unfold sgn imm18
  norm_num

theorem sgn_22_of_lt {off : Nat} (h : off < 2 ^ 22) :
    sgn 22 off = if off < 2 ^ 21 then (off : Int) else off - 2 ^ 22 := by
  have hint : (off : Int) % 2 ^ 22 = off := Int.emod_eq_of_lt (by omega) (by omega)
  simp only [sgn, Nat.mod_eq_of_lt h, hint]

theorem brTaken_iff (f : BrOp) (x y : W32) : brTaken f x y = true ↔ brSpec f x y := by
  cases f <;> simp [brTaken, brSpec, BitVec.slt_eq_decide, BitVec.ult_eq_decide]

theorem State.seqGoto_of_le {n : Nat} {x : Int} (hx : x = n) (hn : n ≤ 0xFFFF) (f : Seq → Seq) :
    s.seqGoto b x f = s.updSeq b fun q => { f q with pc := n, st := .run } := by
  subst hx
  unfold State.seqGoto
  rw [if_pos (by simp; omega)]
  rfl

theorem State.seqGoto_of_outside {x : Int} (hx : x < 0 ∨ 0xFFFF < x) (f : Seq → Seq) :
    s.seqGoto b x f = s.seqTrap b 7 := by
  unfold State.seqGoto
  rw [if_neg (by simp; omega)]

/-- A jump that leaves its return address sets that register and goes to its target. -/
theorem State.seqGoto_link {n rd : Nat} {v : W32} :
    SeqDoes s ((s.fetched b).updSeq b fun q => { q.setReg rd v with pc := n, st := .run }) b n .run ∧
    SetsReg s ((s.fetched b).updSeq b fun q => { q.setReg rd v with pc := n, st := .run }) b rd v := by
  refine ⟨s.seqDoes_updSeq_fetched fun q _ => ?_, fun r => ?_⟩
  · rw [Seq.setReg_eq]
  · simp only [State.seqReg, State.blk_updSeq_self]
    exact (Seq.reg_setReg _ rd r v).trans (by simp [Seq.reg])

theorem State.seqGoto_plain {n : Nat} :
    SeqDoes s ((s.fetched b).updSeq b fun q => { q with pc := n, st := .run }) b n .run ∧
    RegsSame s ((s.fetched b).updSeq b fun q => { q with pc := n, st := .run }) b :=
  ⟨s.seqDoes_updSeq_fetched fun _ _ => rfl, fun r => by simp [State.seqReg, Seq.reg]⟩

variable {rd ra rb off imm : Nat} {f : BrOp} {i : Instr}

theorem SeqAt.runs_branch_not_taken (h : SeqAt s b (.br f ra rb off))
    (hi : exec i s = onUnit (decide (b < 96)) (s.seqBranch b f)) (hbr : ¬ brSpec f (s.seqReg b ra) (s.seqReg b rb)) :
    Runs i s fun t => SeqDoes s t b ((s.blk b).seq.pc + 4) .run ∧ RegsSame s t b := by
  rw [← brTaken_iff] at hbr
  refine h.runs hi (t := (s.fetched b).updSeq b Seq.advance) ?_ ⟨s.seqDoes_updSeq_fetched fun q hq => ?_, fun r => ?_⟩
  · simp only [State.seqReg_fetched, hbr]
    simp
  · simp [Seq.advance, hq]
  · simp [State.seqReg, Seq.reg, Seq.advance]

theorem SeqAt.runs_branch_taken (h : SeqAt s b (.br f ra rb off))
    (hi : exec i s = onUnit (decide (b < 96)) (s.seqBranch b f)) (hbr : brSpec f (s.seqReg b ra) (s.seqReg b rb))
    {P : State → Prop} (hP : P ((s.fetched b).seqGoto b ((s.blk b).seq.pc + 4 * imm18 off) id)) : Runs i s P := by
  rw [← brTaken_iff] at hbr
  refine h.runs hi ?_ hP
  simp only [State.seqReg_fetched, hbr, State.blk_fetched_self, sgn_18_eq, mul_comm (4 : Int)]
  simp

end ControlFlow

/-- Settles O30: branches by their condition and target, jumps, the traps and EOP, and what every row does of a fetch
that fails. -/
theorem sequencerControlFlow : Obligations.SequencerControlFlow := by
  unfold Obligations.SequencerControlFlow
  refine ⟨fun s b f i ra rb off h hrow => ?branch, fun s b rd off h => ⟨?jal, ?jalOut⟩,
    fun s b rd ra imm h => ⟨?jalr, ?jalrOut⟩, fun s b imm h => ?trap, fun s b h => ?illegal, fun s b h => ?eop,
    fun s b i hb hi hlive hrun => ?fetch, fun s b i hb hi hstop => runs_of_not_run hb hi hstop⟩
  case branch =>
    have hi : exec i s = onUnit (decide (b < 96)) (s.seqBranch b f) := by
      simp only [List.mem_cons, Prod.mk.injEq, List.not_mem_nil, or_false] at hrow
      rcases hrow with ⟨rfl, rfl⟩ | ⟨rfl, rfl⟩ | ⟨rfl, rfl⟩ | ⟨rfl, rfl⟩ | ⟨rfl, rfl⟩ | ⟨rfl, rfl⟩ <;> rfl
    refine ⟨h.runs_branch_not_taken hi, fun hbr n hn hle => h.runs_branch_taken hi hbr ?_,
      fun hbr hout => h.runs_branch_taken hi hbr ?_⟩
    · rw [State.seqGoto_of_le hn hle]
      exact State.seqGoto_plain
    · rw [State.seqGoto_of_outside hout]
      exact h.seqTraps (by decide)
  case jal =>
    intro n hn hoff hle
    refine h.runs rfl rfl ?_
    rw [sgn_22_of_lt hoff, State.seqGoto_of_le (n := n) (by simpa [mul_comm] using hn) hle]
    simpa using State.seqGoto_link
  case jalOut =>
    intro hoff hout
    refine h.runs rfl rfl ?_
    rw [sgn_22_of_lt hoff, State.seqGoto_of_outside (by simpa [mul_comm] using hout)]
    exact h.seqTraps (by decide)
  case jalr =>
    intro hle
    refine h.runs rfl rfl ?_
    simp only [State.seqReg_fetched, seqAddr_eq]
    rw [State.seqGoto_of_le (n := 4 * (seqAddr s b ra imm / 4)) (by rw [mul_comm]) (by omega)]
    simpa using State.seqGoto_link
  case jalrOut =>
    intro hout
    refine h.runs rfl rfl ?_
    simp only [State.seqReg_fetched, seqAddr_eq]
    rw [State.seqGoto_of_outside (.inr (by omega))]
    exact h.seqTraps (by decide)
  case trap => exact h.runs rfl rfl (h.seqTraps (by omega))
  case illegal => exact h.runs rfl rfl (h.seqTraps (by decide))
  case eop =>
    refine h.runs rfl rfl ⟨s.seqDoes_updSeq_fetched fun q hq => by rw [← hq], fun r => ?_⟩
    simp [State.seqReg, Seq.reg]
  case fetch =>
    refine ⟨fun hpc => ?_, fun hlo hhi hovl => ?_, fun hhi hovl hbad => ?_⟩ <;>
      refine runs_of_fetchFault hb hi hlive hrun ?_ <;> unfold Seq.fetchFault
    · rw [if_pos hpc]
    · rw [if_neg (by omega), if_pos (by simp [hlo, hovl])]
    · rw [if_neg (by omega), if_neg (by simpa [imp_iff_not_or] using hovl), if_pos (by simp [hbad])]

end Sys2Proof.Machine

/-! PROOFS. Sequencer instruction words (R88, R89): an instruction as its six fields, and the word of those fields. -/

namespace Sys2Proof.Machine

section InstructionWords

/-! ### Codes (Table 3.11) -/

@[simp] theorem AluFn.ofCode_code (f : AluFn) : AluFn.ofCode f.code = some f := by cases f <;> rfl

@[simp] theorem ImmOp.ofCode_code (f : ImmOp) : ImmOp.ofCode f.code = some f := by cases f <;> rfl

@[simp] theorem BrOp.ofCode_code (f : BrOp) : BrOp.ofCode f.code = some f := by cases f <;> rfl

theorem AluFn.code_of_ofCode {n : Nat} {f : AluFn} (h : AluFn.ofCode n = some f) : f.code = n := by
  unfold AluFn.ofCode at h
  split at h <;> cases h <;> rfl

theorem ImmOp.code_of_ofCode {n : Nat} {f : ImmOp} (h : ImmOp.ofCode n = some f) : f.code = n := by
  unfold ImmOp.ofCode at h
  split at h <;> cases h <;> rfl

theorem BrOp.code_of_ofCode {n : Nat} {f : BrOp} (h : BrOp.ofCode n = some f) : f.code = n := by
  unfold BrOp.ofCode at h
  split at h <;> cases h <;> rfl

theorem AluFn.code_lt (f : AluFn) : f.code < 16 := by cases f <;> decide

theorem ImmOp.code_lt (f : ImmOp) : f.code < 10 := by cases f <;> decide

theorem BrOp.code_lt (f : BrOp) : f.code < 64 := by cases f <;> decide

/-! ### Fields of a word (Table 3.10) -/

/-- Bits hi to lo, as a quotient and a remainder. -/
theorem bitsN_eq (w hi lo : Nat) : bitsN w hi lo = w / 2 ^ lo % 2 ^ (hi + 1 - lo) := by
  rw [bitsN, Nat.shiftRight_eq_div_pow]

/-- A word is made of its opcode, its two register fields and its immediate. -/
theorem seqWord_fields {w : Nat} (h : w < 2 ^ 32) :
    w = seqWord (bitsN w 31 26) (bitsN w 25 22) (bitsN w 21 18) (bitsN w 17 0) := by
  simp only [seqWord, bitsN_eq]
  omega

section Word

variable {op f1 f2 imm : Nat} (hop : op < 64) (h1 : f1 < 16) (h2 : f2 < 16) (himm : imm < 2 ^ 18)

include hop h1 h2 himm

/-- The fields of a word that is made of parts that fit. -/
theorem bitsN_seqWord :
    seqWord op f1 f2 imm < 2 ^ 32 ∧ bitsN (seqWord op f1 f2 imm) 31 26 = op ∧ bitsN (seqWord op f1 f2 imm) 25 22 = f1 ∧
    bitsN (seqWord op f1 f2 imm) 21 18 = f2 ∧ bitsN (seqWord op f1 f2 imm) 17 14 = imm / 2 ^ 14 ∧
    bitsN (seqWord op f1 f2 imm) 13 0 = imm % 2 ^ 14 ∧ bitsN (seqWord op f1 f2 imm) 17 0 = imm ∧
    bitsN (seqWord op f1 f2 imm) 25 18 = f1 * 16 + f2 ∧ bitsN (seqWord op f1 f2 imm) 23 18 = f1 % 4 * 16 + f2 ∧
    bitsN (seqWord op f1 f2 imm) 21 0 = f2 * 2 ^ 18 + imm ∧ bitsN (seqWord op f1 f2 imm) 25 24 = f1 / 4 ∧
    bitsN (seqWord op f1 f2 imm) 25 0 = f1 * 2 ^ 22 + f2 * 2 ^ 18 + imm := by
  simp only [seqWord, bitsN_eq]
  omega

end Word

/-! ### Each way -/

/-- Opcode, register fields and immediate of a legal instruction's word. -/
def SeqIns.parts : SeqIns → Nat × Nat × Nat × Nat
  | .alu f rd ra rb => (0x00, rd, ra, rb * 2 ^ 14 + f.code)
  | .immOp f rd ra imm => (f.code, rd, ra, imm)
  | .lui rd imm => (0x0A, rd, imm / 2 ^ 18, imm % 2 ^ 18)
  | .lw rd ra imm => (0x10, rd, ra, imm)
  | .sw rd ra imm => (0x11, rd, ra, imm)
  | .br f ra rb off => (f.code, ra, rb, off)
  | .jal rd off => (0x1E, rd, off / 2 ^ 18, off % 2 ^ 18)
  | .jalr rd ra imm => (0x1F, rd, ra, imm)
  | .cissue t ra rb => (0x20, t, ra, rb * 2 ^ 14)
  | .launch ra => (0x21, 0, ra, 0)
  | .waitc mask => (0x22, mask / 16, mask % 16, 0)
  | .waitk ra imm => (0x23, 0, ra, imm)
  | .waitx ra imm => (0x24, 0, ra, imm)
  | .sempost sem n => (0x25, sem / 16, sem % 16, n)
  | .semwait sem n => (0x26, sem / 16, sem % 16, n)
  | .loadi ra => (0x28, 0, ra, 0)
  | .csrr rd csr => (0x2C, rd, 0, csr)
  | .csrw csr ra => (0x2D, 0, ra, csr)
  | .trap imm => (0x3E, 0, 0, imm)
  | .eop => (0x3F, 0, 0, 0)
  | .illegal => (0x3D, 0, 0, 0)

theorem ImmOp.wf_imm_lt {f : ImmOp} {rd ra imm : Nat} (h : (SeqIns.immOp f rd ra imm).wf = true) : imm < 2 ^ 18 := by
  simp only [SeqIns.wf, Bool.and_eq_true] at h
  obtain ⟨-, himm⟩ := h
  split at himm <;> simp only [decide_eq_true_eq] at himm <;> omega

/-- The parts of an instruction whose fields fit are those of its word. -/
theorem SeqIns.parts_spec (i : SeqIns) (hwf : i.wf = true) :
    i.parts.1 < 64 ∧ i.parts.2.1 < 16 ∧ i.parts.2.2.1 < 16 ∧ i.parts.2.2.2 < 2 ^ 18 ∧
    seqEncode i = seqWord i.parts.1 i.parts.2.1 i.parts.2.2.1 i.parts.2.2.2 := by
  cases i with
  | alu f rd ra rb =>
    have hf := f.code_lt
    simp only [SeqIns.wf, Bool.and_eq_true, decide_eq_true_eq] at hwf
    exact ⟨Nat.zero_lt_succ _, hwf.1.1, hwf.1.2, by simp only [SeqIns.parts]; omega, rfl⟩
  | immOp f rd ra imm =>
    have himm := ImmOp.wf_imm_lt hwf
    simp only [SeqIns.wf, Bool.and_eq_true, decide_eq_true_eq] at hwf
    exact ⟨Nat.lt_trans f.code_lt (by decide), hwf.1.1, hwf.1.2, himm, rfl⟩
  | br f ra rb off =>
    simp only [SeqIns.wf, Bool.and_eq_true, decide_eq_true_eq] at hwf
    exact ⟨f.code_lt, hwf.1.1, hwf.1.2, hwf.2, rfl⟩
  | _ =>
    simp only [SeqIns.wf, Bool.and_eq_true, decide_eq_true_eq] at hwf
    simp only [SeqIns.parts, seqEncode, seqWord, and_true]
    omega

/-- Encoding fits 32 bits, and decodes to the instruction. -/
theorem seqDecode_seqEncode {i : SeqIns} (hwf : i.wf = true) (hi : i ≠ .illegal) :
    seqEncode i < 2 ^ 32 ∧ seqDecode (seqEncode i) = i := by
  obtain ⟨hop, h1, h2, himm, henc⟩ := i.parts_spec hwf
  obtain ⟨hlt, h⟩ := bitsN_seqWord hop h1 h2 himm
  rw [henc]
  refine ⟨hlt, ?_⟩
  generalize seqWord i.parts.1 i.parts.2.1 i.parts.2.2.1 i.parts.2.2.2 = w at h
  cases i with
  | alu f rd ra rb =>
    have hf := f.code_lt
    have hq : (rb * 2 ^ 14 + f.code) / 2 ^ 14 = rb := by omega
    have hr : (rb * 2 ^ 14 + f.code) % 2 ^ 14 = f.code := by omega
    simp only [SeqIns.parts] at h
    simp only [seqDecode, h, hq, hr, AluFn.ofCode_code]
  | immOp f rd ra imm =>
    have hshift : (!f.isShift || decide (imm < 32)) = true := by
      simp only [SeqIns.wf, Bool.and_eq_true] at hwf
      cases hf : f.isShift <;> simp_all
    simp only [SeqIns.parts] at h
    cases f <;> simp only [seqDecode, ImmOp.code, h] <;> simp [ImmOp.ofCode, legalIf, hshift]
  | br f ra rb off =>
    simp only [SeqIns.parts] at h
    cases f <;> simp only [seqDecode, BrOp.code, h] <;> rfl
  | illegal => exact absurd rfl hi
  | lui rd imm | jal rd imm =>
    simp only [SeqIns.parts] at h
    simp only [seqDecode, h, Nat.div_add_mod']
  | cissue t ra rb =>
    simp only [SeqIns.wf, Bool.and_eq_true, decide_eq_true_eq] at hwf
    simp only [SeqIns.parts] at h
    simp [seqDecode, h, legalIf, hwf]
  | waitc mask =>
    simp only [SeqIns.wf, decide_eq_true_eq] at hwf
    simp only [SeqIns.parts] at h
    simp [seqDecode, h, legalIf, hwf, Nat.div_add_mod']
  | sempost sem n | semwait sem n =>
    simp only [SeqIns.wf, Bool.and_eq_true, decide_eq_true_eq] at hwf
    have hlow : sem / 16 % 4 * 16 + sem % 16 = sem := by omega
    have hhigh : sem / 16 / 4 = 0 := by omega
    simp only [SeqIns.parts] at h
    simp [seqDecode, h, legalIf, hwf, hlow, hhigh]
  | _ =>
    simp only [SeqIns.parts] at h
    simp [seqDecode, h, legalIf]

theorem eq_of_legalIf {c : Bool} {x i : SeqIns} (h : legalIf c x = i) (hi : i ≠ .illegal) : c = true ∧ x = i := by
  unfold legalIf at h
  split at h
  · exact ⟨‹_›, h⟩
  · exact absurd h.symm hi

/-- The word of a legal instruction is the one it was decoded from. -/
theorem seqEncode_seqDecode {w : Nat} (hw : w < 2 ^ 32) (hi : seqDecode w ≠ .illegal) :
    (seqDecode w).wf = true ∧ seqEncode (seqDecode w) = w := by
  have hfields := seqWord_fields hw
  generalize hdec : seqDecode w = i at hi ⊢
  unfold seqDecode at hdec
  dsimp only at hdec
  split at hdec
  case h_1 hop =>
    split at hdec
    · next f hf =>
      subst hdec
      have hcode := AluFn.code_of_ofCode hf
      simp only [SeqIns.wf, seqEncode, seqWord, bitsN_eq, Bool.and_eq_true, decide_eq_true_eq] at hop hcode ⊢
      omega
    · exact absurd hdec.symm hi
  case h_19 =>
    split at hdec
    · next f hf =>
      obtain ⟨hc, rfl⟩ := eq_of_legalIf hdec hi
      have hcode := ImmOp.code_of_ofCode hf
      refine ⟨?_, by rw [seqEncode, hcode]; exact hfields.symm⟩
      simp only [SeqIns.wf, Bool.and_eq_true, decide_eq_true_eq]
      refine ⟨by simp only [bitsN_eq]; omega, ?_⟩
      split
      · simpa [‹f.isShift = true›] using hc
      · simp only [bitsN_eq, decide_eq_true_eq]; omega
    · split at hdec
      · next f hf =>
        subst hdec
        have hcode := BrOp.code_of_ofCode hf
        refine ⟨?_, by rw [seqEncode, hcode]; exact hfields.symm⟩
        simp only [SeqIns.wf, bitsN_eq, Bool.and_eq_true, decide_eq_true_eq]
        omega
      · exact absurd hdec.symm hi
  case h_2 hop | h_3 hop | h_4 hop | h_5 hop | h_6 hop =>
    subst hdec
    simp only [SeqIns.wf, seqEncode, seqWord, bitsN_eq, Bool.and_eq_true, decide_eq_true_eq] at hop ⊢
    omega
  all_goals
    next hop =>
      obtain ⟨hc, rfl⟩ := eq_of_legalIf hdec hi
      simp only [bitsN_eq, Bool.and_eq_true, decide_eq_true_eq, beq_iff_eq] at hop hc
      simp only [SeqIns.wf, seqEncode, seqWord, bitsN_eq, Bool.and_eq_true, decide_eq_true_eq, true_and]
      omega

end InstructionWords

/-- Settles O35: `seqDecode_seqEncode` and `seqEncode_seqDecode`. -/
theorem sequencerWordsRoundTrip : Obligations.SequencerWordsRoundTrip := by
  unfold Obligations.SequencerWordsRoundTrip
  exact ⟨fun _ hwf hi => seqDecode_seqEncode hwf hi, fun _ hw hi => seqEncode_seqDecode hw hi⟩

end Sys2Proof.Machine

/-! PROOFS. Two statements about the sequencer that fail: a launch record with a correctable word (R92, R200), and a
boundary that discards the image (R87, R490). -/

namespace Sys2Proof.Machine

/-! ### An invalid launch record with a correctable word -/

/-- The sequencer of block 0 at LAUNCH s0: of the record at offset 0, all zero, the first word has one wrong bit. -/
def singleLaunchState : State := { State.reset with
  dev := .running
  sch := { live := true }
  blocks := [(0, {
    seq := { st := .run, pc := 0x4000, imem := [(0x4003, 0x84)] }
    baSt := [(0, { written := true, chk := .single }), (1, { written := true })] })] }

theorem seqAt_singleLaunchState : SeqAt singleLaunchState 0 (.launch 0) := by
  unfold SeqAt
  decide +kernel

/-- The index that the error log's next record will take, after a command. -/
def nextIndexAfter (i : Instr) (s : State) : Option W32 :=
  match exec i s with
  | .next t => some t.err.next
  | _ => none

/-- The corrected word and the trap post a record each (R92, R200). -/
theorem nextIndexAfter_singleLaunchState : nextIndexAfter (.seqLaunch 0) singleLaunchState = some 2 := by decide +kernel

/-- Refutes O33: in `singleLaunchState` the LAUNCH of an invalid record corrects a word of it first. Its CE record takes
index 0, so that the trap's record is not the only new one, as the statement has it. -/
theorem not_sequencerCommands : ¬ Obligations.SequencerCommands := by
  unfold Obligations.SequencerCommands
  rintro ⟨-, hlaunch, -⟩
  obtain ⟨-, -, -, hinvalid⟩ := hlaunch singleLaunchState 0 0 0 _ seqAt_singleLaunchState rfl rfl rfl
  have hgroups : Mem.rd (singleLaunchState.blk 0).ba (0 + 4 * 4) 4 = 0 := rfl
  obtain ⟨t, hexec, ⟨-, -, -, -, -, ⟨r, -, -, hnext, -⟩, -⟩, -⟩ :=
    hinvalid (.inr (.inr (.inr (.inr (.inr (.inr (.inr (.inl hgroups))))))))
  have htwo : t.err.next = 2 := by simpa [nextIndexAfter, hexec] using nextIndexAfter_singleLaunchState
  exact absurd (hnext.symm.trans htwo) (by decide)

/-! ### A boundary that discards the image -/

section NoImage

variable {s : State}

theorem State.startBlock_of_no_image (h : s.image = none) (c : Nat) : s.startBlock c = s := by
  have hcode : s.codeOf c = none := by simp [State.codeOf, State.plan, h]
  rw [State.startBlock, hcode]

theorem State.bwclass_recordBlock (s : State) (c b : Nat) :
    ((s.recordBlock c).blk b).seq.bwclass = (s.blk b).seq.bwclass := by
  rw [State.recordBlock, State.updSeq, State.blk_updBlk]
  split
  · next hbc => rw [hbc]
  · rfl

theorem State.bwclass_cycle0Block_of_no_image (h : s.image = none) (c b : Nat) :
    ((s.cycle0Block c).blk b).seq.bwclass = (s.blk b).seq.bwclass := by
  have hstart : (s.recordBlock c).startBlock c = s.recordBlock c := State.startBlock_of_no_image (s := s.recordBlock c) h c
  unfold State.cycle0Block
  rw [hstart, ite_self]
  split
  · rfl
  · exact s.bwclass_recordBlock c b

/-- Without an image no block starts at cycle 0, and each keeps the class in force (R86, R87). -/
theorem State.bwclass_cycle0_of_no_image (h : s.image = none) (b : Nat) :
    (s.cycle0.blk b).seq.bwclass = (s.blk b).seq.bwclass := by
  have hclear : (s.cycle0Clear.blk b).seq.bwclass = (s.blk b).seq.bwclass := by
    rw [State.blk_cycle0Clear]
    rfl
  have hkeep : s.cycle0.image = none ∧ (s.cycle0.blk b).seq.bwclass = (s.blk b).seq.bwclass := by
    rw [State.cycle0_eq]
    refine List.foldlRecOn (motive := fun t : State => t.image = none ∧ (t.blk b).seq.bwclass = (s.blk b).seq.bwclass) _ _
      ⟨h, hclear⟩ fun t ht c _ => ⟨?_, ?_⟩
    · rw [State.cycle0Block_eq]
      exact ht.1
    · rw [State.bwclass_cycle0Block_of_no_image ht.1, ht.2]
  exact hkeep.2

theorem State.boundaryRamps_blocks (s : State) : s.boundaryRamps.blocks = s.blocks := by
  refine List.foldlRecOn (motive := fun t : State => t.blocks = s.blocks) _ _ rfl fun t ht i _ => ?_
  split
  · exact ht
  · exact ht

theorem State.applyAtBoundary_blocks_of_none (h : s.hif.heldCopies = []) : s.applyAtBoundary.blocks = s.blocks := by
  simp [State.applyAtBoundary, h]

/-- The boundary, where the watchdogs have left no image and no held copy: every block keeps its class. -/
theorem exec_plyBoundary_class (hexec : Executes s) (hrestart : s.sch.restartAt = none) (hflood : s.sch.flood = none)
    (hdue : s.sch.start + s.sch.len ≤ s.dom) (hheld : s.boundaryFalls.hif.heldCopies = [])
    (himage : s.boundaryFalls.image = none) (b : Nat) :
    ∃ t, exec .plyBoundary s = .next t ∧ (t.blk b).seq.bwclass = (s.boundaryFalls.blk b).seq.bwclass := by
  obtain ⟨hdev, hphase, hlive, htrack⟩ := hexec
  have hrun : s.executing = true := by simp [State.executing, State.running, hdev, hphase]
  have hlate : ¬ (s.dom < s.sch.start + s.sch.len) := by omega
  refine ⟨(s.boundaryFalls.nextPly (s.sch.start + s.sch.len)).cycle0.boundaryRamps.applyAtBoundary, ?_, ?_⟩
  · show execPlyBoundary s = _
    simp only [execPlyBoundary, hlive, hrestart, hflood, hlate, State.tracking, htrack, hrun, Option.isSome_none,
      decide_false, Bool.not_true, Bool.or_self, Bool.false_eq_true, if_false]
    generalize s.boundaryFalls = u
    rfl
  · generalize s.boundaryFalls = u at hheld himage ⊢
    have hclear := (u.nextPly (s.sch.start + s.sch.len)).cycle0_eq_clear
    have hcopies : (u.nextPly (s.sch.start + s.sch.len)).cycle0.boundaryRamps.hif.heldCopies = [] := by
      rw [(State.boundaryRamps_keeps _).2, hclear]
      exact hheld
    rw [State.blk, State.applyAtBoundary_blocks_of_none hcopies, State.boundaryRamps_blocks, ← State.blk,
      State.bwclass_cycle0_of_no_image (s := u.nextPly _) himage]
    rfl

end NoImage

/-- The entry of block 0 in a code table: one word of code at 0x4000. -/
def oneWordEntry : CodeEntry where
  baseOff := 0
  baseLen := 4
  entry := 0x4000
  ovlOff := 0
  ovlCount := 0

/-- `heldGranState` with code for block 0, which stands at its end-of-ply point with class 3. -/
def codedGranState : State := { heldGranState with
  image := some { bareImage with own := { bareSection with code := [oneWordEntry] } }
  blocks := [(0, { seq := { st := .eop, bwclass := 3 } })] }

theorem executes_codedGranState : Executes codedGranState := ⟨rfl, rfl, rfl, rfl⟩

theorem image_nbBoundary_codedGranState : codedGranState.nbBoundary.1.image = none := by rfl

theorem heldCopies_nbBoundary_codedGranState : codedGranState.nbBoundary.1.hif.heldCopies = [] := by rfl

theorem class_boundaryFalls_codedGranState : (codedGranState.boundaryFalls.blk 0).seq.bwclass = 3 := by decide +kernel

/-- Refutes O32: `codedGranState` meets the hypotheses of the clause about the boundary, but there the granule write that a
device-issued near-bank command held back discards the image (R490), and block 0 keeps the class of the ply before. -/
theorem not_sequencerCsrs : ¬ Obligations.SequencerCsrs := by
  unfold Obligations.SequencerCsrs
  rintro ⟨-, -, -, -, -, -, -, -, hboundary, -⟩
  obtain ⟨himage, hheld⟩ := State.KeepsImage.boundaryFalls codedGranState
  rw [image_nbBoundary_codedGranState] at himage
  rw [heldCopies_nbBoundary_codedGranState] at hheld
  obtain ⟨t, hexec, hkept⟩ := exec_plyBoundary_class executes_codedGranState rfl rfl (by decide) hheld himage 0
  obtain ⟨u, hu, hzero⟩ := hboundary codedGranState 0 oneWordEntry executes_codedGranState rfl rfl (by decide) (by decide)
    (by decide) rfl rfl rfl rfl
  obtain rfl : t = u := Host.Outcome.next.inj (hexec.symm.trans hu)
  rw [class_boundaryFalls_codedGranState] at hkept
  exact absurd (hzero.symm.trans hkept) (by decide)

end Sys2Proof.Machine

/-! PROOFS. Kernels (R94, R144, R145, R147, R180): the lowest free place, dispatch, and what a kernel that leaves gives
back. -/

namespace Sys2Proof.Machine

/-! ### What holds of every value of a part that was changed -/

section Ranges

variable {α : Type} {P : α → Prop} {d : α} {m : RMap α} {k : Nat}

theorem RMap.get_of_forall_or (hd : P d) (h : ∀ e ∈ m, P e.2 ∨ k < e.1) : P (RMap.get d m k) := by
  induction m generalizing d with
  | nil => exact hd
  | cons e m ih =>
    rw [RMap.get]
    split
    · exact hd
    · next hk => exact ih ((h e (by simp)).resolve_right hk) fun x hx => h x (by simp [hx])

/-- Reading in a normal form, behind entries at or below the key. -/
theorem RMap.get_norm_append [DecidableEq α] (post : RMap α) : ∀ (pre : RMap α) (d : α), (∀ e ∈ pre, e.1 ≤ k) →
    RMap.get d (RMap.norm d (pre ++ post)) k = RMap.get (RMap.get d pre k) (RMap.norm (RMap.get d pre k) post) k
  | [], _, _ => rfl
  | (j, v) :: pre, d, hpre => by
    have hj : ¬ k < j := Nat.not_lt.mpr (hpre (j, v) (by simp))
    have ih := RMap.get_norm_append post pre v fun x hx => hpre x (by simp [hx])
    rw [List.cons_append, RMap.norm, RMap.get, if_neg hj]
    split
    · next hv => rw [← hv, ih]
    · rw [RMap.get, if_neg hj, ih]

/-- What the new part says first and what its entries say has P: so has every key of the part. -/
theorem RMap.get_splice_of_forall [DecidableEq α] {ds : α} {sub : RMap α} (hfirst : P (RMap.get ds sub 0))
    (hsub : ∀ e ∈ sub, P e.2) {a n : Nat} (hlo : a ≤ k) (hhi : k < a + n) :
    P (RMap.get d (RMap.splice d m a n ds sub) k) := by
  have hlow : ∀ e ∈ m.filter fun e => decide (e.1 < a), e.1 ≤ k := by
    intro e he
    have := of_decide_eq_true (List.mem_filter.mp he).2
    omega
  rw [RMap.splice, if_neg (by omega), List.append_assoc, RMap.get_norm_append _ _ _ hlow,
    List.cons_append, ← List.singleton_append (l := _ ++ _), RMap.get_norm_append _ _ _ (by simpa using hlo)]
  have hat (w : α) : RMap.get w [(a, RMap.get ds sub 0)] k = RMap.get ds sub 0 := by simp [RMap.get, Nat.not_lt.mpr hlo]
  rw [hat]
  refine RMap.get_of_forall_or hfirst fun e he => ?_
  have hmem := RMap.norm_subset _ _ e he
  simp only [List.mem_append, List.mem_cons, List.mem_map, List.mem_filter, decide_eq_true_eq] at hmem
  rcases hmem with ⟨x, ⟨hx, -⟩, rfl⟩ | rfl | ⟨-, habove⟩
  · exact .inl (hsub x hx)
  · exact .inr hhi
  · exact .inr (by omega)

/-- A property of every value that the change gives holds at each key of the changed part. -/
theorem RMap.get_mapRange_of_forall [DecidableEq α] {f : α → α} (hf : ∀ v, P (f v)) {a n : Nat} (hlo : a ≤ k)
    (hhi : k < a + n) : P (RMap.get d (RMap.mapRange d m a n f) k) := by
  have hvals : ∀ e ∈ (RMap.slice d m a n).map fun e => (e.1, f e.2), P e.2 := by
    intro e he
    obtain ⟨x, -, rfl⟩ := List.mem_map.mp he
    exact hf x.2
  refine RMap.get_splice_of_forall ?_ hvals hlo hhi
  exact RMap.get_of_forall (d := f (RMap.get d m a)) (hf _) fun e he => hvals e (List.mem_cons_of_mem _ he)

end Ranges

/-! ### The lowest free place (R145) -/

section Kernels

variable {s : State} {b : Nat} {k : Kernel}

/-- A place of the kernel: a segment set and a context of its lanes. -/
theorem mem_places (j c : Nat) (q : Nat × Nat) :
    q ∈ (List.range j).flatMap (fun x => (List.range c).map fun y => (x, y)) ↔ q.1 < j ∧ q.2 < c := by
  obtain ⟨x, y⟩ := q
  simp

/-- The places stand in the order of their sets, and of their contexts within a set. -/
theorem places_sorted (j c : Nat) :
    ((List.range j).flatMap fun x => (List.range c).map fun y => (x, y)).Pairwise
      fun p q => p.1 < q.1 ∨ p.1 = q.1 ∧ p.2 < q.2 := by
  rw [List.pairwise_flatMap]
  refine ⟨fun x _ => ?_, ?_⟩
  · exact List.pairwise_map.mpr (List.pairwise_lt_range.imp fun h => .inr ⟨rfl, h⟩)
  · refine List.pairwise_lt_range.imp fun h => ?_
    rintro p hp q hq
    obtain ⟨_, -, rfl⟩ := List.mem_map.mp hp
    obtain ⟨_, -, rfl⟩ := List.mem_map.mp hq
    exact .inl h

theorem Kernel.place_spec {p : Nat × Nat} (h : k.place = some p) :
    p.1 < 64 / k.width ∧ p.2 < laneContexts k.regs ∧ (∀ e ∈ k.live, (e.2.set, e.2.ctx) ≠ p) ∧
      ∀ q : Nat × Nat, q.1 < 64 / k.width → q.2 < laneContexts k.regs →
        (q.1 < p.1 ∨ q.1 = p.1 ∧ q.2 < p.2) → ∃ e ∈ k.live, (e.2.set, e.2.ctx) = q := by
  obtain ⟨hfree, low, high, hlist, htaken⟩ := List.find?_eq_some_iff_append.mp h
  have hmem := (mem_places (64 / k.width) (laneContexts k.regs) p).mp (by simp [hlist])
  refine ⟨hmem.1, hmem.2, fun e he heq => ?_, fun q hset hctx hlt => ?_⟩
  · subst heq
    simp only [Bool.not_eq_true', List.any_eq_false] at hfree
    exact hfree e he (by simp)
  · have hq := (mem_places (64 / k.width) (laneContexts k.regs) q).mpr ⟨hset, hctx⟩
    have hsorted := places_sorted (64 / k.width) (laneContexts k.regs)
    rw [hlist] at hq hsorted
    obtain ⟨-, hhigh, -⟩ := List.pairwise_append.mp hsorted
    rcases List.mem_append.mp hq with hq | hq
    · obtain ⟨e, he, hset, hctx⟩ : ∃ e ∈ k.live, e.2.set = q.1 ∧ e.2.ctx = q.2 := by simpa using htaken q hq
      exact ⟨e, he, Prod.ext hset hctx⟩
    · rcases List.mem_cons.mp hq with rfl | hq
      · omega
      · have := (List.pairwise_cons.mp hhigh).1 q hq
        omega

/-! ### Dispatch (R145, R180) -/

theorem SMap.get_map_range {α : Type} (d v : α) {n i : Nat} (h : i < n) :
    SMap.get d ((List.range n).map fun t => (t, v)) i = v := by
  have hmem : ∀ l : List Nat, i ∈ l → SMap.get d (l.map fun t => (t, v)) i = v := by
    intro l
    induction l with
    | nil => simp
    | cons t l ih =>
      intro hi
      rw [List.map_cons, SMap.get]
      split
      · rfl
      · exact ih ((List.mem_cons.mp hi).resolve_left (Ne.symm ‹_›))
  exact hmem _ (List.mem_range.mpr h)

/-- A group that starts at the place p: its threads stand at the kernel's entry. -/
def Kernel.startGroup (k : Kernel) (p : Nat × Nat) : Group where
  set := p.1
  ctx := p.2
  threads := (List.range k.width).map fun t => (t, { pc := k.entry })

/-- The kernel with its next group at the place p. -/
def Kernel.dispatched (k : Kernel) (p : Nat × Nat) : Kernel :=
  { k with started := true, next := k.next + 1, live := k.live ++ [(k.next, k.startGroup p)] }

/-- What a group that starts must wait for (R180): a started command reaches into the L1 range of a kernel that has not
started. -/
def State.awaitsL1 (s : State) (b : Nat) (k : Kernel) : Bool :=
  !k.started && k.l1 != 0 && (s.startedRanges b).any fun r => decide (0 < r.2) && decide ((8 - k.l1) * 0x40000 < r.1 + r.2)

theorem execGroupDispatch_eq (hb : b < 96) (hk : (s.blk b).tg.kernel = some k) : exec (.groupDispatch b) s = .next (
    if !s.blockLive b || (s.blk b).tg.stopped || decide (k.groups ≤ k.next) then s
    else if s.awaitsL1 b k then s
    else match k.place with
      | none => s
      | some p => s.updKernel b fun k => k.dispatched p) := by
  show execGroupDispatch b s = _
  simp only [execGroupDispatch, hk]
  exact onUnit_of_exists (decide_eq_true hb) _

theorem State.awaitsL1_eq_false (h : k.started = true ∨ k.l1 = 0 ∨
      ∀ r ∈ s.startedRanges b, r.2 = 0 ∨ r.1 + r.2 ≤ (8 - k.l1) * 0x40000) :
    s.awaitsL1 b k = false := by
  rcases h with h | h | h
  · simp [State.awaitsL1, h]
  · simp [State.awaitsL1, h]
  · have hnone : ((s.startedRanges b).any fun r => decide (0 < r.2) && decide ((8 - k.l1) * 0x40000 < r.1 + r.2)) = false := by
      refine List.any_eq_false.mpr fun r hr => ?_
      have := h r hr
      simp only [Bool.and_eq_true, decide_eq_true_eq]
      omega
    rw [State.awaitsL1, hnone, Bool.and_false]

theorem runs_groupDispatch {p : Nat × Nat} (hb : b < 96) (hlive : s.blockLive b = true)
    (hstop : (s.blk b).tg.stopped = false) (hk : (s.blk b).tg.kernel = some k) (hnext : k.next < k.groups)
    (hwait : s.awaitsL1 b k = false) (hp : k.place = some p) :
    exec (.groupDispatch b) s = .next (s.updKernel b fun k => k.dispatched p) := by
  rw [execGroupDispatch_eq hb hk]
  simp [hlive, hstop, hwait, hp, Nat.not_le.mpr hnext]

theorem State.blk_updKernel_self (s : State) (b : Nat) (f : Kernel → Kernel) : (s.updKernel b f).blk b =
    { s.blk b with tg := { (s.blk b).tg with kernel := (s.blk b).tg.kernel.map f } } := s.blk_updBlk_self b _

theorem State.onlyBlock_updBlk (s : State) (b : Nat) (f : Block → Block) : OnlyBlock s (s.updBlk b f) b :=
  ⟨fun _ hc => s.blk_updBlk_of_ne hc f, rfl⟩

/-! ### A kernel that leaves (R94, R147) -/

theorem State.blk_baUnwrite_self (s : State) (b o n : Nat) : (s.baUnwrite b o n).blk b = { s.blk b with
    baSt := if n = 0 then (s.blk b).baSt
      else RMap.mapRange {} (s.blk b).baSt (o / 4) (n / 4) fun w => { w with written := false } } := by
  unfold State.baUnwrite
  split
  · rfl
  · exact s.blk_updBlk_self b _

theorem State.blk_baUnwrite_of_ne (s : State) {b c : Nat} (hc : c ≠ b) (o n : Nat) : (s.baUnwrite b o n).blk c = s.blk c := by
  unfold State.baUnwrite
  split
  · rfl
  · exact s.blk_updBlk_of_ne hc _

theorem State.baUnwrite_keeps (s : State) (b o n : Nat) :
    MemorySame s (s.baUnwrite b o n) ∧ (s.baUnwrite b o n).sch = s.sch := by
  unfold State.baUnwrite
  split
  · exact ⟨⟨rfl, rfl, rfl⟩, rfl⟩
  · exact ⟨⟨rfl, rfl, rfl⟩, rfl⟩

/-- Words of the range are unwritten. -/
theorem State.written_baUnwrite (s : State) (b : Nat) {o n x : Nat} (hlo : o / 4 ≤ x) (hhi : x < o / 4 + n / 4) :
    (((s.baUnwrite b o n).blk b).wordSt x).written = false := by
  have hn : n ≠ 0 := by omega
  rw [State.blk_baUnwrite_self, if_neg hn, Block.wordSt]
  exact RMap.get_mapRange_of_forall (P := fun w : WordSt => w.written = false)
    (f := fun w => { w with written := false }) (fun _ => rfl) hlo hhi

/-- The state without the kernel of block b. -/
def State.withoutKernel (s : State) (b : Nat) (k : Kernel) : State :=
  ((s.dropRequests b).baUnwrite b ((8 - k.l1) * 0x40000) (k.l1 * 0x40000)).updTg b fun t => { t with kernel := none, l1 := [] }

theorem runs_kernelComplete (hb : b < 96) (hlive : s.blockLive b = true) (hstop : (s.blk b).tg.stopped = false)
    (hk : (s.blk b).tg.kernel = some k) (hnext : k.groups ≤ k.next) (hnone : k.live = []) (hstore : s.anyStoreOpen b = false) :
    exec (.kernelComplete b) s = .next (s.withoutKernel b k) := by
  show execKernelComplete b s = _
  simp only [execKernelComplete, hk, hlive, hstop, hnone, hstore, Nat.not_lt.mpr hnext, List.isEmpty_nil, decide_false,
    Bool.not_true, Bool.or_self, Bool.false_eq_true, if_false]
  exact onUnit_of_exists (decide_eq_true hb) _

theorem State.blk_withoutKernel_self (s : State) (b : Nat) (k : Kernel) : (s.withoutKernel b k).blk b =
    { (s.dropRequests b).baUnwrite b ((8 - k.l1) * 0x40000) (k.l1 * 0x40000) |>.blk b with
      tg := { (s.blk b).tg with kernel := none, l1 := [] } } := by
  rw [State.withoutKernel, State.updTg, State.blk_updBlk_self, State.blk_baUnwrite_self]
  rfl

end Kernels

/-- Settles O45: the places of a kernel stand in order, so that the first free one is the lowest; and what stands in a
changed part of a word map has what every changed value has. -/
theorem kernelDispatchAndCompletion : Obligations.KernelDispatchAndCompletion := by
  unfold Obligations.KernelDispatchAndCompletion
  refine ⟨?_, ?_, fun k p hp => Kernel.place_spec hp, ?_⟩
  · intro s b k p hb hlive htrap hwd hk hnext hwait hp
    have hstop : (s.blk b).tg.stopped = false := by simp [Tg.stopped, htrap, hwd]
    refine ⟨_, runs_groupDispatch hb hlive hstop hk hnext (State.awaitsL1_eq_false hwait) hp, k.dispatched p, ?_, ?_, ?_,
      s.onlyBlock_updBlk b _⟩
    · rw [State.blk_updKernel_self, hk]
      rfl
    · exact ⟨k.startGroup p, rfl, rfl, rfl, rfl, by simp [Kernel.startGroup], fun i hi => SMap.get_map_range _ _ hi⟩
    · rw [State.blk_updKernel_self]
  · intro s b k r hb hk hstarted hl1 hr hlen htop
    refine ⟨s, ?_, rfl⟩
    have hwait : s.awaitsL1 b k = true := by
      have hany : ((s.startedRanges b).any fun r => decide (0 < r.2) && decide ((8 - k.l1) * 0x40000 < r.1 + r.2)) = true :=
        List.any_eq_true.mpr ⟨r, hr, by simp [hlen, htop]⟩
      simp [State.awaitsL1, hstarted, hl1, hany]
    rw [execGroupDispatch_eq hb hk, hwait, if_pos rfl, ite_self]
  · intro s b k hb hlive htrap hwd hk hnext hnone hstore hl1
    have hstop : (s.blk b).tg.stopped = false := by simp [Tg.stopped, htrap, hwd]
    obtain ⟨hmem, hsch⟩ := (s.dropRequests b).baUnwrite_keeps b ((8 - k.l1) * 0x40000) (k.l1 * 0x40000)
    refine ⟨_, runs_kernelComplete hb hlive hstop hk hnext hnone hstore, ?_, ?_, ?_, ?_, ?_, ?_, hmem, hsch⟩
    · rw [State.blk_withoutKernel_self]
    · rw [State.blk_withoutKernel_self]
    · rw [State.blk_withoutKernel_self, State.blk_baUnwrite_self]
      rfl
    · intro x hlo hhi
      rw [State.blk_withoutKernel_self]
      exact (s.dropRequests b).written_baUnwrite b (by omega) (by omega)
    · rw [State.blk_withoutKernel_self, State.blk_baUnwrite_self]
      rfl
    · intro c hc
      rw [State.withoutKernel, State.updTg, State.blk_updBlk_of_ne _ hc, State.blk_baUnwrite_of_ne _ hc]
      rfl

end Sys2Proof.Machine

/-! PROOFS. What a load list's writes leave as it was (R78, R79): no access of the cache die or of HBM touches the image, the
active descriptors or the slots, and none makes a channel dead. -/

namespace Sys2Proof.Machine

section KeepsLoad

variable {s t u : State}

/-! ### The relation -/

/-- The image, the active descriptors and the regions are as before, and no channel is dead that was not. -/
def State.KeepsLoad (s t : State) : Prop :=
  t.image = s.image ∧ t.hif.active = s.hif.active ∧ t.regions = s.regions ∧
    ∀ k c, (t.chan k c).state = 2 → (s.chan k c).state = 2

theorem State.KeepsLoad.of_eq (himage : t.image = s.image) (hactive : t.hif.active = s.hif.active)
    (hregions : t.regions = s.regions) (hhbm : t.hbmStacks = s.hbmStacks) : s.KeepsLoad t := by
  refine ⟨himage, hactive, hregions, fun k c h => ?_⟩
  rwa [State.chan, State.stack, hhbm] at h

theorem State.KeepsLoad.refl (s : State) : s.KeepsLoad s := .of_eq rfl rfl rfl rfl

theorem State.KeepsLoad.trans (h : s.KeepsLoad t) (g : t.KeepsLoad u) : s.KeepsLoad u := by
  obtain ⟨himage, hactive, hregions, hdead⟩ := h
  obtain ⟨gimage, gactive, gregions, gdead⟩ := g
  exact ⟨gimage.trans himage, gactive.trans hactive, gregions.trans hregions, fun k c hc => hdead k c (gdead k c hc)⟩

theorem State.KeepsLoad.ite {c : Prop} [Decidable c] (h : s.KeepsLoad t) (g : s.KeepsLoad u) :
    s.KeepsLoad (if c then t else u) := by
  split
  · exact h
  · exact g

theorem State.KeepsLoad.foldl {α : Type} {f : State → α → State} (hf : ∀ (s : State) (a : α), s.KeepsLoad (f s a))
    (l : List α) (s : State) : s.KeepsLoad (l.foldl f s) :=
  List.foldlRecOn (motive := s.KeepsLoad) l f (.refl s) fun _ ht a _ => ht.trans (hf _ a)

/-! ### Changes of a stack and of a channel -/

theorem State.chan_updStack_of_chans (s : State) (n : Nat) {f : Stack → Stack} (hf : ∀ k, (f k).chans = k.chans) (k c : Nat) :
    (s.updStack n f).chan k c = s.chan k c := by
  rw [State.chan, State.stack_updStack]
  split
  · next hk => rw [hf, hk]; rfl
  · rfl

theorem State.chan_updChan (s : State) (n m : Nat) (f : Chan → Chan) (k c : Nat) :
    (s.updChan n m f).chan k c = if k = n ∧ c = m then f (s.chan n m) else s.chan k c := by
  rw [State.chan, State.updChan, State.stack_updStack]
  by_cases hk : k = n
  · subst hk
    simp only [if_true, true_and]
    rw [SMap.get_upd]
    rfl
  · simp only [hk, if_false, false_and]
    rfl

theorem State.KeepsLoad.updStack (s : State) (n : Nat) (f : Stack → Stack)
    (hf : ∀ k, (f k).chans = k.chans := by intro _; rfl) : s.KeepsLoad (s.updStack n f) :=
  ⟨rfl, rfl, rfl, fun k c h => by rwa [State.chan_updStack_of_chans s n hf] at h⟩

theorem State.KeepsLoad.updChan (s : State) (n m : Nat) (f : Chan → Chan)
    (hf : ∀ c, (f c).state = 2 → c.state = 2 := by intro _ h; exact h) : s.KeepsLoad (s.updChan n m f) := by
  refine ⟨rfl, rfl, rfl, fun k c h => ?_⟩
  rw [State.chan_updChan] at h
  split at h
  · next hk => rw [hk.1, hk.2]; exact hf _ h
  · exact h

theorem State.KeepsLoad.ccd (s : State) (c : Ccd) : s.KeepsLoad { s with ccd := c } := .refl s

theorem State.KeepsLoad.hbm (s : State) (m : Mem) : s.KeepsLoad { s with hbm := m } := .refl s

theorem State.KeepsLoad.hbmWords (s : State) (w : RMap HWord) : s.KeepsLoad { s with hbmWords := w } := .refl s

theorem State.KeepsLoad.updSlice (s : State) (n : Nat) (f : Slice → Slice) : s.KeepsLoad (s.updSlice n f) := .refl s

theorem State.KeepsLoad.tookFree (s : State) : s.KeepsLoad s.tookFree := .refl s

theorem State.KeepsLoad.serveAs (s : State) (c m : Nat) : s.KeepsLoad (s.serveAs c m) := .refl s

theorem State.KeepsLoad.updLine (s : State) (L : Nat) (f : Line → Line) : s.KeepsLoad (s.updLine L f) := .refl s

theorem State.KeepsLoad.touchLine (s : State) (L : Nat) : s.KeepsLoad (s.touchLine L) := .refl s

theorem State.KeepsLoad.dropLine (s : State) (L : Nat) : s.KeepsLoad (s.dropLine L) := .refl s

/-! ### Records and events -/

theorem State.KeepsLoad.post (s : State) (a : RecArg) : s.KeepsLoad (s.post a) := by
  refine .of_eq (State.post_image s a) ?_ (State.post_regions s a) (State.post_hbmStacks s a)
  unfold State.post
  grind [State.mgmtStore, State.postEvent_active, State.rollWindow_hif]

theorem State.KeepsLoad.postSyndrome (s : State) (n : Nat) (a : RecArg) : s.KeepsLoad (s.postSyndrome n a) :=
  (State.KeepsLoad.post s _).trans (.tookFree _)

theorem State.KeepsLoad.hbmPoisonRec (s : State) (p : Place) (c d a : Nat) : s.KeepsLoad (s.hbmPoisonRec p c d a) := .post s _

/-! ### Arbiters and counters (R375-R381) -/

theorem State.KeepsLoad.qosAdd (s : State) (r n : Nat) : s.KeepsLoad (s.qosAdd r n) := by
  unfold State.qosAdd
  split
  · exact .refl s
  · exact .of_eq rfl rfl rfl rfl

theorem State.KeepsLoad.qosPick {r a : Nat} {size : Nat → Nat} {rs : List (Nat × Nat × Nat)} {x : Nat × State}
    (h : s.qosPick r a size rs = some x) : s.KeepsLoad x.2 := by
  unfold State.qosPick at h
  dsimp only at h
  split at h
  · obtain rfl := Option.some.inj h
    exact .of_eq rfl rfl rfl rfl
  · split at h
    · cases h
    · split at h
      · cases h
      · obtain rfl := Option.some.inj h
        exact .of_eq rfl rfl rfl rfl

theorem State.KeepsLoad.chanGrant (s : State) (w : Bool) (k c n : Nat) : s.KeepsLoad (s.chanGrant w k c n) := by
  unfold State.chanGrant
  split
  · exact .refl s
  · refine .ite (.refl s) ?_
    cases hpick : s.qosPick (2 + k) (chanArb k c) (fun _ => n) _ with
    | none => exact .refl s
    | some x => exact .qosPick hpick

theorem State.KeepsLoad.tieGrant (s : State) (a i : Nat) : s.KeepsLoad (s.tieGrant a i) := .refl s

theorem State.KeepsLoad.routeGrant (s : State) (L : Nat) : s.KeepsLoad (s.routeGrant L) := by
  unfold State.routeGrant
  split
  · exact .refl s
  · next m _ =>
    have hin := State.KeepsLoad.tieGrant s (xbarArb (m / 12)) (m % 12)
    exact .ite (.refl s) (.ite hin (hin.trans (.tieGrant _ _ _)))

theorem State.KeepsLoad.bankGrant {w : Bool} {L n : Nat} {out : CReq → Bool} (h : s.bankGrant w L n out = some t) :
    s.KeepsLoad t := by
  unfold State.bankGrant at h
  dsimp only at h
  split at h
  · split at h
    · obtain rfl := Option.some.inj h
      exact .refl s
    · cases h
  · split at h
    · obtain rfl := Option.some.inj h
      exact .refl s
    · split at h
      · next hpick =>
        obtain rfl := Option.some.inj h
        exact .qosPick hpick
      · cases h

theorem State.KeepsLoad.granted (s : State) (w : Bool) (L n : Nat) : s.KeepsLoad (s.granted w L n) := by
  unfold State.granted
  cases hgrant : s.bankGrant w L n fun _ => true with
  | none => exact .refl s
  | some t => exact .bankGrant hgrant

/-! ### HBM words and sectors -/

theorem State.KeepsLoad.refuseRemap (s : State) (p : Place) : s.KeepsLoad (s.refuseRemap p) := by
  unfold State.refuseRemap
  refine .trans ?_ (.post _ _)
  exact (State.KeepsLoad.updChan s p.stk p.ch _).trans (.updStack _ p.stk _)

theorem State.KeepsLoad.candidate (s : State) (p : Place) : s.KeepsLoad (s.candidate p) := by
  unfold State.candidate
  exact .ite (.refl s) (.ite (.refuseRemap s p) (.updChan s _ _ _))

theorem State.KeepsLoad.hbmCorrected (s : State) (p : Place) : s.KeepsLoad (s.hbmCorrected p) := by
  unfold State.hbmCorrected
  have hcount := State.KeepsLoad.updStack s p.stk fun k => { k with ce := satAdd k.ce 1 }
  have hrow := hcount.trans (.updChan _ p.stk p.ch fun c =>
    { c with rowErrs := SMap.upd 0 c.rowErrs (65536 * p.b + p.row) (· + 1) })
  exact .ite (hrow.trans (.candidate _ p)) hrow

theorem State.KeepsLoad.hbmWord (s : State) (L w : Nat) : s.KeepsLoad (s.hbmWord L w).1 := by
  have hcount (c d : Nat) := (State.KeepsLoad.updStack s (place L).stk fun k => { k with ue := satAdd k.ue 1 }).trans
    (.hbmPoisonRec _ (place L) c d (L * 1024 + 32 * w))
  unfold State.hbmWord
  dsimp only
  split
  · exact .refl s
  · split
    · exact .refl s
    · split
      · exact .refl s
      · exact .hbmCorrected s _
      · exact hcount 2 3
      · exact hcount 2 4
      · exact (hcount 2 2).trans (.candidate _ _)

theorem State.KeepsLoad.stuckAgain (s : State) (L w n : Nat) : s.KeepsLoad (s.stuckAgain L w n) := by
  unfold State.stuckAgain
  split
  · exact .of_eq rfl rfl rfl rfl
  · exact .refl s

theorem State.KeepsLoad.fetchSector (s : State) (L q : Nat) : s.KeepsLoad (s.fetchSector L q) := by
  unfold State.fetchSector
  extract_lets p counted data ccd copied read ccd'
  have hcopied : s.KeepsLoad copied := (State.KeepsLoad.qosAdd s _ 256).trans (.ccd _ _)
  have hread : copied.KeepsLoad read := by
    refine State.KeepsLoad.foldl (fun s i => ?_) _ copied
    exact (State.KeepsLoad.hbmWord s L (8 * q + i)).trans (.ccd _ _)
  exact ((hcopied.trans hread).trans (.ccd _ _)).trans (.stuckAgain _ _ _ _)

theorem State.KeepsLoad.hbmStore (s : State) (L q : Nat) (d : Mem) (w : RMap CWord) : s.KeepsLoad (s.hbmStore L q d w) := by
  unfold State.hbmStore
  extract_lets p counted stored opn
  have hstored : s.KeepsLoad stored := (State.KeepsLoad.qosAdd s _ 256).trans (.hbm _ _)
  refine hstored.trans (State.KeepsLoad.foldl (fun s i => ?_) _ stored)
  exact .ite ((State.KeepsLoad.hbmWords s _).trans (.postSyndrome _ 8 _)) (.hbmWords s _)

theorem State.KeepsLoad.openBank (s : State) (p : Place) : s.KeepsLoad (s.openBank p) := .updChan s _ _ _

theorem State.KeepsLoad.hbmPut (s : State) (L : Nat) (m : BitVec 4) (d : Mem) (w : RMap CWord) :
    s.KeepsLoad (s.hbmPut L m d w) := by
  unfold State.hbmPut
  refine .ite (.refl s) (.ite (.hbmPoisonRec s _ _ _ _) ?_)
  refine (State.KeepsLoad.openBank s (place L)).trans (State.KeepsLoad.foldl (fun s q => ?_) _ _)
  exact .ite (.hbmStore s _ _ _ _) (.refl s)

/-! ### Interface errors (R259, R260) -/

theorem State.KeepsLoad.retrain (s : State) (k c : Nat) : s.KeepsLoad (s.retrain k c) := by
  unfold State.retrain
  exact .ite (.refl s) (.ite (.updChan s k c _) (.updChan s k c _ fun _ h => by cases h))

theorem State.KeepsLoad.crcFailed (s : State) (k c n : Nat) : s.KeepsLoad (s.crcFailed k c n) := by
  unfold State.crcFailed
  refine .ite (.refl s) ((State.KeepsLoad.updChan s k c fun c => { c with
    crc := satAdd c.crc n, crcTicks := (List.replicate n s.tick ++ c.crcTicks).take 16 }).trans ?_)
  dsimp only
  split
  · exact .ite (.retrain _ k c) (.refl _)
  · exact .refl _

theorem State.KeepsLoad.failedRead (s : State) (L : Nat) (m : BitVec 4) : s.KeepsLoad (s.failedRead L m).1 :=
  (State.KeepsLoad.tookFree s).trans (.foldl (fun s _ => .hbmPoisonRec s _ _ _ _) _ _)

theorem State.KeepsLoad.poisonRead (s : State) (L : Nat) (m : BitVec 4) : s.KeepsLoad (s.poisonRead L m) :=
  .ite (.failedRead s L m) ((State.KeepsLoad.failedRead s L m).trans (.foldl (fun s _ => .ccd s _) _ _))

theorem State.KeepsLoad.tornPut (s : State) (L : Nat) (m : BitVec 4) (d : Mem) (w : RMap CWord) :
    s.KeepsLoad (s.tornPut L m d w) := by
  unfold State.tornPut
  refine .trans ?_ (.hbmPoisonRec _ _ _ _ _)
  refine (State.KeepsLoad.hbmPut s.tookFree L m d w).trans (.foldl (fun t i => ?_) _ _)
  exact .ite (.of_eq rfl rfl rfl rfl) (.refl t)

theorem State.KeepsLoad.crcMet (s : State) (p : Place) : s.KeepsLoad (s.crcMet p).1 := by
  have hmet := State.KeepsLoad.updChan s p.stk p.ch fun c => { c with crcDue := 0 }
  unfold State.crcMet
  dsimp only
  split
  · exact .refl s
  · split
    · exact hmet.trans (.crcFailed _ _ _ _)
    · exact hmet.trans (.crcFailed _ _ _ _)

theorem State.KeepsLoad.putNow (s : State) (L : Nat) (m : BitVec 4) (d : Mem) (w : RMap CWord) :
    s.KeepsLoad (s.putNow L m d w) := by
  unfold State.putNow
  have hmet : s.KeepsLoad ((s.chanGrant true (place L).stk (place L).ch (256 * sectorCount m)).crcMet (place L)).1 :=
    (State.KeepsLoad.chanGrant s _ _ _ _).trans (.crcMet _ _)
  exact .ite (.refl s) (.ite (hmet.trans (.tornPut _ _ _ _ _)) (hmet.trans (.hbmPut _ _ _ _ _)))

/-! ### Lines of the cache die -/

theorem State.KeepsLoad.countUe (s : State) (L n : Nat) : s.KeepsLoad (s.countUe L n) := .ite (.refl s) (.updSlice s _ _)

theorem State.KeepsLoad.countCe (s : State) (L w n : Nat) : s.KeepsLoad (s.countCe L w n) := by
  unfold State.countCe
  refine .ite (.refl s) ((State.KeepsLoad.updSlice s (lineSlice L) _).trans (State.KeepsLoad.foldl (fun s e => ?_) _ _))
  exact State.KeepsLoad.foldl (fun s i => .postSyndrome s _ _) _ s

theorem State.KeepsLoad.drainLine (s : State) (L : Nat) : s.KeepsLoad (s.drainLine L) := by
  unfold State.drainLine
  refine .ite (.refl s) ?_
  have hqueue := State.KeepsLoad.updChan s (place L).stk (place L).ch fun c =>
    { c with queue := c.queue.filter fun r => !(r.write && r.line == L) }
  refine hqueue.trans (State.KeepsLoad.foldl (fun s r => ?_) _ _)
  exact (State.KeepsLoad.serveAs s r.cls r.master).trans (.putNow _ _ _ _ _)

theorem State.KeepsLoad.countPut (s : State) (L : Nat) (m : BitVec 4) : s.KeepsLoad (s.countPut L m) :=
  .foldl (fun s _ => .ite ((State.KeepsLoad.countCe s _ _ _).trans (.countUe _ _ _)) (.refl s)) _ s

theorem State.KeepsLoad.hbmSend (s : State) (r : HReq) : s.KeepsLoad (s.hbmSend r) := by
  unfold State.hbmSend
  refine .updChan s _ _ _ fun c h => ?_
  split at h
  · exact h
  · exact h

theorem State.KeepsLoad.putLine (s : State) (L : Nat) (m : BitVec 4) : s.KeepsLoad (s.putLine L m) :=
  (State.KeepsLoad.countPut s L m).trans (.ite (.hbmSend _ _) ((State.KeepsLoad.drainLine _ L).trans (.putNow _ _ _ _ _)))

theorem State.KeepsLoad.writeBack (s : State) (L : Nat) : s.KeepsLoad (s.writeBack L) := by
  unfold State.writeBack
  split
  · exact .refl s
  · exact .ite (.refl s) ((State.KeepsLoad.putLine s L _).trans (.updLine _ _ _))

theorem State.KeepsLoad.allocLine (s : State) (L : Nat) : s.KeepsLoad (s.allocLine L) := by
  unfold State.allocLine
  split
  · exact .refl s
  · split
    · exact .refl s
    · next w ev _ =>
      cases ev with
      | none => exact .of_eq rfl rfl rfl rfl
      | some v => exact (State.KeepsLoad.writeBack s v).trans (.dropLine _ v)

theorem State.KeepsLoad.fetchNow (s : State) (L : Nat) (m : BitVec 4) (q : Nat) : s.KeepsLoad (s.fetchNow L m q) := by
  unfold State.fetchNow
  extract_lets p drained opened
  have hdrain : s.KeepsLoad drained := .drainLine s L
  have hopen : drained.KeepsLoad opened := .ite (.hbmPoisonRec _ _ _ _ _) (.openBank _ p)
  refine (hdrain.trans hopen).trans (State.KeepsLoad.foldl (fun s q => ?_) _ _)
  exact .ite (.fetchSector s L q) (.refl s)

theorem State.KeepsLoad.fetchMissing (s : State) (L : Nat) (m : BitVec 4) (q : Nat) : s.KeepsLoad (s.fetchMissing L m q) := by
  unfold State.fetchMissing
  split
  · exact .refl s
  · next l _ =>
    have hmet : s.KeepsLoad ((s.chanGrant false (place L).stk (place L).ch (256 * sectorCount (m &&& ~~~ l.valid))).crcMet
        (place L)).1 := (State.KeepsLoad.chanGrant s _ _ _ _).trans (.crcMet _ _)
    have hfetch := hmet.trans (.fetchNow _ L (m &&& ~~~ l.valid) q)
    exact .ite (.refl s) (.ite (hfetch.trans (.poisonRead _ _ _)) hfetch)

theorem State.KeepsLoad.clearDead (s : State) (L : Nat) : s.KeepsLoad (s.clearDead L).1 := by
  unfold State.clearDead
  dsimp only
  split
  · exact .updSlice s _ _
  · exact .refl s

theorem State.KeepsLoad.secded (s : State) (L q w n : Nat) : s.KeepsLoad (s.secded L q w n) := by
  unfold State.secded
  extract_lets ce counted ccd fixed bad dirty ccd' poisoned posted refetched ccd'' cleared
  have hfixed : s.KeepsLoad fixed := (State.KeepsLoad.countCe s L w n).trans (.ite (.refl _) (.ccd _ _))
  have hpoisoned : s.KeepsLoad poisoned := hfixed.trans (.ccd _ _)
  have hposted : s.KeepsLoad posted := by
    refine hpoisoned.trans (State.KeepsLoad.foldl (fun s e => ?_) _ _)
    refine State.KeepsLoad.foldl (fun s i => ?_) _ _
    exact (State.KeepsLoad.updSlice s (lineSlice L) _).trans (.postSyndrome _ _ _)
  have hcleared : s.KeepsLoad cleared := (hfixed.trans (.updSlice _ (lineSlice L) _)).trans (.ccd _ _)
  exact .ite (.ite hfixed (hfixed.trans (.stuckAgain _ _ _ _)))
    (.ite (hposted.trans (.stuckAgain _ _ _ _)) (hcleared.trans (.updLine _ _ _)))

theorem State.KeepsLoad.stuckPoison (s : State) (L w n : Nat) : s.KeepsLoad (s.stuckPoison L w n) :=
  .ite (.refl s) ((State.KeepsLoad.countUe s L (s.bads w n)).trans (.of_eq rfl rfl rfl rfl))

theorem State.KeepsLoad.checkLine (s : State) (L o n : Nat) : s.KeepsLoad (s.checkLine L o n) := by
  refine .foldl (fun s q => ?_) _ s
  dsimp only
  refine .ite (.refl s) ((State.KeepsLoad.secded s L q _ _).trans (.ite (.refl _) ?_))
  exact (State.KeepsLoad.fetchMissing _ _ _ _).trans (.stuckPoison _ _ _ _)

/-! ### The journal (R55-R57, R227) -/

theorem State.KeepsLoad.journalAdd (s : State) (e : JEntry) : s.KeepsLoad (s.journalAdd e) := by
  unfold State.journalAdd
  split
  · refine (State.KeepsLoad.qosAdd s 1 1024).trans (.ite (.of_eq rfl rfl rfl rfl) (.of_eq rfl rfl rfl rfl))
  · exact .of_eq rfl rfl rfl rfl

theorem State.KeepsLoad.journalLine (s : State) (L : Nat) : s.KeepsLoad (s.journalLine L) :=
  .ite (.refl s) ((State.KeepsLoad.fetchMissing s L 0xF 0).trans (.journalAdd _ _))

theorem State.KeepsLoad.journalGranule (s : State) (b g : Nat) : s.KeepsLoad (s.journalGranule b g) :=
  .ite (.refl s) (.journalAdd s _)

theorem State.KeepsLoad.journalGranules (s : State) (b o n : Nat) : s.KeepsLoad (s.journalGranules b o n) :=
  .ite (.refl s) (.foldl (fun s _ => .journalGranule s _ _) _ s)

/-! ### Bulk writes -/

theorem State.KeepsLoad.linePut (s : State) (L o n : Nat) (d : Mem) (p : RMap Bool) : s.KeepsLoad (s.linePut L o n d p) := by
  unfold State.linePut
  refine .ite (.refl s) ?_
  extract_lets cleared allocated part journalled fetched first last w0 w1 old keep new new' new'' ccd written
  have hjournalled : s.KeepsLoad journalled :=
    ((State.KeepsLoad.clearDead s L).trans (.allocLine _ L)).trans (.journalLine _ L)
  have hfetched : journalled.KeepsLoad fetched := by
    unfold fetched
    split
    · exact .ite (.refl _) (.fetchMissing _ _ _ _)
    · exact .refl _
  have hfirst : fetched.KeepsLoad first := .ite (.refl _) (.checkLine _ _ _ _)
  have hlast : first.KeepsLoad last := .ite (.refl _) (.checkLine _ _ _ _)
  have hwritten : s.KeepsLoad written := ((hjournalled.trans hfetched).trans (hfirst.trans hlast)).trans (.ccd _ _)
  exact ((hwritten.trans (.updLine _ _ _)).trans (.touchLine _ L)).trans (.stuckAgain _ _ _ _)

theorem State.KeepsLoad.lineWrite (s : State) (L o n : Nat) (d : Mem) (p : RMap Bool) :
    s.KeepsLoad (s.lineWrite L o n d p) :=
  .ite (.refl s) ((State.KeepsLoad.granted s true L n).trans ((State.KeepsLoad.routeGrant _ L).trans
    ((State.KeepsLoad.qosAdd _ 1 n).trans (.linePut _ _ _ _ _ _))))

theorem State.KeepsLoad.devWrite (s : State) (A n : Nat) (d : Mem) (p : RMap Bool) : s.KeepsLoad (s.devWrite A n d p) :=
  .foldl (fun s _ => .lineWrite s _ _ _ _ _) _ s

theorem State.KeepsLoad.baWrite (s : State) (b o n : Nat) (d : Mem) (p : RMap Bool) : s.KeepsLoad (s.baWrite b o n d p) :=
  .ite (.refl s) (State.KeepsLoad.journalGranules s b o n)

/-! ### Load lists (R78, R79) -/

theorem State.KeepsLoad.loadWrite (s : State) (l : LoadEntry) (o n : Nat) (d : Mem) : s.KeepsLoad (s.loadWrite l o n d) :=
  .ite (.devWrite s _ _ _ _) (.ite (.baWrite s _ _ _ _ _) (.refl s))

theorem State.KeepsLoad.loadStopped (s : State) (d : Mem) (l : LoadEntry) : s.KeepsLoad (s.loadStopped d l) := by
  refine .foldl (fun s i => ?_) _ s
  exact .ite ((State.KeepsLoad.tookFree s).trans (.loadWrite _ _ _ _ _)) (.tookFree s)

/-- An entry that pins nothing, with no channel dead, is written. -/
theorem State.loadOne_of_no_dead (hdead : ∀ k c, (s.chan k c).state ≠ 2) {l : LoadEntry} (hpin : l.kind ≠ 1) (d : Mem) :
    s.loadOne d l = (s.loadWrite l 0 l.length d, 0) := by
  have hentry : s.entryDead l = false := by
    simp [State.entryDead, hdead]
  rw [State.loadOne, hentry, if_neg Bool.false_ne_true, if_neg hpin]

/-- Entries that pin nothing, with no channel dead, are all written. -/
theorem State.loadAll_of_no_dead (l : List (Mem × LoadEntry)) (hpin : ∀ x ∈ l, x.2.kind ≠ 1) :
    ∀ s : State, (∀ k c, (s.chan k c).state ≠ 2) → (State.loadAll l s).2 = 0 ∧ s.KeepsLoad (State.loadAll l s).1 := by
  induction l with
  | nil => exact fun s _ => ⟨rfl, .refl s⟩
  | cons x l ih =>
    intro s hdead
    have hwrite := State.KeepsLoad.loadWrite s x.2 0 x.2.length x.1
    obtain ⟨hreason, hrest⟩ := ih (fun y hy => hpin y (by simp [hy])) _ fun k c h => hdead k c (hwrite.2.2.2 k c h)
    rw [State.loadAll, State.loadOne_of_no_dead hdead (hpin x (by simp))]
    exact ⟨hreason, hwrite.trans hrest⟩

end KeepsLoad

end Sys2Proof.Machine

/-! PROOFS. Control descriptors: what one that starts runs (R357, R364), and IMAGE_LOAD (R78-R80). -/

namespace Sys2Proof.Machine

/-! ### A descriptor that starts (R357, R364) -/

section Starting

variable {s t : State} {q : Nat} {d : List W32}

/-- The active entry of descriptor d of ring q, which starts now. -/
def State.started (s : State) (q : Nat) (d : List W32) : Active where
  uid := s.hif.nextUid
  sq := q
  dws := d
  st := .running

/-- A descriptor that starts and is its row's own has the row's effect. -/
theorem Starts.descRow_eq (h : Starts s q d) {mine : List W32 → Bool} (hmine : mine d = true)
    (run : Active → State → State) : descRow q s mine run = .next (run (s.started q d) (s.beginDesc q d)) := by
  obtain ⟨hq, hpick, hstart, hpass⟩ := h
  have hrun : s.startDesc q mine run = run (s.started q d) (s.beginDesc q d) := by
    simp only [State.startDesc, hpick, hstart, hmine, hpass, ne_eq, not_true_eq_false, Bool.not_true, Bool.false_eq_true,
      if_false]
    rfl
  rw [descRow, hrun, onUnit_of_exists (decide_eq_true hq)]

theorem State.started_mem_active (s : State) (q : Nat) (d : List W32) :
    s.started q d ∈ (s.beginDesc q d).hif.active := List.mem_append_right _ (List.mem_singleton_self _)

/-- A descriptor that started has not finished where the active ones stay as they are. -/
theorem State.waits_of_active (h : t.hif.active = (s.beginDesc q d).hif.active) : Waits s t :=
  ⟨s.started q d, h ▸ s.started_mem_active q d, rfl, rfl⟩

/-- A descriptor that started ends where it finishes. -/
theorem State.ended_finish (h : t.hif.active = (s.beginDesc q d).hif.active) (status reason value : Nat) :
    Ended s (t.finish s.hif.nextUid status reason 0 value) status reason value := by
  refine ⟨{ s.started q d with st := .done status reason 0 value }, ?_, rfl, rfl⟩
  refine List.mem_map.mpr ⟨s.started q d, h ▸ s.started_mem_active q d, ?_⟩
  simp [State.started]

/-- What a descriptor that passes check 2 of R364 may rely on (Table 13.7). -/
theorem Starts.permitted (h : Starts s q d) : s.dwPermitted d = true := by
  have hpass := h.2.2.2
  unfold State.dwRefused at hpass
  grind

theorem Starts.rangesOk (h : Starts s q d) : dwRangesOk d = true := by
  have hpass := h.2.2.2
  unfold State.dwRefused dwWellFormed at hpass
  grind

end Starting

/-! ### IMAGE_LOAD (R78-R80) -/

section Images

variable {s : State} {q : Nat} {d : List W32} {rd : HostRead} {m : Mem} {im : Image}

theorem Starts.imageLoad_eq (h : Starts s q d) (hop : dwOp d = 0x08) (hwait : s.imageWaits d rd = false) :
    exec (.imageLoad q rd) s = .next (State.imageLoad (s.started q d) rd (s.beginDesc q d)) :=
  h.descRow_eq (by simp [isOp, hop, hwait]) (State.imageLoad · rd)

/-- The load entries are those of the sections' lists. -/
theorem kind_of_mem_loadsOf {secs : List Section} (hpin : ∀ x ∈ secs, ∀ l ∈ x.loads, l.kind ≠ 1) (m : Mem) :
    ∀ e ∈ loadsOf m secs, e.2.kind ≠ 1 := by
  intro e he
  obtain ⟨x, hx, he⟩ := List.mem_flatMap.mp he
  obtain ⟨l, hl, rfl⟩ := List.mem_map.mp he
  exact hpin x hx l hl

/-- An image whose read fails on the way leaves what was written, and no image. -/
theorem State.loadCut_spec (hdead : ∀ k c, (s.chan k c).state ≠ 2) (cls ldev len n : Nat)
    (hcheck : imgCheck (s.loadEnv ldev) m len = .inr im) (hpin : ∀ x ∈ im.own :: im.served, ∀ l ∈ x.loads, l.kind ≠ 1) :
    ∃ t, s.loadCut cls ldev len m n = (t, 8, 0) ∧ s.discardImage.KeepsLoad t := by
  have hkind := kind_of_mem_loadsOf hpin m
  obtain ⟨hreason, hkeep⟩ := State.loadAll_of_no_dead ((loadsOf m (im.own :: im.served)).take n)
    (fun e he => hkind e (List.mem_of_mem_take he)) (s.discardImage.serveAs cls 96) hdead
  have hcheck' : imgCheck (s.discardImage.loadEnv ldev) m len = .inr im := hcheck
  simp only [State.loadCut, hcheck', hreason]
  cases (loadsOf m (im.own :: im.served))[n]? with
  | none => exact ⟨_, rfl, hkeep⟩
  | some x => exact ⟨_, rfl, hkeep.trans (.loadStopped _ _ _)⟩

/-- An image that passes its checks is placed once its lists are loaded. -/
theorem State.loadImage_spec (hdead : ∀ k c, (s.chan k c).state ≠ 2) (cls ldev len : Nat)
    (hcheck : imgCheck (s.loadEnv ldev) m len = .inr im) (hpin : ∀ x ∈ im.own :: im.served, ∀ l ∈ x.loads, l.kind ≠ 1) :
    ∃ t : State, s.loadImage cls ldev len m = (t.placeImage im, 0, 0) ∧ s.discardImage.KeepsLoad t := by
  obtain ⟨hreason, hkeep⟩ := State.loadAll_of_no_dead (loadsOf m (im.own :: im.served)) (kind_of_mem_loadsOf hpin m)
    (s.discardImage.serveAs cls 96) hdead
  have hcheck' : imgCheck (s.discardImage.loadEnv ldev) m len = .inr im := hcheck
  exact ⟨_, by simp only [State.loadImage, hcheck', hreason, if_true], hkeep⟩

/-! ### Code blobs in the ply-code area -/

/-- One section's blob after those before it. -/
def placeBlob (acc : Mem × Nat) (x : Section) : Mem × Nat := (Mem.splice acc.1 acc.2 x.blobLen x.blob, acc.2 + x.blobLen)

theorem get_foldl_placeBlob (l : List Section) {i : Nat} : ∀ acc : Mem × Nat, i < acc.2 →
    Mem.get (l.foldl placeBlob acc).1 i = Mem.get acc.1 i := by
  induction l with
  | nil => exact fun _ _ => rfl
  | cons x l ih =>
    intro acc hi
    rw [List.foldl_cons, ih _ (Nat.lt_add_right _ hi), placeBlob, Mem.get_splice, if_neg (by omega)]

/-- The own blob stands at the start of the area. -/
theorem get_placed_own (x : Section) (l : List Section) {i : Nat} (hi : i < x.blobLen) :
    Mem.get ((x :: l).foldl placeBlob ([], 0)).1 i = Mem.get x.blob i := by
  rw [List.foldl_cons, get_foldl_placeBlob l _ (by simpa [placeBlob] using hi), placeBlob, Mem.get_splice,
    if_pos ⟨Nat.zero_le _, by simpa using hi⟩, Nat.sub_zero]

/-! ### Sequencers of mapped blocks -/

/-- A sequencer whose base segment is loaded has an empty overlay slot, and nothing but it changed. -/
theorem State.loadSeq_empty (s : State) (b : Nat) :
    ∃ f : Seq → Seq, s.loadSeq b 0xFFFF = s.updSeq b f ∧ ∀ k, (f k).overlay = 0xFFFF := by
  unfold State.loadSeq
  refine ⟨_, if_pos rfl, fun k => ?_⟩
  dsimp only
  split
  · rfl
  · rfl

/-- Only the blocks changed. -/
def State.BlocksOnly (s t : State) : Prop := t = { s with blocks := t.blocks }

theorem State.BlocksOnly.trans {t u : State} (h : s.BlocksOnly t) (g : t.BlocksOnly u) : s.BlocksOnly u := by
  unfold State.BlocksOnly at *
  rw [g, h]

/-- Loads the base segment of block b when a slot holds it. -/
def State.loadMapped (s : State) (b : Nat) : State := if (s.slotOf b).isSome then s.loadSeq b 0xFFFF else s

theorem State.loadMapped_spec (s : State) (b : Nat) : s.BlocksOnly (s.loadMapped b) ∧
    ((s.slotOf b).isSome = true → ((s.loadMapped b).blk b).seq.overlay = 0xFFFF) ∧
    ∀ c, (s.blk c).seq.overlay = 0xFFFF → ((s.loadMapped b).blk c).seq.overlay = 0xFFFF := by
  unfold State.loadMapped
  split
  · obtain ⟨f, hload, hempty⟩ := s.loadSeq_empty b
    rw [hload]
    refine ⟨rfl, fun _ => by rw [State.blk_updSeq_self, hempty], fun c hc => ?_⟩
    by_cases hcb : c = b
    · rw [hcb, State.blk_updSeq_self, hempty]
    · rwa [State.blk_updSeq_of_ne _ hcb]
  · next hslot => exact ⟨rfl, fun h => absurd h hslot, fun c hc => hc⟩

theorem State.slotOf_of_regions {t : State} (h : t.regions = s.regions) (b : Nat) : t.slotOf b = s.slotOf b := by
  simp only [State.slotOf, State.slotOfLocal, State.region, h]

/-- Every mapped block of a list has its base segment and an empty overlay slot. -/
theorem State.foldl_loadMapped (l : List Nat) : ∀ s : State, s.BlocksOnly (l.foldl State.loadMapped s) ∧
    ∀ b, (b ∈ l ∧ (s.slotOf b).isSome = true ∨ (s.blk b).seq.overlay = 0xFFFF) →
      ((l.foldl State.loadMapped s).blk b).seq.overlay = 0xFFFF := by
  induction l with
  | nil => exact fun s => ⟨rfl, fun b hb => hb.resolve_left fun h => by cases h.1⟩
  | cons a l ih =>
    intro s
    obtain ⟨honly, hself, hstay⟩ := s.loadMapped_spec a
    obtain ⟨hrest, hempty⟩ := ih (s.loadMapped a)
    refine ⟨honly.trans hrest, fun b hb => hempty b ?_⟩
    rw [State.slotOf_of_regions (t := s.loadMapped a) (by rw [honly])]
    rcases hb with ⟨hb, hslot⟩ | hover
    · rcases List.mem_cons.mp hb with rfl | hb
      · exact .inr (hself hslot)
      · exact .inl ⟨hb, hslot⟩
    · exact .inr (hstay b hover)

/-- What placing an image leaves (R80). -/
theorem State.placeImage_spec (s : State) (im : Image) :
    (s.placeImage im).image = some im ∧ (s.placeImage im).hif = s.hif ∧
    (∀ i, i < im.own.blobLen → Mem.get (s.placeImage im).ccd.plyCode i = Mem.get im.own.blob i) ∧
    ∀ b, b < 96 → (s.slotOf b).isSome = true → ((s.placeImage im).blk b).seq.overlay = 0xFFFF := by
  have hplace : s.placeImage im = (List.range 96).foldl State.loadMapped { s with
      image := some im
      ccd := { s.ccd with plyCode := ((im.own :: im.served).foldl placeBlob ([], 0)).1, plyChk := [] }
      blocks := SMap.mapVals {} s.blocks fun B => { B with tg := { B.tg with icChk := [] } } } := rfl
  rw [hplace]
  obtain ⟨honly, hempty⟩ := State.foldl_loadMapped (List.range 96) { s with
      image := some im
      ccd := { s.ccd with plyCode := ((im.own :: im.served).foldl placeBlob ([], 0)).1, plyChk := [] }
      blocks := SMap.mapVals {} s.blocks fun B => { B with tg := { B.tg with icChk := [] } } }
  refine ⟨by rw [honly], by rw [honly], fun i hi => ?_, fun b hb hslot => hempty b (.inl ⟨List.mem_range.mpr hb, hslot⟩)⟩
  rw [honly]
  exact get_placed_own im.own im.served hi

/-! ### The rows of IMAGE_LOAD -/

theorem Starts.runs_imageLoad_refused (h : Starts s q d) (hop : dwOp d = 0x08) {r : Nat}
    (hcheck : imgCheck (s.loadEnv (bitsN (dwN d 6) 14 0)) (Mem.take m (dwQ d 4)) (dwQ d 4) = .inl r) :
    Runs (.imageLoad q (.data m)) s fun t => t.image = none ∧ Ended s t 3 r 0 ∧ MemorySame s t ∧ t.blocks = s.blocks := by
  have hwait : s.imageWaits d (.data m) = false := by simp [State.imageWaits, hcheck]
  have hload : (s.beginDesc q d).loadImage (dwClass d) (bitsN (dwN d 6) 14 0) (dwQ d 4) (Mem.take m (dwQ d 4)) =
      ((s.beginDesc q d).discardImage, 3, r) := by
    have hcheck' : imgCheck ((s.beginDesc q d).discardImage.loadEnv (bitsN (dwN d 6) 14 0)) (Mem.take m (dwQ d 4))
      (dwQ d 4) = .inl r := hcheck
    simp only [State.loadImage, hcheck']
  refine ⟨_, h.imageLoad_eq hop hwait, ?_⟩
  simp only [State.imageLoad, State.started, hload]
  have hended := State.ended_finish (s := s) (q := q) (d := d) (t := (s.beginDesc q d).discardImage) rfl 3 r 0
  have hmem : MemorySame s (s.beginDesc q d).discardImage := ⟨rfl, rfl, rfl⟩
  exact ⟨rfl, hended, hmem, rfl⟩

theorem Starts.runs_imageLoad_failed (h : Starts s q d) (hop : dwOp d = 0x08) :
    Runs (.imageLoad q .failed) s fun t => t.image = none ∧ Ended s t 8 0 0 := by
  have hwait : s.imageWaits d .failed = false := by simp [State.imageWaits]
  refine ⟨_, h.imageLoad_eq hop hwait, ?_⟩
  simp only [State.imageLoad, State.started]
  exact ⟨rfl, State.ended_finish (t := (s.beginDesc q d).discardImage) rfl 8 0 0⟩

theorem Starts.runs_imageLoad_cut (h : Starts s q d) (hop : dwOp d = 0x08) {n : Nat}
    (hcheck : imgCheck (s.loadEnv (bitsN (dwN d 6) 14 0)) (Mem.take m (dwQ d 4)) (dwQ d 4) = .inr im)
    (hpin : ∀ x ∈ im.own :: im.served, ∀ l ∈ x.loads, l.kind ≠ 1) (hdead : ∀ k c, (s.chan k c).state ≠ 2)
    (hwait : s.imageWaits d (.cut m n) = false) :
    Runs (.imageLoad q (.cut m n)) s fun t => t.image = none ∧ Ended s t 8 0 0 := by
  obtain ⟨t, hload, himage, hactive, -, -⟩ := State.loadCut_spec (s := s.beginDesc q d) hdead (dwClass d)
    (bitsN (dwN d 6) 14 0) (dwQ d 4) n hcheck hpin
  refine ⟨_, h.imageLoad_eq hop hwait, ?_⟩
  simp only [State.imageLoad, State.started, hload]
  exact ⟨himage, State.ended_finish hactive 8 0 0⟩

theorem Starts.runs_imageLoad (h : Starts s q d) (hop : dwOp d = 0x08)
    (hcheck : imgCheck (s.loadEnv (bitsN (dwN d 6) 14 0)) (Mem.take m (dwQ d 4)) (dwQ d 4) = .inr im)
    (hpin : ∀ x ∈ im.own :: im.served, ∀ l ∈ x.loads, l.kind ≠ 1) (hdead : ∀ k c, (s.chan k c).state ≠ 2)
    (hwait : s.imageWaits d (.data m) = false) :
    Runs (.imageLoad q (.data m)) s fun t => t.image = some im ∧ Ended s t 0 0 0 ∧
      (∀ i, i < im.own.blobLen → Mem.get t.ccd.plyCode i = Mem.get im.own.blob i) ∧
      ∀ b, b < 96 → (s.slotOf b).isSome = true → (t.blk b).seq.overlay = 0xFFFF := by
  obtain ⟨t, hload, -, hactive, hregions, -⟩ := State.loadImage_spec (s := s.beginDesc q d) hdead (dwClass d)
    (bitsN (dwN d 6) 14 0) (dwQ d 4) hcheck hpin
  obtain ⟨hplaced, hhif, hblob, hempty⟩ := t.placeImage_spec im
  generalize t.placeImage im = u at hload hplaced hhif hblob hempty
  refine ⟨_, h.imageLoad_eq hop hwait, ?_⟩
  simp only [State.imageLoad, State.started, hload]
  have hended : u.hif.active = (s.beginDesc q d).hif.active := by rw [hhif]; exact hactive
  have hslots (b : Nat) : t.slotOf b = s.slotOf b := State.slotOf_of_regions hregions b
  exact ⟨hplaced, State.ended_finish hended 0 0 0, hblob, fun b hb hslot => hempty b hb (by rwa [hslots])⟩

end Images

end Sys2Proof.Machine

/-! PROOFS. Joining and leaving the domain, arming, stopping and acknowledging (R44, R46, R81, R82, R363). -/

namespace Sys2Proof.Machine

/-! ### DOMAIN_JOIN (R81, R82) -/

section Joining

variable {s t u : State} {q : Nat} {d : List W32} {im : Image}

/-- One change for each port of a list without repetition. -/
theorem State.port_foldl_updPort_at {l : List Nat} (hl : l.Nodup) (f : Nat → Port → Port) (p : Nat) : ∀ s : State,
    (l.foldl (fun s p => s.updPort p (f p)) s).port p = if p ∈ l then f p (s.port p) else s.port p := by
  induction l with
  | nil => simp
  | cons a l ih =>
    intro s
    obtain ⟨ha, hl⟩ := List.nodup_cons.mp hl
    rw [List.foldl_cons, ih hl, State.port_updPort]
    by_cases hp : p = a
    · subst hp
      simp [ha]
    · simp [hp]

/-- Only the ports and the free values taken changed. -/
def State.EchoesOnly (s t : State) : Prop :=
  t = { s with fab := { s.fab with ports := t.fab.ports }, sch := { s.sch with fresh := t.sch.fresh } }

theorem State.EchoesOnly.trans (h : s.EchoesOnly t) (g : t.EchoesOnly u) : s.EchoesOnly u := by
  unfold State.EchoesOnly at *
  rw [g, h]

theorem State.EchoesOnly.updPort (s : State) (p : Nat) (f : Port → Port) : s.EchoesOnly (s.updPort p f) := rfl

theorem State.EchoesOnly.sendEcho (s : State) (p : Nat) : s.EchoesOnly (s.sendEcho p) := by
  unfold State.sendEcho State.sendLink
  split
  · exact rfl
  · have htook (t : State) : t.EchoesOnly t.tookFree := rfl
    split
    · exact ((State.EchoesOnly.updPort s p _).trans (htook _)).trans (.updPort _ p _)
    · exact (htook s).trans (.updPort _ p _)

/-- An ECHO_REQ leaves a port that is up, and its stamp is noted (R303). -/
theorem State.port_sendEcho (s : State) (p r : Nat) : (s.sendEcho p).port r =
    if r = p ∧ (s.port p).isUp = true then { s.port p with
      linkQ := (s.port p).linkQ ++ [(.link .echoReq 0 false s.freeWord, 0)], echo := some s.freeWord, echoAt := s.tick }
    else s.port r := by
  unfold State.sendEcho
  by_cases hup : (s.port p).isUp = true
  · have htook (t : State) (k : Nat) : t.tookFree.port k = t.port k := rfl
    simp only [hup, Bool.not_true, Bool.false_eq_true, if_false, and_true, State.port_updPort, htook, State.port_sendLink]
    split
    · rfl
    · next hr => simp [hr]
  · simp [hup]

/-- The latency measurement of port p starts, and its own JOIN is due (R81, R303). -/
def State.measurePort (s : State) (p : Nat) : State :=
  (s.updPort p fun k => { k with joinOwn := true, remeasure := true }).sendEcho p

/-- What the start of a measurement leaves in its port. -/
def Measures (k k' : Port) : Prop :=
  k'.joinOwn = true ∧ k'.remeasure = true ∧ k'.fn = k.fn ∧
    (k.isUp = true → ∃ w, k'.linkQ = k.linkQ ++ [(.link .echoReq 0 false w, 0)] ∧ k'.echo = some w)

theorem State.measurePort_self (s : State) (p : Nat) : Measures (s.port p) ((s.measurePort p).port p) := by
  have hup : ({ s.port p with joinOwn := true, remeasure := true } : Port).isUp = (s.port p).isUp := rfl
  rw [State.measurePort, State.port_sendEcho, State.port_updPort_self, hup]
  split
  · exact ⟨rfl, rfl, rfl, fun _ => ⟨_, rfl, rfl⟩⟩
  · next hdown => exact ⟨rfl, rfl, rfl, fun h => absurd ⟨rfl, h⟩ hdown⟩

theorem State.measurePort_of_ne (s : State) {p r : Nat} (hr : r ≠ p) : (s.measurePort p).port r = s.port r := by
  rw [State.measurePort, State.port_sendEcho, if_neg fun h => hr h.1, State.port_updPort, if_neg hr]

/-- Measurements of several ports: each of them has its own, and the others are as before. -/
theorem State.foldl_measurePort {l : List Nat} (hl : l.Nodup) : ∀ s : State, s.EchoesOnly (l.foldl State.measurePort s) ∧
    ∀ p, if p ∈ l then Measures (s.port p) ((l.foldl State.measurePort s).port p)
      else (l.foldl State.measurePort s).port p = s.port p := by
  induction l with
  | nil => exact fun s => ⟨rfl, fun p => by simp⟩
  | cons a l ih =>
    intro s
    obtain ⟨ha, hl⟩ := List.nodup_cons.mp hl
    obtain ⟨honly, hports⟩ := ih hl (s.measurePort a)
    refine ⟨((State.EchoesOnly.updPort s a _).trans (.sendEcho _ a)).trans honly, fun p => ?_⟩
    have hrest := hports p
    by_cases hp : p = a
    · subst hp
      rw [if_neg ha] at hrest
      rw [if_pos (by simp), List.foldl_cons, hrest]
      exact s.measurePort_self p
    · rw [s.measurePort_of_ne hp] at hrest
      simpa [hp] using hrest

theorem Starts.dev_of_join (h : Starts s q d) (hop : dwOp d = 0x09) (hjoin : bitN (dwN d 2) 0 = false) : s.dev = .ready := by
  have hpass := h.permitted
  have hstate : (if s.armed then DevState.running else s.dev) = .ready := by
    unfold State.dwPermitted at hpass
    split at hpass
    · assumption
    all_goals simp [hop, hjoin] at hpass
  split at hstate
  · cases hstate
  · exact hstate

/-- A DOMAIN_JOIN under way, its ports mapped. -/
def State.awaitJoin (s : State) (uid : Nat) : State := { s with sch := { s.sch with
  join := some { uid := uid, startTick := s.tick, lastSent := s.tick }
  locked := false, holdover := false, timeLost := false } }

theorem State.port_mapPorts (s : State) (im : Image) {p : Nat} (hp : p < 20) : (s.mapPorts im).port p =
    { s.port p with fn := im.own.portFn.getD p 0xFF
                    budget := if im.own.portFn.getD p 0xFF = 0xFF then 0 else im.hopBudget } := by
  have hport := State.port_foldl_updPort_at (l := List.range 20) List.nodup_range (fun p k => { k with
    fn := im.own.portFn.getD p 0xFF, budget := if im.own.portFn.getD p 0xFF = 0xFF then 0 else im.hopBudget }) p s
  rwa [if_pos (List.mem_range.mpr hp)] at hport

theorem State.PortsOnly.mapPorts (s : State) (im : Image) : s.PortsOnly (s.mapPorts im) :=
  .foldl (fun s p => .updPort s p _) _ s

theorem State.mem_joinPorts (him : s.image = some im) (p : Nat) :
    p ∈ s.joinPorts ↔ p < 20 ∧ im.own.portPartner.getD p 0xFFFFFFFF ≠ 0xFFFFFFFF := by
  simp [State.joinPorts, State.partnerOf, State.ownSec, him]

/-- What stands when the ports of a joining device start their measurements. -/
theorem State.awaitJoin_spec (s : State) (uid : Nat) :
    (s.awaitJoin uid).dev = s.dev ∧ (s.awaitJoin uid).image = s.image ∧ (s.awaitJoin uid).hif = s.hif ∧
    (s.awaitJoin uid).sch.join = some { uid := uid, startTick := s.tick, lastSent := s.tick } ∧
    (s.awaitJoin uid).sch.locked = false ∧ ∀ p, (s.awaitJoin uid).port p = s.port p :=
  ⟨rfl, rfl, rfl, rfl, rfl, fun _ => rfl⟩

theorem Starts.domainJoin_eq (h : Starts s q d) (hop : dwOp d = 0x09) (hjoin : bitN (dwN d 2) 0 = false)
    (him : s.image = some im) (hmirror : im.own.needsMirror = false) :
    ∃ u, u = ((s.beginDesc q d).mapPorts im).awaitJoin s.hif.nextUid ∧
      exec (.domainJoin q) s = .next (u.joinPorts.foldl State.measurePort u) := by
  have him' : (s.beginDesc q d).image = some im := him
  refine ⟨_, rfl, (h.descRow_eq (by simp [isOp, hop, hjoin]) State.joinOrLeave).trans ?_⟩
  simp only [State.joinOrLeave, State.started, hjoin, Bool.false_eq_true, if_false, State.joinStart, him', hmirror,
    Bool.false_and]
  rfl

theorem Starts.runs_domainJoin (h : Starts s q d) (hop : dwOp d = 0x09) (hjoin : bitN (dwN d 2) 0 = false)
    (him : s.image = some im) (hmirror : im.own.needsMirror = false) : Runs (.domainJoin q) s fun t =>
      t.dev = .ready ∧ (∃ j, t.sch.join = some j ∧ j.uid = s.hif.nextUid ∧ j.startTick = s.tick ∧ j.heard = []) ∧
      (∀ p, p < 20 → (t.port p).fn = im.own.portFn.getD p 0xFF) ∧
      (∀ p, p < 20 → im.own.portPartner.getD p 0xFFFFFFFF ≠ 0xFFFFFFFF → (t.port p).joinOwn = true ∧
        (t.port p).remeasure = true ∧
        ((s.port p).isUp = true → ∃ w, (t.port p).linkQ = (s.port p).linkQ ++ [(.link .echoReq 0 false w, 0)] ∧
          (t.port p).echo = some w)) ∧
      t.sch.locked = false ∧ Waits s t := by
  obtain ⟨u, hu, hexec⟩ := h.domainJoin_eq hop hjoin him hmirror
  have hmap := State.PortsOnly.mapPorts (s.beginDesc q d) im
  have hmapped (p : Nat) (hp : p < 20) := (s.beginDesc q d).port_mapPorts im hp
  generalize (s.beginDesc q d).mapPorts im = v at hu hmap hmapped
  obtain ⟨hdev, himage, hhif, hwait, hlocked, hsame⟩ := v.awaitJoin_spec s.hif.nextUid
  rw [← hu] at hdev himage hhif hwait hlocked hsame
  have hpart := State.mem_joinPorts ((himage.trans hmap.image).trans him)
  obtain ⟨honly, hports⟩ := State.foldl_measurePort (l := u.joinPorts) (List.nodup_range.filter _) u
  refine ⟨_, hexec, ?_⟩
  generalize u.joinPorts.foldl State.measurePort u = t at honly hports
  have hready : t.dev = .ready := by rw [honly, ← h.dev_of_join hop hjoin]; exact hdev.trans (by rw [hmap]; rfl)
  have hjoining : t.sch.join = some { uid := s.hif.nextUid, startTick := s.tick, lastSent := s.tick } := by
    rw [honly]; exact hwait.trans (by rw [hmap]; rfl)
  have hunlocked : t.sch.locked = false := by rw [honly]; exact hlocked
  have hactive : t.hif.active = (s.beginDesc q d).hif.active := by
    rw [honly]; exact (congrArg Hif.active hhif).trans (by rw [hmap])
  refine ⟨hready, ⟨_, hjoining, rfl, rfl, rfl⟩, fun p hp => ?_, fun p hp hpartner => ?_, hunlocked,
    State.waits_of_active hactive⟩
  · have hfn : (u.port p).fn = im.own.portFn.getD p 0xFF := by rw [hsame, hmapped p hp]
    have hat := hports p
    split at hat
    · obtain ⟨-, -, hsame, -⟩ := hat
      rw [hsame, hfn]
    · rw [hat, hfn]
  · have hat := hports p
    rw [if_pos ((hpart p).mpr ⟨hp, hpartner⟩), hsame, hmapped p hp] at hat
    obtain ⟨hown, hremeasure, -, hecho⟩ := hat
    exact ⟨hown, hremeasure, hecho⟩

/-! ### DOMAIN_JOIN with leave (R82) -/

theorem State.lists_freeBuf (s : State) (b : VBuf) (p : Nat) :
    ((s.freeBuf b).port p).sched = (s.port p).sched ∧ ((s.freeBuf b).port p).due = (s.port p).due := by
  rw [State.freeBuf, State.port_updPort]
  split
  · next hp =>
    subst hp
    split
    · exact ⟨rfl, rfl⟩
    · split
      · exact ⟨rfl, rfl⟩
      · exact ⟨rfl, rfl⟩
  · exact ⟨rfl, rfl⟩

/-- A port that is unmapped carries no scheduled and no due frame. -/
theorem State.lists_unmapPorts (s : State) {p : Nat} (hp : p < 20) :
    (s.unmapPorts.port p).sched = [] ∧ (s.unmapPorts.port p).due = [] := by
  unfold State.unmapPorts
  refine List.foldlRecOn (motive := fun t : State => (t.port p).sched = [] ∧ (t.port p).due = []) _ _ ?_ fun t ht b _ => ?_
  · rw [State.port_foldl_updPort List.nodup_range, if_pos (List.mem_range.mpr hp)]
    exact ⟨rfl, rfl⟩
  · obtain ⟨hsched, hdue⟩ := t.lists_freeBuf b p
    exact ⟨hsched.trans ht.1, hdue.trans ht.2⟩

/-- The state in which a device that leaves unmaps its ports. -/
def State.leaving (s : State) : State := { s with
  sch := { s.sch with
    locked := false, holdover := false, timeLost := false, timeOff := s.sch.localOff, flood := none
    laterArms := [] }
  standby := { s.standby with place := none }
  pwr := { s.pwr with steer := 0 } }

theorem Starts.runs_domainLeave (h : Starts s q d) (hop : dwOp d = 0x09) (hleave : bitN (dwN d 2) 0 = true) :
    Runs (.domainLeave q) s fun t =>
      t.dev = .ready ∧ t.image = s.image ∧ MemorySame s t ∧ t.blocks = s.blocks ∧ t.standby.place = none ∧
      (∀ p, p < 20 → (t.port p).fn = 0xFF ∧ (t.port p).sched = [] ∧ (t.port p).due = []) ∧ Ended s t 0 0 0 := by
  have hexec : exec (.domainLeave q) s = .next (State.joinOrLeave (s.started q d) (s.beginDesc q d)) :=
    h.descRow_eq (by simp [isOp, hop, hleave]) State.joinOrLeave
  have hrun : State.joinOrLeave (s.started q d) (s.beginDesc q d) =
      ((s.beginDesc q d).leaving.unmapPorts.enter .ready).finish s.hif.nextUid 0 0 0 0 := by
    simp only [State.joinOrLeave, State.started, hleave, if_true]
    rfl
  have hunmap := State.PortsOnly.unmapPorts (s.beginDesc q d).leaving
  have hport (p : Nat) (hp : p < 20) : ((s.beginDesc q d).leaving.unmapPorts.port p).fn = 0xFF ∧
      ((s.beginDesc q d).leaving.unmapPorts.port p).sched = [] ∧ ((s.beginDesc q d).leaving.unmapPorts.port p).due = [] :=
    ⟨State.fn_unmapPorts _ hp, State.lists_unmapPorts _ hp⟩
  refine ⟨_, hexec, ?_⟩
  rw [hrun]
  generalize (s.beginDesc q d).leaving.unmapPorts = u at hunmap hport
  have hactive : (u.enter .ready).hif.active = (s.beginDesc q d).hif.active := by
    rw [State.enter_active, hunmap]
    rfl
  have henter := u.enter_eq .ready
  have hended := State.ended_finish hactive 0 0 0
  have hkeep : (u.enter .ready).dev = .ready ∧ (u.enter .ready).image = s.image ∧ MemorySame s (u.enter .ready) ∧
      (u.enter .ready).blocks = s.blocks ∧ (u.enter .ready).standby.place = none ∧ (u.enter .ready).fab = u.fab := by
    rw [henter, hunmap]
    exact ⟨rfl, rfl, ⟨rfl, rfl, rfl⟩, rfl, rfl, rfl⟩
  generalize u.enter .ready = t at hkeep hended
  obtain ⟨hdev, himage, hmem, hblocks, hplace, hfab⟩ := hkeep
  refine ⟨hdev, himage, hmem, hblocks, hplace, fun p hp => ?_, hended⟩
  have hsame : (t.finish s.hif.nextUid 0 0 0 0).port p = u.port p := by
    rw [State.port, State.finish_fab, hfab]
    rfl
  rw [hsame]
  exact hport p hp

end Joining

/-! ### PLY_RUN, PLY_STOP and EVENT_ACK (R44, R46, R363) -/

section Short

variable {s : State} {q : Nat} {d : List W32}

theorem State.onlyHif_finish {t : State} (h : OnlyHif s t) (uid st r v w : Nat) : OnlyHif s (t.finish uid st r v w) := by
  unfold OnlyHif at *
  rw [h]
  rfl

theorem Starts.runs_plyRun (h : Starts s q d) (hop : dwOp d = 0x0A) (htime : s.hif.pendTimeLost = false)
    (hrec : s.hif.pendUnrecoverable = false) : Runs (.plyRun q) s fun t =>
      t.sch.arming = some { uid := s.hif.nextUid, ply := BitVec.ofNat 64 (dwQ d 2), tick := dwQ d 4 } ∧
      t.dev = s.dev ∧ Waits s t := by
  have hexec : exec (.plyRun q) s = .next (State.armRun (s.started q d) (s.beginDesc q d)) :=
    h.descRow_eq (by simp [isOp, hop]) State.armRun
  have hpend : ((s.beginDesc q d).hif.pendTimeLost || (s.beginDesc q d).hif.pendUnrecoverable) = false := by
    show (s.hif.pendTimeLost || s.hif.pendUnrecoverable) = false
    rw [htime, hrec, Bool.or_self]
  refine ⟨_, hexec, ?_⟩
  rw [State.armRun, hpend]
  exact ⟨rfl, rfl, State.waits_of_active (q := q) (d := d) rfl⟩

theorem Starts.runs_plyRun_pending (h : Starts s q d) (hop : dwOp d = 0x0A)
    (hpend : s.hif.pendTimeLost = true ∨ s.hif.pendUnrecoverable = true) :
    Runs (.plyRun q) s fun t => Ended s t 0x0E 0 0 ∧ OnlyHif s t := by
  have hexec : exec (.plyRun q) s = .next (State.armRun (s.started q d) (s.beginDesc q d)) :=
    h.descRow_eq (by simp [isOp, hop]) State.armRun
  have hpend' : ((s.beginDesc q d).hif.pendTimeLost || (s.beginDesc q d).hif.pendUnrecoverable) = true :=
    (Bool.or_eq_true _ _).mpr hpend
  refine ⟨_, hexec, ?_⟩
  rw [State.armRun, hpend', if_pos rfl]
  exact ⟨State.ended_finish rfl 0x0E 0 0, rfl⟩

theorem Starts.runs_plyStop (h : Starts s q d) (hop : dwOp d = 0x0B) (harm : s.sch.arming = none) :
    Runs (.plyStop q) s fun t => t.sch.stopLatch = some (some s.hif.nextUid) ∧ Waits s t ∧ t.dev = s.dev := by
  have hexec : exec (.plyStop q) s = .next (State.plyStop (s.started q d) (s.beginDesc q d)) :=
    h.descRow_eq (by simp [isOp, hop]) State.plyStop
  have harm' : (s.beginDesc q d).sch.arming = none := harm
  refine ⟨_, hexec, ?_⟩
  simp only [State.plyStop, harm']
  exact ⟨rfl, State.waits_of_active (q := q) (d := d) rfl, rfl⟩

/-- The pending bit of an event is cleared. -/
def State.acked (s : State) (item : Nat) : State :=
  if item = 1 then { s with hif := { s.hif with pendTimeLost := false } }
  else { s with hif := { s.hif with pendUnrecoverable := false } }

theorem State.acked_spec (s : State) {item : Nat} (hitem : item = 1 ∨ item = 3) :
    (s.acked item).hif.pendTimeLost = (s.hif.pendTimeLost && item != 1) ∧
    (s.acked item).hif.pendUnrecoverable = (s.hif.pendUnrecoverable && item != 3) ∧
    (s.acked item).hif.active = s.hif.active ∧ OnlyHif s (s.acked item) := by
  rcases hitem with rfl | rfl
  · exact ⟨(Bool.and_false _).symm, (Bool.and_true _).symm, rfl, rfl⟩
  · exact ⟨(Bool.and_true _).symm, (Bool.and_false _).symm, rfl, rfl⟩

theorem Starts.runs_eventAck (h : Starts s q d) (hop : dwOp d = 0x1A) : Runs (.eventAck q) s fun t =>
      t.hif.pendTimeLost = (s.hif.pendTimeLost && bitsN (dwN d 2) 7 0 != 1) ∧
      t.hif.pendUnrecoverable = (s.hif.pendUnrecoverable && bitsN (dwN d 2) 7 0 != 3) ∧
      Ended s t 0 0 0 ∧ OnlyHif s t := by
  have hexec : exec (.eventAck q) s =
      .next (((s.beginDesc q d).acked (bitsN (dwN d 2) 7 0)).finish s.hif.nextUid 0 0 0 0) :=
    h.descRow_eq (by simp [isOp, hop]) State.eventAck
  have hitem : bitsN (dwN d 2) 7 0 = 1 ∨ bitsN (dwN d 2) 7 0 = 3 := by simpa [dwRangesOk, hop] using h.rangesOk
  obtain ⟨htime, hrec, hactive, honly⟩ := (s.beginDesc q d).acked_spec hitem
  have hhif : OnlyHif s ((s.beginDesc q d).acked (bitsN (dwN d 2) 7 0)) := by
    rw [OnlyHif, honly]
    rfl
  generalize (s.beginDesc q d).acked (bitsN (dwN d 2) 7 0) = t at hexec htime hrec hactive hhif
  exact ⟨_, hexec, htime, hrec, State.ended_finish hactive 0 0 0, State.onlyHif_finish hhif _ _ _ _ _⟩

end Short

/-- Settles O19, a clause for each case of the six commands above. -/
theorem domainDescriptors : Obligations.DomainDescriptors := by
  unfold Obligations.DomainDescriptors
  exact ⟨fun s q r d m h hop hcheck => h.runs_imageLoad_refused hop hcheck, fun s q d h hop => h.runs_imageLoad_failed hop,
    fun s q n d m im h hop hcheck hpin hdead hwait => h.runs_imageLoad_cut hop hcheck hpin hdead hwait,
    fun s q d m im h hop hcheck hpin hdead hwait => h.runs_imageLoad hop hcheck hpin hdead hwait,
    fun s q d im h hop hjoin him hmirror => h.runs_domainJoin hop hjoin him hmirror,
    fun s q d h hop hleave => h.runs_domainLeave hop hleave, fun s q d h hop htime hrec => h.runs_plyRun hop htime hrec,
    fun s q d h hop hpend => h.runs_plyRun_pending hop hpend, fun s q d h hop harm => h.runs_plyStop hop harm,
    fun s q d h hop => h.runs_eventAck hop⟩

end Sys2Proof.Machine

/-! PROOFS. The matrix cells' set-up commands and weight loads (R105-R107, R109, R111, R112, R117, R132): one rule for the
command that a cell starts, one for how it ends, and what an operand read of good words gives. -/

namespace Sys2Proof.Machine

/-! ### Fields of a command word (Table 4.7) -/

theorem bitsN_toNat_eq_wordField (w : W64) (hi lo : Nat) : bitsN w.toNat hi lo = wordField w hi lo := bitsN_eq _ _ _

theorem cmdOp_eq_wordField (w : W64) : cmdOp w = wordField w 5 0 := bitsN_toNat_eq_wordField w 5 0

theorem bitN_toNat_eq_wordField (w : W64) (i : Nat) : bitN w.toNat i = decide (wordField w i i = 1) := by
  rw [bitN, Nat.testBit_eq_decide_div_mod_eq, wordField, Nat.add_sub_cancel_left, Nat.pow_one]

/-! ### What changes of a cell, its queue and its counter leave (R111, R112) -/

section CellChanges

variable {s t : State} {b k n cls : Nat}

/-- The oldest command of cell k has left its queue, and its class is served. -/
def State.begun (s : State) (b k cls : Nat) : State := (s.takeCmd b k).serveAs cls b

@[simp] theorem State.blk_begun_self (s : State) (b k cls : Nat) : (s.begun b k cls).blk b = { s.blk b with
    seq := { (s.blk b).seq with
      queues := SMap.set [] (s.blk b).seq.queues k ((SMap.get [] (s.blk b).seq.queues k).drop 1) } } :=
  show (s.takeCmd b k).blk b = _ from s.blk_updSeq_self b _

theorem State.blk_begun_of_ne (s : State) {c : Nat} (hc : c ≠ b) (k cls : Nat) : (s.begun b k cls).blk c = s.blk c :=
  show (s.takeCmd b k).blk c = _ from s.blk_updSeq_of_ne hc _

@[simp] theorem State.mcAt_begun (s : State) (b k cls j : Nat) : (s.begun b k cls).mcAt b j = s.mcAt b j := by
  simp [State.mcAt]

@[simp] theorem State.blk_updMc_self (s : State) (b k : Nat) (f : Mc → Mc) :
    (s.updMc b k f).blk b = { s.blk b with mc := SMap.upd {} (s.blk b).mc k f } := s.blk_updBlk_self b _

theorem State.blk_updMc_of_ne (s : State) {c : Nat} (hc : c ≠ b) (k : Nat) (f : Mc → Mc) :
    (s.updMc b k f).blk c = s.blk c := s.blk_updBlk_of_ne hc _

theorem State.mcAt_updMc_of_ne (s : State) (b : Nat) {j : Nat} (hj : j ≠ k) (f : Mc → Mc) :
    (s.updMc b k f).mcAt b j = s.mcAt b j := by
  rw [State.mcAt, State.blk_updMc_self]
  exact SMap.get_upd_other _ _ _ hj

@[simp] theorem State.blk_cmdDone_self (s : State) (b k : Nat) : (s.cmdDone b k).blk b = { s.blk b with
    seq := { (s.blk b).seq with completed := SMap.upd 0 (s.blk b).seq.completed k (· + 1) } } := s.blk_updSeq_self b _

@[simp] theorem State.mcAt_cmdDone (s : State) (b k j : Nat) : (s.cmdDone b k).mcAt b j = s.mcAt b j := by
  simp [State.mcAt]

theorem took_begun (s : State) (b k cls : Nat) : Took s (s.begun b k cls) b k 0 := by
  refine ⟨?_, fun j hj => ?_, fun j => ?_, ?_⟩
  · rw [State.blk_begun_self, SMap.get_set_self, List.drop_one]
  · rw [State.blk_begun_self, SMap.get_set_other _ _ _ hj]
  · rw [State.blk_begun_self, ite_self, Nat.add_zero]
  · rw [State.blk_begun_self]

theorem Took.updMc (h : Took s t b k n) (f : Mc → Mc) : Took s (t.updMc b k f) b k n := by
  simpa only [Took, State.blk_updMc_self] using h

theorem Took.cmdDone (h : Took s t b k 0) : Took s (t.cmdDone b k) b k 1 := by
  obtain ⟨hqueue, hothers, hcompleted, hseq⟩ := h
  refine ⟨?_, fun j hj => ?_, fun j => ?_, ?_⟩
  · rw [State.blk_cmdDone_self, hqueue]
  · rw [State.blk_cmdDone_self, hothers j hj]
  · rw [State.blk_cmdDone_self, SMap.get_upd, hcompleted, hcompleted, ite_self, ite_self]
    split
    · next hj => rw [hj]
    · rfl
  · rw [State.blk_cmdDone_self, hseq]

theorem OnlyBlock.refl (s : State) (b : Nat) : OnlyBlock s s b := ⟨fun _ _ => rfl, rfl⟩

theorem OnlyBlock.updBlk (h : OnlyBlock s t b) (f : Block → Block) : OnlyBlock s (t.updBlk b f) b := by
  obtain ⟨hothers, hstate⟩ := h
  refine ⟨fun c hc => (t.blk_updBlk_of_ne hc f).trans (hothers c hc), ?_⟩
  rw [hstate]
  rfl

theorem onlyBlock_begun (s : State) (b k cls : Nat) : OnlyBlock s (s.begun b k cls) b :=
  ⟨fun _ hc => s.blk_begun_of_ne hc k cls, rfl⟩

theorem OnlyCell.refl (s : State) (b k : Nat) : OnlyCell s s b k := ⟨rfl, fun _ _ => rfl⟩

theorem onlyCell_begun (s : State) (b k cls : Nat) : OnlyCell s (s.begun b k cls) b k :=
  ⟨by rw [State.blk_begun_self], fun j _ => s.mcAt_begun b k cls j⟩

theorem OnlyCell.updMc (h : OnlyCell s t b k) (f : Mc → Mc) : OnlyCell s (t.updMc b k f) b k := by
  obtain ⟨hblk, hcells⟩ := h
  refine ⟨?_, fun j hj => (t.mcAt_updMc_of_ne b hj f).trans (hcells j hj)⟩
  rw [State.blk_updMc_self, hblk]

theorem OnlyCell.cmdDone (h : OnlyCell s t b k) : OnlyCell s (t.cmdDone b k) b k := by
  obtain ⟨hblk, hcells⟩ := h
  refine ⟨?_, fun j hj => (t.mcAt_cmdDone b k j).trans (hcells j hj)⟩
  rw [State.blk_cmdDone_self, hblk]

/-- Cell k, whose oldest command left its queue, is now m, n commands of it completed, and nothing else changed. -/
def CellDoes (s t : State) (b k n : Nat) (m : Mc) : Prop :=
  Took s t b k n ∧ OnlyBlock s t b ∧ OnlyCell s t b k ∧ t.mcAt b k = m

theorem cellDoes_begun (s : State) (b k cls : Nat) : CellDoes s (s.begun b k cls) b k 0 (s.mcAt b k) :=
  ⟨took_begun s b k cls, onlyBlock_begun s b k cls, onlyCell_begun s b k cls, s.mcAt_begun b k cls k⟩

theorem CellDoes.updMc {m : Mc} (h : CellDoes s t b k n m) (f : Mc → Mc) : CellDoes s (t.updMc b k f) b k n (f m) := by
  obtain ⟨htook, honly, hcell, hm⟩ := h
  exact ⟨htook.updMc f, honly.updBlk _, hcell.updMc f, by rw [State.mcAt_updMc_self, hm]⟩

theorem CellDoes.cmdDone {m : Mc} (h : CellDoes s t b k 0 m) : CellDoes s (t.cmdDone b k) b k 1 m := by
  obtain ⟨htook, honly, hcell, hm⟩ := h
  exact ⟨htook.cmdDone, honly.updBlk _, hcell.cmdDone, (t.mcAt_cmdDone b k k).trans hm⟩

/-- A command that sets something in its cell and completes (R111). -/
theorem cellDoes_set (s : State) (b k cls : Nat) (f : Mc → Mc) :
    CellDoes s (((s.begun b k cls).updMc b k f).cmdDone b k) b k 1 (f (s.mcAt b k)) :=
  ((cellDoes_begun s b k cls).updMc f).cmdDone

/-- A command error (R117). -/
theorem cellStops_mcError (hmain : s.mainOn = true) (b k cls code : Nat) (w : W64) :
    CellStops s ((s.begun b k cls).mcError b k code w) b k code := by
  unfold State.mcError State.mcRec
  refine ⟨?_, ?_, ?_, ?_, fun c hc => ?_, ?_, ?_⟩
  · simp [State.mcAt, State.dropQueue]
  · simp [State.mcAt, State.dropQueue]
  · simp [State.dropQueue, SMap.get_del_self]
  · exact State.post_newRecord_of_next _ rfl hmain (by decide) rfl
  · rw [State.blk_post, State.dropQueue, State.blk_updSeq_of_ne _ hc, State.blk_updMc_of_ne _ hc, s.blk_begun_of_ne hc]
  · simp [MemorySame, State.dropQueue, State.begun, State.takeCmd]
  · simp [State.dropQueue]

end CellChanges

/-! ### The command that a cell starts (R112) -/

/-- Command word w of class cls is the next of cell k of block b, which has not stopped. -/
structure CellReady (s : State) (b k : Nat) (w : W64) (cls : Nat) : Prop where
  cell : k < 2
  queued : Queued s b k w cls
  running : (s.mcAt b k).halted = false

section Starting

variable {s : State} {b k cls : Nat} {w : W64}

theorem CellReady.headCmd (h : CellReady s b k w cls) : s.headCmd b k = some (w, cls) := by
  obtain ⟨-, -, hhead⟩ := h.queued
  unfold State.headCmd
  cases hq : SMap.get [] (s.blk b).seq.queues k with
  | nil => simp [hq] at hhead
  | cons c rest => simpa [hq] using hhead

theorem CellReady.unitExists (h : CellReady s b k w cls) : (decide (b < 96) && decide (k < 2)) = true := by
  simp [h.queued.1, h.cell]

theorem CellReady.mainOn (h : CellReady s b k w cls) : s.mainOn = true := State.mainOn_of_blockLive h.queued.2.1

variable {want : Nat → Bool} {may : Mc → W64 → State → Bool} {f : W64 → State → State}

theorem CellReady.mcStart_eq (h : CellReady s b k w cls) : s.mcStart b k want may f =
    if want (wordField w 5 0) && may (s.mcAt b k) w s then f w (s.begun b k cls) else s := by
  obtain ⟨-, hlive, -⟩ := h.queued
  simp only [State.mcStart, hlive, h.running, h.headCmd, cmdOp_eq_wordField, Bool.not_true, Bool.or_self,
    Bool.false_eq_true, if_false]
  rfl

/-- A row whose opcode the word has, and which may start, has its effect on the state the command begins in. -/
theorem CellReady.runs (h : CellReady s b k w cls) {i : Instr} {P : State → Prop}
    (hexec : exec i s = onUnit (decide (b < 96) && decide (k < 2)) (s.mcStart b k want may f))
    (hwant : want (wordField w 5 0) = true) (hmay : may (s.mcAt b k) w s = true) {t : State}
    (hf : f w (s.begun b k cls) = t) (hP : P t) : Runs i s P := by
  refine ⟨t, ?_, hP⟩
  rw [hexec, onUnit_of_exists h.unitExists, h.mcStart_eq, hwant, hmay, ← hf]
  rfl

end Starting

/-! ### Set-up commands (Tables 4.8, 4.9, 4.11 and 4.13) -/

section SetUp

variable {s : State} {b k cls : Nat} {w : W64}

theorem CellReady.cellStops (h : CellReady s b k w cls) (code : Nat) :
    CellStops s ((s.begun b k cls).mcError b k code w) b k code := cellStops_mcError h.mainOn b k cls code w

theorem CellReady.runs_mcNop (h : CellReady s b k w cls) (hfree : (s.mcAt b k).engineFree = true) (hw : w = 0) :
    Runs (.mcNop b k) s fun t => CellDoes s t b k 1 (s.mcAt b k) := by
  subst hw
  exact h.runs rfl rfl hfree (if_pos rfl) (cellDoes_begun s b k cls).cmdDone

theorem CellReady.runs_mcNop_stops (h : CellReady s b k w cls) (hfree : (s.mcAt b k).engineFree = true)
    (hop : wordField w 5 0 = 0 ∧ w ≠ 0 ∨ 7 ≤ wordField w 5 0) : Runs (.mcNop b k) s fun t => CellStops s t b k 1 := by
  have hw : w ≠ 0 := by
    rintro rfl
    rcases hop with ⟨-, hne⟩ | hlarge
    · exact hne rfl
    · exact absurd hlarge (by decide)
  refine h.runs rfl ?_ hfree (if_neg hw) (h.cellStops 1)
  rcases hop with ⟨hzero, -⟩ | hlarge
  · simp [hzero]
  · simp [hlarge]

/-- The configuration that Table 4.8 gives word w. -/
def cfgFields (w : W64) : McCfg where
  mode := wordField w 8 6
  ifmt := wordField w 12 9
  ofmt := wordField w 15 13
  stoch := w.getLsbD 16
  sat := w.getLsbD 17
  kq := wordField w 19 18
  nq := wordField w 21 20
  tol := wordField w 26 22
  topk := wordField w 31 27
  topkSmallest := w.getLsbD 32

theorem cfgOf_toNat (w : W64) : cfgOf w.toNat = cfgFields w := by
  simp only [cfgOf, cfgFields, bitsN_toNat_eq_wordField]
  rfl

/-- The error of a CFG word, in the order of R117. -/
theorem cfgError_toNat (licensed : Bool) (w : W64) : cfgError licensed w.toNat =
    if wordField w 63 33 ≠ 0 then 1
    else if 6 < wordField w 12 9 ∨ 3 < wordField w 15 13 ∨ wordField w 26 22 < 8 ∨ 24 < wordField w 26 22 ∨
      16 < wordField w 31 27 then 5
    else if wordField w 8 6 ≠ 0 ∧ licensed = false then 6 else 0 := by
  simp only [cfgError, cfgOf_toNat, cfgFields, bitsN_toNat_eq_wordField, Bool.or_eq_true, Bool.and_eq_true,
    decide_eq_true_eq, Bool.not_eq_true', or_assoc]

theorem CellReady.runs_mcCfg (h : CellReady s b k w cls) (hfree : (s.mcAt b k).engineFree = true)
    (hop : wordField w 5 0 = 1) (hok : cfgError (s.sec.features.getLsbD 5) w.toNat = 0) : Runs (.mcCfg b k) s fun t =>
      CellDoes s t b k 1 { s.mcAt b k with cfg := cfgFields w } := by
  rw [← cfgOf_toNat]
  exact h.runs rfl (by simp [hop]) hfree (if_neg (not_not_intro hok)) (cellDoes_set s b k cls _)

theorem CellReady.runs_mcCfg_stops (h : CellReady s b k w cls) (hfree : (s.mcAt b k).engineFree = true)
    (hop : wordField w 5 0 = 1) {code : Nat} (hcode : cfgError (s.sec.features.getLsbD 5) w.toNat = code)
    (hne : code ≠ 0) : Runs (.mcCfg b k) s fun t => CellStops s t b k code := by
  subst hcode
  exact h.runs rfl (by simp [hop]) hfree (if_pos hne) (h.cellStops _)

/-- What a BASE waits for: the stream engine, or, for the load base, the end of a LOADW (Table 4.14). -/
theorem mayBase {m : Mc} (hfree : m.engineFree = true) (hload : wordField w 7 6 ≠ 2 ∨ m.loading = none) :
    (if bitsN w.toNat 7 6 = 2 then m.loading.isNone else m.engineFree) = true := by
  rw [bitsN_toNat_eq_wordField]
  split
  · next hsel => rw [hload.resolve_left (not_not_intro hsel), Option.isNone_none]
  · exact hfree

theorem CellReady.runs_mcBase (h : CellReady s b k w cls) (hfree : (s.mcAt b k).engineFree = true)
    (hop : wordField w 5 0 = 2) (hload : wordField w 7 6 ≠ 2 ∨ (s.mcAt b k).loading = none)
    (hzero : wordField w 15 8 = 0) (hsel : wordField w 7 6 < 3) : Runs (.mcBase b k) s fun t => CellDoes s t b k 1
      (if wordField w 7 6 = 0 then { s.mcAt b k with baseSrc := w.toNat / 2 ^ 16 * 1024 }
       else if wordField w 7 6 = 1 then { s.mcAt b k with baseDst := w.toNat / 2 ^ 16 * 1024 }
       else { s.mcAt b k with baseLoad := w.toNat / 2 ^ 16 * 1024 }) := by
  have hcases : wordField w 7 6 = 0 ∨ wordField w 7 6 = 1 ∨ wordField w 7 6 = 2 := by omega
  refine h.runs rfl (by simp [hop]) ?may ?_ (cellDoes_set s b k cls fun m =>
    if wordField w 7 6 = 0 then { m with baseSrc := w.toNat / 2 ^ 16 * 1024 }
    else if wordField w 7 6 = 1 then { m with baseDst := w.toNat / 2 ^ 16 * 1024 }
    else { m with baseLoad := w.toNat / 2 ^ 16 * 1024 })
  case may => exact mayBase hfree hload
  · rcases hcases with hsel | hsel | hsel <;> simp [bitsN_toNat_eq_wordField, hzero, hsel]

theorem CellReady.runs_mcBase_stops (h : CellReady s b k w cls) (hfree : (s.mcAt b k).engineFree = true)
    (hop : wordField w 5 0 = 2) (hload : wordField w 7 6 ≠ 2 ∨ (s.mcAt b k).loading = none) {code : Nat}
    (hcode : wordField w 15 8 ≠ 0 ∧ code = 1 ∨ wordField w 15 8 = 0 ∧ wordField w 7 6 = 3 ∧ code = 5) :
    Runs (.mcBase b k) s fun t => CellStops s t b k code := by
  refine h.runs rfl (by simp [hop]) ?may ?_ (h.cellStops code)
  case may => exact mayBase hfree hload
  · rcases hcode with ⟨hzero, rfl⟩ | ⟨hzero, hsel, rfl⟩
    · simp [bitsN_toNat_eq_wordField, hzero]
    · simp [bitsN_toNat_eq_wordField, hzero, hsel]

theorem CellReady.runs_mcCastle (h : CellReady s b k w cls) (hfree : (s.mcAt b k).engineFree = true) (hw : w = 4)
    (hload : (s.mcAt b k).loading = none) :
    Runs (.mcCastle b k) s fun t => CellDoes s t b k 1 (s.mcAt b k).castle := by
  subst hw
  exact h.runs rfl rfl (by simp [hfree, hload]) (if_neg (by decide)) (cellDoes_set s b k cls Mc.castle)

/-- A CASTLE waits while a LOADW runs (R107). -/
theorem CellReady.runs_mcCastle_waits (h : CellReady s b k w cls) (hw : w = 4)
    (hload : (s.mcAt b k).loading.isSome = true) : Runs (.mcCastle b k) s fun t => t = s := by
  subst hw
  obtain ⟨l, hl⟩ := Option.isSome_iff_exists.mp hload
  refine ⟨s, ?_, rfl⟩
  show execMcCastle b k s = _
  have hmay : bitsN 4 63 6 = 0 := by decide
  rw [execMcCastle, onUnit_of_exists h.unitExists, h.mcStart_eq]
  simp [hl, hmay]

/-- Keeping the things whose number has a property. -/
theorem SMap.get_filter_key {α : Type} (d : α) (p : Nat → Bool) (m : SMap α) (j : Nat) :
    SMap.get d (m.filter fun e => p e.1) j = if p j then SMap.get d m j else d := by
  induction m with
  | nil => simp [SMap.get]
  | cons e m ih =>
    obtain ⟨i, v⟩ := e
    rw [List.filter_cons]
    by_cases hi : i = j
    · subst hi
      by_cases hp : p i = true
      · simp [SMap.get, hp]
      · simpa [SMap.get, hp] using ih
    · have hskip : SMap.get d ((i, v) :: m) j = SMap.get d m j := if_neg hi
      split
      · rw [SMap.get, if_neg hi, ih, hskip]
      · rw [ih, hskip]

/-- The accumulator without the entries first to first + count - 1, which read as default again (R109). -/
def Mc.cleared (m : Mc) (first count : Nat) : Mc :=
  { m with acc := m.acc.filter fun e => !(decide (first ≤ e.1) && decide (e.1 < first + count)) }

theorem Mc.get_acc_cleared (m : Mc) (first count e : Nat) : SMap.get {} (m.cleared first count).acc e =
    if first ≤ e ∧ e < first + count then ({} : AccEntry) else SMap.get {} m.acc e := by
  rw [Mc.cleared, SMap.get_filter_key _ fun i => !(decide (first ≤ i) && decide (i < first + count))]
  by_cases hin : first ≤ e ∧ e < first + count <;> simp [hin]

theorem CellReady.runs_mcClracc (h : CellReady s b k w cls) (hfree : (s.mcAt b k).engineFree = true)
    (hop : wordField w 5 0 = 6) (hadds : (s.mcAt b k).addsDone = true) (hzero : wordField w 63 21 = 0)
    (hpos : 0 < wordField w 20 13) (hend : wordField w 12 6 + wordField w 20 13 ≤ 128) : Runs (.mcClracc b k) s fun t =>
      CellDoes s t b k 1 ((s.mcAt b k).cleared (wordField w 12 6) (wordField w 20 13)) := by
  refine h.runs rfl (by simp [hop]) (by simp [hfree, hadds]) ?_
    (cellDoes_set s b k cls fun m => m.cleared (wordField w 12 6) (wordField w 20 13))
  simp [bitsN_toNat_eq_wordField, hzero, Nat.ne_of_gt hpos, Nat.not_lt.mpr hend, Mc.cleared]

theorem CellReady.runs_mcClracc_stops (h : CellReady s b k w cls) (hfree : (s.mcAt b k).engineFree = true)
    (hop : wordField w 5 0 = 6) (hadds : (s.mcAt b k).addsDone = true) (hzero : wordField w 63 21 = 0)
    (hrange : wordField w 20 13 = 0 ∨ 128 < wordField w 12 6 + wordField w 20 13) :
    Runs (.mcClracc b k) s fun t => CellStops s t b k 5 := by
  refine h.runs rfl (by simp [hop]) (by simp [hfree, hadds]) ?_ (h.cellStops 5)
  simp only [bitsN_toNat_eq_wordField, hzero, ne_eq, not_true_eq_false, if_false, Bool.or_eq_true, decide_eq_true_eq,
    if_pos hrange]

end SetUp

end Sys2Proof.Machine

/-! PROOFS. Operands of the matrix cells (R105, R118, R213, R230): what a read of good scratchpad words, and of device
memory that the cache die holds, gives and leaves. -/

namespace Sys2Proof.Machine

/-! ### Words of a range that are all alike -/

section Ranges

variable {α : Type} {P : α → Prop} {d : α} {m : RMap α} {a n : Nat} {p : α → Bool}

theorem RMap.forall_slice (hfirst : P (RMap.get d m a)) (h : ∀ e ∈ m, a < e.1 → e.1 < a + n → P e.2) :
    ∀ e ∈ RMap.slice d m a n, P e.2 := by
  intro e he
  rcases List.mem_cons.mp he with rfl | he
  · exact hfirst
  · obtain ⟨x, hx, rfl⟩ := List.mem_map.mp he
    simp only [List.mem_filter, Bool.and_eq_true, decide_eq_true_eq] at hx
    exact h x hx.1 hx.2.1 hx.2.2

theorem RMap.segs_eq_nil (h : ∀ e ∈ RMap.slice d m a n, p e.2 = false) : RMap.segs d m a n p = [] := by
  rw [RMap.segs, List.map_eq_nil_iff, List.filter_eq_nil_iff]
  rintro ⟨e, x⟩ he
  simp [h e (List.of_mem_zip he).1]

theorem RMap.anyIn_eq_false (h : ∀ e ∈ RMap.slice d m a n, p e.2 = false) : RMap.anyIn d m a n p = false := by
  rw [RMap.anyIn, List.any_eq_false.mpr fun e he => by simp [h e he], Bool.and_false]

end Ranges

/-! ### Good words of a scratchpad (Table 7.10) -/

section Scratchpad

variable {s : State} {b w a n : Nat}

theorem GoodWords.slice {B : Block} (h : GoodWords B w n) (hn : 0 < n) :
    ∀ e ∈ RMap.slice {} B.baSt w n, e.2 = { written := true } := by
  obtain ⟨hwords, hentries⟩ := h
  exact RMap.forall_slice (P := (· = ({ written := true } : WordSt))) (hwords 0 hn) hentries

theorem GoodWords.baCorrect (h : GoodWords (s.blk b) w n) (hn : 0 < n) : s.baCorrect b w n = s := by
  have hsegs : RMap.segs {} (s.blk b).baSt w n (fun c => c.chk == .single) = [] :=
    RMap.segs_eq_nil fun e he => by rw [h.slice hn e he]; rfl
  simp [State.baCorrect, hsegs]

theorem GoodWords.baDarkMet (h : GoodWords (s.blk b) w n) (hn : 0 < n) : s.baDarkMet b w n = s := by
  have hsegs : RMap.segs {} (s.blk b).baSt w n (fun c => !c.written || c.chk == .bad) = [] :=
    RMap.segs_eq_nil fun e he => by rw [h.slice hn e he]; rfl
  simp [State.baDarkMet, hsegs]

/-- An operand of good words is the array's bytes, without poison, and reading it changes nothing. -/
theorem GoodWords.opRead (h : GoodWords (s.blk b) (a / 4) ((a + n + 3) / 4 - a / 4)) (hn : 0 < n) :
    s.opRead b false a n = (s, Mem.slice (s.blk b).ba a n, false) := by
  have hcount : 0 < (a + n + 3) / 4 - a / 4 := by omega
  have hdark : RMap.anyIn {} (s.blk b).baSt (a / 4) ((a + n + 3) / 4 - a / 4) WordSt.dark = false :=
    RMap.anyIn_eq_false fun e he => by rw [h.slice hcount e he]; rfl
  show s.opBa b a n = _
  simp only [State.opBa, h.baCorrect hcount, h.baDarkMet hcount, hdark]

end Scratchpad

/-! ### Lines that the cache die holds (R213) -/

section Device

variable {s t u : State} {A L o n : Nat}

/-- From s to t only counters, arbiters and the use of lines differ, and a whole line stays whole. -/
structure State.ReadsOnly (s t : State) : Prop where
  eq : t = { s with qos := t.qos, ccd := { s.ccd with lines := t.ccd.lines, stamp := t.ccd.stamp } }
  whole : ∀ L, s.Whole L → t.Whole L

theorem State.ReadsOnly.refl (s : State) : s.ReadsOnly s := ⟨rfl, fun _ => id⟩

theorem State.ReadsOnly.trans (h : s.ReadsOnly t) (g : t.ReadsOnly u) : s.ReadsOnly u := by
  refine ⟨?_, fun L => g.whole L ∘ h.whole L⟩
  have hu := g.eq
  rw [h.eq] at hu
  exact hu

theorem State.ReadsOnly.mem (h : s.ReadsOnly t) : t.ccd.mem = s.ccd.mem := by rw [h.eq]
theorem State.ReadsOnly.hbm (h : s.ReadsOnly t) : t.hbm = s.hbm := by rw [h.eq]
theorem State.ReadsOnly.hbmWords (h : s.ReadsOnly t) : t.hbmWords = s.hbmWords := by rw [h.eq]
theorem State.ReadsOnly.blk (h : s.ReadsOnly t) (c : Nat) : t.blk c = s.blk c := by rw [h.eq]; rfl
theorem State.ReadsOnly.words (h : s.ReadsOnly t) : t.ccd.words = s.ccd.words := by rw [h.eq]

theorem State.ReadsOnly.qosAdd (s : State) (r n : Nat) : s.ReadsOnly (s.qosAdd r n) := by
  rw [← s.qosAdd_eq_qos r n]
  exact ⟨rfl, fun _ => id⟩

theorem State.ReadsOnly.qosPick {r a : Nat} {size : Nat → Nat} {rs : List (Nat × Nat × Nat)} {x : Nat × State}
    (h : s.qosPick r a size rs = some x) : s.ReadsOnly x.2 := by
  unfold State.qosPick at h
  dsimp only at h
  split at h
  · obtain rfl := Option.some.inj h
    exact ⟨rfl, fun _ => id⟩
  · split at h
    · cases h
    · split at h
      · cases h
      · obtain rfl := Option.some.inj h
        exact ⟨rfl, fun _ => id⟩

theorem State.ReadsOnly.bankGrant {write : Bool} {out : CReq → Bool} (h : s.bankGrant write L n out = some t) :
    s.ReadsOnly t := by
  unfold State.bankGrant at h
  dsimp only at h
  split at h
  · split at h
    · obtain rfl := Option.some.inj h
      exact .refl s
    · cases h
  · split at h
    · obtain rfl := Option.some.inj h
      exact .refl s
    · split at h
      · next hpick =>
        obtain rfl := Option.some.inj h
        exact .qosPick hpick
      · cases h

theorem State.ReadsOnly.granted (s : State) (write : Bool) (L n : Nat) : s.ReadsOnly (s.granted write L n) := by
  unfold State.granted
  cases hgrant : s.bankGrant write L n fun _ => true with
  | none => exact .refl s
  | some t => exact .bankGrant hgrant

theorem State.ReadsOnly.tieGrant (s : State) (a i : Nat) : s.ReadsOnly (s.tieGrant a i) := ⟨rfl, fun _ => id⟩

theorem State.ReadsOnly.routeGrant (s : State) (L : Nat) : s.ReadsOnly (s.routeGrant L) := by
  unfold State.routeGrant
  split
  · exact .refl s
  · next m _ =>
    have hin := State.ReadsOnly.tieGrant s (xbarArb (m / 12)) (m % 12)
    dsimp only
    split
    · exact .refl s
    · split
      · exact hin
      · exact hin.trans (.tieGrant _ _ _)

theorem State.ReadsOnly.touchLine (s : State) (L : Nat) : s.ReadsOnly (s.touchLine L) :=
  ⟨rfl, fun _ h => State.Whole.touchLine h⟩

/-- Where no word of the cache die carries a check error, Table 8.8 changes nothing. -/
theorem State.secded_of_forall_good (h : ∀ e ∈ s.ccd.words, e.2.chk = .good) (q w : Nat) :
    s.secded L q w n = s := by
  have hsegs (c : Chk) (hc : c ≠ .good) : RMap.segs {} s.ccd.words w n (fun x => x.chk == c) = [] := by
    have hslice := RMap.forall_slice (P := fun x : CWord => x.chk = .good) (d := {}) (a := w) (n := n)
      (RMap.get_of_forall (P := fun x : CWord => x.chk = .good) rfl h) fun e he _ _ => h e he
    exact RMap.segs_eq_nil fun e he => by rw [hslice e he, beq_eq_false_iff_ne]; exact hc.symm
  have hsingles : s.singles w n = 0 := by rw [State.singles, hsegs .single (by decide)]; rfl
  have hcount : s.countCe L w n = s := by simp only [State.countCe, hsingles, if_true]
  simp only [State.secded, hcount, hsingles, if_true, hsegs .bad (by decide), List.isEmpty_nil]

theorem State.Whole.checkLine (hL : s.Whole L) (h : ∀ e ∈ s.ccd.words, e.2.chk = .good) : s.checkLine L o n = s := by
  unfold State.checkLine
  refine List.foldlRecOn (motive := (· = s)) _ _ rfl ?_
  rintro _ rfl q hq
  simp only [State.secded_of_forall_good h, hL.holds (List.mem_range.mp hq), if_true, ite_self]

/-- A whole line is read where it stands. -/
theorem State.Whole.lineRead (hL : s.Whole L) (h : ∀ e ∈ s.ccd.words, e.2.chk = .good) (o n : Nat) :
    s.ReadsOnly (s.lineRead L o n) := by
  have hbefore : s.ReadsOnly (((s.granted false L n).routeGrant L).qosAdd 0 n) :=
    ((State.ReadsOnly.granted s false L n).trans (.routeGrant _ L)).trans (.qosAdd _ 0 n)
  unfold State.lineRead
  generalize ((s.granted false L n).routeGrant L).qosAdd 0 n = t at hbefore ⊢
  have hwhole := hbefore.whole L hL
  have htouch := State.ReadsOnly.touchLine t L
  have hserve : t.lineServe L o n = t.touchLine L := by
    obtain ⟨l, hl, -⟩ := id hwhole
    simp only [State.lineServe, hl, hwhole.fetchMissing]
    exact (htouch.whole L hwhole).checkLine (by rw [htouch.words, hbefore.words]; exact h)
  rw [hserve]
  exact hbefore.trans htouch

/-! ### Reading a device range -/

/-- Each piece of a range is of a line that the range touches, and stands in it where the range has it. -/
theorem mem_pieces {p : Nat × Nat × Nat × Nat} (h : p ∈ pieces A n) :
    p.1 * 1024 + p.2.1 = A + p.2.2.2 ∧ A / 1024 ≤ p.1 ∧ p.1 * 1024 < A + n := by
  unfold pieces at h
  split at h
  · simp at h
  · obtain ⟨i, hi, rfl⟩ := List.mem_map.mp h
    have hi := List.mem_range.mp hi
    dsimp only
    omega

/-- The pieces of a range cover it. -/
theorem exists_mem_pieces {x : Nat} (hx : x < n) : ∃ p ∈ pieces A n, p.2.2.2 ≤ x ∧ x < p.2.2.2 + p.2.2.1 := by
  unfold pieces
  rw [if_neg (by omega)]
  refine ⟨_, List.mem_map.mpr ⟨(A + x) / 1024 - A / 1024, List.mem_range.mpr (by omega), rfl⟩, ?_⟩
  dsimp only
  omega

/-- What a read of a range at A has after another piece: the state, its bytes and its words so far. -/
def readPiece (A : Nat) (acc : State × Mem × RMap CWord) (p : Nat × Nat × Nat × Nat) : State × Mem × RMap CWord :=
  let s := acc.1.lineRead p.1 p.2.1 p.2.2.1
  let d := Mem.slice s.ccd.mem (p.1 * 1024 + p.2.1) p.2.2.1
  let w0 := (p.1 * 1024 + p.2.1) / 8
  let w1 := (p.1 * 1024 + p.2.1 + p.2.2.1 + 7) / 8
  (s, Mem.splice acc.2.1 p.2.2.2 p.2.2.1 d,
    RMap.splice {} acc.2.2 (w0 - A / 8) (w1 - w0) {} (s.sentWords w0 (w1 - w0)))

theorem State.devRead_eq (s : State) (A n : Nat) : s.devRead A n = (pieces A n).foldl (readPiece A) (s, [], []) := rfl

theorem State.not_poison_sentWords (h : ∀ e ∈ s.ccd.words, e.2.poison = false) (w n : Nat) :
    ∀ e ∈ s.sentWords w n, e.2.poison = false := by
  have hslice (m : RMap CWord) (hm : ∀ e ∈ m, e.2.poison = false) (a : Nat) :
      ∀ e ∈ RMap.slice {} m a n, e.2.poison = false :=
    RMap.forall_slice (P := fun c : CWord => c.poison = false)
      (RMap.get_of_forall (P := fun c : CWord => c.poison = false) rfl hm) fun e he _ _ => hm e he
  unfold State.sentWords
  dsimp only
  split
  · exact hslice _ h w
  · refine RMap.forall_splice (P := fun c : CWord => c.poison = false) rfl (hslice _ h w) rfl ?_ _ _
    intro e he
    obtain ⟨x, hx, rfl⟩ := List.mem_map.mp he
    exact hslice _ (hslice _ h w) 0 x hx

/-- A read so far of the range at A: only what a read changes has changed, and no word of it is poisoned. -/
structure ReadSoFar (s : State) (acc : State × Mem × RMap CWord) : Prop where
  reads : s.ReadsOnly acc.1
  clean : ∀ e ∈ acc.2.2, e.2.poison = false

theorem ReadSoFar.next {acc : State × Mem × RMap CWord} (h : ReadSoFar s acc)
    (hgood : ∀ e ∈ s.ccd.words, e.2.chk = .good) (hclean : ∀ e ∈ s.ccd.words, e.2.poison = false)
    {p : Nat × Nat × Nat × Nat} (hL : s.Whole p.1) :
    ReadSoFar s (readPiece A acc p) := by
  have hread := h.reads.trans ((h.reads.whole _ hL).lineRead (by rw [h.reads.words]; exact hgood) p.2.1 p.2.2.1)
  refine ⟨hread, ?_⟩
  refine RMap.forall_splice (P := fun c : CWord => c.poison = false) rfl h.clean rfl ?_ _ _
  exact State.not_poison_sentWords (by rw [hread.words]; exact hclean) _ _

/-- The bytes of a piece are those of the cache die, and the others stay as they were. -/
theorem ReadSoFar.get_next {acc : State × Mem × RMap CWord} {p : Nat × Nat × Nat × Nat}
    (h : ReadSoFar s (readPiece A acc p)) (hp : p.1 * 1024 + p.2.1 = A + p.2.2.2) (x : Nat) :
    Mem.get (readPiece A acc p).2.1 x =
      if p.2.2.2 ≤ x ∧ x < p.2.2.2 + p.2.2.1 then Mem.get s.ccd.mem (A + x) else Mem.get acc.2.1 x := by
  have hmem : (acc.1.lineRead p.1 p.2.1 p.2.2.1).ccd.mem = s.ccd.mem := h.reads.mem
  simp only [readPiece, hmem, Mem.get_splice]
  split
  · rw [Mem.get_slice _ _ (by omega), hp]
    congr 1
    omega
  · rfl

theorem ReadSoFar.foldl (hgood : ∀ e ∈ s.ccd.words, e.2.chk = .good) (hclean : ∀ e ∈ s.ccd.words, e.2.poison = false) :
    ∀ (ps : List (Nat × Nat × Nat × Nat)) (acc : State × Mem × RMap CWord), ReadSoFar s acc →
      (∀ p ∈ ps, p.1 * 1024 + p.2.1 = A + p.2.2.2 ∧ s.Whole p.1) →
      ReadSoFar s (ps.foldl (readPiece A) acc) ∧
      ∀ x, (Mem.get acc.2.1 x = Mem.get s.ccd.mem (A + x) ∨ ∃ p ∈ ps, p.2.2.2 ≤ x ∧ x < p.2.2.2 + p.2.2.1) →
        Mem.get (ps.foldl (readPiece A) acc).2.1 x = Mem.get s.ccd.mem (A + x)
  | [], acc, hacc, _ => ⟨hacc, fun x hx => hx.resolve_right (by simp)⟩
  | p :: ps, acc, hacc, hps => by
    obtain ⟨hp, hL⟩ := hps p (by simp)
    have hnext := hacc.next (A := A) hgood hclean hL
    obtain ⟨hall, hbytes⟩ := ReadSoFar.foldl hgood hclean ps _ hnext fun q hq => hps q (by simp [hq])
    refine ⟨hall, fun x hx => hbytes x ?_⟩
    rw [hnext.get_next hp]
    by_cases hin : p.2.2.2 ≤ x ∧ x < p.2.2.2 + p.2.2.1
    · exact .inl (if_pos hin)
    · rw [if_neg hin]
      refine hx.imp_right ?_
      rintro ⟨q, hq, hxq⟩
      refine ⟨q, (List.mem_cons.mp hq).resolve_left ?_, hxq⟩
      rintro rfl
      exact hin hxq

/-- An operand from lines that the cache die holds whole, no word of which is poisoned or carries a check error, is the
cache die's bytes, without poison. -/
theorem HeldRange.opRead (h : HeldRange s A n) (hclean : ∀ e ∈ s.ccd.words, e.2.poison = false) (b : Nat) :
    ∃ u m, s.opRead b true A n = (u, m, false) ∧ s.ReadsOnly u ∧
      ∀ x, x < n → Mem.get m x = Mem.get s.ccd.mem (A + x) := by
  obtain ⟨hgood, hlines⟩ := h
  have hps : ∀ p ∈ pieces A n, p.1 * 1024 + p.2.1 = A + p.2.2.2 ∧ s.Whole p.1 := by
    intro p hp
    obtain ⟨hat, hlo, hhi⟩ := mem_pieces hp
    exact ⟨hat, hlines _ hlo hhi⟩
  obtain ⟨⟨hreads, hpoison⟩, hbytes⟩ := ReadSoFar.foldl hgood hclean _ (s, [], []) ⟨.refl s, by simp⟩ hps
  refine ⟨_, _, ?_, hreads, fun x hx => hbytes x (.inr (exists_mem_pieces hx))⟩
  have hany := List.any_eq_false.mpr fun e he => by simpa using hpoison e he
  simp only [State.opRead, if_true, State.devRead_eq, hany]

end Device

end Sys2Proof.Machine

/-! PROOFS. LOADW and its completion (R105, R107, R112, R132), and the statement about the matrix cells' set-up commands
and weight loads settled from the rules above. -/

namespace Sys2Proof.Machine

/-! ### LOADW (Table 4.10) -/

section WeightLoads

variable {s u : State} {b k cls a n : Nat} {w : W64} {dev : Bool}

/-- Bytes of the tile image that a LOADW word names (R98). -/
def tileBytes (w : W64) : Nat := imageBytes (wordField w 9 6) (wordField w 11 10) (32 * (wordField w 13 12 + 1))

theorem elemBits_ge (fmt : Nat) : 4 ≤ elemBits fmt := by
  unfold elemBits
  split <;> decide

theorem imageBytes_pos (fmt kq : Nat) {rows : Nat} (hrows : 0 < rows) : 0 < imageBytes fmt kq rows := by
  unfold imageBytes
  split
  · have hbits := Nat.mul_le_mul (show 32 ≤ (kq + 1) * 32 by omega) (elemBits_ge fmt)
    exact Nat.mul_pos hrows (Nat.div_pos (by omega) (by decide))
  · next hscales => exact Nat.add_pos_right _ (Nat.mul_pos hrows (Nat.pos_of_ne_zero hscales))

theorem tileBytes_pos (w : W64) : 0 < tileBytes w := imageBytes_pos _ _ (by omega)

theorem loadwRange_scratchpad (m : Mc) (h : wordField w 14 14 = 0) :
    loadwRange m w.toNat = (false, wordField w 36 16 * 64, tileBytes w) := by
  simp [loadwRange, bitN_toNat_eq_wordField, bitsN_toNat_eq_wordField, h, tileBytes]

theorem loadwRange_device (m : Mc) (h : wordField w 14 14 = 1) :
    loadwRange m w.toNat = (true, m.baseLoad + wordField w 36 16 * 64, tileBytes w) := by
  simp [loadwRange, bitN_toNat_eq_wordField, bitsN_toNat_eq_wordField, h, tileBytes, Nat.add_comm]

/-- A LOADW is next, its reserved bits are zero, and it may start: it loads n bytes at a of a space (R105, R112). -/
structure LoadReady (s : State) (b k : Nat) (w : W64) (cls : Nat) (dev : Bool) (a n : Nat) : Prop
    extends CellReady s b k w cls where
  op : wordField w 5 0 = 3
  idle : (s.mcAt b k).loading = none
  castled : (s.mcAt b k).noCastlePending = true
  range : loadwRange (s.mcAt b k) w.toNat = (dev, a, n)
  free : s.unitWaits b cls dev false a n = false
  bit15 : wordField w 15 15 = 0
  high : wordField w 63 37 = 0

theorem CellReady.headCls (h : CellReady s b k w cls) : s.headCls b k = cls := by rw [State.headCls, h.headCmd]

@[simp] theorem State.unitTop_begun (s : State) (b k cls : Nat) : (s.begun b k cls).unitTop b = s.unitTop b := by
  rw [State.unitTop, State.blk_begun_self]; rfl

@[simp] theorem State.unitRange_begun (s : State) (b k cls : Nat) (dev : Bool) (a n : Nat) :
    (s.begun b k cls).unitRange b dev a n = s.unitRange b dev a n := by
  rw [State.unitRange, State.unitTop_begun, State.unitRange]

/-- The load that a LOADW begins with the bytes m of its operand. -/
def loadOf (w : W64) (dev : Bool) (a n : Nat) (m : Mem) : McLoad where
  buf := { loadBuf (wordField w 9 6) (wordField w 11 10) (wordField w 13 12) m with poisoned := false }
  space := dev
  addr := a
  len := n

/-- A LOADW whose operand is read without poison. -/
theorem LoadReady.runs (h : LoadReady s b k w cls dev a n) (hfmt : wordField w 9 6 ≤ 6)
    (hin : s.unitRange b dev a n = true) {m : Mem}
    (hread : ((s.begun b k cls).linkPass b k dev).opRead b dev a n = (u, m, false)) {P : State → Prop}
    (hP : P (u.updMc b k fun c => { c with loading := some (loadOf w dev a n m) })) : Runs (.mcLoadw b k) s P := by
  refine h.toCellReady.runs rfl (by simp [h.op]) ?_ ?_ hP
  · simp [h.idle, h.castled, h.range, h.headCls, h.free]
  · simp [h.range, hread, hin, bitN_toNat_eq_wordField, bitsN_toNat_eq_wordField, h.bit15, h.high, Nat.not_lt.mpr hfmt,
      loadOf]

/-- A LOADW of a bad format or range (R117). -/
theorem LoadReady.runs_stops (h : LoadReady s b k w cls dev a n) {code : Nat}
    (hcode : 6 < wordField w 9 6 ∧ code = 5 ∨ wordField w 9 6 ≤ 6 ∧ s.unitRange b dev a n = false ∧ code = 3) :
    Runs (.mcLoadw b k) s fun t => CellStops s t b k code := by
  refine h.toCellReady.runs rfl (by simp [h.op]) ?_ ?_ (h.cellStops code)
  · simp [h.idle, h.castled, h.range, h.headCls, h.free]
  · rcases hcode with ⟨hfmt, rfl⟩ | ⟨hfmt, hout, rfl⟩
    · simp [bitN_toNat_eq_wordField, bitsN_toNat_eq_wordField, h.bit15, h.high, hfmt]
    · simp [h.range, hout, bitN_toNat_eq_wordField, bitsN_toNat_eq_wordField, h.bit15, h.high, Nat.not_lt.mpr hfmt]

theorem LoadReady.runs_scratchpad (h : LoadReady s b k w cls false a n) (hfmt : wordField w 9 6 ≤ 6) (hn : 0 < n)
    (hin : a + n ≤ s.unitTop b) (hgood : GoodWords (s.blk b) (a / 4) ((a + n + 3) / 4 - a / 4)) :
    Runs (.mcLoadw b k) s fun t => ∃ m, (∀ i, i < n → Mem.get m i = Mem.get (s.blk b).ba (a + i)) ∧
      CellDoes s t b k 0 { s.mcAt b k with loading := some (loadOf w false a n m) } := by
  have hblk : GoodWords ((s.begun b k cls).blk b) (a / 4) ((a + n + 3) / 4 - a / 4) := by
    rw [State.blk_begun_self]
    exact hgood
  refine h.runs hfmt (by simpa [State.unitRange] using hin) (hblk.opRead hn) ⟨_, fun i hi => ?_,
    (cellDoes_begun s b k cls).updMc _⟩
  rw [Mem.get_slice _ _ hi, State.blk_begun_self]

theorem LoadReady.runs_device (h : LoadReady s b k w cls true a n) (hfmt : wordField w 9 6 ≤ 6) (hin : a + n ≤ memBytes)
    (hheld : HeldRange s a n) (hclean : ∀ e ∈ s.ccd.words, e.2.poison = false) : Runs (.mcLoadw b k) s fun t =>
      Took s t b k 0 ∧ OnlyCell s t b k ∧ MemorySame s t ∧ (∀ c, c ≠ b → t.blk c = s.blk c) ∧
      ∃ m, (∀ i, i < n → Mem.get m i = Mem.get s.ccd.mem (a + i)) ∧
        t.mcAt b k = { s.mcAt b k with loading := some (loadOf w true a n m) } := by
  have hheld' : HeldRange ((s.begun b k cls).linkGrant b k) a n := hheld
  obtain ⟨u, m, hread, hreads, hbytes⟩ := hheld'.opRead hclean b
  obtain ⟨htook, ⟨hothers, -⟩, hcell, hm⟩ := cellDoes_begun s b k cls
  have hblk (c : Nat) : u.blk c = (s.begun b k cls).blk c := hreads.blk c
  have hmc (j : Nat) : u.mcAt b j = (s.begun b k cls).mcAt b j := by rw [State.mcAt, hblk, State.mcAt]
  have htook' : Took s u b k 0 := by simpa only [Took, hblk] using htook
  have hcell' : OnlyCell s u b k := by simpa only [OnlyCell, hblk, hmc] using hcell
  refine h.runs hfmt (by simpa [State.unitRange, installed] using hin) hread ⟨htook'.updMc _, hcell'.updMc _,
    ⟨hreads.mem, hreads.hbm, hreads.hbmWords⟩, fun c hc => ?_, m, hbytes, ?_⟩
  · rw [State.blk_updMc_of_ne _ hc, hblk, hothers c hc]
  · rw [State.mcAt_updMc_self, hmc, hm]

/-! ### The end of a load (R105, Table 4.14) -/

/-- The cell once load l has completed. -/
def Mc.loaded (m : Mc) (l : McLoad) : Mc :=
  ({ m with loading := none, shadow := l.buf, shadowFull := true } : Mc).castlePending

theorem Mc.loaded_of_noCastlePending {m : Mc} (h : m.noCastlePending = true) (l : McLoad) :
    m.loaded l = { m with loading := none, shadow := l.buf, shadowFull := true } := if_pos h

theorem Mc.loaded_of_castlePending {m : Mc} (h : m.noCastlePending = false) (l : McLoad) : m.loaded l =
    { m with
      loading := none, active := l.buf, shadow := m.active, shadowFull := false
      streams := m.streams.map fun t => { t with castled := true } } :=
  if_neg (Bool.eq_false_iff.mp h)

theorem Mc.noCastlePending_loaded (m : Mc) (l : McLoad) : (m.loaded l).noCastlePending = true := by
  cases h : m.noCastlePending with
  | true => rw [Mc.loaded_of_noCastlePending h]; exact h
  | false => rw [Mc.loaded_of_castlePending h]; simp [Mc.noCastlePending]

theorem Mc.loaded_keeps (m : Mc) (l : McLoad) : (m.loaded l).loading = none ∧ (m.loaded l).acc = m.acc := by
  cases h : m.noCastlePending with
  | true => rw [Mc.loaded_of_noCastlePending h]; exact ⟨rfl, rfl⟩
  | false => rw [Mc.loaded_of_castlePending h]; exact ⟨rfl, rfl⟩

theorem runs_mcLoadwComplete {l : McLoad} (hb : b < 96) (hk : k < 2) (hlive : s.blockLive b = true)
    (hload : (s.mcAt b k).loading = some l) : Runs (.mcLoadwComplete b k) s fun t =>
      OnlyBlock s t b ∧ OnlyCell s t b k ∧ (t.blk b).seq.queues = (s.blk b).seq.queues ∧
      (∀ g, SMap.get 0 (t.blk b).seq.completed g = SMap.get 0 (s.blk b).seq.completed g + if g = k then 1 else 0) ∧
      t.mcAt b k = (s.mcAt b k).loaded l := by
  refine ⟨(s.updMc b k fun m => m.loaded l).cmdDone b k, ?_, ((OnlyBlock.refl s b).updBlk _).updBlk _,
    ((OnlyCell.refl s b k).updMc _).cmdDone, ?_, fun g => ?_, ?_⟩
  · show execMcLoadwComplete b k s = _
    rw [execMcLoadwComplete, onUnit_of_exists (by simp [hb, hk])]
    simp only [hload, hlive, Bool.not_true, Bool.false_eq_true, if_false]
    rfl
  · rw [State.blk_cmdDone_self, State.blk_updMc_self]
  · rw [State.blk_cmdDone_self, State.blk_updMc_self, SMap.get_upd]
    split
    · next hg => rw [hg]
    · rfl
  · rw [State.mcAt_cmdDone, State.mcAt_updMc_self]

end WeightLoads

/-- Settles O36, a clause for each command above. -/
theorem matrixSetupAndWeights : Obligations.MatrixSetupAndWeights := by
  unfold Obligations.MatrixSetupAndWeights
  refine ⟨fun s b k w cls hk hqueued hhalted hfree => ?setUp, ?scratchpad, ?device, ?stops, ?complete⟩
  case setUp =>
    have h : CellReady s b k w cls := ⟨hk, hqueued, hhalted⟩
    refine ⟨h.runs_mcNop hfree, h.runs_mcNop_stops hfree, fun hop => ⟨?_, ?_, ?_, ?_⟩, fun hop hload => ⟨?_, ?_, ?_⟩,
      h.runs_mcCastle hfree, h.runs_mcCastle_waits, fun hop hadds => ⟨?_, ?_⟩⟩
    · intro hzero hifmt hofmt htol htol' htopk hlic
      refine h.runs_mcCfg hfree hop ?_
      rw [cfgError_toNat, if_neg (not_not_intro hzero), if_neg (by omega), if_neg]
      rintro ⟨hmode, hno⟩
      rcases hlic with hlic | hlic
      · exact hmode hlic
      · exact Bool.noConfusion (hlic.symm.trans hno)
    · intro hhigh
      exact h.runs_mcCfg_stops hfree hop (by rw [cfgError_toNat, if_pos hhigh]) (by decide)
    · intro hzero hbad
      refine h.runs_mcCfg_stops hfree hop ?_ (by decide)
      rw [cfgError_toNat, if_neg (not_not_intro hzero), if_pos hbad]
    · intro hzero hifmt hofmt htol htol' htopk hmode hno
      refine h.runs_mcCfg_stops hfree hop ?_ (by decide)
      rw [cfgError_toNat, if_neg (not_not_intro hzero), if_neg (by omega), if_pos ⟨hmode, hno⟩]
    · exact h.runs_mcBase hfree hop hload
    · exact fun hhigh => h.runs_mcBase_stops hfree hop hload (.inl ⟨hhigh, rfl⟩)
    · exact fun hzero hsel => h.runs_mcBase_stops hfree hop hload (.inr ⟨hzero, hsel, rfl⟩)
    · intro hzero hpos hend
      obtain ⟨t, hexec, htook, honly, hcell, hm⟩ := h.runs_mcClracc hfree hop hadds hzero hpos hend
      refine ⟨t, hexec, htook, honly, hcell, fun e => ?_, ?_⟩
      · rw [hm, Mc.get_acc_cleared]
      · rw [hm]; rfl
    · exact h.runs_mcClracc_stops hfree hop hadds
  case scratchpad =>
    intro s b k a n w cls hk hqueued hhalted hop hidle hcastled hspace h15 hhigh hfmt ha hn hin hgood
    subst ha hn
    have h : LoadReady s b k w cls false _ _ :=
      ⟨⟨hk, hqueued, hhalted⟩, hop, hidle, hcastled, loadwRange_scratchpad _ hspace, rfl, h15, hhigh⟩
    obtain ⟨t, hexec, m, hbytes, htook, honly, hcell, hm⟩ := h.runs_scratchpad hfmt (tileBytes_pos w) hin hgood
    exact ⟨t, hexec, htook, honly, hcell, m, hbytes, hm⟩
  case device =>
    intro s b k a n w cls hk hqueued hhalted hop hidle hcastled hspace h15 hhigh hfmt ha hn hin hfree hheld hclean
    subst ha hn
    have h : LoadReady s b k w cls true _ _ :=
      ⟨⟨hk, hqueued, hhalted⟩, hop, hidle, hcastled, loadwRange_device _ hspace, hfree, h15, hhigh⟩
    exact h.runs_device hfmt hin hheld hclean
  case stops =>
    intro s b k w cls hk hqueued hhalted hop hidle hcastled hspace h15 hhigh
    have h : LoadReady s b k w cls false _ _ :=
      ⟨⟨hk, hqueued, hhalted⟩, hop, hidle, hcastled, loadwRange_scratchpad _ hspace, rfl, h15, hhigh⟩
    exact ⟨fun hfmt => h.runs_stops (.inl ⟨hfmt, rfl⟩),
      fun hfmt hout => h.runs_stops (.inr ⟨hfmt, decide_eq_false (Nat.not_le.mpr hout), rfl⟩)⟩
  case complete =>
    intro s b k l hb hk hlive hload
    obtain ⟨t, hexec, honly, hcell, hqueues, hcompleted, hm⟩ := runs_mcLoadwComplete hb hk hlive hload
    obtain ⟨hnone, hacc⟩ := (s.mcAt b k).loaded_keeps l
    refine ⟨t, hexec, honly, hcell, hqueues, hcompleted, hm ▸ hnone, hm ▸ hacc, fun hno => ?_, fun hwaits => ?_⟩
    · rw [hm, Mc.loaded_of_noCastlePending hno]
      exact ⟨rfl, rfl, rfl, rfl⟩
    · refine ⟨?_, ?_, ?_, by rw [hm, Mc.noCastlePending_loaded]⟩ <;> rw [hm, Mc.loaded_of_castlePending hwaits]

end Sys2Proof.Machine

/-! PROOFS. The statement about reductions and the scrubbers speaks of every state, and fails in one that no run reaches: a
line of the cache die stands in a way past the last (R208). -/

namespace Sys2Proof.Machine

/-- A scrubber whose next place lies in a busy bank does nothing (R231). -/
theorem exec_cacheDieScrub_of_busy {s : State} {sl k : Nat} (hsl : sl < 8) (hserved : s.served = true)
    (hen : s.ccd.scrubEn = true) (hkeys : s.scrubKeys sl (s.slice sl).scrubPos = [k])
    (hbusy : (s.slice sl).bankIdle (k / 48 % 32) = false) : exec (.cacheDieScrub sl) s = .next s := by
  show execCacheDieScrub sl s = _
  rw [execCacheDieScrub, onUnit_of_exists (decide_eq_true hsl)]
  simp only [hserved, hen, hkeys, hbusy, List.foldl_nil, Bool.not_true, Bool.or_self, Bool.false_eq_true, if_false,
    Bool.not_false, if_true]

/-- A read of slice 7 at the bank of set 1. -/
def bank1Read : CReq :=
  { addr := 15 * 1024, len := 4, write := false, bytes := [], poison := false, who := .thread 0 0 0, cls := 0 }

/-- Line 7, of set 0 of slice 7, stands in way 48. -/
def line7PastLast : Line := { way := 48, valid := 0xF, dirty := 0, use := 1 }

/-- Beside that line, the first word of which is singly wrong, a read waits at the bank of set 1. -/
def pastLastWay : State :=
  { State.reset with
    dev := .ready
    ccd := { slices := [(7, { scrubPos := 1, reads := [bank1Read] })]
             lines := [(7, line7PastLast)]
             words := RMap.fill {} [] 896 1 { chk := .single } } }

/-- The line's place in the scrubber's order is that of set 1 and way 0. -/
theorem exec_cacheDieScrub_pastLastWay : exec (.cacheDieScrub 7) pastLastWay = .next pastLastWay :=
  exec_cacheDieScrub_of_busy (k := 48) (by decide) (by decide) rfl (by decide) (by decide)

/-- Refutes O47: `pastLastWay` meets the hypotheses of the clause about a singly wrong word of the cache die, which ask the
bank of the line's set to be idle. The scrubber asks it of the bank of the line's place, which is the same for the ways
below 48 alone: it waits, and neither corrects the word nor counts it. -/
theorem not_reductionsAndScrubbers : ¬ Obligations.ReductionsAndScrubbers := by
  unfold Obligations.ReductionsAndScrubbers
  rintro ⟨-, hscrub, -⟩
  obtain ⟨hsingle, -⟩ := hscrub pastLastWay 7 896 (7, line7PastLast) (by decide) (by decide) rfl (by decide) (by decide)
    (by decide) rfl (by decide) rfl rfl (by decide) (by decide)
  obtain ⟨t, hexec, -, -, hcount, -⟩ := hsingle rfl
  obtain rfl : pastLastWay = t := Host.Outcome.next.inj (exec_cacheDieScrub_pastLastWay.symm.trans hexec)
  exact absurd hcount (by decide)

end Sys2Proof.Machine

/-! PROOFS. The commands of the DMA channels (R191-R195): one rule for the command that a free channel starts, one for how it
stops, and the commands that set a base, do nothing or complete. -/

namespace Sys2Proof.Machine

/-! ### What a channel's commands change of its block (R191, R194) -/

section ChannelChanges

variable {s t u : State} {b c n cls : Nat} {w : W64}

@[simp] theorem State.blk_updDma_self (s : State) (b c : Nat) (f : Dma → Dma) :
    (s.updDma b c f).blk b = { s.blk b with dma := SMap.upd {} (s.blk b).dma c f } := s.blk_updBlk_self b _

theorem State.blk_updDma_of_ne (s : State) {d : Nat} (hd : d ≠ b) (c : Nat) (f : Dma → Dma) :
    (s.updDma b c f).blk d = s.blk d := s.blk_updBlk_of_ne hd _

theorem State.dmaAt_updDma_of_ne (s : State) (b : Nat) {d : Nat} (hd : d ≠ c) (f : Dma → Dma) :
    (s.updDma b c f).dmaAt b d = s.dmaAt b d := by
  rw [State.dmaAt, State.blk_updDma_self]
  exact SMap.get_upd_other _ _ _ hd

@[simp] theorem State.dmaAt_begun (s : State) (b k cls d : Nat) : (s.begun b k cls).dmaAt b d = s.dmaAt b d := by
  simp [State.dmaAt]

@[simp] theorem State.dmaAt_cmdDone (s : State) (b k d : Nat) : (s.cmdDone b k).dmaAt b d = s.dmaAt b d := by
  simp [State.dmaAt]

theorem Took.updDma {g : Nat} (h : Took s t b g n) (c : Nat) (f : Dma → Dma) : Took s (t.updDma b c f) b g n := by
  simpa only [Took, State.blk_updDma_self] using h

/-- Channel c has taken its oldest command, w, and runs it. -/
def State.dmaBegun (s : State) (b c cls : Nat) (w : W64) : State :=
  (s.begun b (c + 2) cls).updDma b c fun d => { d with busy := some w }

@[simp] theorem State.dmaBegun_ccd (s : State) (b c cls : Nat) (w : W64) : (s.dmaBegun b c cls w).ccd = s.ccd := rfl
@[simp] theorem State.dmaBegun_hbm (s : State) (b c cls : Nat) (w : W64) : (s.dmaBegun b c cls w).hbm = s.hbm := rfl
@[simp] theorem State.dmaBegun_hbmWords (s : State) (b c cls : Nat) (w : W64) :
    (s.dmaBegun b c cls w).hbmWords = s.hbmWords := rfl
@[simp] theorem State.dmaBegun_hbmStacks (s : State) (b c cls : Nat) (w : W64) :
    (s.dmaBegun b c cls w).hbmStacks = s.hbmStacks := rfl

@[simp] theorem State.linkPass_ccd (s : State) (b u : Nat) (dev : Bool) : (s.linkPass b u dev).ccd = s.ccd := by
  unfold State.linkPass; split <;> rfl
@[simp] theorem State.linkPass_hbm (s : State) (b u : Nat) (dev : Bool) : (s.linkPass b u dev).hbm = s.hbm := by
  unfold State.linkPass; split <;> rfl
@[simp] theorem State.linkPass_hbmWords (s : State) (b u : Nat) (dev : Bool) :
    (s.linkPass b u dev).hbmWords = s.hbmWords := by
  unfold State.linkPass; split <;> rfl
@[simp] theorem State.linkPass_blocks (s : State) (b u : Nat) (dev : Bool) : (s.linkPass b u dev).blocks = s.blocks := by
  unfold State.linkPass; split <;> rfl
@[simp] theorem State.blk_linkPass (s : State) (b u : Nat) (dev : Bool) (d : Nat) :
    (s.linkPass b u dev).blk d = s.blk d := by rw [State.blk, State.linkPass_blocks]; rfl

@[simp] theorem State.dmaAt_dmaBegun_self (s : State) (b c cls : Nat) (w : W64) :
    (s.dmaBegun b c cls w).dmaAt b c = { s.dmaAt b c with busy := some w } := by
  rw [State.dmaBegun, State.dmaAt_updDma_self, State.dmaAt_begun]

theorem took_dmaBegun (s : State) (b c cls : Nat) (w : W64) : Took s (s.dmaBegun b c cls w) b (c + 2) 0 :=
  (took_begun s b (c + 2) cls).updDma c _

theorem onlyBlock_dmaBegun (s : State) (b c cls : Nat) (w : W64) : OnlyBlock s (s.dmaBegun b c cls w) b :=
  (onlyBlock_begun s b (c + 2) cls).updBlk _

theorem channelRuns_dmaBegun (s : State) (b c cls : Nat) (w : W64) : ChannelRuns s (s.dmaBegun b c cls w) b c w := by
  refine ⟨s.dmaAt_dmaBegun_self b c cls w, fun d hd => ?_⟩
  rw [State.dmaBegun, State.dmaAt_updDma_of_ne _ _ hd, State.dmaAt_begun]

/-- What leaves the channels as they are keeps the command running. -/
theorem ChannelRuns.of_dma (h : ChannelRuns s t b c w) (hdma : (u.blk b).dma = (t.blk b).dma) : ChannelRuns s u b c w := by
  simpa only [ChannelRuns, State.dmaAt, hdma] using h

theorem State.blk_dmaBegun_of_ne (s : State) {d : Nat} (hd : d ≠ b) (c cls : Nat) (w : W64) :
    (s.dmaBegun b c cls w).blk d = s.blk d := (onlyBlock_dmaBegun s b c cls w).1 d hd

/-- Beside its sequencer and its channels a block is as before when a command starts. -/
theorem State.blk_dmaBegun_self (s : State) (b c cls : Nat) (w : W64) : (s.dmaBegun b c cls w).blk b =
    { s.blk b with seq := ((s.dmaBegun b c cls w).blk b).seq, dma := ((s.dmaBegun b c cls w).blk b).dma } := by
  rw [State.dmaBegun, State.blk_updDma_self, State.blk_begun_self]

/-- A channel that halts (R194). -/
theorem channelStops_dmaHalt (hmain : s.mainOn = true) (b c cls status : Nat) (off : W32) (w : W64) :
    ChannelStops s ((s.begun b (c + 2) cls).dmaHalt b c status off w) b c status := by
  unfold State.dmaHalt
  refine ⟨?_, ?_, ?_, ?_, ?_, fun d hd => ?_⟩
  · simp [State.dmaAt, State.dropQueue]
  · simp [State.dmaAt, State.dropQueue]
  · simp [State.dmaAt, State.dropQueue]
  · simp [State.dropQueue, SMap.get_del_self]
  · refine State.post_newRecord_of_next _ ?_ ?_ (by decide) rfl
    · simp [State.dropQueue, State.begun, State.takeCmd]
    · simpa [State.mainOn, State.dropQueue, State.begun, State.takeCmd, State.serveAs] using hmain
  · rw [State.blk_post, State.dropQueue, State.blk_updSeq_of_ne _ hd, State.blk_updDma_of_ne _ hd, s.blk_begun_of_ne hd]

end ChannelChanges

/-! ### The command that a channel starts -/

section Starting

variable {s t : State} {b c cls : Nat} {w : W64}

theorem ChannelReady.headCmd (h : ChannelReady s b c w cls) : s.headCmd b (c + 2) = some (w, cls) := by
  obtain ⟨-, ⟨-, -, hhead⟩, -⟩ := h
  unfold State.headCmd
  cases hq : SMap.get [] (s.blk b).seq.queues (c + 2) with
  | nil => simp [hq] at hhead
  | cons x rest => simpa [hq] using hhead

theorem ChannelReady.block_lt (h : ChannelReady s b c w cls) : b < 96 := h.2.1.1

theorem ChannelReady.unitExists (h : ChannelReady s b c w cls) : (decide (b < 96) && decide (c < 4)) = true := by
  simp [h.1, h.block_lt]

theorem ChannelReady.mainOn (h : ChannelReady s b c w cls) : s.mainOn = true := State.mainOn_of_blockLive h.2.1.2.1

variable {want : W64 → Bool} {f : W64 → State → State} {i : Instr} {P : State → Prop}

/-- What a row of a free channel does with the channel's oldest command, when that is of the row. -/
theorem ChannelReady.dmaStart_eq (h : ChannelReady s b c w cls) (hwant : want w = true) : s.dmaStart b c want f =
    match s.dmaError b c w with
    | some (st, off) => (s.begun b (c + 2) cls).dmaHalt b c st off w
    | none => if s.dmaWaits b c w then s else f w (s.dmaBegun b c cls w) := by
  obtain ⟨-, ⟨-, hlive, -⟩, hhalted, hbusy⟩ := id h
  simp only [State.dmaStart, hlive, hhalted, hbusy, h.headCmd, hwant, Bool.not_true, Option.isSome_none, Bool.or_self,
    Bool.false_eq_true, if_false]
  rfl

/-- A legal command that need not wait has its effect. -/
theorem ChannelReady.runs (h : ChannelReady s b c w cls)
    (hexec : exec i s = onUnit (decide (b < 96) && decide (c < 4)) (s.dmaStart b c want f)) (hwant : want w = true)
    (hlegal : s.dmaError b c w = none) (hfree : s.dmaWaits b c w = false) (hP : P (f w (s.dmaBegun b c cls w))) :
    Runs i s P := by
  refine ⟨_, ?_, hP⟩
  rw [hexec, onUnit_of_exists h.unitExists, h.dmaStart_eq hwant, hlegal, hfree]
  rfl

/-- A command with an error halts its channel. -/
theorem ChannelReady.runs_stops (h : ChannelReady s b c w cls)
    (hexec : exec i s = onUnit (decide (b < 96) && decide (c < 4)) (s.dmaStart b c want f)) (hwant : want w = true)
    {status : Nat} {off : W32} (herror : s.dmaError b c w = some (status, off)) :
    Runs i s fun t => ChannelStops s t b c status := by
  refine ⟨_, ?_, channelStops_dmaHalt h.mainOn b c cls status off w⟩
  rw [hexec, onUnit_of_exists h.unitExists, h.dmaStart_eq hwant, herror]

end Starting

/-! ### The words of commands (Tables 7.3 to 7.9) -/

section Words

variable {s : State} {b c : Nat} {w : W64}

theorem dmaOp_eq (w : W64) : dmaOp w = wordField w 5 0 := bitsN_toNat_eq_wordField w 5 0

theorem dmaRop_eq (w : W64) : dmaRop w = wordField w 8 6 := bitsN_toNat_eq_wordField w 8 6

/-- A command that names no range. -/
theorem State.dmaWaits_of_no_range (h : dmaRanges (s.dmaAt b c) w = []) : s.dmaWaits b c w = false := by
  rw [State.dmaWaits, h]
  rfl

theorem dmaRanges_of_other (h : wordField w 5 0 ∉ [0x08, 0x09, 0x0A]) (d : Dma) : dmaRanges d w = [] := by
  simp only [List.mem_cons, List.not_mem_nil, or_false, not_or] at h
  simp only [dmaRanges, dmaOp_eq]
  split
  · exact absurd ‹_› h.1
  · exact absurd ‹_› h.2.1
  · exact absurd ‹_› h.2.2
  · rfl

/-- A range that lies in its space is not cut short. -/
theorem State.dmaCut_device {a n : Nat} (h : a + n ≤ memBytes) (write : Bool) : s.dmaCut b (true, a, n, write) = none := by
  simp [State.dmaCut, h]

theorem State.dmaCut_scratchpad {a n : Nat} (h : a + n ≤ s.unitTop b) (write : Bool) :
    s.dmaCut b (false, a, n, write) = none := by
  simp [State.dmaCut, h]

theorem State.dmaError_nop (hw : w = 0) : s.dmaError b c w = none := by rw [hw]; rfl

theorem State.dmaError_unlisted (h : wordField w 5 0 ∉ [0x02, 0x08, 0x09, 0x0A]) (hw : w ≠ 0) :
    s.dmaError b c w = some (1, noOff) := by
  have hne : w.toNat ≠ 0 := fun h0 => hw (BitVec.eq_of_toNat_eq h0)
  simp only [List.mem_cons, List.not_mem_nil, or_false, not_or] at h
  simp only [State.dmaError, dmaOp_eq]
  split <;> simp_all

theorem State.dmaError_base (hop : wordField w 5 0 = 0x02) (hzero : wordField w 15 8 = 0) :
    s.dmaError b c w = if 2 ≤ wordField w 7 6 then some (2, noOff) else none := by
  simp only [State.dmaError, dmaOp_eq, hop, bitsN_toNat_eq_wordField, hzero, dmaRanges]
  by_cases hsel : 2 ≤ wordField w 7 6 <;> simp [hsel]

end Words

/-! ### NOP and BASE, and the end of a command -/

section NopAndBase

variable {s : State} {b c cls : Nat} {w : W64}

theorem ChannelReady.runs_dmaNop (h : ChannelReady s b c w cls) (hw : w = 0) : Runs (.dmaNop b c) s fun t =>
    Took s t b (c + 2) 0 ∧ OnlyBlock s t b ∧ ChannelRuns s t b c w := by
  have hop : wordField w 5 0 = 0 := by rw [hw]; rfl
  exact h.runs rfl (by simp [dmaOp_eq, hop]) (State.dmaError_nop hw)
    (State.dmaWaits_of_no_range (dmaRanges_of_other (by simp [hop]) _))
    ⟨took_dmaBegun s b c cls w, onlyBlock_dmaBegun s b c cls w, channelRuns_dmaBegun s b c cls w⟩

theorem ChannelReady.runs_dmaNop_stops (h : ChannelReady s b c w cls) (hop : wordField w 5 0 ∉ [0x02, 0x08, 0x09, 0x0A])
    (hw : w ≠ 0) : Runs (.dmaNop b c) s fun t => ChannelStops s t b c 1 :=
  h.runs_stops rfl (by simpa [dmaOp_eq] using hop) (State.dmaError_unlisted hop hw)

theorem ChannelReady.runs_dmaBase (h : ChannelReady s b c w cls) (hop : wordField w 5 0 = 0x02)
    (hzero : wordField w 15 8 = 0) (hsel : wordField w 7 6 < 2) : Runs (.dmaBase b c) s fun t =>
      Took s t b (c + 2) 0 ∧ OnlyBlock s t b ∧ (∀ d, d ≠ c → t.dmaAt b d = s.dmaAt b d) ∧
      t.dmaAt b c = (if wordField w 7 6 = 0
        then { s.dmaAt b c with busy := some w, baseSrc := w.toNat / 2 ^ 16 * 1024 }
        else { s.dmaAt b c with busy := some w, baseDst := w.toNat / 2 ^ 16 * 1024 }) := by
  refine h.runs rfl (by simp [dmaOp_eq, hop]) (by rw [State.dmaError_base hop hzero, if_neg (by omega)])
    (State.dmaWaits_of_no_range (dmaRanges_of_other (by simp [hop]) _))
    ⟨(took_dmaBegun s b c cls w).updDma c _, (onlyBlock_dmaBegun s b c cls w).updBlk _, fun d hd => ?_, ?_⟩
  · rw [State.dmaAt_updDma_of_ne _ _ hd]
    exact (channelRuns_dmaBegun s b c cls w).2 d hd
  · rw [State.dmaAt_updDma_self, State.dmaAt_dmaBegun_self, bitsN_toNat_eq_wordField]

theorem ChannelReady.runs_dmaBase_stops (h : ChannelReady s b c w cls) (hop : wordField w 5 0 = 0x02)
    (hzero : wordField w 15 8 = 0) (hsel : 2 ≤ wordField w 7 6) : Runs (.dmaBase b c) s fun t => ChannelStops s t b c 2 :=
  h.runs_stops rfl (by simp [dmaOp_eq, hop]) (by rw [State.dmaError_base hop hzero, if_pos hsel])

theorem runs_dmaCommandComplete (hb : b < 96) (hc : c < 4) (hlive : s.blockLive b = true)
    (hbusy : (s.dmaAt b c).busy = some w) : Runs (.dmaCommandComplete b c) s fun t =>
      t.dmaAt b c = { s.dmaAt b c with busy := none, done := (s.dmaAt b c).done + 1 } ∧
      (∀ g, SMap.get 0 (t.blk b).seq.completed g = SMap.get 0 (s.blk b).seq.completed g + if g = c + 2 then 1 else 0) ∧
      t.blk b = { s.blk b with seq := (t.blk b).seq, dma := (t.blk b).dma } ∧
      (∀ d, d ≠ c → t.dmaAt b d = s.dmaAt b d) ∧ OnlyBlock s t b := by
  refine ⟨(s.updDma b c fun d => { d with busy := none, done := d.done + 1 }).cmdDone b (c + 2), ?_, ?_, fun g => ?_, ?_,
    fun d hd => ?_, ((OnlyBlock.refl s b).updBlk _).updBlk _⟩
  · show execDmaCommandComplete b c s = _
    rw [execDmaCommandComplete, onUnit_of_exists (by simp [hb, hc])]
    simp [hlive, hbusy]
  · rw [State.dmaAt_cmdDone, State.dmaAt_updDma_self]
  · rw [State.blk_cmdDone_self, State.blk_updDma_self, SMap.get_upd]
    split
    · next hg => rw [hg]
    · rfl
  · rw [State.blk_cmdDone_self, State.blk_updDma_self]
  · rw [State.dmaAt_cmdDone, State.dmaAt_updDma_of_ne _ _ hd]

end NopAndBase

end Sys2Proof.Machine

/-! PROOFS. FILL, and the COPY commands whose data stays in or comes into a scratchpad (R192, R193, Tables 7.3 to 7.5,
7.10). -/

namespace Sys2Proof.Machine

/-! ### Whole words written to a scratchpad -/

section ScratchpadWrites

variable {s : State} {b o n : Nat}

/-- Journalling changes the ply unit's and the counters' state only. -/
theorem State.journalGranules_eq (s : State) (b o n : Nat) : s.journalGranules b o n =
    { s with sch := (s.journalGranules b o n).sch, qos := (s.journalGranules b o n).qos } := by
  unfold State.journalGranules
  split
  · rfl
  · refine List.foldlRecOn (motive := fun t : State => t = { s with sch := t.sch, qos := t.qos }) _ _ rfl ?_
    intro t ht i _
    rw [t.journalGranule_eq, ht]

theorem State.baWrite_eq (s : State) (b o n : Nat) (data : Mem) (psn : RMap Bool) : s.baWrite b o n data psn =
    { s with
      blocks := (s.baWrite b o n data psn).blocks
      sch := (s.baWrite b o n data psn).sch
      qos := (s.baWrite b o n data psn).qos } := by
  unfold State.baWrite
  split
  · rfl
  · rw [State.journalGranules_eq]
    rfl

/-- A write to a scratchpad after a command has started. -/
theorem eq_of_onlyBlock {t u : State} (h : OnlyBlock s t b)
    (hu : u = { t with blocks := u.blocks, sch := u.sch, qos := u.qos }) :
    u = { s with blocks := u.blocks, sch := u.sch, qos := u.qos } := by
  obtain ⟨-, ht⟩ := h
  rw [ht] at hu
  exact hu

/-- A write to the scratchpad leaves the block's channels as they are. -/
theorem State.dma_baWrite (s : State) (b o n : Nat) (data : Mem) (psn : RMap Bool) :
    ((s.baWrite b o n data psn).blk b).dma = (s.blk b).dma := by
  unfold State.baWrite
  split
  · rfl
  · rw [State.blk_updBlk_self, State.journalGranules_eq]
    rfl

end ScratchpadWrites

/-! ### What a channel reads (Table 7.10) -/

section ChannelReads

variable {s : State} {b o n A : Nat}

theorem RMap.firstIn_eq_none {α : Type} {d : α} {m : RMap α} {a n : Nat} {p : α → Bool}
    (h : ∀ e ∈ RMap.slice d m a n, p e.2 = false) : RMap.firstIn d m a n p = none := by
  have hfind : (RMap.slice d m a n).find? (fun e => p e.2) = none :=
    List.find?_eq_none.mpr fun e he => by simp [h e he]
  rw [RMap.firstIn, hfind]
  split <;> rfl

/-- Good words are read whole, and nothing changes. -/
theorem GoodWords.dmaRead (h : GoodWords (s.blk b) (o / 4) (n / 4)) (hn : 4 ∣ n) (hpos : 0 < n) :
    s.dmaRead b o n = (s, Mem.slice (s.blk b).ba o n,
      RMap.norm false ((RMap.slice {} (s.blk b).baSt (o / 4) (n / 4)).map fun e => (e.1, e.2.poison)), n, none) := by
  have hcount : 0 < n / 4 := Nat.div_pos (Nat.le_of_dvd hpos hn) (by decide)
  have hfirst : RMap.firstIn {} (s.blk b).baSt (o / 4) (n / 4) (fun c => c.chk == .bad || !c.written) = none :=
    RMap.firstIn_eq_none fun e he => by rw [h.slice hcount e he]; rfl
  rw [State.dmaRead]
  simp only [hfirst, h.baCorrect hcount, Nat.mul_div_cancel' hn]

theorem HeldRange.of_ccd {t : State} (h : HeldRange s A n) (hccd : t.ccd = s.ccd) : HeldRange t A n := by
  simpa only [HeldRange, State.line, hccd] using h

/-- A device range that the cache die holds whole is read where it stands. -/
theorem HeldRange.devRead (h : HeldRange s A n) (hclean : ∀ e ∈ s.ccd.words, e.2.poison = false) :
    s.ReadsOnly (s.devRead A n).1 ∧ ∀ x, x < n → Mem.get (s.devRead A n).2.1 x = Mem.get s.ccd.mem (A + x) := by
  obtain ⟨u, m, hread, hreads, hbytes⟩ := h.opRead hclean 0
  obtain ⟨rfl, rfl, -⟩ : (s.devRead A n).1 = u ∧ (s.devRead A n).2.1 = m ∧ _ := by
    simpa only [State.opRead, if_true, Prod.mk.injEq] using hread
  exact ⟨hreads, hbytes⟩

end ChannelReads

/-! ### FILL (Table 7.5) -/

section Fill

variable {s : State} {b c cls : Nat} {w : W64}

theorem Mem.get_ofBytes_of_lt (l : List Byte) : ∀ a x, x < a → Mem.get (Mem.ofBytes a l) x = 0 := by
  induction l with
  | nil => exact fun _ _ _ => rfl
  | cons v l ih =>
    intro a x hx
    have hrest := ih (a + 1) x (by omega)
    rw [Mem.ofBytes]
    split
    · exact hrest
    · rw [Mem.get, if_neg (by omega), hrest]

theorem Mem.get_ofBytes (l : List Byte) : ∀ a i, Mem.get (Mem.ofBytes a l) (a + i) = l.getD i 0 := by
  induction l with
  | nil => exact fun _ _ => rfl
  | cons v l ih =>
    intro a i
    rw [Mem.ofBytes]
    cases i with
    | zero =>
      split
      · next hv => exact (Mem.get_ofBytes_of_lt _ _ _ (Nat.lt_succ_self a)).trans hv.symm
      · simp [Mem.get]
    | succ i =>
      have hrest : Mem.get (Mem.ofBytes (a + 1) l) (a + (i + 1)) = l.getD i 0 := by
        rw [← ih (a + 1) i]
        congr 1
        omega
      rw [List.getD_cons_succ, ← hrest]
      split
      · rfl
      · rw [Mem.get, if_neg (by omega)]

/-- A dword repeated over n bytes. -/
theorem Mem.get_pattern {n i : Nat} (hi : i < n) (v : Nat) : Mem.get (Mem.pattern (BitVec.ofNat 32 v) n) i =
    BitVec.ofNat 8 (v % 2 ^ 32 / 2 ^ (8 * (i % 4))) := by
  rw [Mem.pattern]
  split
  · next h0 =>
    have hv : v % 2 ^ 32 = 0 := by simpa using congrArg BitVec.toNat h0
    rw [hv, Nat.zero_div]
    rfl
  · have hbyte := Mem.get_ofBytes
      ((List.range n).map fun i => BitVec.ofNat 8 ((BitVec.ofNat 32 v).toNat >>> (8 * (i % 4)))) 0 i
    rw [Nat.zero_add] at hbyte
    rw [hbyte, List.getD_eq_getElem?_getD, List.getElem?_map, List.getElem?_range hi]
    simp [Nat.shiftRight_eq_div_pow]

theorem wordField_lt (w : W64) (hi lo : Nat) : wordField w hi lo < 2 ^ (hi + 1 - lo) := Nat.mod_lt _ (Nat.two_pow_pos _)

theorem dmaRanges_fill (hop : wordField w 5 0 = 0x09) (d : Dma) : dmaRanges d w =
    [(false, wordField w 50 40 * 1024, (wordField w 61 51 + 1) * 1024, true)] := by
  simp only [dmaRanges, dmaOp_eq, hop, bitsN_toNat_eq_wordField]

theorem State.dmaError_fill (hop : wordField w 5 0 = 0x09) (hspace : wordField w 7 6 = 0) (hhigh : wordField w 63 62 = 0)
    (hin : wordField w 50 40 * 1024 + (wordField w 61 51 + 1) * 1024 ≤ s.unitTop b) : s.dmaError b c w = none := by
  simp [State.dmaError, dmaOp_eq, hop, bitsN_toNat_eq_wordField, hspace, hhigh, dmaRanges_fill hop,
    State.dmaCut_scratchpad hin _]

/-- A command that names no device range does not wait. -/
theorem State.dmaWaits_of_scratchpad (hop : wordField w 5 0 ≠ 0x0A) (h : ∀ r ∈ dmaRanges (s.dmaAt b c) w, r.1 = false) :
    s.dmaWaits b c w = false := by
  rw [State.dmaWaits, List.any_eq_false]
  intro r hr
  simp [dmaOp_eq, hop, State.unitWaits, h r hr]

theorem ChannelReady.runs_dmaFill (h : ChannelReady s b c w cls) (hop : wordField w 5 0 = 0x09)
    (hspace : wordField w 7 6 = 0) (hhigh : wordField w 63 62 = 0)
    (hin : wordField w 50 40 * 1024 + (wordField w 61 51 + 1) * 1024 ≤ s.unitTop b) : Runs (.dmaFill b c) s fun t =>
      ArrayAt s t b (wordField w 50 40 * 1024) ((wordField w 61 51 + 1) * 1024)
        (fun i => BitVec.ofNat 8 (wordField w 39 8 / 2 ^ (8 * (i % 4)))) ∧ ChannelRuns s t b c w ∧
      t = { s with blocks := t.blocks, sch := t.sch, qos := t.qos } ∧ ∀ d, d ≠ b → t.blk d = s.blk d := by
  refine h.runs rfl (by simp [dmaOp_eq, hop]) (State.dmaError_fill hop hspace hhigh hin)
    (State.dmaWaits_of_scratchpad (by simp [hop]) (by simp [dmaRanges_fill hop])) ?_
  simp only [bitsN_toNat_eq_wordField]
  have hbyte (i : Nat) (hi : i < (wordField w 61 51 + 1) * 1024) :=
    Mem.get_pattern hi (wordField w 39 8)
  rw [Nat.mod_eq_of_lt (wordField_lt w 39 8)] at hbyte
  generalize Mem.pattern (BitVec.ofNat 32 (wordField w 39 8)) ((wordField w 61 51 + 1) * 1024) = data at hbyte
  obtain ⟨harray, -, hothers, -⟩ := State.baWrite_keeps (s := s.dmaBegun b c cls w) (n := (wordField w 61 51 + 1) * 1024)
    (by omega) b (wordField w 50 40 * 1024) data []
  refine ⟨fun a => ?_, (channelRuns_dmaBegun s b c cls w).of_dma (State.dma_baWrite _ _ _ _ _ _), ?_, fun d hd => ?_⟩
  · rw [harray a, State.blk_dmaBegun_self]
    split
    · exact hbyte _ (by omega)
    · rfl
  · exact eq_of_onlyBlock (onlyBlock_dmaBegun s b c cls w) (State.baWrite_eq _ _ _ _ _ _)
  · rw [hothers d hd, State.blk_dmaBegun_of_ne _ hd]

end Fill

/-! ### COPY into a scratchpad (Table 7.4) -/

section Copy

variable {s : State} {b c cls : Nat} {w : W64}

/-- Bytes that a COPY word moves. -/
def copyLen (w : W64) : Nat := (wordField w 63 46 + 1) * 64

/-- Scratchpad offset of a COPY word. -/
def copyNear (w : W64) : Nat := wordField w 22 8 * 64

/-- Offset of a COPY word from a base, or of its destination in the scratchpad. -/
def copyFar (w : W64) : Nat := wordField w 45 23 * 64

theorem copyLen_pos (w : W64) : 0 < copyLen w := Nat.mul_pos (Nat.succ_pos _) (by decide)

theorem four_dvd_copyLen (w : W64) : 4 ∣ copyLen w := Dvd.dvd.mul_left (by decide) _

theorem dmaRanges_copy (hop : wordField w 5 0 = 0x08) (d : Dma) : dmaRanges d w =
    if wordField w 7 6 = 0 then [(true, d.baseSrc + copyFar w, copyLen w, false), (false, copyNear w, copyLen w, true)]
    else if wordField w 7 6 = 1 then
      [(false, copyNear w, copyLen w, false), (true, d.baseDst + copyFar w, copyLen w, true)]
    else [(false, copyNear w, copyLen w, false), (false, copyFar w, copyLen w, true)] := by
  simp only [dmaRanges, dmaOp_eq, hop, bitsN_toNat_eq_wordField, copyFar, copyLen, copyNear]
  split <;> simp_all

/-- A COPY of a legal direction is legal when its ranges lie inside their spaces (Table 7.6). -/
theorem State.dmaError_copy (hop : wordField w 5 0 = 0x08) (hdir : wordField w 7 6 < 3) {x y : Bool × Nat × Nat × Bool}
    (hranges : dmaRanges (s.dmaAt b c) w = [x, y]) (hx : s.dmaCut b x = none) (hy : s.dmaCut b y = none) :
    s.dmaError b c w = none := by
  simp [State.dmaError, dmaOp_eq, hop, bitsN_toNat_eq_wordField, hranges, hx, hy, Nat.ne_of_lt hdir]

theorem State.dmaError_copy_outside (hop : wordField w 5 0 = 0x08) (hdir : wordField w 7 6 = 2)
    (hout : s.unitTop b < copyNear w + copyLen w ∨ s.unitTop b < copyFar w + copyLen w) :
    ∃ off, s.dmaError b c w = some (3, off) := by
  have hranges := dmaRanges_copy hop (s.dmaAt b c)
  rw [hdir, if_neg (by decide), if_neg (by decide)] at hranges
  simp only [State.dmaError, dmaOp_eq, hop, bitsN_toNat_eq_wordField, hdir, hranges]
  cases hcuts : List.filterMap (s.dmaCut b) [(false, copyNear w, copyLen w, false), (false, copyFar w, copyLen w, true)] with
  | nil =>
    have hall := List.filterMap_eq_nil_iff.mp hcuts
    simp only [State.dmaCut, List.mem_cons, List.not_mem_nil, or_false, forall_eq_or_imp, forall_eq, Bool.false_eq_true,
      if_false, ite_eq_left_iff, reduceCtorEq, imp_false, Decidable.not_not] at hall
    omega
  | cons x xs => exact ⟨_, rfl⟩

theorem State.dmaError_copy_reserved (hop : wordField w 5 0 = 0x08) (hdir : wordField w 7 6 = 3) :
    s.dmaError b c w = some (2, noOff) := by
  simp [State.dmaError, dmaOp_eq, hop, bitsN_toNat_eq_wordField, hdir]

theorem ChannelReady.runs_dmaCopy_outside (h : ChannelReady s b c w cls) (hop : wordField w 5 0 = 0x08)
    (hdir : wordField w 7 6 = 2) (hout : s.unitTop b < copyNear w + copyLen w ∨ s.unitTop b < copyFar w + copyLen w) :
    Runs (.dmaCopy b c) s fun t => ChannelStops s t b c 3 := by
  obtain ⟨off, herror⟩ := State.dmaError_copy_outside hop hdir hout
  exact h.runs_stops rfl (by simp [dmaOp_eq, hop]) herror

theorem ChannelReady.runs_dmaCopy_reserved (h : ChannelReady s b c w cls) (hop : wordField w 5 0 = 0x08)
    (hdir : wordField w 7 6 = 3) : Runs (.dmaCopy b c) s fun t => ChannelStops s t b c 2 :=
  h.runs_stops rfl (by simp [dmaOp_eq, hop]) (State.dmaError_copy_reserved hop hdir)

theorem ChannelReady.runs_dmaCopy_in (h : ChannelReady s b c w cls) (hop : wordField w 5 0 = 0x08)
    (hdir : wordField w 7 6 = 0) (hdev : (s.dmaAt b c).baseSrc + copyFar w + copyLen w ≤ memBytes)
    (hin : copyNear w + copyLen w ≤ s.unitTop b) (hfree : s.dmaWaits b c w = false)
    (hheld : HeldRange s ((s.dmaAt b c).baseSrc + copyFar w) (copyLen w)) (hclean : ∀ e ∈ s.ccd.words, e.2.poison = false) :
    Runs (.dmaCopy b c) s fun t =>
      ArrayAt s t b (copyNear w) (copyLen w) (fun i => Mem.get s.ccd.mem ((s.dmaAt b c).baseSrc + copyFar w + i)) ∧
      ChannelRuns s t b c w ∧ MemorySame s t ∧ ∀ d, d ≠ b → t.blk d = s.blk d := by
  have hranges (d : Dma) := dmaRanges_copy hop d
  simp only [hdir, if_true] at hranges
  refine h.runs rfl (by simp [dmaOp_eq, hop])
    (State.dmaError_copy hop (by omega) (hranges _) (State.dmaCut_device hdev _) (State.dmaCut_scratchpad hin _)) hfree ?_
  simp only [State.dmaCopy, hranges, State.dmaAt_dmaBegun_self, Bool.true_or, if_true]
  have hheld' := hheld.of_ccd (t := (s.dmaBegun b c cls w).linkPass b (c + 3) true) (by simp)
  obtain ⟨hreads, hbytes⟩ := hheld'.devRead hclean
  generalize State.devRead _ _ _ = r at hreads hbytes ⊢
  have hblk (d : Nat) : r.1.blk d = (s.dmaBegun b c cls w).blk d := by rw [hreads.blk, State.blk_linkPass]
  obtain ⟨harray, ⟨hmem, hhbm, hhbmWords⟩, hothers, -⟩ :=
    State.baWrite_keeps (s := r.1) (copyLen_pos w).ne' b (copyNear w) r.2.1 (halves r.2.2)
  refine ⟨fun a => ?_, (channelRuns_dmaBegun s b c cls w).of_dma ?_, ⟨?_, ?_, ?_⟩, fun d hd => ?_⟩
  · rw [harray a, hblk, State.blk_dmaBegun_self]
    split
    · rw [hbytes _ (by omega), State.linkPass_ccd, State.dmaBegun_ccd]
    · rfl
  · rw [State.dma_baWrite, hblk]
  · rw [hmem, hreads.mem, State.linkPass_ccd, State.dmaBegun_ccd]
  · rw [hhbm, hreads.hbm, State.linkPass_hbm, State.dmaBegun_hbm]
  · rw [hhbmWords, hreads.hbmWords, State.linkPass_hbmWords, State.dmaBegun_hbmWords]
  · rw [hothers d hd, hblk, State.blk_dmaBegun_of_ne _ hd]

theorem ChannelReady.runs_dmaCopy_within (h : ChannelReady s b c w cls) (hop : wordField w 5 0 = 0x08)
    (hdir : wordField w 7 6 = 2) (hsrc : copyNear w + copyLen w ≤ s.unitTop b) (hdst : copyFar w + copyLen w ≤ s.unitTop b)
    (hgood : GoodWords (s.blk b) (copyNear w / 4) (copyLen w / 4)) : Runs (.dmaCopy b c) s fun t =>
      ArrayAt s t b (copyFar w) (copyLen w) (fun i => Mem.get (s.blk b).ba (copyNear w + i)) ∧ ChannelRuns s t b c w ∧
      t = { s with blocks := t.blocks, sch := t.sch, qos := t.qos } ∧ ∀ d, d ≠ b → t.blk d = s.blk d := by
  have hranges (d : Dma) := dmaRanges_copy hop d
  simp only [hdir, show ¬ (2 : Nat) = 0 by decide, show ¬ (2 : Nat) = 1 by decide, if_false] at hranges
  refine h.runs rfl (by simp [dmaOp_eq, hop])
    (State.dmaError_copy hop (by omega) (hranges _) (State.dmaCut_scratchpad hsrc _) (State.dmaCut_scratchpad hdst _))
    (State.dmaWaits_of_scratchpad (by simp [hop]) (by simp [hranges])) ?_
  have hgood' : GoodWords ((s.dmaBegun b c cls w).blk b) (copyNear w / 4) (copyLen w / 4) := by
    rw [State.blk_dmaBegun_self]
    exact hgood
  have hread := hgood'.dmaRead (four_dvd_copyLen w) (copyLen_pos w)
  generalize RMap.norm false _ = psn at hread
  simp only [State.dmaCopy, hranges, Bool.or_self, State.linkPass, Bool.false_eq_true, if_false, hread]
  obtain ⟨harray, -, hothers, -⟩ := State.baWrite_keeps (s := s.dmaBegun b c cls w) (copyLen_pos w).ne' b (copyFar w)
    (Mem.slice ((s.dmaBegun b c cls w).blk b).ba (copyNear w) (copyLen w)) psn
  refine ⟨fun a => ?_, (channelRuns_dmaBegun s b c cls w).of_dma (State.dma_baWrite _ _ _ _ _ _), ?_, fun d hd => ?_⟩
  · rw [harray a]
    split
    · rw [Mem.get_slice _ _ (by omega), State.blk_dmaBegun_self]
    · rw [State.blk_dmaBegun_self]
  · exact eq_of_onlyBlock (onlyBlock_dmaBegun s b c cls w) (State.baWrite_eq _ _ _ _ _ _)
  · rw [hothers d hd, State.blk_dmaBegun_of_ne _ hd]

end Copy

end Sys2Proof.Machine

/-! PROOFS. Bulk writes of any master into lines that the cache die holds whole (R213-R215, R230, R510), and the COPY of a
scratchpad's words to device memory (R192, R193, Table 7.4). -/

namespace Sys2Proof.Machine

/-! ### Replacing a part of a piecewise constant map, in a list of any order -/

section SealedParts

variable {α : Type} {P : α → Prop} {B C : Nat} {m : RMap α} {d : α}

theorem RMap.Sealed.mono (hle : B ≤ C) : ∀ m : RMap α, RMap.Sealed P B m → RMap.Sealed P C m
  | [], _ => trivial
  | e :: m, hm => by
    refine ⟨fun hbad => ⟨(hm.1 hbad).1, ?_⟩, RMap.Sealed.mono hle m hm.2⟩
    obtain ⟨x, hx, hlow⟩ := (hm.1 hbad).2
    exact ⟨x, hx, hlow.trans hle⟩

theorem RMap.Sealed.append_of_forall {l : RMap α} (h : ∀ e ∈ l, P e.2) (hm : RMap.Sealed P B m) :
    RMap.Sealed P B (l ++ m) := by
  induction l with
  | nil => exact hm
  | cons e l ih => exact ⟨fun hbad => absurd (h e (by simp)) hbad, ih fun x hx => h x (by simp [hx])⟩

/-- Values with P that replace a part from B or below keep what lies beyond B. -/
theorem RMap.Sealed.splice [DecidableEq α] {ds : α} {sub : RMap α} {a : Nat} (ha : a ≤ B) (hd : P d) (hds : P ds)
    (hsub : ∀ e ∈ sub, P e.2) (hm : RMap.Sealed P B m) (n : Nat) : RMap.Sealed P B (RMap.splice d m a n ds sub) := by
  have hafter : RMap.Sealed P B ((a + n, RMap.get d m (a + n)) :: m.filter fun e => decide (a + n < e.1)) := by
    refine ⟨fun hbad => ⟨by simp, ?_⟩, hm.filter_above (a + n) m⟩
    exact RMap.Sealed.startsBy_filter_above m d hm (fun h => absurd hd h) hbad
  have hpart : ∀ e ∈ (a, RMap.get ds sub 0) ::
      ((sub.filter fun e => decide (0 < e.1) && decide (e.1 < n)).map fun e => (e.1 + a, e.2)), P e.2 := by
    intro e he
    rcases List.mem_cons.mp he with rfl | he
    · exact RMap.get_of_forall hds hsub
    · obtain ⟨x, hx, rfl⟩ := List.mem_map.mp he
      exact hsub x (List.mem_filter.mp hx).1
  unfold RMap.splice
  split
  · exact hm
  · rw [List.append_assoc]
    refine (RMap.Sealed.norm _ d ?_ fun h => absurd hd h).1
    refine RMap.Sealed.filter_below_append ha (RMap.Sealed.append_of_forall hpart hafter)
      ((RMap.startsBy_cons _).mpr ha) (fun e he => ?_) m hm
    simp only [List.mem_append, List.mem_cons, List.mem_map, List.mem_filter, decide_eq_true_eq] at he
    rcases he with (rfl | ⟨x, -, rfl⟩) | rfl | ⟨-, he⟩
    · exact le_rfl
    · exact Nat.le_add_left a x.1
    · exact Nat.le_add_right a n
    · omega

end SealedParts

/-! ### Grants and counts (R375-R381) -/

section Grants

variable {s t u : State} {L n : Nat}

/-- From s to t only arbiters and byte counts differ; the same request is served. -/
structure State.GrantsOnly (s t : State) : Prop where
  eq : t = { s with qos := t.qos }
  who : t.qos.who = s.qos.who

theorem State.GrantsOnly.refl (s : State) : s.GrantsOnly s := ⟨rfl, rfl⟩

theorem State.GrantsOnly.trans (h : s.GrantsOnly t) (g : t.GrantsOnly u) : s.GrantsOnly u := by
  have hu := g.eq
  rw [h.eq] at hu
  exact ⟨hu, g.who.trans h.who⟩

theorem State.GrantsOnly.ccd (h : s.GrantsOnly t) : t.ccd = s.ccd := by rw [h.eq]

theorem State.GrantsOnly.qosAdd (s : State) (r n : Nat) : s.GrantsOnly (s.qosAdd r n) := by
  have hwho := s.qosAdd_who r n
  rw [← s.qosAdd_eq_qos r n] at hwho ⊢
  exact ⟨rfl, hwho⟩

theorem State.GrantsOnly.qosPick {r a : Nat} {size : Nat → Nat} {rs : List (Nat × Nat × Nat)} {x : Nat × State}
    (h : s.qosPick r a size rs = some x) : s.GrantsOnly x.2 := by
  unfold State.qosPick at h
  dsimp only at h
  split at h
  · cases h
    exact ⟨rfl, rfl⟩
  · split at h
    · cases h
    · split at h <;> cases h
      exact ⟨rfl, rfl⟩

theorem State.GrantsOnly.bankGrant {write : Bool} {out : CReq → Bool} (h : s.bankGrant write L n out = some t) :
    s.GrantsOnly t := by
  unfold State.bankGrant at h
  dsimp only at h
  split at h
  · split at h <;> cases h
    exact .refl s
  · split at h
    · cases h
      exact .refl s
    · split at h
      · next hpick =>
        cases h
        exact .qosPick hpick
      · cases h

theorem State.GrantsOnly.granted (s : State) (write : Bool) (L n : Nat) : s.GrantsOnly (s.granted write L n) := by
  unfold State.granted
  cases hgrant : s.bankGrant write L n fun _ => true with
  | none => exact .refl s
  | some t => exact .bankGrant hgrant

theorem State.GrantsOnly.tieGrant (s : State) (a i : Nat) : s.GrantsOnly (s.tieGrant a i) := ⟨rfl, rfl⟩

theorem State.GrantsOnly.routeGrant (s : State) (L : Nat) : s.GrantsOnly (s.routeGrant L) := by
  unfold State.routeGrant
  split
  · exact .refl s
  · next m _ =>
    have hin := State.GrantsOnly.tieGrant s (xbarArb (m / 12)) (m % 12)
    dsimp only
    split
    · exact .refl s
    · split
      · exact hin
      · exact hin.trans (.tieGrant _ _ _)

theorem State.GrantsOnly.linkPass (s : State) (b k : Nat) (dev : Bool) : s.GrantsOnly (s.linkPass b k dev) := by
  unfold State.linkPass
  split
  · exact .tieGrant s _ _
  · exact .refl s

theorem State.GrantsOnly.line (h : s.GrantsOnly t) (M : Nat) : t.line M = s.line M := by rw [State.line, h.ccd]; rfl

theorem State.GrantsOnly.writesOnly (h : s.GrantsOnly t) : s.WritesOnly t where
  hbm := by rw [h.eq]
  hbmWords := by rw [h.eq]
  fab := by rw [h.eq]
  blocks := by rw [h.eq]
  inPly := by rw [h.eq]; rfl
  start := by rw [h.eq]
  who := h.who
  whole M hM := by simpa only [State.Whole, h.line] using hM

/-- What comes before an access to a line: its grants and its count. -/
def State.entered (s : State) (write : Bool) (L n : Nat) : State :=
  ((s.granted write L n).routeGrant L).qosAdd (if write then 1 else 0) n

theorem State.GrantsOnly.entered (s : State) (write : Bool) (L n : Nat) : s.GrantsOnly (s.entered write L n) :=
  ((State.GrantsOnly.granted s write L n).trans (.routeGrant _ L)).trans (.qosAdd _ _ n)

theorem State.lineRead_eq (s : State) (L o n : Nat) : s.lineRead L o n = (s.entered false L n).lineServe L o n := rfl

theorem State.lineWrite_eq (s : State) (L o : Nat) (hn : n ≠ 0) (data : Mem) (psn : RMap Bool) :
    s.lineWrite L o n data psn = (s.entered true L n).linePut L o n data psn := if_neg hn

end Grants

/-! ### Writing a line -/

section LineWrites

variable {s t u : State} {L A o n : Nat}

/-- No word of the cache die from word B on carries a check error. -/
def State.GoodFrom (s : State) (B : Nat) : Prop := RMap.Sealed (fun c : CWord => c.chk = .good) B s.ccd.words

theorem State.GoodFrom.of_forall (h : ∀ e ∈ s.ccd.words, e.2.chk = .good) (B : Nat) : s.GoodFrom B := RMap.sealed_of_forall h

theorem State.GoodFrom.get {B k : Nat} (h : s.GoodFrom B) (hk : B ≤ k) : (RMap.get {} s.ccd.words k).chk = .good :=
  RMap.get_of_sealed (P := fun c : CWord => c.chk = .good) h rfl hk

/-- A persisting fault in line L leaves the words beyond the line good. -/
theorem State.GoodFrom.stuckAgain (h : s.GoodFrom ((L + 1) * 128)) {w : Nat} (hw : w + n ≤ 128) :
    (s.stuckAgain L w n).GoodFrom ((L + 1) * 128) := by
  unfold State.stuckAgain
  split
  · unfold State.GoodFrom
    dsimp only
    refine List.foldlRecOn (motive := RMap.Sealed (fun c : CWord => c.chk = .good) ((L + 1) * 128)) _ _ h fun m hm e _ => ?_
    split
    · next hin =>
      simp only [Bool.and_eq_true, decide_eq_true_eq] at hin
      exact RMap.Sealed.mapRange_one (P := fun c : CWord => c.chk = .good) (by omega) rfl hm _
    · exact hm
  · exact h

theorem State.GoodFrom.putBytes (h : s.GoodFrom (L * 128)) (hin : o + n ≤ 1024) (data : Mem) (psn : RMap Bool) :
    (s.putBytes L o n data psn).GoodFrom ((L + 1) * 128) := by
  have hfill (m : RMap CWord) (hm : RMap.Sealed (fun c : CWord => c.chk = .good) ((L + 1) * 128) m) {a : Nat}
      (ha : a ≤ (L + 1) * 128) (c : Bool) :
      RMap.Sealed (fun c : CWord => c.chk = .good) ((L + 1) * 128)
        (if c then RMap.fill {} m a 1 { poison := true } else m) := by
    split
    · exact RMap.Sealed.splice (P := fun c : CWord => c.chk = .good) ha rfl rfl (by simp) hm 1
    · exact hm
  have hbelow : RMap.Sealed (fun c : CWord => c.chk = .good) ((L + 1) * 128) s.ccd.words :=
    RMap.Sealed.mono (Nat.mul_le_mul_right _ (Nat.le_succ L)) _ h
  have hwords : ∀ e ∈ (RMap.slice false psn (o / 8) ((o + n + 7) / 8 - o / 8)).map
      fun e => (e.1, ({ poison := e.2 } : CWord)), e.2.chk = .good := by
    intro e he
    obtain ⟨x, -, rfl⟩ := List.mem_map.mp he
    rfl
  refine hfill _ (hfill _ (RMap.Sealed.splice (P := fun c : CWord => c.chk = .good) ?_ rfl rfl hwords hbelow _) ?_ _) ?_ _
  all_goals omega

/-- A write to a whole line puts its bytes there, and leaves the words beyond the line good. -/
theorem State.Whole.lineWrite_good (hL : s.Whole L) (hgood : s.GoodFrom (L * 128)) (hn : n ≠ 0) (hin : o + n ≤ 1024)
    (data : Mem) (psn : RMap Bool) : s.Writes (s.lineWrite L o n data psn) (L * 1024 + o) n data ∧
      (s.lineWrite L o n data psn).GoodFrom ((L + 1) * 128) := by
  have henter := State.GrantsOnly.entered s true L n
  have hgrant := henter.writesOnly
  rw [s.lineWrite_eq L o hn]
  generalize s.entered true L n = u at henter hgrant ⊢
  have hgoodU : u.GoodFrom (L * 128) := by rwa [State.GoodFrom, henter.ccd]
  have hword {k : Nat} : (RMap.get {} u.ccd.words (L * 128 + k)).chk = .good := hgoodU.get (Nat.le_add_right _ _)
  rw [(hgrant.whole L hL).linePut hn data psn (fun _ => hword) fun _ => hword]
  obtain ⟨hclear, hclearMem, hclearWords⟩ := u.clearDead_keeps L
  obtain ⟨hjournal, hjournalCcd⟩ := State.Whole.journalLine (hclear.whole L (hgrant.whole L hL))
  have hmem : ((u.clearDead L).1.journalLine L).ccd.mem = s.ccd.mem := by
    rw [hjournalCcd, hclearMem, henter.ccd]
  have hgoodT : ((u.clearDead L).1.journalLine L).GoodFrom (L * 128) := by
    rwa [State.GoodFrom, hjournalCcd, hclearWords]
  have hbefore := (hgrant.trans hclear).trans hjournal
  generalize (u.clearDead L).1.journalLine L = t at hmem hgoodT hbefore ⊢
  have hput := t.putBytes_writes L o n data psn
  obtain ⟨hmark, hmarkMem, hmarkWords⟩ := (t.putBytes L o n data psn).markPut_keeps L o n
  have hwords : o / 8 + ((o + n + 7) / 8 - o / 8) ≤ 128 := by omega
  obtain ⟨hstuck, hstuckMem, -⟩ := State.stuckAgain_keeps ((t.putBytes L o n data psn).markPut L o n) L (o / 8)
    ((o + n + 7) / 8 - o / 8) hwords
  refine ⟨⟨((hbefore.trans hput.toWritesOnly).trans hmark).trans hstuck, fun x => ?_⟩, ?_⟩
  · rw [hstuckMem, hmarkMem, hput.mem, hmem]
  · refine State.GoodFrom.stuckAgain ?_ hwords
    rw [State.GoodFrom, hmarkWords]
    exact hgoodT.putBytes hin data psn

/-! ### Writing a range -/

theorem State.Writes.slice {data : Mem} {a : Nat} (h : s.Writes t a n data) : s.Writes t a n (Mem.slice data 0 n) := by
  refine ⟨h.toWritesOnly, fun x => ?_⟩
  rw [h.mem]
  split
  · rw [Mem.get_slice _ _ (by omega), Nat.zero_add]
  · rfl

/-- What a write of a range does after another piece. -/
def State.writePiece (A : Nat) (data : Mem) (psn : RMap Bool) (s : State) (p : Nat × Nat × Nat × Nat) : State :=
  s.lineWrite p.1 p.2.1 p.2.2.1 (Mem.slice data p.2.2.2 p.2.2.1)
    (let w0 := (p.1 * 1024 + p.2.1) / 8
     let cnt := (p.1 * 1024 + p.2.1 + p.2.2.1 + 7) / 8 - w0
     RMap.splice false [] (p.2.1 / 8) cnt false (RMap.slice false psn (w0 - A / 8) cnt))

theorem State.devWrite_eq (s : State) (A n : Nat) (data : Mem) (psn : RMap Bool) :
    s.devWrite A n data psn = (pieces A n).foldl (State.writePiece A data psn) s := rfl

/-- The piece of line A / 1024 + i of a range. -/
def pieceAt (A n i : Nat) : Nat × Nat × Nat × Nat :=
  let L := A / 1024 + i
  (L, max A (L * 1024) - L * 1024, min (A + n) ((L + 1) * 1024) - max A (L * 1024), max A (L * 1024) - A)

theorem pieces_eq (hn : n ≠ 0) : pieces A n = (List.range ((A + n - 1) / 1024 - A / 1024 + 1)).map (pieceAt A n) := if_neg hn

/-- The bytes of a range before line A / 1024 + i. -/
def bytesBefore (A n i : Nat) : Nat := min n ((A / 1024 + i) * 1024 - A)

/-- The lines of a range up to the i-th are written: their bytes are in, and the words beyond them are good. -/
theorem HeldRange.writes_pieces (h : HeldRange s A n) (data : Mem) (psn : RMap Bool) (hn : n ≠ 0) :
    ∀ i, i ≤ (A + n - 1) / 1024 - A / 1024 + 1 →
      s.Writes (((List.range i).map (pieceAt A n)).foldl (State.writePiece A data psn) s) A (bytesBefore A n i) data ∧
      (((List.range i).map (pieceAt A n)).foldl (State.writePiece A data psn) s).GoodFrom ((A / 1024 + i) * 128) := by
  obtain ⟨hgood, hlines⟩ := h
  intro i
  induction i with
  | zero =>
    refine fun _ => ⟨⟨.refl s, fun x => (if_neg ?_).symm⟩, .of_forall hgood _⟩
    simp only [bytesBefore]
    omega
  | succ i ih =>
    intro hi
    obtain ⟨hput, hgoodT⟩ := ih (Nat.le_of_succ_le hi)
    rw [List.range_succ, List.map_append, List.foldl_append]
    generalize ((List.range i).map (pieceAt A n)).foldl (State.writePiece A data psn) s = t at hput hgoodT ⊢
    show s.Writes (t.lineWrite (A / 1024 + i) _ _ _ _) _ _ _ ∧ _
    have hL : t.Whole (A / 1024 + i) := hput.whole _ (hlines _ (Nat.le_add_right _ _) (by omega))
    have hat : (A / 1024 + i) * 1024 + (pieceAt A n i).2.1 = A + bytesBefore A n i := by
      simp only [pieceAt, bytesBefore]
      omega
    have hfrom : (pieceAt A n i).2.2.2 = bytesBefore A n i := by
      simp only [pieceAt, bytesBefore]
      omega
    have hlen : bytesBefore A n i + (pieceAt A n i).2.2.1 = bytesBefore A n (i + 1) := by
      simp only [pieceAt, bytesBefore]
      omega
    obtain ⟨hnext, hgoodU⟩ := hL.lineWrite_good hgoodT (o := (pieceAt A n i).2.1) (n := (pieceAt A n i).2.2.1)
      (by simp only [pieceAt]; omega) (by simp only [pieceAt]; omega)
      (Mem.slice data (pieceAt A n i).2.2.2 (pieceAt A n i).2.2.1) _
    refine ⟨?_, hgoodU⟩
    rw [hat, hfrom] at hnext
    rw [hfrom, ← hlen]
    exact hput.slice.append hnext

/-- A write of any master to lines held whole, no word of which carries a check error. -/
theorem HeldRange.devWrite_any (h : HeldRange s A n) (hn : n ≠ 0) (data : Mem) (psn : RMap Bool) :
    s.Writes (s.devWrite A n data psn) A n data := by
  have hall : bytesBefore A n ((A + n - 1) / 1024 - A / 1024 + 1) = n := by
    simp only [bytesBefore]
    omega
  have hput := (h.writes_pieces data psn hn _ le_rfl).1
  rwa [hall, ← pieces_eq hn, ← State.devWrite_eq] at hput

end LineWrites

/-! ### COPY to device memory (Table 7.4) -/

section CopyOut

variable {s : State} {b c cls : Nat} {w : W64}

/-- Beside its L1 a block is as before when it drops sectors. -/
theorem State.blk_l1Drop (s : State) (b a n d : Nat) : (s.l1Drop b a n).blk d =
    if d = b then { s.blk b with tg := { (s.blk b).tg with l1 := (s.blk b).tg.l1.filter fun l => !touches a n l.sector } }
    else s.blk d :=
  s.blk_updBlk b d fun B => { B with tg := { B.tg with l1 := B.tg.l1.filter fun l => !touches a n l.sector } }

theorem ChannelReady.runs_dmaCopy_out (h : ChannelReady s b c w cls) (hop : wordField w 5 0 = 0x08)
    (hdir : wordField w 7 6 = 1) (hdev : (s.dmaAt b c).baseDst + copyFar w + copyLen w ≤ memBytes)
    (hin : copyNear w + copyLen w ≤ s.unitTop b) (hfree : s.dmaWaits b c w = false)
    (hheld : HeldRange s ((s.dmaAt b c).baseDst + copyFar w) (copyLen w))
    (hgood : GoodWords (s.blk b) (copyNear w / 4) (copyLen w / 4)) : Runs (.dmaCopy b c) s fun t =>
      StoredAt s t ((s.dmaAt b c).baseDst + copyFar w) (copyLen w) (fun i => Mem.get (s.blk b).ba (copyNear w + i)) ∧
      ChannelRuns s t b c w ∧ (t.blk b).ba = (s.blk b).ba ∧ ∀ d, d ≠ b → t.blk d = s.blk d := by
  have hranges (d : Dma) := dmaRanges_copy hop d
  simp only [hdir, show ¬ (1 : Nat) = 0 by decide, if_false, if_true] at hranges
  refine h.runs rfl (by simp [dmaOp_eq, hop])
    (State.dmaError_copy hop (by omega) (hranges _) (State.dmaCut_scratchpad hin _) (State.dmaCut_device hdev _)) hfree ?_
  have hheld' := hheld.of_ccd (t := (s.dmaBegun b c cls w).linkPass b (c + 3) true) (by simp)
  have hgood' : GoodWords (((s.dmaBegun b c cls w).linkPass b (c + 3) true).blk b) (copyNear w / 4) (copyLen w / 4) := by
    rw [State.blk_linkPass, State.blk_dmaBegun_self]
    exact hgood
  have hread := hgood'.dmaRead (four_dvd_copyLen w) (copyLen_pos w)
  simp only [State.dmaCopy, hranges, State.dmaAt_dmaBegun_self, Bool.or_true, hread, Bool.false_eq_true, if_false, if_true]
  generalize joinHalves _ _ = psn
  rw [State.blk_linkPass, State.blk_dmaBegun_self]
  have hput := hheld'.devWrite_any (copyLen_pos w).ne' (Mem.slice (s.blk b).ba (copyNear w) (copyLen w)) psn
  have hblk (d : Nat) : (((s.dmaBegun b c cls w).linkPass b (c + 3) true).devWrite ((s.dmaAt b c).baseDst + copyFar w)
      (copyLen w) (Mem.slice (s.blk b).ba (copyNear w) (copyLen w)) psn).blk d = (s.dmaBegun b c cls w).blk d := by
    rw [State.blk, hput.blocks, State.linkPass_blocks]
    rfl
  generalize State.devWrite _ _ _ _ _ = u at hput hblk ⊢
  refine ⟨⟨fun a => ?_, ?_, ?_⟩, (channelRuns_dmaBegun s b c cls w).of_dma ?_, ?_, fun d hd => ?_⟩
  · refine (hput.mem a).trans ?_
    rw [State.linkPass_ccd, State.dmaBegun_ccd]
    split
    · rw [Mem.get_slice _ _ (by omega)]
    · rfl
  · exact hput.hbm.trans (by simp)
  · exact hput.hbmWords.trans (by simp)
  · rw [State.blk_l1Drop, if_pos rfl, hblk]
  · rw [State.blk_l1Drop, if_pos rfl, hblk, State.blk_dmaBegun_self]
  · rw [State.blk_l1Drop, if_neg hd, hblk, State.blk_dmaBegun_of_ne _ hd]

end CopyOut

end Sys2Proof.Machine

/-! PROOFS. What the operations of the cache die and of HBM leave as it was: records, counters and grants change no memory,
and whatever comes before a line is dropped or written back touches no block and no other line (R213-R217, R222, R249,
R259). -/

namespace Sys2Proof.Machine

/-! ### Records, counters and grants -/

section Counts

variable {s t u : State} {L n : Nat}

/-- From s to t only records, events, free values, the slices' counters and dead records, arbiters and byte counts differ;
the same request is served. -/
structure State.CountsOnly (s t : State) : Prop where
  blocks : t.blocks = s.blocks
  hbm : t.hbm = s.hbm
  hbmWords : t.hbmWords = s.hbmWords
  hbmStacks : t.hbmStacks = s.hbmStacks
  pim : t.pim = s.pim
  who : t.qos.who = s.qos.who
  journalSize : t.sch.journalSize = s.sch.journalSize
  ccd : t.ccd = { s.ccd with slices := t.ccd.slices }

theorem State.CountsOnly.refl (s : State) : s.CountsOnly s := ⟨rfl, rfl, rfl, rfl, rfl, rfl, rfl, rfl⟩

theorem State.CountsOnly.trans (h : s.CountsOnly t) (g : t.CountsOnly u) : s.CountsOnly u := by
  have hccd := g.ccd
  rw [h.ccd] at hccd
  exact ⟨g.blocks.trans h.blocks, g.hbm.trans h.hbm, g.hbmWords.trans h.hbmWords, g.hbmStacks.trans h.hbmStacks,
    g.pim.trans h.pim, g.who.trans h.who, g.journalSize.trans h.journalSize, hccd⟩

theorem State.CountsOnly.ite {c : Prop} [Decidable c] (h : s.CountsOnly t) (g : s.CountsOnly u) :
    s.CountsOnly (if c then t else u) := by
  split
  · exact h
  · exact g

theorem State.CountsOnly.foldl {α : Type} {f : State → α → State} (hf : ∀ (s : State) (a : α), s.CountsOnly (f s a))
    (l : List α) (s : State) : s.CountsOnly (l.foldl f s) :=
  List.foldlRecOn (motive := s.CountsOnly) l f (.refl s) fun _ ht a _ => ht.trans (hf _ a)

theorem State.CountsOnly.mem (h : s.CountsOnly t) : t.ccd.mem = s.ccd.mem := by rw [h.ccd]
theorem State.CountsOnly.lines (h : s.CountsOnly t) : t.ccd.lines = s.ccd.lines := by rw [h.ccd]
theorem State.CountsOnly.line (h : s.CountsOnly t) (M : Nat) : t.line M = s.line M := by rw [State.line, h.lines]; rfl
theorem State.CountsOnly.chan (h : s.CountsOnly t) (k c : Nat) : t.chan k c = s.chan k c := by
  rw [State.chan, State.stack, h.hbmStacks]; rfl

theorem State.GrantsOnly.countsOnly (h : s.GrantsOnly t) : s.CountsOnly t := by
  refine ⟨?_, ?_, ?_, ?_, ?_, h.who, ?_, ?_⟩ <;> rw [h.eq]

theorem State.CountsOnly.post (s : State) (a : RecArg) : s.CountsOnly (s.post a) := by
  constructor <;> simp

theorem State.CountsOnly.postEvent (s : State) (c d : Nat) : s.CountsOnly (s.postEvent c d) := by
  constructor <;> simp

theorem State.CountsOnly.tookFree (s : State) : s.CountsOnly s.tookFree := ⟨rfl, rfl, rfl, rfl, rfl, rfl, rfl, rfl⟩

theorem State.CountsOnly.postSyndrome (s : State) (k : Nat) (a : RecArg) : s.CountsOnly (s.postSyndrome k a) :=
  (State.CountsOnly.post s _).trans (.tookFree _)

theorem State.CountsOnly.hbmPoisonRec (s : State) (p : Place) (c d a : Nat) : s.CountsOnly (s.hbmPoisonRec p c d a) :=
  .post s _

theorem State.CountsOnly.updSlice (s : State) (k : Nat) (f : Slice → Slice) : s.CountsOnly (s.updSlice k f) :=
  ⟨rfl, rfl, rfl, rfl, rfl, rfl, rfl, rfl⟩

theorem State.CountsOnly.qosAdd (s : State) (r n : Nat) : s.CountsOnly (s.qosAdd r n) :=
  (State.GrantsOnly.qosAdd s r n).countsOnly

theorem State.CountsOnly.chanGrant (s : State) (w : Bool) (k c n : Nat) : s.CountsOnly (s.chanGrant w k c n) := by
  unfold State.chanGrant
  split
  · exact .refl s
  · refine .ite (.refl s) ?_
    cases hpick : s.qosPick (2 + k) (chanArb k c) (fun _ => n) _ with
    | none => exact .refl s
    | some x => exact (State.GrantsOnly.qosPick hpick).countsOnly

theorem State.CountsOnly.countUe (s : State) (L n : Nat) : s.CountsOnly (s.countUe L n) := .ite (.refl s) (.updSlice s _ _)

theorem State.CountsOnly.countCe (s : State) (L w n : Nat) : s.CountsOnly (s.countCe L w n) :=
  .ite (.refl s) ((State.CountsOnly.updSlice s (lineSlice L) _).trans
    (.foldl (fun s _ => .foldl (fun s _ => .postSyndrome s _ _) _ s) _ _))

theorem State.CountsOnly.countPut (s : State) (L : Nat) (m : BitVec 4) : s.CountsOnly (s.countPut L m) :=
  .foldl (fun s _ => .ite ((State.CountsOnly.countCe s _ _ _).trans (.countUe _ _ _)) (.refl s)) _ s

theorem State.CountsOnly.clearDead (s : State) (L : Nat) : s.CountsOnly (s.clearDead L).1 := by
  unfold State.clearDead
  dsimp only
  split
  · exact .updSlice s _ _
  · exact .refl s

theorem State.CountsOnly.resurrect (s : State) (L : Nat) : s.CountsOnly (s.resurrect L) := by
  have hcleared := (State.CountsOnly.clearDead s L).trans (.updSlice _ (lineSlice L) fun k =>
    { k with resurrect := satAdd k.resurrect 1 })
  exact .ite (.refl s) (.ite (hcleared.trans (.postEvent _ _ _)) hcleared)

theorem State.CountsOnly.addDead (s : State) (L : Nat) : s.CountsOnly (s.addDead L) := .updSlice s _ _

end Counts

/-! ### Operations that touch no block and no line but some -/

section LeavesLines

variable {s t u : State} {X : Nat → Prop} {L : Nat}

/-- From s to t the blocks and all lines but those of X are as before. -/
structure State.LeavesLines (X : Nat → Prop) (s t : State) : Prop where
  blocks : t.blocks = s.blocks
  line : ∀ M, ¬ X M → t.line M = s.line M

theorem State.LeavesLines.of_lines (hblocks : t.blocks = s.blocks) (hlines : t.ccd.lines = s.ccd.lines) :
    s.LeavesLines X t := ⟨hblocks, fun M _ => by rw [State.line, hlines]; rfl⟩

theorem State.LeavesLines.refl (s : State) : s.LeavesLines X s := ⟨rfl, fun _ _ => rfl⟩

theorem State.LeavesLines.trans (h : s.LeavesLines X t) (g : t.LeavesLines X u) : s.LeavesLines X u :=
  ⟨g.blocks.trans h.blocks, fun M hM => (g.line M hM).trans (h.line M hM)⟩

theorem State.LeavesLines.ite {c : Prop} [Decidable c] (h : s.LeavesLines X t) (g : s.LeavesLines X u) :
    s.LeavesLines X (if c then t else u) := by
  split
  · exact h
  · exact g

theorem State.LeavesLines.foldl {α : Type} {f : State → α → State} (hf : ∀ (s : State) (a : α), s.LeavesLines X (f s a))
    (l : List α) (s : State) : s.LeavesLines X (l.foldl f s) :=
  List.foldlRecOn (motive := s.LeavesLines X) l f (.refl s) fun _ ht a _ => ht.trans (hf _ a)

theorem State.CountsOnly.leavesLines (h : s.CountsOnly t) : s.LeavesLines X t := .of_lines h.blocks h.lines

theorem State.LeavesLines.ccd (s : State) {c : Ccd} (hlines : c.lines = s.ccd.lines) :
    s.LeavesLines X { s with ccd := c } := .of_lines rfl hlines

theorem State.LeavesLines.hbm (s : State) (m : Mem) : s.LeavesLines X { s with hbm := m } := .of_lines rfl rfl

theorem State.LeavesLines.hbmWords (s : State) (w : RMap HWord) : s.LeavesLines X { s with hbmWords := w } :=
  .of_lines rfl rfl

theorem State.LeavesLines.qos (s : State) (q : Qos) : s.LeavesLines X { s with qos := q } := .of_lines rfl rfl

theorem State.LeavesLines.updStack (s : State) (k : Nat) (f : Stack → Stack) : s.LeavesLines X (s.updStack k f) :=
  .of_lines rfl rfl

theorem State.LeavesLines.updChan (s : State) (k c : Nat) (f : Chan → Chan) : s.LeavesLines X (s.updChan k c f) :=
  .of_lines rfl rfl

theorem State.LeavesLines.post (s : State) (a : RecArg) : s.LeavesLines X (s.post a) :=
  (State.CountsOnly.post s a).leavesLines

theorem State.LeavesLines.hbmStore (s : State) (L q : Nat) (d : Mem) (w : RMap CWord) :
    s.LeavesLines X (s.hbmStore L q d w) := by
  unfold State.hbmStore
  extract_lets p counted stored opn
  have hstored : s.LeavesLines X stored := (State.CountsOnly.qosAdd s _ 256).leavesLines.trans (.hbm _ _)
  refine hstored.trans (State.LeavesLines.foldl (fun s i => ?_) _ stored)
  exact .ite ((State.LeavesLines.hbmWords s _).trans (State.CountsOnly.postSyndrome _ 8 _).leavesLines) (.hbmWords s _)

theorem State.LeavesLines.hbmPut (s : State) (L : Nat) (m : BitVec 4) (d : Mem) (w : RMap CWord) :
    s.LeavesLines X (s.hbmPut L m d w) := by
  unfold State.hbmPut
  refine .ite (.refl s) (.ite (.post s _) ?_)
  refine (State.LeavesLines.updChan s _ _ _).trans (State.LeavesLines.foldl (fun s q => ?_) _ _)
  exact .ite (.hbmStore s _ _ _ _) (.refl s)

theorem State.LeavesLines.retrain (s : State) (k c : Nat) : s.LeavesLines X (s.retrain k c) :=
  .ite (.refl s) (.ite (.updChan s k c _) (.updChan s k c _))

theorem State.LeavesLines.crcFailed (s : State) (k c n : Nat) : s.LeavesLines X (s.crcFailed k c n) := by
  unfold State.crcFailed
  refine .ite (.refl s) ((State.LeavesLines.updChan s k c fun c => { c with
    crc := satAdd c.crc n, crcTicks := (List.replicate n s.tick ++ c.crcTicks).take 16 }).trans ?_)
  dsimp only
  split
  · exact .ite (.retrain _ k c) (.refl _)
  · exact .refl _

theorem State.LeavesLines.crcMet (s : State) (p : Place) : s.LeavesLines X (s.crcMet p).1 := by
  have hmet := State.LeavesLines.updChan (X := X) s p.stk p.ch fun c => { c with crcDue := 0 }
  unfold State.crcMet
  dsimp only
  split
  · exact .refl s
  · split
    · exact hmet.trans (.crcFailed _ p.stk p.ch _)
    · exact hmet.trans (.crcFailed _ p.stk p.ch 1)

theorem State.LeavesLines.tornPut (s : State) (L : Nat) (m : BitVec 4) (d : Mem) (w : RMap CWord) :
    s.LeavesLines X (s.tornPut L m d w) := by
  unfold State.tornPut
  refine .trans ?_ (.post _ _)
  refine (State.CountsOnly.tookFree s).leavesLines.trans ((State.LeavesLines.hbmPut _ L m d w).trans
    (State.LeavesLines.foldl (fun t i => ?_) _ _))
  exact .ite (.of_lines rfl rfl) (.refl t)

theorem State.LeavesLines.putNow (s : State) (L : Nat) (m : BitVec 4) (d : Mem) (w : RMap CWord) :
    s.LeavesLines X (s.putNow L m d w) := by
  have hmet : s.LeavesLines X ((s.chanGrant true (place L).stk (place L).ch (256 * sectorCount m)).crcMet (place L)).1 :=
    (State.CountsOnly.chanGrant s _ _ _ _).leavesLines.trans (.crcMet _ _)
  exact .ite (.refl s) (.ite (hmet.trans (.tornPut _ _ _ _ _)) (hmet.trans (.hbmPut _ _ _ _ _)))

theorem State.LeavesLines.drainLine (s : State) (L : Nat) : s.LeavesLines X (s.drainLine L) := by
  unfold State.drainLine
  extract_lets p c mine w taken put
  have hput : taken.LeavesLines X put := by
    refine State.LeavesLines.foldl (fun s r => ?_) _ taken
    exact (State.LeavesLines.qos s _).trans (.putNow _ _ _ _ _)
  exact .ite (.refl s) (((State.LeavesLines.updChan s _ _ _).trans hput).trans (.qos put _))

theorem State.LeavesLines.putLine (s : State) (L : Nat) (m : BitVec 4) : s.LeavesLines X (s.putLine L m) :=
  (State.CountsOnly.countPut s L m).leavesLines.trans
    (.ite (.updChan _ _ _ _) ((State.LeavesLines.drainLine _ L).trans (.putNow _ _ _ _ _)))

/-! ### Fetches (R213) -/

theorem State.LeavesLines.candidate (s : State) (p : Place) : s.LeavesLines X (s.candidate p) := by
  have hrefused : s.LeavesLines X (s.refuseRemap p) :=
    ((State.LeavesLines.updChan s _ _ _).trans (.updStack _ _ _)).trans (.post _ _)
  exact .ite (.refl s) (.ite hrefused (.updChan s _ _ _))

theorem State.LeavesLines.hbmCorrected (s : State) (p : Place) : s.LeavesLines X (s.hbmCorrected p) := by
  have hcount : s.LeavesLines X ((s.updStack p.stk fun k => { k with ce := satAdd k.ce 1 }).updChan p.stk p.ch fun c =>
      { c with rowErrs := SMap.upd 0 c.rowErrs (65536 * p.b + p.row) (· + 1) }) :=
    (State.LeavesLines.updStack s _ _).trans (.updChan _ _ _ _)
  exact .ite (hcount.trans (.candidate _ p)) hcount

theorem State.LeavesLines.hbmWord (s : State) (L w : Nat) : s.LeavesLines X (s.hbmWord L w).1 := by
  have hue := State.LeavesLines.updStack (X := X) s (place L).stk fun k => { k with ue := satAdd k.ue 1 }
  have hcount (c d : Nat) := hue.trans
    (.post _ { cls := c, level := 3, unit := 0x22, code := d, loc := (place L).loc, addr := L * 1024 + 32 * w,
               data0 := (place L).row })
  unfold State.hbmWord
  dsimp only
  split
  · exact .refl s
  · split
    · exact .refl s
    · split
      · exact .refl s
      · exact .hbmCorrected s _
      · exact hcount 2 3
      · exact hcount 2 4
      · exact (hcount 2 2).trans (.candidate _ _)

theorem State.LeavesLines.stuckAgain (s : State) (L w n : Nat) : s.LeavesLines X (s.stuckAgain L w n) := by
  unfold State.stuckAgain
  split
  · exact .of_lines rfl rfl
  · exact .refl s

/-- Where a thing was changed in the sparse map of the lines, the others are found as before. -/
theorem SMap.lookup_ins_other {α : Type} {k j : Nat} (hj : j ≠ k) (v : α) (m : SMap α) :
    (SMap.ins k v m).lookup j = m.lookup j := by
  have hne : (j == k) = false := beq_eq_false_iff_ne.mpr hj
  induction m with
  | nil => simp [SMap.ins, List.lookup_cons, hne]
  | cons e m ih =>
    rw [SMap.ins]
    split
    · simp [List.lookup_cons, hne]
    · rw [List.lookup_cons, ih, List.lookup_cons]

theorem SMap.lookup_del {α : Type} (m : SMap α) (k j : Nat) :
    (SMap.del m k).lookup j = if j = k then none else m.lookup j := by
  induction m with
  | nil => simp [SMap.del]
  | cons e m ih =>
    rw [SMap.del]
    by_cases hk : e.1 = k
    · rw [if_pos hk, ih, List.lookup_cons]
      split
      · rfl
      · next hj =>
        have hne : (j == e.1) = false := beq_eq_false_iff_ne.mpr fun h => hj (h.trans hk)
        rw [hne]
    · rw [if_neg hk, List.lookup_cons, List.lookup_cons, ih]
      by_cases hj : j = e.1
      · have hjk : j ≠ k := fun h => hk (hj.symm.trans h)
        simp [hj ▸ hjk, hj]
      · have hne : (j == e.1) = false := beq_eq_false_iff_ne.mpr hj
        rw [hne]

theorem SMap.lookup_upd_other {α : Type} [DecidableEq α] (d : α) {k j : Nat} (hj : j ≠ k) (m : SMap α) (f : α → α) :
    (SMap.upd d m k f).lookup j = m.lookup j := by
  have hdel : (SMap.del m k).lookup j = m.lookup j := by rw [SMap.lookup_del, if_neg hj]
  unfold SMap.upd SMap.set
  split
  · exact hdel
  · rw [SMap.lookup_ins_other hj, hdel]

theorem State.LeavesLines.updLines (s : State) (d : Line) (hL : X L) (f : Line → Line) :
    s.LeavesLines X { s with ccd := { s.ccd with lines := SMap.upd d s.ccd.lines L f } } :=
  ⟨rfl, fun M hM => SMap.lookup_upd_other d (by rintro rfl; exact hM hL) s.ccd.lines f⟩

theorem State.LeavesLines.fetchSector (s : State) (L q : Nat) (hL : X L) : s.LeavesLines X (s.fetchSector L q) := by
  unfold State.fetchSector
  extract_lets p counted data ccd copied read ccd'
  have hcopied : s.LeavesLines X copied := (State.CountsOnly.qosAdd s _ 256).leavesLines.trans (.of_lines rfl rfl)
  have hread : copied.LeavesLines X read := by
    refine State.LeavesLines.foldl (fun s i => ?_) _ copied
    exact (State.LeavesLines.hbmWord s L (8 * q + i)).trans (.ccd _ rfl)
  exact ((hcopied.trans hread).trans (.updLines read _ hL _)).trans (.stuckAgain _ _ _ _)

theorem State.LeavesLines.fetchNow (s : State) (L : Nat) (m : BitVec 4) (q : Nat) (hL : X L) :
    s.LeavesLines X (s.fetchNow L m q) := by
  unfold State.fetchNow
  extract_lets p drained opened
  have hopen : drained.LeavesLines X opened := .ite (.post _ _) (.updChan _ _ _ _)
  exact ((State.LeavesLines.drainLine s L).trans hopen).trans
    (State.LeavesLines.foldl (fun s q => .ite (.fetchSector s L q hL) (.refl s)) _ _)

theorem State.LeavesLines.poisonRead (s : State) (L : Nat) (m : BitVec 4) : s.LeavesLines X (s.poisonRead L m) := by
  unfold State.poisonRead
  have hfailed : s.LeavesLines X (s.failedRead L m).1 :=
    (State.CountsOnly.tookFree s).leavesLines.trans (.foldl (fun s _ => .post s _) _ _)
  refine .ite hfailed (hfailed.trans (State.LeavesLines.foldl (fun s i => ?_) _ _))
  exact .ccd s rfl

theorem State.LeavesLines.fetchMissing (s : State) (L : Nat) (m : BitVec 4) (q : Nat) (hL : X L) :
    s.LeavesLines X (s.fetchMissing L m q) := by
  unfold State.fetchMissing
  split
  · exact .refl s
  · next l _ =>
    have hmet : s.LeavesLines X ((s.chanGrant false (place L).stk (place L).ch
        (256 * sectorCount (m &&& ~~~ l.valid))).crcMet (place L)).1 :=
      (State.CountsOnly.chanGrant s _ _ _ _).leavesLines.trans (.crcMet _ _)
    have hfetch := hmet.trans (.fetchNow _ L (m &&& ~~~ l.valid) q hL)
    exact .ite (.refl s) (.ite (hfetch.trans (.poisonRead _ _ _)) hfetch)

theorem State.LeavesLines.journalLine (s : State) (L : Nat) (hL : X L) : s.LeavesLines X (s.journalLine L) := by
  refine .ite (.refl s) ((State.LeavesLines.fetchMissing s L 0xF 0 hL).trans ?_)
  rw [State.journalAdd_eq]
  exact .of_lines rfl rfl

end LeavesLines

end Sys2Proof.Machine

/-! PROOFS. The RANGE word, and the RANGE commands at a block's L1 (R195, Tables 7.6, 7.9). -/

namespace Sys2Proof.Machine

/-! ### The RANGE word (Table 7.6) -/

section RangeWords

variable {s : State} {b c cls : Nat} {w : W64}

/-- First byte of the range of a RANGE word. -/
def State.rangeBase (s : State) (b c : Nat) (w : W64) : Nat := (s.dmaAt b c).baseDst + wordField w 31 10 * 1024

/-- Bytes of the range of a RANGE word. -/
def rangeLen (w : W64) : Nat := (wordField w 53 32 + 1) * 1024

/-- The operation of a RANGE word and its level, from both fields at once. -/
theorem rop_and_level {v : Nat} (h : wordField w 9 6 = v) : wordField w 8 6 = v % 8 ∧ wordField w 9 9 = v / 8 := by
  simp only [wordField] at h ⊢
  omega

theorem dmaRanges_range (hop : wordField w 5 0 = 0x0A) : dmaRanges (s.dmaAt b c) w =
    [(true, s.rangeBase b c w, rangeLen w, true)] := by
  simp only [dmaRanges, dmaOp_eq, hop, bitsN_toNat_eq_wordField, State.rangeBase, rangeLen]

theorem State.dmaError_range (hop : wordField w 5 0 = 0x0A) (hhigh : wordField w 63 54 = 0)
    (hin : s.rangeBase b c w + rangeLen w ≤ memBytes) : s.dmaError b c w =
      if wordField w 8 6 = 4 ∧ wordField w 9 9 = 0 ∨ 5 ≤ wordField w 8 6 then some (2, noOff) else none := by
  simp only [State.dmaError, dmaOp_eq, dmaRop_eq, hop, bitsN_toNat_eq_wordField, bitN_toNat_eq_wordField, hhigh,
    dmaRanges_range hop, List.filterMap_cons, State.dmaCut_device hin, List.filterMap_nil]
  have hlevel : wordField w 9 9 < 2 := wordField_lt w 9 9
  by_cases hbad : wordField w 8 6 = 4 ∧ wordField w 9 9 = 0 ∨ 5 ≤ wordField w 8 6
  · have hbad' : 5 ≤ wordField w 8 6 ∨ wordField w 8 6 = 4 ∧ ¬ wordField w 9 9 = 1 := by omega
    simp [hbad, hbad']
  · have hbad' : ¬ (5 ≤ wordField w 8 6 ∨ wordField w 8 6 = 4 ∧ ¬ wordField w 9 9 = 1) := by omega
    simp only [not_or, not_and, not_not] at hbad'
    simp only [if_neg hbad]
    simpa [hbad'.1] using hbad'.2

/-- What a RANGE does at the block's L1. -/
def State.rangeAtL1 (s : State) (b rop A n : Nat) : State :=
  if rop = 0 then s.l1Prefetch b A n else if rop = 1 then s else s.l1Drop b A n

variable {want : W64 → Bool} {rop v : Nat} {i : Instr} {P : State → Prop}

/-- A legal RANGE: what it does at the L1, and with level 1 then at the cache die. -/
theorem ChannelReady.runs_dmaRange (h : ChannelReady s b c w cls) (hop : wordField w 5 0 = 0x0A)
    (hhigh : wordField w 63 54 = 0) (hin : s.rangeBase b c w + rangeLen w ≤ memBytes) (hfree : s.dmaWaits b c w = false)
    (hexec : exec i s = onUnit (decide (b < 96) && decide (c < 4)) (s.dmaRangeRow b c want rop)) (hwant : want w = true)
    (hv : wordField w 9 6 = v) (hlegal : v % 8 < 4 ∨ v = 12)
    (hP : P (if v / 8 = 1 then
      (((s.dmaBegun b c cls w).rangeAtL1 b rop (s.rangeBase b c w) (rangeLen w)).linkPass b (c + 3) true).rangeOp rop
        (s.rangeBase b c w) (rangeLen w)
      else (s.dmaBegun b c cls w).rangeAtL1 b rop (s.rangeBase b c w) (rangeLen w))) : Runs i s P := by
  obtain ⟨hrop, hlevel⟩ := rop_and_level hv
  have herror : s.dmaError b c w = none := by
    rw [State.dmaError_range hop hhigh hin, hrop, hlevel, if_neg (by omega)]
  refine h.runs hexec (by simp [dmaOp_eq, hop, hwant]) herror hfree ?_
  have hrange : dmaRange ((s.dmaBegun b c cls w).dmaAt b c) w = (s.rangeBase b c w, rangeLen w) := by
    simp only [dmaRange, State.dmaAt_dmaBegun_self, bitsN_toNat_eq_wordField, State.rangeBase, rangeLen]
  simp only [hrange, bitN_toNat_eq_wordField, hlevel, decide_eq_true_eq]
  exact hP

theorem ChannelReady.runs_dmaRange_stops (h : ChannelReady s b c w cls) (hop : wordField w 5 0 = 0x0A)
    (hhigh : wordField w 63 54 = 0) (hin : s.rangeBase b c w + rangeLen w ≤ memBytes)
    (hbad : wordField w 8 6 = 4 ∧ wordField w 9 9 = 0 ∨ 5 ≤ wordField w 8 6) :
    Runs (.dmaRangeDead b c) s fun t => ChannelStops s t b c 2 := by
  refine h.runs_stops rfl ?_ (by rw [State.dmaError_range hop hhigh hin, if_pos hbad])
  simp only [dmaOp_eq, dmaRop_eq, hop, beq_self_eq_true, Bool.true_and, decide_eq_true_eq]
  omega

/-- A flush of the L1, which writes through, does nothing (R189). -/
theorem ChannelReady.runs_dmaRangeFlush_L1 (h : ChannelReady s b c w cls) (hop : wordField w 5 0 = 0x0A)
    (hhigh : wordField w 63 54 = 0) (hin : s.rangeBase b c w + rangeLen w ≤ memBytes) (hfree : s.dmaWaits b c w = false)
    (hv : wordField w 9 6 = 1) : Runs (.dmaRangeFlush b c) s fun t =>
      Took s t b (c + 2) 0 ∧ OnlyBlock s t b ∧ ChannelRuns s t b c w ∧ (t.blk b).tg = (s.blk b).tg := by
  refine h.runs_dmaRange hop hhigh hin hfree rfl (by simp [dmaRop_eq, (rop_and_level hv).1]) hv (.inl (by decide)) ?_
  simp only [State.rangeAtL1, show ¬ (1 : Nat) / 8 = 1 by decide, show ¬ (1 : Nat) = 0 by decide, if_false, if_true]
  refine ⟨took_dmaBegun s b c cls w, onlyBlock_dmaBegun s b c cls w, channelRuns_dmaBegun s b c cls w, ?_⟩
  rw [State.blk_dmaBegun_self]

/-- The sectors that stay in an L1 are not of the range that was dropped. -/
theorem State.mem_l1Drop {A n : Nat} (hA : A % 256 = 0) {l : L1Line} (hl : l ∈ ((s.l1Drop b A n).blk b).tg.l1) :
    l ∈ (s.blk b).tg.l1 ∧ ¬ (A / 256 ≤ l.sector ∧ 256 * l.sector < A + n) := by
  rw [State.blk_l1Drop, if_pos rfl] at hl
  obtain ⟨hmem, hout⟩ := List.mem_filter.mp hl
  refine ⟨hmem, fun hin => ?_⟩
  have hpos : 0 < n := by omega
  simp [touches, hpos, hin.1, hin.2] at hout

end RangeWords

end Sys2Proof.Machine

/-! PROOFS. Range operations at the cache die, line by line (R217-R219, R222, Table 8.6), and the RANGE commands that flush,
clean and drop lines (R195). -/

namespace Sys2Proof.Machine

/-! ### What each operation leaves of the lines -/

section RangeLines

variable {s t : State} {X : Nat → Prop} {L M : Nat}

theorem State.line_dropLine (s : State) (L M : Nat) : (s.dropLine L).line M = if M = L then none else s.line M :=
  SMap.lookup_del s.ccd.lines L M

theorem State.LeavesLines.dropLine (s : State) (hL : X L) : s.LeavesLines X (s.dropLine L) :=
  ⟨rfl, fun M hM => by rw [s.line_dropLine, if_neg (by rintro rfl; exact hM hL)]⟩

theorem State.LeavesLines.updLine (s : State) (hL : X L) (f : Line → Line) : s.LeavesLines X (s.updLine L f) := by
  refine ⟨rfl, fun M hM => ?_⟩
  rw [State.lookup_updLine]
  cases s.line M with
  | none => rfl
  | some l => rw [Option.map_some, if_neg (by rintro rfl; exact hM hL)]

theorem State.LeavesLines.writeBack (s : State) (hL : X L) : s.LeavesLines X (s.writeBack L) := by
  unfold State.writeBack
  split
  · exact .refl s
  · exact .ite (.refl s) ((State.LeavesLines.putLine s L _).trans (.updLine _ hL _))

/-- A written-back line is clean. -/
theorem State.line_writeBack (s : State) (L M : Nat) : (s.writeBack L).line M =
    if M = L then (s.line M).map fun l => { l with dirty := 0 } else s.line M := by
  by_cases hM : M = L
  · subst hM
    rw [if_pos rfl]
    unfold State.writeBack
    cases hl : s.line M with
    | none => simpa using hl
    | some l =>
      dsimp only
      split
      · next hclean =>
        obtain ⟨way, valid, dirty, use, pinned, tpins, dead, fetching⟩ := l
        obtain rfl : dirty = 0 := hclean
        exact hl
      · have hput := (State.LeavesLines.putLine (X := fun _ => False) s M l.dirty).line M id
        rw [State.lookup_updLine, hput, hl]
        simp
  · rw [if_neg hM]
    exact (State.LeavesLines.writeBack (X := (· = L)) s rfl).line M hM

theorem State.line_cleanDrop (s : State) (L M : Nat) : (s.cleanDrop L).line M = if M = L then none else s.line M := by
  unfold State.cleanDrop
  split
  · rw [State.line_dropLine, State.line_writeBack]
    split <;> rfl
  · next habsent =>
    split
    · next hM => rw [hM]; simpa using habsent
    · rfl

theorem State.line_discardLine (s : State) (L M : Nat) : (s.discardLine L).line M = if M = L then none else s.line M := by
  unfold State.discardLine
  split
  · next habsent =>
    split
    · next hM => rw [hM]; exact habsent
    · rfl
  · next l _ =>
    rw [State.line_dropLine]
    split
    · rfl
    · next hM =>
      have hjournal : s.LeavesLines (· = L) (if l.dirty = 0 then s else s.journalLine L) :=
        .ite (.refl s) (.journalLine s L rfl)
      exact hjournal.line M hM

theorem State.LeavesLines.allocLine (s : State) (L : Nat) : s.LeavesLines (fun _ => True) (s.allocLine L) := by
  unfold State.allocLine
  split
  · exact .refl s
  · split
    · exact .refl s
    · next w ev _ =>
      have hinsert (t : State) (c : Ccd) : t.LeavesLines (fun _ => True) { t with ccd := c } :=
        ⟨rfl, fun _ h => absurd trivial h⟩
      cases ev with
      | none => exact hinsert s _
      | some v => exact ((State.LeavesLines.writeBack s trivial).trans (.dropLine _ trivial)).trans (hinsert _ _)

theorem State.LeavesLines.discardLine (s : State) (hL : X L) : s.LeavesLines X (s.discardLine L) := by
  unfold State.discardLine
  split
  · exact .refl s
  · exact State.LeavesLines.trans (.ite (.refl s) (.journalLine s L hL)) (.dropLine _ hL)

/-- No range operation touches a block. -/
theorem State.blocks_rangeLine (s : State) (op L : Nat) : (s.rangeLine op L).blocks = s.blocks := by
  unfold State.rangeLine
  split
  · split
    · rfl
    · exact (((State.CountsOnly.clearDead s L).leavesLines.trans (.allocLine _ L)).trans
        (.fetchMissing _ L 0xF 0 trivial)).blocks
  · exact (State.LeavesLines.writeBack (X := (· = L)) s rfl).blocks
  · exact (State.LeavesLines.discardLine (X := (· = L)) s rfl).blocks
  · unfold State.cleanDrop
    split
    · exact ((State.LeavesLines.writeBack (X := (· = L)) s rfl).trans (.dropLine _ rfl)).blocks
    · rfl
  · exact (State.LeavesLines.discardLine (X := (· = L)) s rfl).blocks
  · rfl

theorem State.blocks_rangeOp (s : State) (op A n : Nat) : (s.rangeOp op A n).blocks = s.blocks :=
  List.foldlRecOn (motive := fun t : State => t.blocks = s.blocks) _ _ rfl fun t ht L _ =>
    (t.blocks_rangeLine op L).trans ht

/-- The line L after an invalidate, a clean-and-invalidate or a dead mark is gone; after a flush it is clean. -/
def lineAfter (op : Nat) (l : Option Line) : Option Line :=
  if op = 1 then l.map fun l => { l with dirty := 0 } else none

theorem lineAfter_idem (op : Nat) (l : Option Line) : lineAfter op (lineAfter op l) = lineAfter op l := by
  unfold lineAfter
  split
  · cases l <;> rfl
  · rfl

theorem State.line_rangeLine (s : State) {op : Nat} (hlo : 1 ≤ op) (hhi : op ≤ 4) (L M : Nat) :
    (s.rangeLine op L).line M = if M = L then lineAfter op (s.line M) else s.line M := by
  interval_cases op
  · exact s.line_writeBack L M
  · exact s.line_discardLine L M
  · exact s.line_cleanDrop L M
  · exact s.line_discardLine L M

/-- A range operation does to every line of its range, once or more often, what it does to one. -/
theorem State.line_foldl_rangeLine {op : Nat} (hlo : 1 ≤ op) (hhi : op ≤ 4) (M : Nat) : ∀ (ls : List Nat) (s : State),
    (ls.foldl (fun s L => s.rangeLine op L) s).line M = if M ∈ ls then lineAfter op (s.line M) else s.line M
  | [], s => by simp
  | L :: ls, s => by
    rw [List.foldl_cons, State.line_foldl_rangeLine hlo hhi M ls, s.line_rangeLine hlo hhi]
    by_cases hM : M = L
    · simp [hM, lineAfter_idem]
    · simp [hM]

theorem mem_linesOf {A n : Nat} (hA : A % 1024 = 0) (hlo : A / 1024 ≤ L) (hhi : L * 1024 < A + n) : L ∈ linesOf A n := by
  refine List.mem_map.mpr ⟨L - A / 1024, List.mem_range.mpr ?_, by omega⟩
  unfold ceilDiv
  omega

theorem linesOf_oneLine (A : Nat) : linesOf A 1024 = [A / 1024] := rfl

theorem State.line_rangeOp (s : State) {op A n : Nat} (hlo : 1 ≤ op) (hhi : op ≤ 4) (hA : A % 1024 = 0)
    (hL : A / 1024 ≤ L) (hn : L * 1024 < A + n) : (s.rangeOp op A n).line L = lineAfter op (s.line L) := by
  rw [State.rangeOp, State.line_foldl_rangeLine hlo hhi, if_pos (mem_linesOf hA hL hn)]

/-- A line marked dead has the newest record of its set (R222). -/
theorem State.mem_dead_addDead (s : State) (L : Nat) :
    L ∈ SMap.get [] ((s.addDead L).slice (lineSlice L)).dead (lineSet L) := by
  rw [State.addDead, State.slice_updSlice_self, SMap.get_set_self]
  split
  · next hfull =>
    rw [List.drop_append_of_le_length (by simp at hfull; omega)]
    simp
  · simp

end RangeLines

/-! ### The RANGE commands with level 1 -/

section RangeCommands

variable {s t : State} {b c cls n rop A : Nat} {w : W64}

/-- What drops sectors of an L1 or nothing, and operates on lines of the cache die, keeps the channel running. -/
theorem channelRuns_rangeAtL1 (hrop : rop ≠ 0) : ChannelRuns s ((s.dmaBegun b c cls w).rangeAtL1 b rop A n) b c w := by
  refine (channelRuns_dmaBegun s b c cls w).of_dma ?_
  rw [State.rangeAtL1, if_neg hrop]
  split
  · rfl
  · rw [State.blk_l1Drop, if_pos rfl]

theorem State.blk_rangeOp_linkPass (s : State) (b u op A n d : Nat) :
    (((s.linkPass b u true).rangeOp op A n).blk d) = s.blk d := by
  rw [State.blk, State.blocks_rangeOp, State.linkPass_blocks]; rfl

theorem ChannelReady.runs_dmaRangeFlush_level1 (h : ChannelReady s b c w cls) (hop : wordField w 5 0 = 0x0A)
    (hhigh : wordField w 63 54 = 0) (hA : s.rangeBase b c w % 1024 = 0)
    (hin : s.rangeBase b c w + rangeLen w ≤ memBytes) (hfree : s.dmaWaits b c w = false)
    (hv : wordField w 9 6 = 9) : Runs (.dmaRangeFlush b c) s fun t =>
      (∀ L l, s.rangeBase b c w / 1024 ≤ L → L * 1024 < s.rangeBase b c w + rangeLen w → t.line L = some l → l.dirty = 0) ∧
      ChannelRuns s t b c w := by
  refine h.runs_dmaRange hop hhigh hin hfree rfl (by simp [dmaRop_eq, (rop_and_level hv).1]) hv (.inl (by decide)) ?_
  rw [if_pos (by decide)]
  refine ⟨fun L l hlo hhi hl => ?_, (channelRuns_rangeAtL1 (rop := 1) (by decide)).of_dma
    (congrArg Block.dma (State.blk_rangeOp_linkPass _ _ _ _ _ _ _))⟩
  rw [State.line_rangeOp _ (by decide) (by decide) hA hlo hhi, lineAfter, if_pos rfl] at hl
  obtain ⟨x, -, rfl⟩ := Option.map_eq_some_iff.mp hl
  rfl

/-- The sectors of the range leave the L1, and with level 1 its lines leave the cache die. -/
theorem ChannelReady.runs_dmaRange_drops (h : ChannelReady s b c w cls) (hop : wordField w 5 0 = 0x0A)
    (hhigh : wordField w 63 54 = 0) (hA : s.rangeBase b c w % 1024 = 0)
    (hin : s.rangeBase b c w + rangeLen w ≤ memBytes) (hfree : s.dmaWaits b c w = false) {i : Instr} {want : W64 → Bool}
    (hexec : exec i s = onUnit (decide (b < 96) && decide (c < 4)) (s.dmaRangeRow b c want rop))
    (hwant : wordField w 8 6 = rop → want w = true) (hrop : rop = 2 ∨ rop = 3)
    (hv : wordField w 9 6 = rop ∨ wordField w 9 6 = 8 + rop) : Runs i s fun t =>
      (∀ l ∈ (t.blk b).tg.l1, l ∈ (s.blk b).tg.l1 ∧
        ¬ (s.rangeBase b c w / 256 ≤ l.sector ∧ 256 * l.sector < s.rangeBase b c w + rangeLen w)) ∧
      (wordField w 9 6 = 8 + rop →
        ∀ L, s.rangeBase b c w / 1024 ≤ L → L * 1024 < s.rangeBase b c w + rangeLen w → t.line L = none) ∧
      ChannelRuns s t b c w := by
  have hl1 (l : L1Line) (hl : l ∈ (((s.dmaBegun b c cls w).rangeAtL1 b rop (s.rangeBase b c w) (rangeLen w)).blk b).tg.l1) :
      l ∈ (s.blk b).tg.l1 ∧
        ¬ (s.rangeBase b c w / 256 ≤ l.sector ∧ 256 * l.sector < s.rangeBase b c w + rangeLen w) := by
    rw [State.rangeAtL1, if_neg (by omega), if_neg (by omega)] at hl
    have hmem := State.mem_l1Drop (by omega) hl
    rwa [State.blk_dmaBegun_self] at hmem
  have hruns : ChannelRuns s ((s.dmaBegun b c cls w).rangeAtL1 b rop (s.rangeBase b c w) (rangeLen w)) b c w :=
    channelRuns_rangeAtL1 (by omega)
  refine h.runs_dmaRange hop hhigh hin hfree hexec (hwant ?_) rfl (.inl (by omega)) ?_
  · rw [(rop_and_level rfl).1]
    omega
  · split
    · refine ⟨fun l hl => hl1 l (by rwa [State.blk_rangeOp_linkPass] at hl), fun _ L hlo hhi => ?_, hruns.of_dma
        (congrArg Block.dma (State.blk_rangeOp_linkPass _ _ _ _ _ _ _))⟩
      rw [State.line_rangeOp _ (by omega) (by omega) hA hlo hhi, lineAfter, if_neg (by omega)]
    · exact ⟨hl1, fun hlevel => by omega, hruns⟩

theorem ChannelReady.runs_dmaRangeDead (h : ChannelReady s b c w cls) (hop : wordField w 5 0 = 0x0A)
    (hhigh : wordField w 63 54 = 0) (hA : s.rangeBase b c w % 1024 = 0)
    (hin : s.rangeBase b c w + rangeLen w ≤ memBytes) (hfree : s.dmaWaits b c w = false) (hv : wordField w 9 6 = 12) :
    Runs (.dmaRangeDead b c) s fun t =>
      (∀ L, s.rangeBase b c w / 1024 ≤ L → L * 1024 < s.rangeBase b c w + rangeLen w → t.line L = none) ∧
      (rangeLen w = 1024 → s.rangeBase b c w / 1024 ∈
        SMap.get [] (t.slice (lineSlice (s.rangeBase b c w / 1024))).dead (lineSet (s.rangeBase b c w / 1024))) ∧
      ChannelRuns s t b c w := by
  refine h.runs_dmaRange hop hhigh hin hfree rfl (by simp [dmaRop_eq, (rop_and_level hv).1]) hv (.inr rfl) ?_
  rw [if_pos (by decide)]
  refine ⟨fun L hlo hhi => ?_, fun hone => ?_, (channelRuns_rangeAtL1 (rop := 4) (by decide)).of_dma
    (congrArg Block.dma (State.blk_rangeOp_linkPass _ _ _ _ _ _ _))⟩
  · rw [State.line_rangeOp _ (by decide) (by decide) hA hlo hhi, lineAfter, if_neg (by decide)]
  · rw [State.rangeOp, hone, linesOf_oneLine]
    exact State.mem_dead_addDead _ _

end RangeCommands

end Sys2Proof.Machine

/-! PROOFS. A write-back of a line whose channel is free puts its dirty sectors into HBM (R217, R249, R251), and the RANGE
commands that write lines back (R195). -/

namespace Sys2Proof.Machine

/-! ### Sectors stored in HBM (R249) -/

section Stores

variable {s t : State} {L : Nat}

theorem State.hbm_hbmStore (s : State) (L q : Nat) (d : Mem) (w : RMap CWord) :
    (s.hbmStore L q d w).hbm = Mem.splice s.hbm ((place L).store * 1024 + 256 * q) 256 d := by
  unfold State.hbmStore
  extract_lets p counted stored opn
  refine List.foldlRecOn (motive := fun t : State => t.hbm = stored.hbm) _ _ rfl fun t ht i _ => ?_
  dsimp only
  split
  · exact (State.CountsOnly.postSyndrome _ 8 _).hbm.trans ht
  · exact ht

/-- The sectors of a mask, stored one after the other. -/
theorem State.hbm_foldl_hbmStore (L : Nat) (m : BitVec 4) (d : Mem) (w : RMap CWord) {i : Nat} (hi : i < 1024) :
    ∀ (qs : List Nat) (s : State), Mem.get (qs.foldl (fun s q =>
        if m.getLsbD q then s.hbmStore L q (Mem.slice d (256 * q) 256) (RMap.slice {} w (32 * q) 32) else s) s).hbm
        ((place L).store * 1024 + i) =
      if m.getLsbD (i / 256) = true ∧ i / 256 ∈ qs then Mem.get d i else Mem.get s.hbm ((place L).store * 1024 + i)
  | [], s => by simp
  | q :: qs, s => by
    rw [List.foldl_cons, State.hbm_foldl_hbmStore L m d w hi qs]
    by_cases hlater : m.getLsbD (i / 256) = true ∧ i / 256 ∈ qs
    · rw [if_pos hlater, if_pos ⟨hlater.1, List.mem_cons_of_mem _ hlater.2⟩]
    · rw [if_neg hlater]
      by_cases hq : i / 256 = q
      · subst hq
        by_cases hm : m.getLsbD (i / 256) = true
        · rw [if_pos hm, if_pos ⟨hm, by simp⟩, State.hbm_hbmStore, Mem.get_splice, if_pos (by omega),
            Mem.get_slice _ _ (by omega)]
          congr 1
          omega
        · rw [if_neg hm, if_neg fun h => hm h.1]
      · have hnot : ¬ (m.getLsbD (i / 256) = true ∧ i / 256 ∈ q :: qs) :=
          fun h => hlater ⟨h.1, (List.mem_cons.mp h.2).resolve_left hq⟩
        rw [if_neg hnot]
        split
        · rw [State.hbm_hbmStore, Mem.get_splice, if_neg (by omega)]
        · rfl

/-- A write to a channel in service. -/
theorem State.hbm_hbmPut (hlive : (s.chan (place L).stk (place L).ch).state ≠ 2) (m : BitVec 4) (d : Mem) (w : RMap CWord)
    {i : Nat} (hi : i < 1024) (hbit : m.getLsbD (i / 256) = true) :
    Mem.get (s.hbmPut L m d w).hbm ((place L).store * 1024 + i) = Mem.get d i := by
  have hm : m ≠ 0 := by
    rintro rfl
    simp at hbit
  rw [State.hbmPut]
  simp only [if_neg hm, if_neg hlive]
  rw [State.hbm_foldl_hbmStore L m d w hi, if_pos ⟨hbit, List.mem_range.mpr (by omega)⟩]

/-- An access to a channel that has noted no failed transfer meets none. -/
theorem State.crcMet_of_none {p : Place} (h : (s.chan p.stk p.ch).crcDue = 0) : s.crcMet p = (s, false) := by
  simp [State.crcMet, h]

theorem State.hbm_putNow (hlive : (s.chan (place L).stk (place L).ch).state ≠ 2)
    (hdue : (s.chan (place L).stk (place L).ch).crcDue = 0) (m : BitVec 4) (d : Mem) (w : RMap CWord) {i : Nat}
    (hi : i < 1024) (hbit : m.getLsbD (i / 256) = true) :
    Mem.get (s.putNow L m d w).hbm ((place L).store * 1024 + i) = Mem.get d i := by
  have hm : m ≠ 0 := by
    rintro rfl
    simp at hbit
  have hgrant := State.CountsOnly.chanGrant s true (place L).stk (place L).ch (256 * sectorCount m)
  rw [State.putNow]
  simp only [if_neg hm]
  generalize s.chanGrant true (place L).stk (place L).ch (256 * sectorCount m) = u at hgrant ⊢
  rw [State.crcMet_of_none (by rw [hgrant.chan, hdue])]
  exact State.hbm_hbmPut (by rw [hgrant.chan]; exact hlive) m d w hi hbit

end Stores

/-! ### A line whose channel can take its write-back now (R217, R251, R284) -/

section WriteBacks

variable {s t : State} {L : Nat}

theorem State.claimed_of_pim (hpim : t.pim = s.pim) (L : Nat) : t.claimed L = s.claimed L := by
  rw [State.claimed, State.nbStack, hpim]; rfl

theorem State.bankHeld_of_eq (hstacks : t.hbmStacks = s.hbmStacks) (hpim : t.pim = s.pim) (k c b : Nat) :
    t.bankHeld k c b = s.bankHeld k c b := by
  simp only [State.bankHeld, State.nbOpens, State.nbStack, State.chan, State.stack, hstacks, hpim]

theorem State.placeFree_of_eq (hstacks : t.hbmStacks = s.hbmStacks) (hpim : t.pim = s.pim) (hwho : t.qos.who = s.qos.who)
    (p : Place) (write : Bool) : t.placeFree p write = s.placeFree p write := by
  have hheld : t.hbmHeld = s.hbmHeld := by
    funext r
    simp only [State.hbmHeld, State.claimed_of_pim hpim, State.bankHeld_of_eq hstacks hpim]
  simp only [State.placeFree, State.standBefore, State.bankHeld_of_eq hstacks hpim, hheld, hwho, State.chan, State.stack,
    hstacks]

/-- Line L can be written back now for a master's request: it is not claimed, and its channel, in service and with no
failed transfer noted, can take a write. -/
structure State.BackFree (s : State) (L : Nat) : Prop where
  master : ∃ c m, s.qos.who = some (c, m) ∧ m < 100
  claimed : s.claimed L = false
  free : s.placeFree (place L) true = true
  live : (s.chan (place L).stk (place L).ch).state ≠ 2
  due : (s.chan (place L).stk (place L).ch).crcDue = 0

theorem State.BackFree.of_eq (h : s.BackFree L) (hstacks : t.hbmStacks = s.hbmStacks) (hpim : t.pim = s.pim)
    (hwho : t.qos.who = s.qos.who) : t.BackFree L where
  master := by rw [hwho]; exact h.master
  claimed := by rw [State.claimed_of_pim hpim, h.claimed]
  free := by rw [State.placeFree_of_eq hstacks hpim hwho, h.free]
  live := by rw [State.chan, State.stack, hstacks]; exact h.live
  due := by rw [State.chan, State.stack, hstacks]; exact h.due

/-- No write-back of the line is queued: it would stand before the access. -/
theorem State.BackFree.drainLine (h : s.BackFree L) : s.drainLine L = s := by
  obtain ⟨⟨c, m, hwho, hm⟩, hclaimed, hfree, hlive, -⟩ := h
  have hfree' : s.bankHeld (place L).stk (place L).ch (place L).b = false ∧
      ∀ r ∈ (s.chan (place L).stk (place L).ch).queue, s.hbmHeld r = true := by
    simp only [State.placeFree, State.standBefore, hwho, Nat.not_le.mpr hm, if_false, Bool.not_true, Bool.and_false,
      Bool.false_eq_true, Bool.or_eq_true, beq_iff_eq, hlive, false_or, Bool.and_eq_true, Bool.not_eq_true',
      List.any_eq_false, List.mem_append] at hfree
    exact ⟨hfree.1.2, fun r hr => by simpa using hfree.2 r (.inr hr)⟩
  obtain ⟨hbank, hqueue⟩ := hfree'
  have hmine : ((s.chan (place L).stk (place L).ch).queue.filter fun r => r.write && r.line == L) = [] := by
    refine List.filter_eq_nil_iff.mpr fun r hr hof => ?_
    simp only [Bool.and_eq_true, beq_iff_eq] at hof
    have hheld := hqueue r hr
    rw [State.hbmHeld, hof.2, hclaimed, Bool.false_or, hbank] at hheld
    exact Bool.false_ne_true hheld
  simp [State.drainLine, hmine]

/-- The dirty sectors reach HBM as the cache die holds them. -/
theorem State.BackFree.hbm_writeBack (h : s.BackFree L) {l : Line} (hl : s.line L = some l) {i : Nat} (hi : i < 1024)
    (hdirty : l.dirty.getLsbD (i / 256) = true) :
    Mem.get (s.writeBack L).hbm ((place L).store * 1024 + i) = Mem.get s.ccd.mem (L * 1024 + i) := by
  have hne : l.dirty ≠ 0 := by
    intro h0
    simp [h0] at hdirty
  have hcount := State.CountsOnly.countPut s L l.dirty
  rw [State.writeBack, hl]
  simp only [if_neg hne]
  show Mem.get (s.putLine L l.dirty).hbm _ = _
  rw [State.putLine]
  generalize s.countPut L l.dirty = u at hcount ⊢
  have hu : u.BackFree L := h.of_eq hcount.hbmStacks hcount.pim hcount.who
  simp only [hu.claimed, hu.free, Bool.not_true, Bool.or_self, Bool.false_eq_true, if_false, hu.drainLine]
  rw [State.hbm_putNow hu.live hu.due _ _ _ hi hdirty, State.backReq]
  show Mem.get (Mem.slice u.ccd.mem (L * 1024) 1024) i = _
  rw [Mem.get_slice _ _ hi, hcount.mem]

end WriteBacks

/-! ### A flush and a clean-and-invalidate with level 1 -/

section L1Drops

@[simp] theorem State.l1Drop_hbmStacks (s : State) (b a n : Nat) : (s.l1Drop b a n).hbmStacks = s.hbmStacks := rfl
@[simp] theorem State.l1Drop_pim (s : State) (b a n : Nat) : (s.l1Drop b a n).pim = s.pim := rfl
@[simp] theorem State.l1Drop_qos (s : State) (b a n : Nat) : (s.l1Drop b a n).qos = s.qos := rfl
@[simp] theorem State.l1Drop_mem (s : State) (b a n : Nat) : (s.l1Drop b a n).ccd.mem = s.ccd.mem := rfl
@[simp] theorem State.l1Drop_lines (s : State) (b a n : Nat) : (s.l1Drop b a n).ccd.lines = s.ccd.lines := rfl
@[simp] theorem State.dmaBegun_pim (s : State) (b c cls : Nat) (w : W64) : (s.dmaBegun b c cls w).pim = s.pim := rfl
@[simp] theorem State.dmaBegun_who (s : State) (b c cls : Nat) (w : W64) :
    (s.dmaBegun b c cls w).qos.who = some (cls, b) := rfl

end L1Drops

section FlushedSectors

variable {s : State} {b c cls L r : Nat} {w : W64} {l : Line}

theorem ChannelReady.headCls (h : ChannelReady s b c w cls) : s.headCls b (c + 2) = cls := by
  rw [State.headCls, h.headCmd]

/-- A RANGE that operates on a line of the cache die and need not wait finds the line not claimed. -/
theorem ChannelReady.claimed_of_dmaWaits (h : ChannelReady s b c w cls) (hop : wordField w 5 0 = 0x0A)
    (hlevel : wordField w 9 9 = 1) (hfree : s.dmaWaits b c w = false) (hl : s.line L = some l)
    (hL : L ∈ linesOf (s.rangeBase b c w) (rangeLen w)) : s.claimed L = false := by
  rw [State.dmaWaits, dmaRanges_range hop, h.headCls] at hfree
  simp only [List.any_cons, List.any_nil, Bool.or_false, dmaOp_eq, hop, bitN_toNat_eq_wordField, hlevel, decide_true,
    Bool.true_and, Bool.or_eq_false_iff, beq_self_eq_true] at hfree
  obtain ⟨-, ⟨-, hrange⟩, -⟩ := hfree
  have hbusy := List.any_eq_false.mp hrange L hL
  have hline : (s.serveAs cls b).line L = some l := hl
  simp only [State.rangeLineWaits, hline, Option.isNone_some, Bool.false_and, Bool.false_eq_true, if_false,
    State.lineBusy, Bool.or_eq_true, not_or, Bool.not_eq_true] at hbusy
  exact hbusy.1.1

/-- Where a command that writes lines back comes to the cache die, that and HBM are as it found them. -/
theorem State.rangeAtL1_dmaBegun {rop : Nat} (hrop : rop = 1 ∨ rop = 3) (s : State) (b c cls : Nat) (w : W64) (A n : Nat) :
    ((s.dmaBegun b c cls w).rangeAtL1 b rop A n).hbmStacks = s.hbmStacks ∧
    ((s.dmaBegun b c cls w).rangeAtL1 b rop A n).pim = s.pim ∧
    ((s.dmaBegun b c cls w).rangeAtL1 b rop A n).qos.who = some (cls, b) ∧
    ((s.dmaBegun b c cls w).rangeAtL1 b rop A n).ccd.mem = s.ccd.mem ∧
    ((s.dmaBegun b c cls w).rangeAtL1 b rop A n).ccd.lines = s.ccd.lines := by
  rcases hrop with rfl | rfl <;> simp [State.rangeAtL1]

/-- Bytes of the dirty sectors of a line of the range are in HBM after the command. -/
theorem ChannelReady.runs_dmaRange_writesBack (h : ChannelReady s b c w cls) (hop : wordField w 5 0 = 0x0A)
    (hhigh : wordField w 63 54 = 0) (hin : s.rangeBase b c w + rangeLen w ≤ memBytes) (hfree : s.dmaWaits b c w = false)
    {i : Instr} {want : W64 → Bool} {rop : Nat}
    (hexec : exec i s = onUnit (decide (b < 96) && decide (c < 4)) (s.dmaRangeRow b c want rop)) (hwant : want w = true)
    (hrop : rop = 1 ∨ rop = 3) (hv : wordField w 9 6 = 8 + rop) (hA : s.rangeBase b c w = L * 1024)
    (hone : rangeLen w = 1024) (hl : s.line L = some l) (hlive : (s.chan (place L).stk (place L).ch).state ≠ 2)
    (hplace : (s.serveAs cls b).placeFree (place L) true = true)
    (hdue : (s.chan (place L).stk (place L).ch).crcDue = 0) {x : Nat} (hx : x < 1024)
    (hdirty : l.dirty.getLsbD (x / 256) = true) :
    Runs i s fun t => Mem.get t.hbm ((place L).store * 1024 + x) = Mem.get s.ccd.mem (L * 1024 + x) := by
  refine h.runs_dmaRange hop hhigh hin hfree hexec hwant hv (.inl (by omega)) ?_
  have hlines : linesOf (s.rangeBase b c w) (rangeLen w) = [L] := by
    rw [hone, linesOf_oneLine, hA, Nat.mul_div_cancel _ (by decide)]
  have hclaimed := h.claimed_of_dmaWaits hop (by rw [(rop_and_level hv).2]; omega) hfree hl (by simp [hlines])
  rw [if_pos (by omega), State.rangeOp, hlines, List.foldl_cons, List.foldl_nil]
  have hlink := State.GrantsOnly.linkPass
    ((s.dmaBegun b c cls w).rangeAtL1 b rop (s.rangeBase b c w) (rangeLen w)) b (c + 3) true
  generalize State.linkPass _ _ _ _ = u at hlink ⊢
  have hcount := hlink.countsOnly
  obtain ⟨hstacks, hpim, hwho, hmem, hlinesEq⟩ :=
    State.rangeAtL1_dmaBegun hrop s b c cls w (s.rangeBase b c w) (rangeLen w)
  have hserved : (s.serveAs cls b).BackFree L := ⟨⟨cls, b, rfl, h.block_lt.trans (by decide)⟩, hclaimed, hplace, hlive, hdue⟩
  have hback := hserved.of_eq (hcount.hbmStacks.trans hstacks) (hcount.pim.trans hpim) (hcount.who.trans hwho)
  have hline : u.line L = some l := by rw [State.line, hcount.lines, hlinesEq]; exact hl
  have hstored := hback.hbm_writeBack hline hx hdirty
  rw [hcount.mem, hmem] at hstored
  rcases hrop with rfl | rfl
  · exact hstored
  · show Mem.get (u.cleanDrop L).hbm _ = _
    rw [State.cleanDrop, hline]
    exact hstored

end FlushedSectors

end Sys2Proof.Machine

/-! PROOFS. A prefetch into the L1 of a line that the cache die holds (R188, R189, R195, Table 7.9). -/

namespace Sys2Proof.Machine

/-! ### Placing a line in an L1 (R188) -/

section L1Lines

variable {s t : State} {b n m u A : Nat} {l : L1Line} {ls : List L1Line}

theorem find?_filter_sector {p : L1Line → Bool} (hp : ∀ x : L1Line, x.sector = m → p x = true) (ls : List L1Line) :
    (ls.filter p).find? (fun x => x.sector == m) = ls.find? fun x => x.sector == m := by
  rw [List.find?_filter]
  congr 1
  funext x
  by_cases hx : x.sector = m
  · simp [hp x hx, hx]
  · simp [hx]

/-- A line that is placed comes first. -/
theorem l1Insert_head (u : Nat) (l : L1Line) (ls : List L1Line) :
    ∃ w rest, l1Insert u l ls = { l with way := w } :: rest := by
  unfold l1Insert
  dsimp only
  split
  · exact ⟨_, _, rfl⟩
  · exact ⟨_, _, rfl⟩
  · exact ⟨l.way, _, rfl⟩

/-- A line of another set is found as before. -/
theorem find?_l1Insert_other (h : m % (128 * u) ≠ l.sector % (128 * u)) :
    (l1Insert u l ls).find? (fun x => x.sector == m) = ls.find? fun x => x.sector == m := by
  have hml : l.sector ≠ m := fun he => h (by rw [he])
  have hrest : (ls.filter fun x => x.sector != l.sector).find? (fun x => x.sector == m) = ls.find? fun x => x.sector == m :=
    find?_filter_sector (fun x hx => by simp [hx, hml.symm]) ls
  unfold l1Insert
  dsimp only
  split
  · rw [List.find?_cons_of_neg (by simpa using hml), hrest]
  · next v _ hv =>
    have hset := (List.mem_filter.mp (List.mem_of_getLast? hv)).2
    rw [beq_iff_eq] at hset
    rw [List.find?_cons_of_neg (by simpa using hml), find?_filter_sector, hrest]
    intro x hx
    rw [bne_iff_ne]
    exact fun he => h (by rw [← hx, he, hset])
  · rw [List.find?_cons_of_neg (by simpa using hml), hrest]

theorem State.blk_l1Fill (s : State) (hu : s.l1Units b ≠ 0) (n : Nat) (d : Mem) (w : RMap CWord) :
    (s.l1Fill b n d w).blk b = { s.blk b with tg := { (s.blk b).tg with
      l1 := l1Insert (s.l1Units b) { sector := n, way := 0, data := d, words := l1Words w } (s.blk b).tg.l1 } } := by
  rw [State.l1Fill, if_neg hu, State.updTg, State.blk_updBlk_self]

theorem State.l1Line_l1Fill_self (s : State) (hu : s.l1Units b ≠ 0) (n : Nat) (d : Mem) (w : RMap CWord) :
    ∃ x, (s.l1Fill b n d w).l1Line b n = some x ∧ x.data = d := by
  obtain ⟨way, rest, hinsert⟩ := l1Insert_head (s.l1Units b) { sector := n, way := 0, data := d, words := l1Words w }
    (s.blk b).tg.l1
  rw [State.l1Line, State.blk_l1Fill s hu]
  dsimp only
  rw [hinsert, List.find?_cons_of_pos (by simp)]
  exact ⟨_, rfl, rfl⟩

theorem State.l1Line_l1Fill_other (s : State) (hu : s.l1Units b ≠ 0) (hm : m % (128 * s.l1Units b) ≠ n % (128 * s.l1Units b))
    (d : Mem) (w : RMap CWord) : (s.l1Fill b n d w).l1Line b m = s.l1Line b m := by
  rw [State.l1Line, State.blk_l1Fill s hu]
  exact find?_l1Insert_other hm

/-- Filling an L1 changes its block alone. -/
theorem State.l1Fill_eq (s : State) (b n : Nat) (d : Mem) (w : RMap CWord) :
    s.l1Fill b n d w = { s with blocks := (s.l1Fill b n d w).blocks } := by
  unfold State.l1Fill
  split <;> rfl

/-- The four sectors of a line lie in different sets of an L1. -/
theorem sector_sets_ne (A u : Nat) {i j : Nat} (hi : i < 4) (hj : j < 4) (hne : i ≠ j) :
    (A / 256 + i) % (128 * u) ≠ (A / 256 + j) % (128 * u) := by
  intro h
  have hmod : (A / 256 + i) % 128 = (A / 256 + j) % 128 := Nat.ModEq.of_mul_right u h
  omega

end L1Lines

/-! ### The sectors of a line, one after the other (Table 7.9) -/

section Prefetches

variable {s t : State} {b c cls A k : Nat} {w : W64}

/-- What a prefetch of a range does for its sector i. -/
def State.prefetchSector (s : State) (b A i : Nat) : State :=
  if (s.l1Line b (A / 256 + i)).isSome then s else
  (s.devRead (A + 256 * i) 256).1.l1Fill b (A / 256 + i) (s.devRead (A + 256 * i) 256).2.1 (s.devRead (A + 256 * i) 256).2.2

theorem State.l1Prefetch_eq (hu : s.l1Units b ≠ 0) (A n : Nat) :
    s.l1Prefetch b A n = (List.range (n / 256)).foldl (fun s i => s.prefetchSector b A i) s := by
  rw [State.l1Prefetch, if_neg hu]
  rfl

/-- A sector of a line that the cache die holds whole is read where it stands. -/
theorem HeldRange.devRead_sector (h : HeldRange s A 1024) (hA : A % 1024 = 0) {i : Nat} (hi : i < 4) :
    s.ReadsOnly (s.devRead (A + 256 * i) 256).1 ∧
    ∀ x, x < 256 → Mem.get (s.devRead (A + 256 * i) 256).2.1 x = Mem.get s.ccd.mem (A + 256 * i + x) := by
  obtain ⟨hgood, hlines⟩ := h
  have hL : s.Whole ((A + 256 * i) / 1024) := hlines _ (by omega) (by omega)
  have hread := hL.lineRead hgood ((A + 256 * i) % 1024) 256
  rw [State.devRead_eq, pieces_of_oneLine (by omega) (by decide), List.foldl_cons, List.foldl_nil]
  simp only [readPiece]
  refine ⟨hread, fun x hx => ?_⟩
  rw [Mem.get_splice, if_pos (by omega), Nat.sub_zero, Mem.get_slice _ _ hx, hread.mem]
  congr 1
  omega

/-- From s to t the first k sectors of the line at A are in the L1, those that were not there with the bytes of the cache
die; memory and channels are as before, and so are the line's other sectors in the L1. -/
structure State.Prefetches (b A k : Nat) (s t : State) : Prop where
  memory : MemorySame s t
  held : HeldRange t A 1024
  units : t.l1Units b = s.l1Units b
  dma : (t.blk b).dma = (s.blk b).dma
  rest : ∀ i, k ≤ i → i < 4 → t.l1Line b (A / 256 + i) = s.l1Line b (A / 256 + i)
  filled : ∀ i, i < k → ∃ x, t.l1Line b (A / 256 + i) = some x ∧ (∀ y, s.l1Line b (A / 256 + i) = some y → x = y) ∧
    (s.l1Line b (A / 256 + i) = none → ∀ j, j < 256 → Mem.get x.data j = Mem.get s.ccd.mem (A + 256 * i + j))

theorem State.Prefetches.next (h : s.Prefetches b A k t) (hA : A % 1024 = 0) (hu : s.l1Units b ≠ 0) (hk : k < 4) :
    s.Prefetches b A (k + 1) (t.prefetchSector b A k) := by
  obtain ⟨⟨hmem, hhbm, hhbmWords⟩, hheld, hunits, hdma, hrest, hfilled⟩ := h
  have hold := hrest k le_rfl hk
  unfold State.prefetchSector
  cases hline : t.l1Line b (A / 256 + k) with
  | some x =>
    rw [Option.isSome_some, if_pos rfl]
    refine ⟨⟨hmem, hhbm, hhbmWords⟩, hheld, hunits, hdma, fun i hi => hrest i (Nat.le_of_succ_le hi), fun i hi => ?_⟩
    rcases Nat.lt_succ_iff_lt_or_eq.mp hi with hi | rfl
    · exact hfilled i hi
    · rw [← hold, hline]
      exact ⟨x, rfl, fun y hy => Option.some.inj hy, fun hnone => by cases hnone⟩
  | none =>
    rw [Option.isSome_none, if_neg Bool.false_ne_true]
    obtain ⟨hreads, hbytes⟩ := hheld.devRead_sector hA hk
    generalize t.devRead (A + 256 * k) 256 = r at hreads hbytes ⊢
    have hru : r.1.l1Units b ≠ 0 := by rwa [State.l1Units, hreads.blk, ← State.l1Units, hunits]
    have hrline (m : Nat) : r.1.l1Line b m = t.l1Line b m := by rw [State.l1Line, hreads.blk]; rfl
    have hother {i : Nat} (hi : i < 4) (hne : i ≠ k) :
        (r.1.l1Fill b (A / 256 + k) r.2.1 r.2.2).l1Line b (A / 256 + i) = t.l1Line b (A / 256 + i) :=
      (State.l1Line_l1Fill_other r.1 hru (sector_sets_ne _ _ hi hk hne) _ _).trans (hrline _)
    obtain ⟨x, hx, hdata⟩ := State.l1Line_l1Fill_self r.1 hru (A / 256 + k) r.2.1 r.2.2
    have hblk := State.blk_l1Fill r.1 hru (A / 256 + k) r.2.1 r.2.2
    have hfill := State.l1Fill_eq r.1 b (A / 256 + k) r.2.1 r.2.2
    generalize r.1.l1Fill b (A / 256 + k) r.2.1 r.2.2 = v at hother hx hblk hfill ⊢
    have hccd : v.ccd = r.1.ccd := by rw [hfill]
    refine ⟨⟨?_, ?_, ?_⟩, ?_, ?_, ?_, fun i hi hi4 => ?_, fun i hi => ?_⟩
    · rw [hccd, hreads.mem, hmem]
    · rw [hfill]
      exact hreads.hbm.trans hhbm
    · rw [hfill]
      exact hreads.hbmWords.trans hhbmWords
    · refine HeldRange.of_ccd ⟨?_, fun L hlo hhi => hreads.whole L (hheld.2 L hlo hhi)⟩ hccd
      rw [hreads.words]
      exact hheld.1
    · rw [State.l1Units, hblk, hreads.blk, ← hunits]
      rfl
    · rw [hblk, hreads.blk, hdma]
    · rw [hother hi4 (by omega), hrest i (by omega) hi4]
    · rcases Nat.lt_succ_iff_lt_or_eq.mp hi with hi | rfl
      · rw [hother (by omega) (by omega)]
        exact hfilled i hi
      · refine ⟨x, hx, fun y hy => ?_, fun _ j hj => ?_⟩
        · rw [← hold, hline] at hy
          cases hy
        · rw [hdata, hbytes j hj, hmem]

theorem HeldRange.l1Prefetch (h : HeldRange s A 1024) (hA : A % 1024 = 0) (hu : s.l1Units b ≠ 0) :
    s.Prefetches b A 4 (s.l1Prefetch b A 1024) := by
  have hstart : s.Prefetches b A 0 s :=
    ⟨⟨rfl, rfl, rfl⟩, h, rfl, rfl, fun _ _ _ => rfl, fun i hi => absurd hi (Nat.not_lt_zero i)⟩
  have hfour : List.range (1024 / 256) = [0, 1, 2, 3] := rfl
  rw [State.l1Prefetch_eq hu, hfour]
  simp only [List.foldl_cons, List.foldl_nil]
  exact (((hstart.next hA hu (by decide)).next hA hu (by decide)).next hA hu (by decide)).next hA hu (by decide)

theorem ChannelReady.runs_dmaRangePrefetch_L1 (h : ChannelReady s b c w cls) (hop : wordField w 5 0 = 0x0A)
    (hhigh : wordField w 63 54 = 0) (hA : s.rangeBase b c w % 1024 = 0)
    (hin : s.rangeBase b c w + rangeLen w ≤ memBytes) (hfree : s.dmaWaits b c w = false) (hv : wordField w 9 6 = 0)
    (hone : rangeLen w = 1024) (hu : 0 < s.l1Units b) (hheld : HeldRange s (s.rangeBase b c w) 1024) :
    Runs (.dmaRangePrefetch b c) s fun t =>
      (∀ i, i < 4 → ∃ l ∈ (t.blk b).tg.l1, l.sector = s.rangeBase b c w / 256 + i ∧
        (∀ x, s.l1Line b (s.rangeBase b c w / 256 + i) = some x → l = x) ∧
        (s.l1Line b (s.rangeBase b c w / 256 + i) = none →
          ∀ j, j < 256 → Mem.get l.data j = Mem.get s.ccd.mem (s.rangeBase b c w + 256 * i + j))) ∧
      ChannelRuns s t b c w ∧ MemorySame s t := by
  refine h.runs_dmaRange hop hhigh hin hfree rfl (by simp [dmaRop_eq, (rop_and_level hv).1]) hv (.inl (by decide)) ?_
  have hunits : (s.dmaBegun b c cls w).l1Units b = s.l1Units b := by rw [State.l1Units, State.blk_dmaBegun_self]; rfl
  have hline (n : Nat) : (s.dmaBegun b c cls w).l1Line b n = s.l1Line b n := by
    rw [State.l1Line, State.blk_dmaBegun_self]; rfl
  obtain ⟨hmem, -, -, hdma, -, hfilled⟩ :=
    (hheld.of_ccd (s.dmaBegun_ccd b c cls w)).l1Prefetch hA (b := b) (by rw [hunits]; omega)
  rw [State.rangeAtL1, if_neg (by decide), if_pos rfl, hone]
  refine ⟨fun i hi => ?_, (channelRuns_dmaBegun s b c cls w).of_dma hdma, ?_⟩
  · obtain ⟨x, hx, hsame, hnew⟩ := hfilled i hi
    rw [hline] at hsame hnew
    exact ⟨x, List.mem_of_find?_eq_some hx, by simpa using List.find?_some hx, hsame, hnew⟩
  · simpa only [MemorySame, State.dmaBegun_ccd, State.dmaBegun_hbm, State.dmaBegun_hbmWords] using hmem

end Prefetches

end Sys2Proof.Machine

/-! PROOFS. What HBM gives comes into the cache die as HBM holds it: fetches of sectors and of absent lines (R213, R216,
R246, Table 8.8). -/

namespace Sys2Proof.Machine

/-! ### Lines in the map of lines -/

section LineMaps

variable {α : Type}

theorem SMap.lookup_ins_self {m : SMap α} {k : Nat} (h : m.lookup k = none) (v : α) :
    (SMap.ins k v m).lookup k = some v := by
  induction m with
  | nil => simp [SMap.ins]
  | cons e m ih =>
    rw [List.lookup_cons] at h
    by_cases hk : k = e.1
    · simp [hk] at h
    · have hne : (k == e.1) = false := beq_eq_false_iff_ne.mpr hk
      rw [hne] at h
      rw [SMap.ins]
      split
      · simp
      · rw [List.lookup_cons, hne]
        exact ih h

theorem SMap.get_of_lookup {m : SMap α} {k : Nat} {v : α} (h : m.lookup k = some v) (d : α) : SMap.get d m k = v := by
  induction m with
  | nil => simp at h
  | cons e m ih =>
    obtain ⟨j, x⟩ := e
    rw [List.lookup_cons] at h
    by_cases hk : k = j
    · subst hk
      simpa [SMap.get] using h
    · have hne : (k == j) = false := beq_eq_false_iff_ne.mpr hk
      rw [hne] at h
      rw [SMap.get, if_neg (Ne.symm hk)]
      exact ih h

theorem SMap.lookup_upd_self [DecidableEq α] {m : SMap α} {k : Nat} {v d : α} {f : α → α} (h : m.lookup k = some v)
    (hne : f v ≠ d) : (SMap.upd d m k f).lookup k = some (f v) := by
  rw [SMap.upd, SMap.get_of_lookup h, SMap.set, if_neg hne]
  exact SMap.lookup_ins_self (by rw [SMap.lookup_del, if_pos rfl]) _

end LineMaps

/-! ### What a fetch keeps -/

section SameStore

variable {s t u : State} {L : Nat}

/-- From s to t HBM and the blocks hold what they held, the channels are in service or not and have the queues that they had,
and the same cells of the cache die persist in faults. -/
structure State.SameStore (s t : State) : Prop where
  hbm : t.hbm = s.hbm
  hbmWords : t.hbmWords = s.hbmWords
  blocks : t.blocks = s.blocks
  stuck : t.ccd.stuck = s.ccd.stuck
  state : ∀ k c, (t.chan k c).state = (s.chan k c).state
  due : ∀ k c, (t.chan k c).crcDue = (s.chan k c).crcDue
  queue : ∀ k c, (t.chan k c).queue = (s.chan k c).queue

theorem State.SameStore.refl (s : State) : s.SameStore s :=
  ⟨rfl, rfl, rfl, rfl, fun _ _ => rfl, fun _ _ => rfl, fun _ _ => rfl⟩

theorem State.SameStore.trans (h : s.SameStore t) (g : t.SameStore u) : s.SameStore u :=
  ⟨g.hbm.trans h.hbm, g.hbmWords.trans h.hbmWords, g.blocks.trans h.blocks, g.stuck.trans h.stuck,
    fun k c => (g.state k c).trans (h.state k c), fun k c => (g.due k c).trans (h.due k c),
    fun k c => (g.queue k c).trans (h.queue k c)⟩

theorem State.SameStore.ccd (s : State) {c : Ccd} (h : c.stuck = s.ccd.stuck) : s.SameStore { s with ccd := c } :=
  ⟨rfl, rfl, rfl, h, fun _ _ => rfl, fun _ _ => rfl, fun _ _ => rfl⟩

theorem State.CountsOnly.sameStore (h : s.CountsOnly t) : s.SameStore t where
  hbm := h.hbm
  hbmWords := h.hbmWords
  blocks := h.blocks
  stuck := by rw [h.ccd]
  state k c := by rw [h.chan]
  due k c := by rw [h.chan]
  queue k c := by rw [h.chan]

theorem State.SameStore.openBank (s : State) (p : Place) : s.SameStore (s.openBank p) := by
  have hchan (k c : Nat) : ((s.openBank p).chan k c).state = (s.chan k c).state ∧
      ((s.openBank p).chan k c).crcDue = (s.chan k c).crcDue ∧ ((s.openBank p).chan k c).queue = (s.chan k c).queue := by
    rw [State.openBank, State.chan_updChan]
    split
    · next hk => rw [hk.1, hk.2]; exact ⟨rfl, rfl, rfl⟩
    · exact ⟨rfl, rfl, rfl⟩
  exact ⟨rfl, rfl, rfl, rfl, fun k c => (hchan k c).1, fun k c => (hchan k c).2.1, fun k c => (hchan k c).2.2⟩

/-- HBM can give line L: its channel is in service with no failed transfer noted and nothing queued, each of its words holds
data, and no cell of the cache die persists in a fault. -/
structure State.Offers (s : State) (L : Nat) : Prop where
  stuck : s.ccd.stuck = []
  live : (s.chan (place L).stk (place L).ch).state ≠ 2
  due : (s.chan (place L).stk (place L).ch).crcDue = 0
  queue : (s.chan (place L).stk (place L).ch).queue = []
  data : ∀ i, i < 32 → RMap.get {} s.hbmWords ((place L).store * 32 + i) = { mark := .data }

theorem State.Offers.of_same (h : s.Offers L) (g : s.SameStore t) : t.Offers L where
  stuck := g.stuck.trans h.stuck
  live := by rw [g.state]; exact h.live
  due := by rw [g.due]; exact h.due
  queue := by rw [g.queue]; exact h.queue
  data i hi := by rw [g.hbmWords]; exact h.data i hi

theorem State.Offers.stuckAgain (h : s.Offers L) (M w n : Nat) : s.stuckAgain M w n = s := by
  simp only [State.stuckAgain, h.stuck]

theorem State.Offers.stuckPoison (h : s.Offers L) (w n : Nat) : s.stuckPoison L w n = s := by
  simp only [State.stuckPoison, h.stuck, List.isEmpty_nil, if_true]

theorem State.Offers.hbmWord (h : s.Offers L) {w : Nat} (hw : w < 32) : s.hbmWord L w = (s, {}) := by
  simp only [State.hbmWord, if_neg h.live, h.data w hw, ite_self]

theorem State.Offers.drainLine (h : s.Offers L) : s.drainLine L = s := by
  simp [State.drainLine, h.queue]

/-- Line L is in the cache die, clean, with the sectors of v valid, and their bytes are those of HBM. -/
structure State.Mirrors (s : State) (L : Nat) (v : BitVec 4) : Prop where
  line : ∃ l, s.line L = some l ∧ l.valid = v ∧ l.dirty = 0
  bytes : ∀ i, i < 1024 → v.getLsbD (i / 256) = true →
    Mem.get s.ccd.mem (L * 1024 + i) = Mem.get s.hbm ((place L).store * 1024 + i)

variable {v : BitVec 4} {q : Nat}

theorem State.Mirrors.of_eq (h : s.Mirrors L v) (hline : t.line L = s.line L) (hmem : t.ccd.mem = s.ccd.mem)
    (hhbm : t.hbm = s.hbm) : t.Mirrors L v :=
  ⟨by rw [hline]; exact h.line, by rw [hmem, hhbm]; exact h.bytes⟩

theorem State.Mirrors.of_counts (h : s.Mirrors L v) (g : s.CountsOnly t) : t.Mirrors L v :=
  h.of_eq (g.line L) g.mem g.hbm

theorem State.Mirrors.touchLine (h : s.Mirrors L v) : (s.touchLine L).Mirrors L v := by
  obtain ⟨⟨l, hl, hvalid, hdirty⟩, hbytes⟩ := h
  refine ⟨⟨{ l with use := s.ccd.stamp }, ?_, hvalid, hdirty⟩, hbytes⟩
  have hline := State.lookup_updLine s L L fun l => { l with use := s.ccd.stamp }
  rw [hl, Option.map_some, if_pos rfl] at hline
  exact hline

theorem getLsbD_sector (hq : q < 4) {j : Nat} (hj : j < 4) : (BitVec.ofNat 4 (2 ^ q)).getLsbD j = decide (j = q) := by
  interval_cases q <;> interval_cases j <;> rfl

/-! ### Sectors and lines fetched from HBM (R213) -/

/-- A line with sector q fetched. -/
def Line.withSector (l : Line) (q : Nat) : Line :=
  { l with valid := l.valid ||| BitVec.ofNat 4 (2 ^ q), dirty := l.dirty &&& ~~~ BitVec.ofNat 4 (2 ^ q) }

theorem lookup_withSector {m : SMap Line} {l : Line} (hl : m.lookup L = some l) (hq : q < 4) :
    (SMap.upd { way := 0, valid := 0, dirty := 0, use := 0 } m L fun l => l.withSector q).lookup L =
      some (l.withSector q) := by
  refine SMap.lookup_upd_self (f := fun l => l.withSector q) hl fun he => ?_
  have hbit := congrArg (fun l : Line => l.valid.getLsbD q) he
  simp only [Line.withSector, BitVec.getLsbD_or, getLsbD_sector hq hq] at hbit
  simp at hbit

/-- A cell that persists in a fault would be wrong again: there is none. -/
theorem State.Offers.of_stuckAgain (ho : s.Offers L) (hsame : s.SameStore t) (hmirror : t.Mirrors L v) (w n : Nat) :
    s.SameStore (t.stuckAgain L w n) ∧ (t.stuckAgain L w n).Mirrors L v := by
  rw [(ho.of_same hsame).stuckAgain]
  exact ⟨hsame, hmirror⟩

/-- A sector comes into the cache die. -/
theorem State.Mirrors.fetchSector (h : s.Mirrors L v) (ho : s.Offers L) (hq : q < 4) :
    s.SameStore (s.fetchSector L q) ∧ (s.fetchSector L q).Mirrors L (v ||| BitVec.ofNat 4 (2 ^ q)) := by
  unfold State.fetchSector
  extract_lets p counted data ccd copied read ccd'
  have hcount : s.CountsOnly counted := .qosAdd s _ 256
  have hcopied : s.SameStore copied := hcount.sameStore.trans (.ccd counted rfl)
  have hread : copied.SameStore read ∧ read.ccd.mem = copied.ccd.mem ∧ read.ccd.lines = copied.ccd.lines := by
    refine List.foldlRecOn
      (motive := fun t : State => copied.SameStore t ∧ t.ccd.mem = copied.ccd.mem ∧ t.ccd.lines = copied.ccd.lines) _ _
      ⟨.refl _, rfl, rfl⟩ fun t ⟨hsame, hmem, hlines⟩ i hi => ?_
    have hi8 : i < 8 := List.mem_range.mp hi
    have hword := (ho.of_same (hcopied.trans hsame)).hbmWord (w := 8 * q + i) (by omega)
    dsimp only
    rw [hword]
    exact ⟨hsame.trans (.ccd t rfl), hmem, hlines⟩
  obtain ⟨hsame, hmem, hlines⟩ := hread
  have hmemRead : read.ccd.mem = Mem.splice counted.ccd.mem (L * 1024 + 256 * q) 256 data := hmem
  have hlinesRead : read.ccd.lines = counted.ccd.lines := hlines
  have hdata : data = Mem.slice counted.hbm ((place L).store * 1024 + 256 * q) 256 := rfl
  have hall := hcopied.trans hsame
  clear_value counted data read
  rw [hcount.lines] at hlinesRead
  rw [hdata, hcount.mem, hcount.hbm] at hmemRead
  obtain ⟨⟨l, hl, hvalid, hdirty⟩, hbytes⟩ := h
  have hmarked := lookup_withSector (m := read.ccd.lines) (by rw [hlinesRead]; exact hl) hq
  refine ho.of_stuckAgain ?_ ?_ _ _
  · exact hall.trans (.ccd read rfl)
  refine ⟨⟨l.withSector q, hmarked, ?_, ?_⟩, fun i hi hbit => ?_⟩
  · rw [← hvalid]
    rfl
  · simp [Line.withSector, hdirty]
  · show Mem.get read.ccd.mem _ = Mem.get read.hbm _
    rw [hmemRead, hall.hbm, Mem.get_splice]
    split
    · have hat : (place L).store * 1024 + 256 * q + (L * 1024 + i - (L * 1024 + 256 * q)) = (place L).store * 1024 + i := by
        omega
      rw [Mem.get_slice _ _ (by omega), hat]
    · refine hbytes i hi ?_
      rw [BitVec.getLsbD_or, getLsbD_sector hq (by omega), Bool.or_eq_true, decide_eq_true_eq] at hbit
      exact hbit.resolve_right (by omega)

/-- The wanted sectors of a list come into the cache die. -/
theorem State.Mirrors.foldl_fetchSector (m : BitVec 4) : ∀ (qs : List Nat) (s : State) (v : BitVec 4), s.Mirrors L v →
    s.Offers L → s.SameStore (qs.foldl (fun s q => if m.getLsbD q then s.fetchSector L q else s) s) ∧
      ∃ x : BitVec 4, (qs.foldl (fun s q => if m.getLsbD q then s.fetchSector L q else s) s).Mirrors L x ∧
        ∀ j, j < 4 → x.getLsbD j = (v.getLsbD j || m.getLsbD j && qs.contains j)
  | [], s, v, h, _ => ⟨.refl s, v, h, fun j _ => by simp⟩
  | q :: qs, s, v, h, ho => by
    rw [List.foldl_cons]
    by_cases hm : m.getLsbD q = true
    · have hq : q < 4 := BitVec.lt_of_getLsbD hm
      rw [if_pos hm]
      obtain ⟨hsame, hmirror⟩ := h.fetchSector ho hq
      obtain ⟨hrest, x, hx, hbits⟩ := State.Mirrors.foldl_fetchSector m qs _ _ hmirror (ho.of_same hsame)
      refine ⟨hsame.trans hrest, x, hx, fun j hj => ?_⟩
      rw [hbits j hj, BitVec.getLsbD_or, getLsbD_sector hq hj, List.contains_cons]
      by_cases hjq : j = q
      · simp [hjq, hm]
      · rw [beq_eq_false_iff_ne.mpr hjq, Bool.false_or]
        simp [hjq]
    · rw [if_neg hm]
      obtain ⟨hrest, x, hx, hbits⟩ := State.Mirrors.foldl_fetchSector m qs s v h ho
      refine ⟨hrest, x, hx, fun j hj => ?_⟩
      rw [hbits j hj, List.contains_cons]
      by_cases hjq : j = q
      · simp [hjq, hm]
      · rw [beq_eq_false_iff_ne.mpr hjq, Bool.false_or]

theorem State.Mirrors.fetchNow (h : s.Mirrors L v) (ho : s.Offers L) (m : BitVec 4) (first : Nat) :
    s.SameStore (s.fetchNow L m first) ∧ (s.fetchNow L m first).Mirrors L (v ||| m) := by
  have hopen := State.SameStore.openBank s (place L)
  have hmirror : (s.openBank (place L)).Mirrors L v := h.of_eq rfl rfl rfl
  simp only [State.fetchNow, ho.drainLine, if_neg ho.live]
  obtain ⟨hsame, x, hx, hbits⟩ := State.Mirrors.foldl_fetchSector m
    (first :: (List.range 4).filter (· != first)) _ v hmirror (ho.of_same hopen)
  have hxv : x = v ||| m := by
    refine BitVec.eq_of_getLsbD_eq fun j hj => ?_
    have hin : (first :: (List.range 4).filter (· != first)).contains j = true := by
      by_cases hjf : j = first
      · simp [hjf]
      · simp [hjf, hj]
    rw [hbits j hj, hin, Bool.and_true, BitVec.getLsbD_or]
  exact ⟨hopen.trans hsame, hxv ▸ hx⟩

theorem State.Mirrors.fetchMissing (h : s.Mirrors L v) (ho : s.Offers L) (m : BitVec 4) (first : Nat) :
    s.SameStore (s.fetchMissing L m first) ∧ (s.fetchMissing L m first).Mirrors L (v ||| (m &&& ~~~ v)) := by
  obtain ⟨⟨l, hl, hvalid, -⟩, -⟩ := id h
  simp only [State.fetchMissing, hl, hvalid]
  split
  · next hnone =>
    rw [hnone]
    exact ⟨.refl s, by simpa using h⟩
  · have hgrant := State.CountsOnly.chanGrant s false (place L).stk (place L).ch (256 * sectorCount (m &&& ~~~ v))
    generalize State.chanGrant _ _ _ _ _ = u at hgrant ⊢
    have hou := ho.of_same hgrant.sameStore
    rw [State.crcMet_of_none hou.due]
    obtain ⟨hsame, hmirror⟩ := (h.of_counts hgrant).fetchNow hou (m &&& ~~~ v) first
    exact ⟨hgrant.sameStore.trans hsame, hmirror⟩

/-- An absent line of an empty set takes a way, and evicts nothing. -/
theorem State.mirrors_allocLine (hline : s.line L = none) (hset : s.setLines L = []) :
    s.SameStore (s.allocLine L) ∧ (s.allocLine L).Mirrors L 0 := by
  have hvictim : ∃ w, s.victim L s.cacheWays = some (w, none) := by
    unfold State.victim
    rw [hset]
    dsimp only
    cases hfind : (List.range s.cacheWays).find? _ with
    | some w => exact ⟨w, rfl⟩
    | none =>
      have hsize : s.sch.journalSize.toNat < 4 := s.sch.journalSize.isLt
      have hways : 0 < s.cacheWays := by
        have hpow : 2 ^ s.sch.journalSize.toNat ≤ 2 ^ 3 := Nat.pow_le_pow_right (by decide) (by omega)
        rw [State.cacheWays, State.journalWays]
        omega
      exact absurd (List.find?_eq_none.mp hfind 0 (List.mem_range.mpr hways)) (by simp)
  obtain ⟨w, hvictim⟩ := hvictim
  simp only [State.allocLine, hline, hvictim]
  exact ⟨.ccd s rfl, ⟨_, SMap.lookup_ins_self hline _, rfl, rfl⟩, fun i _ hbit => by simp at hbit⟩

end SameStore

end Sys2Proof.Machine

/-! PROOFS. Reads of a line that HBM offers (R213, Table 8.8), and the prefetch of an absent line into the cache die (R195,
Table 8.6). -/

namespace Sys2Proof.Machine

/-! ### Table 8.8 on a line that mirrors HBM -/

section Checks

variable {s t : State} {L q : Nat}

theorem Mem.get_clear (m : Mem) (a n x : Nat) : Mem.get (Mem.clear m a n) x =
    if a ≤ x ∧ x < a + n then 0 else Mem.get m x := by
  rw [Mem.clear, Mem.get_splice]
  rfl

theorem getLsbD_full {j : Nat} (hj : j < 4) : (0xF : BitVec 4).getLsbD j = true := by
  interval_cases j <;> rfl

/-- An uncorrectable word of a clean sector at worst invalidates the sector. -/
theorem State.Mirrors.secded (h : s.Mirrors L 0xF) (ho : s.Offers L) (hq : q < 4) (w n : Nat) :
    s.SameStore (s.secded L q w n) ∧
    ((s.secded L q w n).Mirrors L 0xF ∨ (s.secded L q w n).Mirrors L (~~~ BitVec.ofNat 4 (2 ^ q))) := by
  unfold State.secded
  extract_lets ce counted ccd fixed bad dirty ccd' poisoned posted refetched ccd'' cleared
  have hcount : s.CountsOnly counted := .countCe s L w n
  clear_value counted
  have hfixed : s.SameStore fixed ∧ fixed.Mirrors L 0xF := by
    unfold fixed
    split
    · exact ⟨hcount.sameStore, h.of_counts hcount⟩
    · exact ⟨hcount.sameStore.trans (.ccd counted rfl), (h.of_counts hcount).of_eq rfl rfl rfl⟩
  obtain ⟨hsame, hmirror⟩ := hfixed
  obtain ⟨⟨l, hl, hvalid, hclean⟩, hbytes⟩ := id hmirror
  have hdirty : dirty = false := by
    unfold dirty
    rw [hl]
    simp [hclean]
  rw [hdirty, if_neg Bool.false_ne_true]
  split
  · split
    · exact ⟨hsame, .inl hmirror⟩
    · rw [(ho.of_same hsame).stuckAgain]
      exact ⟨hsame, .inl hmirror⟩
  · have hrefetch : fixed.CountsOnly refetched := .updSlice fixed _ _
    clear_value refetched
    have hline : cleared.line L = some l := (hrefetch.line L).trans hl
    have hmem : cleared.ccd.mem = Mem.clear refetched.ccd.mem (L * 1024 + 256 * q) 256 := rfl
    have hcleared : refetched.SameStore cleared := .ccd refetched rfl
    have hall := (hsame.trans hrefetch.sameStore).trans hcleared
    rw [hrefetch.mem] at hmem
    clear_value cleared
    have hdropped := State.lookup_updLine cleared L L fun l => { l with valid := l.valid &&& ~~~ BitVec.ofNat 4 (2 ^ q) }
    rw [hline, Option.map_some, if_pos rfl] at hdropped
    refine ⟨hall.trans (.ccd cleared rfl), .inr ⟨⟨_, hdropped, ?_, hclean⟩, fun i hi hbit => ?_⟩⟩
    · show l.valid &&& _ = _
      rw [hvalid]
      exact BitVec.allOnes_and
    · show Mem.get cleared.ccd.mem _ = Mem.get cleared.hbm _
      have hi4 : i / 256 < 4 := by omega
      have hne : i / 256 ≠ q := by
        rintro rfl
        rw [BitVec.getLsbD_not, getLsbD_sector hi4 hi4] at hbit
        simp at hbit
      rw [hmem, Mem.get_clear, if_neg (by omega), hcleared.hbm, hrefetch.hbm]
      exact hbytes i hi (getLsbD_full hi4)

/-- A sector that Table 8.8 has invalidated is fetched again. -/
theorem State.Mirrors.checkLine (h : s.Mirrors L 0xF) (ho : s.Offers L) (o n : Nat) :
    s.SameStore (s.checkLine L o n) ∧ (s.checkLine L o n).Mirrors L 0xF := by
  refine List.foldlRecOn (motive := fun t : State => s.SameStore t ∧ t.Mirrors L 0xF) _ _ ⟨.refl s, h⟩ ?_
  intro t ⟨hsame, hmirror⟩ q hq
  have hq4 : q < 4 := List.mem_range.mp hq
  dsimp only
  split
  · exact ⟨hsame, hmirror⟩
  · obtain ⟨hchecked, hcases⟩ := hmirror.secded (ho.of_same hsame) hq4 (sectorWords L o n q).1 (sectorWords L o n q).2
    generalize t.secded L q _ _ = u at hchecked hcases ⊢
    have hall := hsame.trans hchecked
    rcases hcases with hwhole | hlost
    · obtain ⟨⟨l, hl, hvalid, -⟩, -⟩ := id hwhole
      rw [if_pos (State.Whole.holds ⟨l, hl, hvalid⟩ hq4)]
      exact ⟨hall, hwhole⟩
    · obtain ⟨⟨l, hl, hvalid, -⟩, -⟩ := id hlost
      have hnot : u.holds L q = false := by
        simp only [State.holds, hl, hvalid, BitVec.getLsbD_not, getLsbD_sector hq4 hq4, decide_true, Bool.not_true,
          Bool.and_false]
      obtain ⟨hfetched, hback⟩ := hlost.fetchMissing (ho.of_same hall) (BitVec.ofNat 4 (2 ^ q)) 0
      have hfull : ~~~ BitVec.ofNat 4 (2 ^ q) ||| (BitVec.ofNat 4 (2 ^ q) &&& ~~~ ~~~ BitVec.ofNat 4 (2 ^ q)) = 0xF := by
        interval_cases q <;> rfl
      rw [hfull] at hback
      rw [hnot, if_neg Bool.false_ne_true, (ho.of_same (hall.trans hfetched)).stuckPoison]
      exact ⟨hall.trans hfetched, hback⟩

end Checks

/-! ### Reads -/

section Reads

variable {s t : State} {L A b k cls c : Nat} {w : W64}

/-- Line L is absent and its set empty, or whole, clean and as HBM holds it. -/
def State.AbsentOrMirrors (s : State) (L : Nat) : Prop := s.line L = none ∧ s.setLines L = [] ∨ s.Mirrors L 0xF

theorem State.AbsentOrMirrors.of_counts (h : s.AbsentOrMirrors L) (g : s.CountsOnly t) : t.AbsentOrMirrors L := by
  refine h.imp (fun ⟨hline, hset⟩ => ⟨by rw [g.line, hline], ?_⟩) fun hmirror => hmirror.of_counts g
  rw [State.setLines, g.lines]
  exact hset

/-- An absent line is allocated and fetched whole. -/
theorem State.Offers.allocLine_fetchMissing (ho : s.Offers L) (hline : s.line L = none) (hset : s.setLines L = [])
    (first : Nat) : s.SameStore ((s.allocLine L).fetchMissing L 0xF first) ∧
      ((s.allocLine L).fetchMissing L 0xF first).Mirrors L 0xF := by
  obtain ⟨halloc, hempty⟩ := State.mirrors_allocLine hline hset
  obtain ⟨hfetch, hwhole⟩ := hempty.fetchMissing (ho.of_same halloc) 0xF first
  exact ⟨halloc.trans hfetch, hwhole⟩

theorem State.Offers.lineServe (ho : s.Offers L) (h : s.AbsentOrMirrors L) (o n : Nat) :
    s.SameStore (s.lineServe L o n) ∧ (s.lineServe L o n).Mirrors L 0xF := by
  have hpresent : ∃ u : State, s.lineServe L o n = (u.touchLine L).checkLine L o n ∧ s.SameStore u ∧ u.Mirrors L 0xF := by
    rcases h with ⟨hline, hset⟩ | hmirror
    · have hcount := State.CountsOnly.resurrect s L
      have hserve : s.lineServe L o n =
          ((((s.resurrect L).allocLine L).fetchMissing L 0xF (o / 256)).touchLine L).checkLine L o n := by
        rw [State.lineServe, hline]
      rcases State.AbsentOrMirrors.of_counts (.inl ⟨hline, hset⟩) hcount with ⟨hline', hset'⟩ | ⟨⟨l, hl, -⟩, -⟩
      · obtain ⟨hsame, hwhole⟩ := (ho.of_same hcount.sameStore).allocLine_fetchMissing hline' hset' (o / 256)
        exact ⟨_, hserve, hcount.sameStore.trans hsame, hwhole⟩
      · rw [hcount.line, hline] at hl
        cases hl
    · obtain ⟨⟨l, hl, hvalid, -⟩, -⟩ := id hmirror
      refine ⟨s, ?_, .refl s, hmirror⟩
      rw [State.lineServe, hl]
      dsimp only
      rw [State.Whole.fetchMissing ⟨l, hl, hvalid⟩]
  obtain ⟨u, hserve, hsame, hmirror⟩ := hpresent
  have htouch : u.SameStore (u.touchLine L) := .ccd u rfl
  obtain ⟨hcheck, hwhole⟩ := hmirror.touchLine.checkLine (ho.of_same (hsame.trans htouch)) o n
  rw [hserve]
  exact ⟨(hsame.trans htouch).trans hcheck, hwhole⟩

theorem State.Offers.lineRead (ho : s.Offers L) (h : s.AbsentOrMirrors L) (o n : Nat) :
    s.SameStore (s.lineRead L o n) ∧ (s.lineRead L o n).Mirrors L 0xF := by
  have hcount := (State.GrantsOnly.entered s false L n).countsOnly
  rw [State.lineRead_eq]
  obtain ⟨hserve, hwhole⟩ := (ho.of_same hcount.sameStore).lineServe (h.of_counts hcount) o n
  exact ⟨hcount.sameStore.trans hserve, hwhole⟩

/-! ### A prefetch of an absent line -/

/-- From s to t HBM and the channels of block b are as before, and HBM still offers line L, which is absent or has come from
there. -/
structure State.Serves (L b : Nat) (s t : State) : Prop where
  hbm : t.hbm = s.hbm
  hbmWords : t.hbmWords = s.hbmWords
  dma : (t.blk b).dma = (s.blk b).dma
  offers : t.Offers L
  line : t.AbsentOrMirrors L

theorem State.Offers.of_eq (h : s.Offers L) (hccd : t.ccd = s.ccd) (hstacks : t.hbmStacks = s.hbmStacks)
    (hwords : t.hbmWords = s.hbmWords) : t.Offers L := by
  obtain ⟨hstuck, hlive, hdue, hqueue, hdata⟩ := h
  have hchan (k c : Nat) : t.chan k c = s.chan k c := by rw [State.chan, State.stack, hstacks]; rfl
  exact ⟨by rw [hccd, hstuck], by rwa [hchan], by rwa [hchan], by rwa [hchan], by rwa [hwords]⟩

theorem State.Serves.of_same {u : State} (h : s.Serves L b t) (hsame : t.SameStore u) (hline : u.AbsentOrMirrors L) :
    s.Serves L b u where
  hbm := hsame.hbm.trans h.hbm
  hbmWords := hsame.hbmWords.trans h.hbmWords
  dma := by rw [State.blk, hsame.blocks]; exact h.dma
  offers := h.offers.of_same hsame
  line := hline

theorem State.Serves.l1Fill (h : s.Serves L b t) (n : Nat) (d : Mem) (ws : RMap CWord) :
    s.Serves L b (t.l1Fill b n d ws) := by
  unfold State.l1Fill
  split
  · exact h
  · refine ⟨h.hbm, h.hbmWords, ?_, h.offers.of_eq rfl rfl rfl, ?_⟩
    · rw [State.updTg, State.blk_updBlk_self]
      exact h.dma
    · exact h.line.imp id fun hmirror => hmirror.of_eq rfl rfl rfl

theorem State.Serves.prefetchSector (h : s.Serves L b t) {i : Nat} (hi : i < 4) :
    s.Serves L b (t.prefetchSector b (L * 1024) i) := by
  unfold State.prefetchSector
  split
  · exact h
  · have hline : (L * 1024 + 256 * i) / 1024 = L := by omega
    obtain ⟨hsame, hmirror⟩ := h.offers.lineRead h.line ((L * 1024 + 256 * i) % 1024) 256
    have hread : s.Serves L b (t.devRead (L * 1024 + 256 * i) 256).1 := by
      rw [State.devRead_eq, pieces_of_oneLine (by omega) (by decide), List.foldl_cons, List.foldl_nil, hline]
      simp only [readPiece]
      exact h.of_same hsame (.inr hmirror)
    exact hread.l1Fill _ _ _

theorem State.Serves.l1Prefetch (h : s.Serves L b s) : s.Serves L b (s.l1Prefetch b (L * 1024) 1024) := by
  by_cases hu : s.l1Units b = 0
  · rw [State.l1Prefetch, if_pos hu]
    exact h
  · rw [State.l1Prefetch_eq hu]
    exact List.foldlRecOn (motive := s.Serves L b) _ _ h fun t ht i hi => ht.prefetchSector (List.mem_range.mp hi)

/-- A prefetch at the cache die brings the line in when it is still absent. -/
theorem State.Serves.rangeLine (h : s.Serves L b t) :
    s.Serves L b (t.rangeLine 0 L) ∧ (t.rangeLine 0 L).Mirrors L 0xF := by
  rcases h.line with ⟨hline, hset⟩ | hmirror
  · have hcount := State.CountsOnly.clearDead t L
    have hline' : (t.clearDead L).1.line L = none := by rw [hcount.line, hline]
    have hset' : (t.clearDead L).1.setLines L = [] := by rw [State.setLines, hcount.lines]; exact hset
    obtain ⟨hsame, hwhole⟩ := (h.offers.of_same hcount.sameStore).allocLine_fetchMissing hline' hset' 0
    have hrange : t.rangeLine 0 L = ((t.clearDead L).1.allocLine L).fetchMissing L 0xF := by
      simp only [State.rangeLine, hline, Option.isSome_none, Bool.false_eq_true, if_false]
    rw [hrange]
    exact ⟨h.of_same (hcount.sameStore.trans hsame) (.inr hwhole), hwhole⟩
  · obtain ⟨⟨l, hl, -⟩, -⟩ := id hmirror
    have hrange : t.rangeLine 0 L = t := by
      simp only [State.rangeLine, hl, Option.isSome_some, if_true]
    rw [hrange]
    exact ⟨h, hmirror⟩

theorem ChannelReady.runs_dmaRangePrefetch_absent (h : ChannelReady s b c w cls) (hop : wordField w 5 0 = 0x0A)
    (hhigh : wordField w 63 54 = 0) (hin : s.rangeBase b c w + rangeLen w ≤ memBytes) (hfree : s.dmaWaits b c w = false)
    (hv : wordField w 9 6 = 8) (hA : s.rangeBase b c w = L * 1024) (hone : rangeLen w = 1024) (habsent : Absent s L) :
    Runs (.dmaRangePrefetch b c) s fun t => Fetched s t L ∧ ChannelRuns s t b c w := by
  refine h.runs_dmaRange hop hhigh hin hfree rfl (by simp [dmaRop_eq, (rop_and_level hv).1]) hv (.inl (by decide)) ?_
  obtain ⟨hline, hset, hstuck, hlive, hdue, hqueue, -, hdata⟩ := habsent
  have hline' : (s.dmaBegun b c cls w).line L = none := by rw [State.line, State.dmaBegun_ccd]; exact hline
  have hset' : (s.dmaBegun b c cls w).setLines L = [] := by rw [State.setLines, State.dmaBegun_ccd]; exact hset
  have hstart : (s.dmaBegun b c cls w).Serves L b (s.dmaBegun b c cls w) :=
    ⟨rfl, rfl, rfl, (⟨hstuck, hlive, hdue, hqueue, hdata⟩ : s.Offers L).of_eq (s.dmaBegun_ccd b c cls w)
      (s.dmaBegun_hbmStacks b c cls w) (s.dmaBegun_hbmWords b c cls w), .inl ⟨hline', hset'⟩⟩
  have hprefetched := hstart.l1Prefetch
  have hlines : linesOf (L * 1024) 1024 = [L] := by rw [linesOf_oneLine, Nat.mul_div_cancel _ (by decide)]
  rw [if_pos (by decide), State.rangeAtL1, if_pos rfl, hA, hone, State.rangeOp, hlines, List.foldl_cons, List.foldl_nil]
  have hlink := (State.GrantsOnly.linkPass ((s.dmaBegun b c cls w).l1Prefetch b (L * 1024) 1024) b (c + 3) true).countsOnly
  generalize (s.dmaBegun b c cls w).l1Prefetch b (L * 1024) 1024 = u at hprefetched hlink ⊢
  generalize u.linkPass b (c + 3) true = v at hlink ⊢
  obtain ⟨⟨hhbm, hhbmWords, hdma, -, -⟩, hwhole, hbytes⟩ :=
    (hprefetched.of_same hlink.sameStore (hprefetched.line.of_counts hlink)).rangeLine
  rw [State.dmaBegun_hbm] at hhbm
  rw [State.dmaBegun_hbmWords] at hhbmWords
  refine ⟨⟨hwhole, fun i hi => ?_, hhbm, hhbmWords⟩, (channelRuns_dmaBegun s b c cls w).of_dma hdma⟩
  rw [hbytes i hi (getLsbD_full (by omega)), hhbm]

end Reads

end Sys2Proof.Machine

/-! PROOFS. The statement about the DMA commands settled from the rules above (R191-R195). -/

namespace Sys2Proof.Machine

/-- Settles O38: what a free channel starts it begins with one command taken; each command then has its effect by the rule
for its words, its scratchpad or its lines. -/
theorem dmaCommands : Obligations.DmaCommands := by
  unfold Obligations.DmaCommands
  refine ⟨fun s b c w cls h => ⟨h.runs_dmaNop, h.runs_dmaNop_stops, h.runs_dmaBase, h.runs_dmaBase_stops⟩, ?_,
    fun s b c w cls h => h.runs_dmaFill, ?_, fun s b c w => runs_dmaCommandComplete⟩
  · rintro s b c n so dn w cls h hop rfl rfl rfl
    refine ⟨?_, ?_, ?_, ?_, h.runs_dmaCopy_reserved hop⟩
    · exact h.runs_dmaCopy_in hop
    · exact h.runs_dmaCopy_out hop
    · exact h.runs_dmaCopy_within hop
    · exact h.runs_dmaCopy_outside hop
  · rintro s b c A n w cls h hop hhigh rfl rfl hA hin hfree
    refine ⟨?_, ?_, ?_, ?_, ?_, ?_, ?_, ?_, ?_⟩
    · intro hv hone hu hheld
      obtain ⟨t, hexec, hsectors, hruns, hmem⟩ := h.runs_dmaRangePrefetch_L1 hop hhigh hA hin hfree hv hone hu (hone ▸ hheld)
      refine ⟨t, hexec, fun i hi => ?_, hruns, hmem⟩
      obtain ⟨l, hl, hsector, hsame, hnew⟩ := hsectors i hi
      refine ⟨l, hl, hsector, ?_⟩
      cases hline : s.l1Line b (s.rangeBase b c w / 256 + i) with
      | some x =>
        obtain rfl := hsame x hline
        exact hline ▸ ⟨rfl, rfl⟩
      | none => exact hline ▸ hnew hline
    · exact h.runs_dmaRangeFlush_level1 hop hhigh hA hin hfree
    · exact fun L hL hone hv => h.runs_dmaRangePrefetch_absent hop hhigh hin hfree hv hL hone
    · intro L i r l row hL hone hl hrow hv hlive hplace hdue hi hdirty
      simp only [List.mem_cons, List.not_mem_nil, or_false, Prod.mk.injEq] at hrow
      obtain ⟨hrop, -⟩ := rop_and_level hv
      rcases hrow with ⟨rfl, rfl⟩ | ⟨rfl, rfl⟩
      · exact h.runs_dmaRange_writesBack hop hhigh hin hfree rfl (by simp [dmaRop_eq, hrop]) (.inl rfl) hv hL hone hl hlive
          hplace hdue hi hdirty
      · exact h.runs_dmaRange_writesBack hop hhigh hin hfree rfl (by simp [dmaRop_eq, hrop]) (.inr rfl) hv hL hone hl hlive
          hplace hdue hi hdirty
    · exact h.runs_dmaRangeFlush_L1 hop hhigh hin hfree
    · exact h.runs_dmaRange_drops hop hhigh hA hin hfree rfl (fun hrop => by simp [dmaRop_eq, hrop]) (.inl rfl)
    · exact h.runs_dmaRange_drops hop hhigh hA hin hfree rfl (fun hrop => by simp [dmaRop_eq, hrop]) (.inr rfl)
    · exact h.runs_dmaRangeDead hop hhigh hA hin hfree
    · exact h.runs_dmaRange_stops hop hhigh hin

end Sys2Proof.Machine
